-- ==== Sys2Proof/Word.lean ====
section
/-! DEFINITION. The word types, the fields of an instruction word (R36, R37) and keyed lists. -/

namespace Sys2Proof

/-- A 64-bit word. -/
abbrev Word := BitVec 64

/-- One byte. -/
abbrev Byte := BitVec 8

/-- One 14-bit operand field (R41). -/
abbrev OpField := BitVec 14

/-- The fields of a base word and of its extension word, but for the opcode, which the constructor of
`Instr` says (R36, R37).  Without an extension word every field of it is zero (R38). -/
structure Fields where
  /-- M, the switch marker (R47) -/
  m : Bool
  /-- PSEL (R46) -/
  psel : BitVec 3
  /-- PSENSE (R46) -/
  psense : Bool
  d : OpField
  a : OpField
  b : OpField
  mod : BitVec 6
  /-- X, an extension word follows (R36) -/
  x : Bool
  c : OpField
  imm : BitVec 32
  lra : Bool
  lrb : Bool
  lrc : Bool
  etype : BitVec 5
  rnd : BitVec 3
  sat : Bool
  smod : BitVec 6
  deriving DecidableEq, Repr, Inhabited

/-- A list of values under numeric keys, the keys rising, no key twice. -/
abbrev Keyed (α : Type) := List (Nat × α)

namespace Keyed

/-- The value under a key. -/
def get? {α : Type} : Keyed α → Nat → Option α
  | [], _ => none
  | (k, v) :: r, n => if n = k then some v else get? r n

/-- Puts a value under a key, keeping the keys in rising order. -/
def put {α : Type} : Keyed α → Nat → α → Keyed α
  | [], n, x => [(n, x)]
  | (k, v) :: r, n, x =>
    if n < k then (n, x) :: (k, v) :: r
    else if n = k then (n, x) :: r
    else (k, v) :: put r n x

/-- Takes a key away. -/
def del {α : Type} : Keyed α → Nat → Keyed α
  | [], _ => []
  | (k, v) :: r, n => if n = k then del r n else (k, v) :: del r n

/-- The keys. -/
def keys {α : Type} (l : Keyed α) : List Nat := l.map (·.1)

end Keyed

/-- The first index below `n` that satisfies a test. -/
def firstIdx (n : Nat) (p : Nat → Bool) : Option Nat := (List.range n).find? p

end Sys2Proof
end

