-- ==== Sys2Proof/Machine/Bits.lean ====
section
/-! DEFINITION. Bit fields, sign extension, `wrap` and `sat` of the conventions (R5), byte order (R1). -/

namespace Sys2Proof.Machine

/-- Bits `hi` down to `lo` of a number, as the spec's `bits(v, hi, lo)`. -/
def bits (v hi lo : Nat) : Nat := v / 2 ^ lo % 2 ^ (hi + 1 - lo)

/-- One bit of a number. -/
def bit (v i : Nat) : Bool := v / 2 ^ i % 2 == 1

/-- 0 or 1. -/
def b2n (b : Bool) : Nat := if b then 1 else 0

/-- The two's-complement value of an `n`-bit pattern. -/
def signed (n v : Nat) : Int :=
  if n = 0 then 0
  else
    let w := v % 2 ^ n
    if w < 2 ^ (n - 1) then (w : Int) else (w : Int) - (2 : Int) ^ n

/-- The `n`-bit pattern of an integer. -/
def pat (n : Nat) (v : Int) : Nat := (v % (2 : Int) ^ n).toNat

/-- The range of an integer type of `n` bits. -/
def intMin (sgn : Bool) (n : Nat) : Int := if sgn then -((2 : Int) ^ (n - 1)) else 0

/-- The top of the range of an integer type of `n` bits. -/
def intMax (sgn : Bool) (n : Nat) : Int := if sgn then (2 : Int) ^ (n - 1) - 1 else (2 : Int) ^ n - 1

/-- `wrap` (R5): reduction modulo 2^n into the type's range. -/
def wrapInt (sgn : Bool) (n : Nat) (v : Int) : Int :=
  if sgn then signed n (pat n v) else (pat n v : Int)

/-- `sat` (R5): clamping to the type's range. -/
def satInt (sgn : Bool) (n : Nat) (v : Int) : Int :=
  if v < intMin sgn n then intMin sgn n else if intMax sgn n < v then intMax sgn n else v

/-- `wrap` or, when the saturate bit is 1, `sat` (R8). -/
def reduceInt (sat sgn : Bool) (n : Nat) (v : Int) : Int :=
  if sat then satInt sgn n v else wrapInt sgn n v

/-- The 64-bit pattern, of width `w` bits, sign-extended. -/
def sext64 (w v : Nat) : Nat := pat 64 (signed w v)

/-- `n` bytes of a number, little-endian (R1). -/
def toBytes : Nat → Nat → List Byte
  | 0, _ => []
  | n + 1, v => BitVec.ofNat 8 v :: toBytes n (v / 256)

/-- The number that bytes hold, little-endian (R1). -/
def ofBytes : List Byte → Nat
  | [] => 0
  | b :: r => b.toNat + 256 * ofBytes r

/-- The count of 1 bits among the low `n` bits. -/
def popcount : Nat → Nat → Nat
  | 0, _ => 0
  | n + 1, v => v % 2 + popcount n (v / 2)

/-- The low `n` bits in reversed order. -/
def bitrev : Nat → Nat → Nat
  | 0, _ => 0
  | n + 1, v => (v % 2) * 2 ^ n + bitrev n (v / 2)

/-- The sum of a list of integers. -/
def sumInt : List Int → Int
  | [] => 0
  | x :: r => x + sumInt r

/-- The integer square root, bit by bit: the largest `r` built from `n` bits with `r * r ≤ v`. -/
def isqrt : Nat → Nat → Nat → Nat
  | 0, r, _ => r
  | n + 1, r, v => if (r + 2 ^ n) * (r + 2 ^ n) ≤ v then isqrt n (r + 2 ^ n) v else isqrt n r v

end Sys2Proof.Machine
end

