-- ==== Sys2Proof/Machine/Forms.lean ====
section
/-! DEFINITION. Operand fields (R41 to R45) and the encoding tables of the instruction groups: for every
instruction and MOD value the form it has, and the decoding checks of R52. -/

namespace Sys2Proof

/-- MOD as a number. -/
def Fields.md (f : Fields) : Nat := f.mod.toNat

/-- The common modifier layout of R120. -/
def Fields.op (f : Fields) : Nat := f.mod.toNat / 8
def Fields.isI (f : Fields) : Bool := f.mod.getLsbD 2
def Fields.pk (f : Fields) : Nat := f.mod.toNat % 4

end Sys2Proof

namespace Sys2Proof.Machine

/-- What an operand field names (R41, R42). -/
inductive Opnd where
  | vec (start w : Nat)
  | scal (start w : Nat)
  | zero (w : Nat)
  | mbox (k : Nat)
  | bad
  deriving DecidableEq, Repr

/-- Decodes a field (R41, R42). -/
def Opnd.ofField (f : OpField) : Opnd :=
  let n := f.toNat
  let start := bits n 12 4
  let w := n % 16 + 1
  if n < 0x2000 then .vec start w
  else if start < 256 then .scal start w
  else if start = 256 then .zero w
  else if start = 448 ∧ w = 16 then .mbox 0
  else if start = 464 ∧ w = 16 then .mbox 1
  else if start = 480 ∧ w = 16 then .mbox 2
  else if start = 496 ∧ w = 16 then .mbox 3
  else .bad

/-- Width in slices. -/
def Opnd.w : Opnd → Nat
  | .vec _ w | .scal _ w | .zero w => w
  | .mbox _ => 16
  | .bad => 0

def Opnd.isVec : Opnd → Bool
  | .vec _ _ => true
  | _ => false

/-- A general slice operand (R45). -/
def Opnd.isGen : Opnd → Bool
  | .vec _ _ | .scal _ _ => true
  | _ => false

def Opnd.isGenScal : Opnd → Bool
  | .scal _ _ => true
  | _ => false

def Opnd.isZero : Opnd → Bool
  | .zero _ => true
  | _ => false

def Opnd.isMbox : Opnd → Bool
  | .mbox _ => true
  | _ => false

/-- Any source. -/
def kAny (o : Opnd) : Bool := o != .bad
/-- Any destination: not a mailbox head (R42). -/
def kDst (o : Opnd) : Bool := o != .bad && !o.isMbox
def kVec (o : Opnd) : Bool := o.isVec
/-- A general scalar or the zero slice (R104). -/
def kScal (o : Opnd) : Bool := o.isGenScal || o.isZero
def kGenScal (o : Opnd) : Bool := o.isGenScal
def kGen (o : Opnd) : Bool := o.isGen
/-- A general scalar, the zero slice or a mailbox head (R68). -/
def kScalAny (o : Opnd) : Bool := o.isGenScal || o.isZero || o.isMbox
/-- A vector or a scalar destination. -/
def kWide (lo hi : Nat) (k : Opnd → Bool) (o : Opnd) : Bool := k o && lo ≤ o.w && o.w ≤ hi

/-- How a form uses an operand field. -/
inductive Use where
  /-- not used: must be zero and unmarked (R40) -/
  | no
  /-- a source operand -/
  | src (ok : Opnd → Bool)
  /-- a destination operand, one read and written, or one of `dead`, which is not read -/
  | dst (ok : Opnd → Bool)
  /-- a predicate number (R100) -/
  | pred
  /-- the signed 14-bit immediate of B, within bounds (R44) -/
  | imm (lo hi : Int)
  /-- a plain number from 0 to `n`, as an accumulator slot (R166) -/
  | num (n : Nat)

/-- How a form uses IMM. -/
inductive ImmUse where
  | no | opt | req
  deriving DecidableEq, Repr

/-- One form of an instruction: what its encoding table says of its fields. -/
structure Form where
  d : Use := .no
  a : Use := .no
  b : Use := .no
  c : Use := .no
  imm : ImmUse := .no
  types : List Nat := [0]
  /-- RND may be 0 to 5; otherwise it must be 0 (R13) -/
  rnd : Bool := false
  sat : Bool := false
  smods : List Nat := [0]
  /-- takes no predicate (R46) -/
  noPred : Bool := false
  /-- requires an extension word (R38) -/
  xreq : Bool := false
    /-- a vector source with a scalar destination is allowed (R68) -/
  mixOk : Bool := false
  /-- legal in a handler slot only (R323) -/
  hOnly : Bool := false
  /-- further checks of class 1 -/
  ok : Bool := true
  /-- least widths of float sources (R69, class 2 of R52) -/
  amin : Nat := 0
  bmin : Nat := 0
  cmin : Nat := 0
  /-- the destination is read too (R78) -/
  dread : Bool := false
  /-- a read of a dead slice goes unnoticed (R78) -/
  quiet : Bool := false
  /-- an element type or source type of a float-group instruction or `cvt` is FP64 (R123) -/
  fp64 : Bool := false
  /-- slices spanned per slice of width: 2 for a pair, 4 for a quad (R146) -/
  dspan : Nat := 1
  aspan : Nat := 1
  bspan : Nat := 1
  cspan : Nat := 1

/-- The signed value of a 14-bit immediate (R44). -/
def simm14 (f : OpField) : Int := f.toInt

/-- A field used as `u` with mark `mark`. -/
def Use.check (u : Use) (f : OpField) (mark : Bool) : Bool :=
  let o := Opnd.ofField f
  match u with
  | .no => f == 0 && !mark
  | .src ok => ok o && (!mark || o.isGen)
  | .dst ok => ok o && !mark
  | .pred => 1 ≤ f.toNat && f.toNat ≤ 7 && !mark
  | .imm lo hi => lo ≤ simm14 f && simm14 f ≤ hi && !mark
  | .num n => f.toNat ≤ n && !mark

/-- Whether a field is used as an operand. -/
def Use.isOpnd : Use → Bool
  | .src _ | .dst _ => true
  | _ => false

def Use.isSrc : Use → Bool
  | .src _ => true
  | _ => false

def Use.isDst : Use → Bool
  | .dst _ => true
  | _ => false

def Use.used : Use → Bool
  | .no => false
  | _ => true

/-- The checks of class 1 of R52: everything about a word that is an illegal instruction whatever the data. -/
def Form.legal (fm : Form) (f : Fields) : Bool :=
  let o := Opnd.ofField
  fm.d.check f.d false && fm.a.check f.a f.lra &&
  fm.b.check f.b f.lrb && fm.c.check f.c f.lrc &&
  (fm.imm != .no || f.imm == 0) &&
  fm.types.contains f.etype.toNat && fm.smods.contains f.smod.toNat &&
  (if fm.rnd then decide (f.rnd.toNat ≤ 5) else f.rnd == 0) &&
  (fm.sat || !f.sat) &&
  (f.x || !(fm.xreq || fm.c.used || fm.imm == .req)) &&
  (if f.psel == 0 then !f.psense else !fm.noPred) &&
  -- a vector source with a scalar destination (R68)
  (fm.mixOk || !(fm.d.isDst && !(o f.d).isVec) ||
    !((fm.a.isSrc && (o f.a).isVec) || (fm.b.isSrc && (o f.b).isVec) || (fm.c.isSrc && (o f.c).isVec))) &&
  fm.ok

/-- Class 2 of R52: a float source narrower than its type (R69). -/
def Form.narrow (fm : Form) (f : Fields) : Bool :=
  let o := Opnd.ofField
  (fm.a.isSrc && (o f.a).w < fm.amin) || (fm.b.isSrc && (o f.b).w < fm.bmin) ||
    (fm.c.isSrc && (o f.c).w < fm.cmin)

/-- A general operand that reaches past its window (R43, R146). -/
def Opnd.past (o : Opnd) (span swinv : Nat) : Bool :=
  match o with
  | .vec st w => swinv < st + w * span
  | .scal st w => 256 < st + w * span
  | _ => false

/-- Class 3 of R52: a general operand that reaches past its window. -/
def Form.past (fm : Form) (f : Fields) (swinv : Nat) : Bool :=
  let o := Opnd.ofField
  (fm.d.isOpnd && (o f.d).past fm.dspan swinv) || (fm.a.isOpnd && (o f.a).past fm.aspan swinv) ||
    (fm.b.isOpnd && (o f.b).past fm.bspan swinv) || (fm.c.isOpnd && (o f.c).past fm.cspan swinv)

/-- The integer types of R124, with 0 for the default. -/
def intTypes : List Nat := [0, 1, 2, 3, 8, 9, 15, 16, 17, 18, 19]

/-- The float types of R134, with 0 for the default. -/
def floatTypes : List Nat := [0, 4, 5, 6, 7]

/-- Any 14-bit immediate. -/
def immAny : Use := .imm (-8192) 8191

/-! ## The slice group (R81) -/

def formMov (f : Fields) : Option Form :=
  if f.md = 0 then
    some { d := .dst kDst, a := .src kAny, types := intTypes, sat := f.etype != 0 }
  else none

def formMovi (f : Fields) : Option Form :=
  match f.md with
  | 0 | 1 => some { d := .dst kDst, imm := .req }
  | 2 => some { d := .dst kDst, b := immAny }
  | _ => none

def formMovhi (f : Fields) : Option Form :=
  if f.md = 0 then some { d := .dst (kWide 9 16 kDst), imm := .req, dread := true } else none

/-- `sext` and `zext` (R84). -/
def formExt (f : Fields) : Option Form :=
  match f.md with
  | 0 => some { d := .dst kDst, a := .src kAny }
  | 1 => some { d := .dst kDst, a := .src kAny, b := .imm 1 (4 * (Opnd.ofField f.a).w) }
  | _ => none

def formPack (f : Fields) : Option Form :=
  match f.md with
  | 0 => some { d := .dst kDst, a := .src kAny, b := .src kAny }
  | 1 => some { d := .dst kDst, a := .src kAny, b := .src kAny, c := .src kAny }
  | _ => none

/-- `xtr` (R85). -/
def formField (f : Fields) : Option Form :=
  match f.md with
  | 0 => some { d := .dst kDst, a := .src kAny, b := .src kAny }
  | 1 => some { d := .dst kDst, a := .src kAny, b := .imm 0 63 }
  | _ => none

/-- `ins` (R85). -/
def formIns (f : Fields) : Option Form := (formField f).map fun fm => { fm with dread := true }

def formBcast (f : Fields) : Option Form :=
  if f.md = 0 then some { d := .dst kDst, a := .src kAny } else none

def formLane (f : Fields) : Option Form :=
  match f.md with
  | 0 => some { d := .dst kDst, a := .src kVec, b := .src kScalAny, mixOk := true }
  | 1 => some { d := .dst kDst, a := .src kVec, b := .imm 0 31, mixOk := true }
  | _ => none

def formShfl (f : Fields) : Option Form :=
  if f.md < 4 then some { d := .dst kVec, a := .src kVec, b := .src kAny }
  else if f.md < 8 then some { d := .dst kVec, a := .src kVec, b := .imm 0 31 }
  else none

def formShfli (f : Fields) : Option Form :=
  if f.md = 0 then
    some { d := .dst kVec, a := .src kVec, imm := .req, ok := f.imm.toNat < 2 ^ 24 }
  else none

def formSspill (f : Fields) : Option Form :=
  if f.md = 0 then some { a := .src kGen, b := .src kScal, imm := .opt, quiet := true } else none

def formSfill (f : Fields) : Option Form :=
  if f.md = 0 then some { d := .dst kGen, b := .src kScal, imm := .opt } else none

def formDead (f : Fields) : Option Form :=
  match f.md with
  | 0 => some { a := .dst kGen }
  | 1 => some { a := .dst kGen, b := .dst kGen }
  | 2 => some { a := .dst kGen, b := .dst kGen, c := .dst kGen }
  | _ => none

def formSwin (f : Fields) : Option Form :=
  match f.md with
  | 0 => some { d := .dst kScal, a := .src kScalAny }
  | 1 => some { d := .dst kScal, b := .imm 64 512, ok := simm14 f.b % 64 == 0 }
  | _ => none

def formSclr (f : Fields) : Option Form :=
  match f.md with
  | 0 => some { d := .dst kGen }
  | 1 | 2 | 3 => some { noPred := true }
  | _ => none

/-! ## The control group (R104) -/

/-- A direct transfer: the offset is B in MOD 0 and IMM in MOD 1 (R104, R105). -/
def formDirect (f : Fields) (d a : Use) (noPred : Bool) : Option Form :=
  match f.md with
  | 0 => some { d := d, a := a, b := immAny, noPred := noPred }
  | 1 => some { d := d, a := a, imm := .req, noPred := noPred, ok := f.imm.toNat % 8 == 0 }
  | _ => none

def formBr (f : Fields) : Option Form := formDirect f .no .no false

/-- `bra` and `ret`. -/
def formBra (f : Fields) : Option Form := if f.md = 0 then some { a := .src kScal } else none

def formCall (f : Fields) : Option Form := formDirect f (.dst (kWide 5 16 kGenScal)) .no false

def formCalla (f : Fields) : Option Form :=
  if f.md = 0 then some { d := .dst (kWide 5 16 kGenScal), a := .src kScal } else none

def formLoop (f : Fields) : Option Form :=
  (formDirect f (.dst kGenScal) .no false).map fun fm => { fm with dread := true }

/-- `bany` and `ball`. -/
def formBanyall (f : Fields) : Option Form := formDirect f .no .pred true

/-- `pand`, `por`, `pxor`. -/
def formPlog (f : Fields) : Option Form :=
  if f.md = 0 then some { d := .pred, a := .pred, b := .pred } else none

def formPnot (f : Fields) : Option Form := if f.md = 0 then some { d := .pred, a := .pred } else none

def formPmov (f : Fields) : Option Form :=
  match f.md with
  | 0 => some { d := .pred, a := .pred }
  | 1 => some { d := .pred, a := .src kScal }
  | 2 => some { d := .dst kGenScal, a := .pred, noPred := true }
  | 3 | 4 => some { d := .pred }
  | _ => none

def formPcnt (f : Fields) : Option Form :=
  if f.md = 0 then some { d := .dst kGenScal, a := .pred, noPred := true } else none

def formSpawn (f : Fields) : Option Form :=
  if f.md = 0 then some { d := .dst kGenScal, a := .src kScal, b := .src kScal } else none

/-- `exit`, `yield`, `nop`: no operand. -/
def formPlain (f : Fields) : Option Form := if f.md = 0 then some {} else none

def formWait (f : Fields) : Option Form :=
  if f.md = 0 then
    some { d := .dst kGenScal, a := .src kScal, b := .src kScal, c := .src kScal, imm := .req }
  else none

def formSleep (f : Fields) : Option Form := if f.md < 2 then some { a := .src kScal } else none

def formIsync (f : Fields) : Option Form :=
  match f.md with
  | 0 => some { a := .src kScal, b := .src kScal }
  | 1 => some {}
  | _ => none

/-- `rdsr`: SRSEED needs a vector destination (R119). -/
def formRdsr (f : Fields) : Option Form :=
  if f.md = 0 then
    some { d := .dst kDst, b := .imm 0 15, ok := simm14 f.b != 15 || (Opnd.ofField f.d).isVec }
  else none

/-- `wrsr`: FPSR, TSTAT, COREPWR and SRSEED are writable (R115, R119). -/
def formWrsr (f : Fields) : Option Form :=
  if f.md = 0 then
    let n := simm14 f.b
    some { a := .src (if n = 15 then kWide 4 4 kVec else kScalAny), b := .imm 0 15,
           ok := n == 7 || n == 8 || n == 12 || n == 15 }
  else none

def formTick (f : Fields) : Option Form := if f.md = 0 then some { d := .dst kGenScal } else none

def formTickAt (f : Fields) : Option Form :=
  if f.md = 1 then some { d := .dst kGenScal, a := .src kScal } else none

/-! ## The integer and pointer group (R120, R121, R124) -/

/-- Element bits of a type code. -/
def codeBits (c : Nat) : Nat :=
  if c = 12 ∨ c = 15 ∨ c = 16 then 4
  else if c ≤ 2 ∨ c = 10 ∨ c = 11 ∨ c = 13 ∨ c = 14 then 8
  else if c = 3 ∨ c = 4 ∨ c = 5 ∨ c = 17 then 16
  else if c = 6 ∨ c = 8 ∨ c = 18 then 32
  else 64

/-- Signed integer type codes. -/
def codeSgn (c : Nat) : Bool := c == 1 || c == 3 || c == 8 || c == 9 || c == 15

/-- The type an integer-group instruction works in: ETYPE 0 selects i32, or the signed type of 32/k bits in a packed
form (R121, R122). -/
def intType (f : Fields) : Nat :=
  if f.etype.toNat = 0 then (match f.pk with | 0 => 8 | 1 => 3 | 2 => 1 | _ => 15) else f.etype.toNat

/-- The width that packing fixes (R121). -/
def pkW (f : Fields) (k : Opnd → Bool) : Opnd → Bool := if f.pk = 0 then k else kWide 8 8 k

/-- The B column "any; Imm" (R120, R121). -/
def useBImm (f : Fields) : Use :=
  if f.isI then
    if f.pk = 0 then immAny
    else .imm (intMin (codeSgn (intType f)) (codeBits (intType f))) (intMax (codeSgn (intType f)) (codeBits (intType f)))
  else .src (pkW f kAny)

/-- The element type of a packed form is exactly 32/k bits wide (R121). -/
def pkTypeOk (f : Fields) : Bool := f.pk == 0 || codeBits (intType f) * 2 ^ f.pk == 32

/-- A form of the integer group: `b` 0 none, 1 operand, 2 operand or immediate; `c` the use of C; `ops` the highest OP. -/
def formInt (f : Fields) (b : Nat) (c : Use) (sat pk : Bool) (ops : Nat) : Option Form :=
  if f.op ≤ ops ∧ (pk ∨ f.pk = 0) ∧ (b = 2 ∨ ¬ f.isI) then
    some { d := .dst (pkW f kDst), a := .src (pkW f kAny),
           b := if b = 0 then .no else if b = 1 then .src (pkW f kAny) else useBImm f,
           c := c, types := intTypes, sat := sat, ok := pkTypeOk f }
  else none

/-- `add`, `sub`, `mul`, `min`, `max`. -/
def formArith (f : Fields) : Option Form := formInt f 2 .no true true 0
def formMulh (f : Fields) : Option Form := formInt f 2 .no false true 0
/-- `addc`, `subb`. -/
def formCarry (f : Fields) : Option Form := formInt f 2 .pred false false 0
def formMad (f : Fields) : Option Form := formInt f 2 (.src (pkW f kAny)) true true 0
/-- `abs`, `neg`. -/
def formUnary (f : Fields) : Option Form := formInt f 0 .no true true 0
/-- `and`, `or`, `xor`, `andn`, the shifts and `rem`. -/
def formLogic (f : Fields) : Option Form := formInt f 2 .no false true 0
/-- `not`, `popc`, `clz`, `brev`. -/
def formBitUn (f : Fields) : Option Form := formInt f 0 .no false true 0
def formSel (f : Fields) : Option Form := formInt f 2 .pred false true 0
def formCmp (f : Fields) : Option Form :=
  (formInt f 2 .no false false 5).map fun fm => { fm with d := .pred }
def formSad (f : Fields) : Option Form := formInt f 1 (.src (pkW f kAny)) true true 0

/-- `dp4` and `dp8`, by their two types (R124, R130). -/
def formDp (f : Fields) (types : List Nat) : Option Form :=
  if f.op ≤ 1 ∧ f.pk = 0 ∧ ¬ f.isI then
    some { d := .dst kDst, a := .src (kWide 8 8 kAny), b := .src (kWide 8 8 kAny), c := .src kAny,
           types := types, sat := true }
  else none

def formDiv (f : Fields) : Option Form := formInt f 2 .no true true 0

def formIred (f : Fields) : Option Form :=
  (formInt f 0 .no true false 5).map fun fm => { fm with a := .src kVec, mixOk := true }

def formIscan (f : Fields) : Option Form :=
  (formInt f 0 .no true false 5).map fun fm =>
    { fm with d := .dst kVec, a := .src kVec, smods := [0, 1] }

def formPadd (f : Fields) : Option Form :=
  if f.op ≤ 1 ∧ f.pk = 0 then
    some { d := .dst (kWide 16 16 kDst), a := .src (kWide 16 16 kAny), b := if f.isI then immAny else .src kAny }
  else none

def formPmk (f : Fields) : Option Form :=
  if f.md = 0 then
    some { d := .dst (kWide 16 16 kDst), a := .src kAny, imm := .req, ok := f.imm.toNat < 256 }
  else none

def formPfmt (f : Fields) : Option Form :=
  if f.op ≤ 3 ∧ f.pk = 0 ∧ ¬ f.isI then some { d := .dst kDst, a := .src (kWide 16 16 kAny) } else none

/-! ## The float group (R121, R134) -/

/-- The type a float-group instruction works in: ETYPE 0 selects FP32, or BF16 in a packed form. -/
def floatType (f : Fields) : Nat :=
  if f.etype.toNat = 0 then (if f.pk = 0 then 6 else 5) else f.etype.toNat

/-- A form of the float group: `n` source operands. -/
def formFloat (f : Fields) (n : Nat) (rnd sat pk : Bool) (ops : Nat) : Option Form :=
  if f.op ≤ ops ∧ (f.pk = 0 ∨ (pk ∧ f.pk = 1)) ∧ ¬ f.isI then
    let wmin := if f.pk = 0 then codeBits (floatType f) / 4 else 0
    some { d := .dst (pkW f kDst), a := .src (pkW f kAny),
           b := if 2 ≤ n then .src (pkW f kAny) else .no,
           c := if 3 ≤ n then .src (pkW f kAny) else .no,
           types := floatTypes, rnd := rnd, sat := sat,
           ok := f.pk == 0 || codeBits (floatType f) == 16,
           amin := wmin, bmin := wmin, cmin := wmin, fp64 := floatType f == 7 }
  else none

/-- `fadd`, `fsub`, `fmul`, `fdiv`. -/
def formFarith (f : Fields) : Option Form := formFloat f 2 true true true 0
def formFma (f : Fields) : Option Form := formFloat f 3 true true true 0
/-- `fmin`, `fmax`. -/
def formFminmax (f : Fields) : Option Form := formFloat f 2 false false true 0
/-- `fabs`, `fneg`. -/
def formFsign (f : Fields) : Option Form := formFloat f 1 false false true 0
def formFcmp (f : Fields) : Option Form :=
  (formFloat f 2 false false false 7).map fun fm => { fm with d := .pred }
def formFclass (f : Fields) : Option Form := formFloat f 1 false false false 0
/-- The function instructions. -/
def formFn (f : Fields) : Option Form := formFloat f 1 true true true 0

def formFscale (f : Fields) : Option Form :=
  if f.op = 0 ∧ f.pk = 0 then
    some { d := .dst kDst, a := .src kAny, b := if f.isI then immAny else .src kAny, types := floatTypes,
           rnd := true, sat := true, amin := codeBits (floatType f) / 4, fp64 := floatType f == 7 }
  else none

def formFrint (f : Fields) : Option Form := formFloat f 1 true false true 0

def formFred (f : Fields) : Option Form :=
  (formFloat f 1 (f.op == 0) (f.op == 0) true 2).map fun fm =>
    { fm with a := .src (pkW f kVec), mixOk := true }

def formFdot2 (f : Fields) : Option Form :=
  if f.md = 0 then
    some { d := .dst (kWide 8 8 kDst), a := .src (kWide 8 8 kAny), b := .src (kWide 8 8 kAny),
           c := .src (kWide 8 8 kAny), types := [0, 4, 5], rnd := true, sat := true }
  else none

def formFsplit (f : Fields) : Option Form :=
  if f.op ≤ 2 ∧ f.pk = 0 ∧ ¬ f.isI then
    let w := match f.op with | 0 => 12 | 1 => 8 | _ => 16
    some { d := .dst (kWide w w kDst), a := .src kAny, types := if f.op = 2 then [7] else [0, 6], rnd := true,
           amin := if f.op = 2 then 16 else 8, fp64 := f.etype == 7 }
  else none

/-! ## Conversions and long sums (R143 to R147) -/

/-- The codes `cvt` accepts. -/
def cvtCodes : List Nat := [1, 2, 3, 4, 5, 6, 7, 8, 9, 10, 11, 15, 16, 17, 18, 19]

/-- Float type codes. -/
def codeIsFloat (c : Nat) : Bool := (4 ≤ c && c ≤ 7) || c == 10 || c == 11

def formCvt (f : Fields) : Option Form :=
  if f.md < 4 then
    let ws := codeBits f.smod.toNat
    let wd := codeBits f.etype.toNat
    let k := 2 ^ f.pk
    some { d := .dst (if f.pk = 0 then kDst else kWide (k * wd / 4) (k * wd / 4) kDst),
           a := .src (if f.pk = 0 then kAny else kWide (k * ws / 4) (k * ws / 4) kAny),
           types := cvtCodes, smods := cvtCodes, rnd := true, sat := true, xreq := true,
           amin := if f.pk = 0 && codeIsFloat f.smod.toNat then ws / 4 else 0, fp64 := f.etype == 7 || f.smod == 7 }
  else none

def formBxq (f : Fields) : Option Form :=
  if 1 ≤ f.md ∧ f.md ≤ 3 then
    let w := if f.md = 3 then 16 else 8
    some { d := .dst (kWide 8 8 kVec), a := .src (kWide w w kVec), types := [12, 13, 14], rnd := true }
  else none

def formBxd (f : Fields) : Option Form :=
  if 1 ≤ f.md ∧ f.md ≤ 3 then
    let w := if f.md = 3 then 16 else 8
    some { d := .dst (kWide w w kVec), a := .src (kWide 8 8 kVec), types := [12, 13, 14], rnd := true,
           sat := true }
  else none

/-- A pair or quad operand is a general operand of width 16 (R146). -/
def kPair (o : Opnd) : Bool := o.isGen && o.w == 16

def formLsmk (f : Fields) : Option Form :=
  if f.md = 0 then
    let c := if f.etype.toNat = 0 then 7 else f.etype.toNat
    some { d := .dst kPair, a := .src kAny, types := 0 :: cvtCodes, dspan := 2,
           amin := if codeIsFloat c then codeBits c / 4 else 0 }
  else none

def formLsadd (f : Fields) : Option Form :=
  if f.md = 0 then
    some { d := .dst kPair, a := .src kPair, b := .src kPair, dspan := 2, aspan := 2, bspan := 2 }
  else none

def formLscvt (f : Fields) : Option Form :=
  match f.md with
  | 0 => some { d := .dst kDst, a := .src kPair, types := [0, 4, 5, 6, 7, 10, 11], rnd := true, sat := true, aspan := 2 }
  | 1 => some { d := .dst kDst, a := .src kPair, types := [0, 4, 5, 6, 7, 10, 11], rnd := true, sat := true, aspan := 4 }
  | _ => none

/-! ## The matrix group (R166) -/

/-- A general scalar of width 16. -/
def kPtr : Opnd → Bool := kWide 16 16 kGenScal

/-- `mma`, `mmaz`: C holds the strides, IMM bits 15:0 K. -/
def formMma (f : Fields) : Option Form :=
  if f.md < 4 then
    some { d := .num 3, a := .src kPtr, b := .src kPtr, c := .src kPtr, imm := .opt,
           ok := f.imm.toNat < 2 ^ 16 }
  else none

def formMld (f : Fields) : Option Form :=
  if f.md < 2 then some { d := .num 3, a := .src kPtr, b := .src kGenScal } else none

def formMst (f : Fields) : Option Form :=
  if f.md < 2 then
    some { d := .num 3, a := .src kPtr, b := .src kGenScal, smods := [0, 1, 2, 3], rnd := true, sat := true }
  else none

def formMsteer (f : Fields) : Option Form :=
  if f.md = 0 then some { d := .num 3, a := .src kGenScal, rnd := true, sat := true } else none

def formMwait (f : Fields) : Option Form := if f.md = 0 then some { b := .imm 1 15 } else none

def formMprog (f : Fields) : Option Form :=
  if f.md = 0 then some { d := .dst kGenScal, b := .imm 0 3 } else none

def formMweight (f : Fields) : Option Form :=
  match f.md with
  | 0 => some { a := .src kGenScal }
  | 1 => some { b := .imm 1 15 }
  | _ => none

def formMclr (f : Fields) : Option Form := if f.md < 2 then some { d := .num 3 } else none

/-! ## The local-memory group (R180, R183, R191, R194) -/

/-- The access size in bytes of MOD bits 1:0 (R180). -/
def lsSize (f : Fields) : Nat := 2 ^ (f.mod.toNat % 4)

/-- The type codes an `8n`-bit access accepts: 0 and the integer codes of that width (R180). -/
def sizeTypes (n : Nat) : List Nat :=
  match n with
  | 1 => [0, 1, 2]
  | 2 => [0, 3, 17]
  | 4 => [0, 8, 18]
  | _ => [0, 9, 19]

/-- The base operand by mode: a scalar, or a vector in `.x` (R180). -/
def useBase (mode : Nat) : Use := .src (if mode = 1 then kVec else kScal)

def formLdl (f : Fields) : Option Form :=
  let mode := f.md / 4
  if mode < 3 then
    some { d := .dst (if mode = 2 then kGenScal else kVec), b := useBase mode, imm := .opt,
           types := sizeTypes (lsSize f), mixOk := true }
  else none

def formStl (f : Fields) : Option Form :=
  let mode := f.md / 4
  if mode < 3 then
    some { a := .src (if mode = 2 then kScalAny else kAny), b := useBase mode, imm := .opt,
           types := sizeTypes (lsSize f), sat := f.etype != 0, smods := [0, 1, 2, 3] }
  else none

def formStash (f : Fields) : Option Form :=
  if f.md = 0 then
    some { d := .dst kGenScal, a := .src kGenScal, b := .src kPtr, c := .src kGenScal }
  else none

def formUnstash (f : Fields) : Option Form :=
  if f.md < 2 then some { d := .dst kGenScal, a := .src kGenScal } else none

def formWptr (f : Fields) : Option Form :=
  match f.md with
  | 0 => some { d := .dst kPtr, a := .src kGenScal }
  | 1 => some { d := .dst kPtr, a := .src kGenScal, b := .src kGenScal }
  | _ => none

def formEread (f : Fields) : Option Form :=
  if f.md = 0 then some { d := .dst kPtr, b := .imm 0 7 } else none

def formEreadRel (f : Fields) : Option Form := if f.md = 1 then some { b := .imm 0 7 } else none

def formEwrite (f : Fields) : Option Form :=
  if f.md < 4 then
    some { a := .src (if f.mod.getLsbD 0 then kVec else kGenScal), b := .imm 0 7,
           ok := !f.mod.getLsbD 0 || (Opnd.ofField f.a).w % 2 == 0 }
  else none

def formEos (f : Fields) : Option Form :=
  if f.md = 0 ∨ f.md = 2 then some { b := .imm 0 7 } else none

/-! ## The global memory group (R221) -/

/-- A general scalar destination, or the zero slice. -/
def kDScal : Opnd → Bool := kScal

/-- The memory mode of MOD bits 3:2. -/
def lsMode (f : Fields) : Nat := f.mod.toNat / 4 % 4

def formLd (f : Fields) : Option Form :=
  if f.md < 32 ∧ lsMode f < 3 then
    some { d := .dst (if lsMode f = 2 then kGenScal else kVec), b := useBase (lsMode f), imm := .opt,
           types := sizeTypes (lsSize f), mixOk := true }
  else none

def formSt (f : Fields) : Option Form :=
  if f.md < 16 ∧ lsMode f < 3 then
    some { a := .src (if lsMode f = 2 then kScalAny else kAny), b := useBase (lsMode f), imm := .opt,
           types := sizeTypes (lsSize f), sat := f.etype != 0, smods := [0, 1, 2, 3] }
  else none

/-- The codes `ldf` and `stf` accept, with 0. -/
def ldfCodes : List Nat := [0, 1, 2, 3, 4, 5, 6, 7, 8, 9, 10, 11, 15, 16, 17, 18, 19]

def formLdf (f : Fields) : Option Form :=
  let isMeta := f.mod.getLsbD 2
  if ¬ f.mod.getLsbD 3 ∧ ¬ f.mod.getLsbD 5 then
    some { d := .dst (if isMeta then kWide 4 4 kGen else kVec), b := .src kPtr, imm := .opt,
           types := ldfCodes, rnd := true, sat := true }
  else none

def formStf (f : Fields) : Option Form :=
  if f.md < 4 then
    some { a := .src kVec, b := .src kPtr, imm := .opt, types := ldfCodes, rnd := true, sat := true,
           smods := [0, 1, 2, 3] }
  else none

def formGather (f : Fields) : Option Form :=
  if f.md % 16 < 4 ∧ f.md < 32 then
    some { d := .dst kVec, b := .src kScal, c := .src kVec, types := sizeTypes (lsSize f) }
  else none

def formScatter (f : Fields) : Option Form :=
  if f.md < 4 then
    some { a := .src kVec, b := .src kScal, c := .src kVec, types := sizeTypes (lsSize f), sat := f.etype != 0,
           smods := [0, 1, 2, 3] }
  else none

def formPrf (f : Fields) : Option Form :=
  if f.md < 2 then some { b := .src kGenScal, imm := .opt } else none

/-- SMOD of `amo` and `cas`: the order group, and the scope exactly when `.acq` or `.rel` is written. -/
def ogScopes (ordered : Bool) : List Nat :=
  if ordered then List.range 24 else [0, 1, 2, 3]

/-- The integer types of `amo` and `cas`. -/
def amoTypes : List Nat := [1, 2, 3, 8, 9, 17, 18, 19]

def formAmo (f : Fields) : Option Form :=
  let isX := f.mod.getLsbD 5
  let fadd := f.md % 8 == 7
  some { d := .dst (if isX then (fun o => o.isVec || o.isZero) else kDScal),
         a := .src (if isX then kWide 16 16 kVec else kPtr), b := .src (if isX then kGen else kGenScal),
         types := if fadd then [4, 5, 6, 7] else amoTypes, xreq := true, mixOk := true,
         bmin := if fadd then codeBits f.etype.toNat / 4 else 0,
         smods := ogScopes (f.mod.getLsbD 3 || f.mod.getLsbD 4) }

def formCas (f : Fields) : Option Form :=
  let pair := f.mod.getLsbD 0
  let k : Opnd → Bool := if pair then kPtr else kGenScal
  let span := if pair then 2 else 1
  if ¬ f.mod.getLsbD 1 ∧ ¬ f.mod.getLsbD 2 ∧ ¬ f.mod.getLsbD 5 then
    some { d := .dst k, a := .src kPtr, b := .src k, c := .src k, types := if pair then [0] else amoTypes,
           smods := ogScopes (f.mod.getLsbD 3 || f.mod.getLsbD 4), dspan := span, bspan := span, cspan := span }
  else none

def formSta (f : Fields) : Option Form :=
  if f.md < 32 ∧ lsMode f < 3 then
    some { a := .src (if lsMode f = 2 then kScalAny else kAny), b := useBase (lsMode f), c := .src kGenScal,
           imm := .opt, types := sizeTypes (lsSize f), sat := f.etype != 0, smods := [0, 1, 2, 3] }
  else none

def formInv (f : Fields) : Option Form :=
  match f.md with
  | 0 => some { a := .src kGenScal, b := .src kGenScal }
  | 1 => some {}
  | _ => none

def formTlbinv (f : Fields) : Option Form :=
  match f.md with
  | 0 => some { d := .dst kGenScal, a := .src kGenScal }
  | 1 => some { d := .dst kGenScal }
  | _ => none

/-! ## The ordering group (R251) -/

/-- `rel` and `fence`. -/
def formRel (f : Fields) : Option Form := if f.md ≤ 5 then some { b := .imm 1 15 } else none

def formAcq (f : Fields) : Option Form := if f.md ≤ 5 then some {} else none

def formOgq (f : Fields) : Option Form :=
  if f.md ≤ 5 then some { d := .dst kGenScal, b := .imm 1 15 } else none

/-! ## The copy and barrier group (R261) -/

/-- `cpy` and `cpyg`. -/
def formCpy (f : Fields) : Option Form :=
  if f.md < 4 then
    some { d := .dst kDScal, a := .src kPtr, b := .src kPtr, c := .src kGenScal, smods := [0, 1] }
  else none

def formCpyf (f : Fields) : Option Form :=
  (formCpy f).map fun fm => { fm with rnd := true, sat := true }

def formCpw (f : Fields) : Option Form :=
  match f.md with
  | 0 => some { smods := [0, 1] }
  | 1 => some {}
  | _ => none

def formCpwDrop (f : Fields) : Option Form := if f.md = 2 then some { smods := [0, 1] } else none

def formCpq (f : Fields) : Option Form :=
  if f.md = 0 then some { d := .dst kGenScal, smods := [0, 1] } else none

def formBinit (f : Fields) : Option Form :=
  if f.md = 0 then some { a := .src kGenScal, b := .src kGenScal, c := .src kGenScal } else none

def formBarv (f : Fields) : Option Form :=
  if f.md < 4 then
    some { d := .dst kDScal, a := .src (if f.mod.getLsbD 0 then kPtr else kGenScal) }
  else none

def formBexp (f : Fields) : Option Form :=
  match f.md with
  | 0 | 1 | 3 => some { a := .src kGenScal, b := .src kGenScal }
  | _ => none

def formBwait (f : Fields) : Option Form :=
  if f.md = 0 then some { d := .dst kGenScal, a := .src kGenScal, b := .src kGenScal, imm := .opt } else none

def formBtest (f : Fields) : Option Form :=
  if f.md < 2 then some { d := .dst kGenScal, a := .src kGenScal } else none

def formGbar (f : Fields) : Option Form := if f.md = 0 then some { b := .imm 0 255 } else none

/-! ## The task and ring group (R304) -/

/-- A result: a general scalar of width 16, or the zero slice (R304, R323). -/
def kResult (o : Opnd) : Bool := (o.isGenScal && o.w == 16) || o.isZero

/-- IMM may hold only these low bits. -/
def immBits (f : Fields) (n : Nat) : Bool := f.imm.toNat < 2 ^ n

def formTkmk (f : Fields) : Option Form :=
  match f.md with
  | 0 => some { d := .dst kResult, a := .src kGenScal }
  | 1 => some { d := .dst kResult, a := .src kGenScal, b := .src kGenScal }
  | _ => none

def formTkarm (f : Fields) : Option Form :=
  match f.md with
  | 0 => some { d := .dst kResult, a := .src kGenScal, b := .src kGenScal }
  | 1 => some { d := .dst kResult, a := .src kGenScal, b := immAny }
  | _ => none

def formTksucc (f : Fields) : Option Form :=
  if f.md = 0 then
    some { d := .dst kResult, a := .src kGenScal, b := .src kGenScal, imm := .opt, ok := immBits f 4 }
  else none

def formTkdec (f : Fields) : Option Form :=
  if f.md < 4 then
    some { a := .src kGenScal, b := .imm 1 8191, imm := if f.mod.getLsbD 0 then .opt else .no, ok := immBits f 4 }
  else none

def formTkdone (f : Fields) : Option Form :=
  match f.md with
  | 0 => some {}
  | 1 => some { a := .src kGenScal }
  | _ => none

def formGinst (f : Fields) : Option Form :=
  if f.md = 0 then
    some { d := .dst kResult, a := .src kPtr, b := .src kGenScal, imm := .opt, xreq := true, ok := immBits f 8 }
  else none

/-- `tkcan`, `tkst`, `tkres`: a result and a handle or queue. -/
def formResA (f : Fields) (md : Nat) : Option Form :=
  if f.md = md then some { d := .dst kResult, a := .src kGenScal } else none

/-- `tksub`. -/
def formTksub (f : Fields) : Option Form :=
  if f.md = 0 then some { d := .dst kResult, a := .src kGenScal, b := .src kGenScal } else none

def formArrm (f : Fields) : Option Form :=
  if f.md = 0 then
    some { d := .dst kResult, a := .src kGenScal, b := .src kGenScal, c := .src kGenScal, imm := .opt,
           ok := immBits f 4 }
  else none

def formRgres (f : Fields) : Option Form :=
  if f.md = 0 then some { d := .dst kResult, a := .src kPtr } else none

/-- `rgpub` and `rgtake`. -/
def formRgpub (f : Fields) : Option Form :=
  if f.md = 0 then some { d := .dst kResult, a := .src kPtr, b := .src kGenScal } else none

/-! ## The message and queue group (R323) -/

/-- `am`; the deposit form carries a tag. -/
def formAm (f : Fields) (deposit : Bool) : Option Form :=
  if f.md < 4 ∧ f.mod.getLsbD 0 = deposit then
    some { a := .src kGenScal, b := .src kGenScal, c := .src kPtr, imm := if deposit then .opt else .no,
           ok := immBits f 16, cspan := 4 }
  else none

def formAmr (f : Fields) : Option Form :=
  if f.md = 0 ∨ f.md = 2 then
    some { d := .dst kGenScal, a := .src kGenScal, b := .src kGenScal, c := .src kPtr, cspan := 4 }
  else none

def formHend (f : Fields) : Option Form :=
  match f.md with
  | 0 => some { hOnly := true }
  | 1 => some { a := .src kGenScal, hOnly := true }
  | _ => none

def formPush (f : Fields) : Option Form :=
  if f.md = 0 ∨ f.md = 2 then some { d := .dst kResult, a := .src kPtr, b := .src kGenScal } else none

def formPop (f : Fields) : Option Form :=
  if f.md = 0 then some { d := .dst kPtr, a := .src kPtr, dspan := 2 } else none

def formPopW (f : Fields) : Option Form :=
  if f.md = 1 then some { d := .dst kPtr, a := .src kPtr, b := .src kGenScal, dspan := 2 } else none

def formQmk (f : Fields) : Option Form :=
  if f.md = 0 then some { d := .dst kResult, a := .src kPtr, b := .src kGenScal } else none

def formQmkFree (f : Fields) : Option Form :=
  if f.md = 1 then some { d := .dst kResult, a := .src kPtr } else none

def formMbsend (f : Fields) : Option Form :=
  if f.md < 4 then
    some { d := .dst kResult, a := .src kGenScal, b := .src kGenScal, imm := .opt, xreq := true, ok := immBits f 2 }
  else none

def formMbcnt (f : Fields) : Option Form :=
  match f.md with
  | 0 => some { d := .dst kGenScal, b := .imm 0 3 }
  | 1 => some { d := .dst kGenScal }
  | _ => none

/-- `gang` (R354). -/
def formGang (f : Fields) : Option Form := formResA f 0

/-! ## The collectives group (R372) -/

def formCplan (f : Fields) : Option Form :=
  if f.md = 0 then some { d := .dst kResult, a := .src kPtr } else none

def formCplanFree (f : Fields) : Option Form := formResA f 1

/-- `red`, `cbcast`, `cgath`. -/
def formRed (f : Fields) : Option Form :=
  if f.md = 0 ∨ f.md = 2 then some { d := .dst kResult, a := .src kGenScal, b := .src kGenScal } else none

def formRedw (f : Fields) : Option Form :=
  if f.md = 0 then some { d := .dst kResult, a := .src kGenScal, imm := .opt } else none

def formRedr (f : Fields) : Option Form :=
  let t := if f.etype.toNat = 0 then 6 else f.etype.toNat
  if f.md = 0 then
    some { d := .dst kDst, a := .src kAny, b := .src kGenScal, types := [0, 6, 7, 1, 2, 3, 8, 9, 15, 16, 17, 18, 19],
           rnd := true, sat := true, amin := if codeIsFloat t then codeBits t / 4 else 0 }
  else none

def formRedfix (f : Fields) : Option Form :=
  if f.md < 2 then some { d := .dst kResult, a := .src kGenScal } else none

/-! ## The system group (R397) -/

/-- `trap` and `brk`. -/
def formTrap (f : Fields) : Option Form := if f.md = 0 then some { b := .imm 0 8191 } else none

def formEret (f : Fields) : Option Form := formTksub f

def formDrain (f : Fields) : Option Form :=
  match f.md with
  | 0 => some { d := .dst kResult }
  | 1 => some { d := .dst kResult, a := .src kGenScal }
  | _ => none

def formDrainRes (f : Fields) : Option Form := if f.md = 2 then some { d := .dst kResult } else none

/-- `ctxsv` and `ctxld`; only the reads of `ctxsv` leave DEADREAD alone (R78). -/
def formCtx (f : Fields) : Option Form :=
  if f.md = 0 then some { d := .dst kResult, a := .src kPtr, b := .imm 0 15 } else none

def formCtxsv (f : Fields) : Option Form := (formCtx f).map fun x => { x with quiet := true }

end Sys2Proof.Machine
end

