-- ==== Sys2Proof/Syntax.lean ====
section
/-! DEFINITION. The instructions and the steps of the machine: one constructor per row of the operations table.
An encoded instruction holds the fields of its words; the opcode of an unassigned word is kept beside its fields.
A step of the outside world names what it acts on.  A step of an engine, of the dispatcher or of the fabric has no
argument here: `State.who` holds what it acts on (a core's EID, a slot, a packet's number and so on), in the order that
its docstring gives, while the step is taken (the compiler's limit on constructors with fields is 244). -/

namespace Sys2Proof

inductive Instr where
  /-- Copies operand A to D under the width rules of R69 in the active lanes (R82) -/
  | mov (f : Fields)
  /-- Writes a sign-extended, zero-extended or short immediate constant to D (R83) -/
  | movi (f : Fields)
  /-- Writes IMM into bits 63:32 of D and keeps bits 31:0 of D (R83) -/
  | movhi (f : Fields)
  /-- Sign-extends the low n bits of A into D (R84) -/
  | sext (f : Fields)
  /-- Zero-extends the low n bits of A into D (R84) -/
  | zext (f : Fields)
  /-- Concatenates two or three source patterns into D (R85) -/
  | pack (f : Fields)
  /-- Extracts a bit field of A at a position into D (R85) -/
  | xtr (f : Fields)
  /-- Inserts the pattern of A into D at a bit position and keeps the other bits of D (R85) -/
  | ins (f : Fields)
  /-- Repeats the pattern of A across the width of D (R85) -/
  | bcast (f : Fields)
  /-- Copies lane k of A to D in every active lane, or to a scalar D (R86) -/
  | lane (f : Fields)
  /-- Shuffles A across lanes by index, xor, up or down (R86) -/
  | shfl (f : Fields)
  /-- Shuffles A within groups of 8 lanes by an immediate pattern (R86) -/
  | shfli (f : Fields)
  /-- Stores the pattern of A to LM, one doubleword per lane or one for a scalar (R87) -/
  | sspill (f : Fields)
  /-- Loads doublewords from LM into D and makes the written slices live (R87) -/
  | sfill (f : Fields)
  /-- Marks the slices of up to three operands dead without reading them (R88) -/
  | dead (f : Fields)
  /-- Grows or shrinks the thread's vector window and writes a status (R89) -/
  | swin (f : Fields)
  /-- Clears an operand, the vector window, the scalar window or both to zero and makes them live (R90) -/
  | sclr (f : Fields)
  /-- Transfers control to a direct target when lane 0 is active (R106) -/
  | br (f : Fields)
  /-- Transfers control to the offset held in a scalar (R106) -/
  | bra (f : Fields)
  /-- Writes the return offset to D and transfers to a direct target (R106) -/
  | call (f : Fields)
  /-- Writes the return offset to D and transfers to the offset in A (R106) -/
  | calla (f : Fields)
  /-- Returns to the offset held in a scalar (R106) -/
  | ret (f : Fields)
  /-- Decrements D and transfers while the result is nonzero (R106) -/
  | loop (f : Fields)
  /-- Transfers when any bit of the named predicate is 1 (R106) -/
  | bany (f : Fields)
  /-- Transfers when every bit of the named predicate is 1 (R106) -/
  | ball (f : Fields)
  /-- Writes the AND of two predicates, bit by bit, in the active lanes (R107) -/
  | pand (f : Fields)
  /-- Writes the OR of two predicates in the active lanes (R107) -/
  | por (f : Fields)
  /-- Writes the XOR of two predicates in the active lanes (R107) -/
  | pxor (f : Fields)
  /-- Writes the inverse of a predicate in the active lanes (R107) -/
  | pnot (f : Fields)
  /-- Moves, sets or clears a predicate, or moves it to or from a scalar (R107) -/
  | pmov (f : Fields)
  /-- Writes the count of 1 bits of a predicate to a scalar (R107) -/
  | pcnt (f : Fields)
  /-- Sends a thread creation request to a target core and later receives its status (R108) -/
  | spawn (f : Fields)
  /-- Waits for the run's results, then ends the thread and frees its slot and units (R109) -/
  | exit (f : Fields)
  /-- Refreshes the slot's ready stamp, or ends the thread by drain when a drain is requested (R110) -/
  | yield (f : Fields)
  /-- Parks the thread until a masked mailbox, LM doubleword, drain or timeout event holds (R111) -/
  | wait (f : Fields)
  /-- Parks the thread for at least a given number of core cycles (R112) -/
  | sleep (f : Fields)
  /-- Does nothing (R104) -/
  | nop (f : Fields)
  /-- Discards the fetch buffer so later fetches of a range see earlier writes (R114) -/
  | isync (f : Fields)
  /-- Reads a special register into D (R119) -/
  | rdsr (f : Fields)
  /-- Writes the writable fields of a special register (R119) -/
  | wrsr (f : Fields)
  /-- Writes the pod tick to D at once (R112) -/
  | tick (f : Fields)
  /-- Parks the thread until the pod tick reaches a target, then writes the tick (R112) -/
  | tickAt (f : Fields)
  /-- Adds two integer operands with wrap or saturation (R125) -/
  | add (f : Fields)
  /-- Subtracts two integer operands with wrap or saturation (R125) -/
  | sub (f : Fields)
  /-- Adds with a carry-in predicate bit and writes the carry-out (R127) -/
  | addc (f : Fields)
  /-- Subtracts with a borrow-in predicate bit and writes the borrow-out (R127) -/
  | subb (f : Fields)
  /-- Multiplies two integer operands (R125) -/
  | mul (f : Fields)
  /-- Writes the high half of an integer product (R125) -/
  | mulh (f : Fields)
  /-- Writes a·b + c for integers (R125) -/
  | mad (f : Fields)
  /-- Writes the lesser of two integers (R125) -/
  | min (f : Fields)
  /-- Writes the greater of two integers (R125) -/
  | max (f : Fields)
  /-- Writes the absolute value of an integer (R125) -/
  | abs (f : Fields)
  /-- Writes the negation of an integer (R125) -/
  | neg (f : Fields)
  /-- Writes the bitwise AND of two operands (R125) -/
  | and (f : Fields)
  /-- Writes the bitwise OR of two operands (R125) -/
  | or (f : Fields)
  /-- Writes the bitwise XOR of two operands (R125) -/
  | xor (f : Fields)
  /-- Writes the bitwise inverse of an operand (R125) -/
  | not (f : Fields)
  /-- Writes a AND NOT b (R125) -/
  | andn (f : Fields)
  /-- Shifts left by a count (R126) -/
  | shl (f : Fields)
  /-- Shifts right logically by a count (R126) -/
  | shr (f : Fields)
  /-- Shifts right arithmetically by a count (R126) -/
  | sar (f : Fields)
  /-- Rotates the pattern toward its high end (R126) -/
  | rot (f : Fields)
  /-- Counts the 1 bits of an operand (R125) -/
  | popc (f : Fields)
  /-- Counts the leading zero bits of an operand (R125) -/
  | clz (f : Fields)
  /-- Reverses the bit order of an operand (R125) -/
  | brev (f : Fields)
  /-- Selects A or B by a predicate bit (R128) -/
  | sel (f : Fields)
  /-- Compares two integers and writes the truth bit to a predicate (R128) -/
  | cmp (f : Fields)
  /-- Adds the sum of absolute differences of the lane's elements to C (R130) -/
  | sad (f : Fields)
  /-- Adds the dot product of four 8-bit element pairs to C (R130) -/
  | dp4 (f : Fields)
  /-- Adds the dot product of eight 4-bit element pairs to C (R130) -/
  | dp8 (f : Fields)
  /-- Divides integers toward zero, with fixed results for zero divisors (R129) -/
  | div (f : Fields)
  /-- Writes the integer remainder with the sign of a (R129) -/
  | rem (f : Fields)
  /-- Reduces an integer operand exactly across the active lanes (R131) -/
  | ired (f : Fields)
  /-- Writes inclusive or exclusive integer prefixes across the active lanes (R131) -/
  | iscan (f : Fields)
  /-- Advances a fat pointer by bytes or elements (R132) -/
  | padd (f : Fields)
  /-- Builds a fat pointer from an address, a format and a block length (R133) -/
  | pmk (f : Fields)
  /-- Extracts a field or the element width of a fat pointer (R133) -/
  | pfmt (f : Fields)
  /-- Adds two floats with one rounding (R135) -/
  | fadd (f : Fields)
  /-- Subtracts two floats with one rounding (R135) -/
  | fsub (f : Fields)
  /-- Multiplies two floats with one rounding (R135) -/
  | fmul (f : Fields)
  /-- Computes a·b + c with one rounding (R135) -/
  | fma (f : Fields)
  /-- Returns the lesser float operand (R136) -/
  | fmin (f : Fields)
  /-- Returns the greater float operand (R136) -/
  | fmax (f : Fields)
  /-- Clears the sign bit of a float (R136) -/
  | fabs (f : Fields)
  /-- Inverts the sign bit of a float (R136) -/
  | fneg (f : Fields)
  /-- Compares two floats and writes the truth bit to a predicate (R137) -/
  | fcmp (f : Fields)
  /-- Writes a one-hot class mask of a float (R137) -/
  | fclass (f : Fields)
  /-- Returns the correctly rounded reciprocal (R138) -/
  | frcp (f : Fields)
  /-- Returns the correctly rounded reciprocal square root (R138) -/
  | frsq (f : Fields)
  /-- Returns the correctly rounded square root (R138) -/
  | fsqrt (f : Fields)
  /-- Divides two floats with one rounding (R135) -/
  | fdiv (f : Fields)
  /-- Returns the correctly rounded 2^a (R138) -/
  | fexp2 (f : Fields)
  /-- Returns the correctly rounded log2 a (R138) -/
  | flog2 (f : Fields)
  /-- Returns the correctly rounded sin(π·a) (R138) -/
  | fsin (f : Fields)
  /-- Returns the correctly rounded cos(π·a) (R138) -/
  | fcos (f : Fields)
  /-- Returns a·2^b rounded once (R139) -/
  | fscale (f : Fields)
  /-- Rounds a float to an integral value (R139) -/
  | frint (f : Fields)
  /-- Adds a two-element 16-bit dot product to an FP32 value with one rounding (R141) -/
  | fdot2 (f : Fields)
  /-- Splits a float into two or three narrower parts (R142) -/
  | fsplit (f : Fields)
  /-- Reduces a float operand across the active lanes in a fixed tree (R140) -/
  | fred (f : Fields)
  /-- Converts elements between types (R143) -/
  | cvt (f : Fields)
  /-- Converts a value to a two-word long sum exactly (R148) -/
  | lsmk (f : Fields)
  /-- Quantises FP32 lane values into BX blocks (R144) -/
  | bxq (f : Fields)
  /-- Decodes BX block codes in each lane to FP32 (R145) -/
  | bxd (f : Fields)
  /-- Adds two long sums without a wide accumulator (R149) -/
  | lsadd (f : Fields)
  /-- Converts a two-word or wide long sum to a float (R150) -/
  | lscvt (f : Fields)
  /-- Queues a matrix multiply-accumulate command on an accumulator slot (R167) -/
  | mma (f : Fields)
  /-- Queues a matrix multiply that first zeroes the slot (R167) -/
  | mmaz (f : Fields)
  /-- Queues a load of accumulator rows from memory (R168) -/
  | mld (f : Fields)
  /-- Queues a store of accumulator rows to memory with conversion (R169) -/
  | mst (f : Fields)
  /-- Queues a drain of an accumulator slot to a consumer port (R170) -/
  | msteer (f : Fields)
  /-- Blocks until no command of the core names a masked slot (R172) -/
  | mwait (f : Fields)
  /-- Reads a snapshot of a slot's progress word (R173) -/
  | mprog (f : Fields)
  /-- Sets the core's matrix-unit weight (R174) -/
  | mweight (f : Fields)
  /-- Queues a clear of a slot, or discards a faulted command on it (R171) -/
  | mclr (f : Fields)
  /-- Loads from the core's own LM by offset (R181) -/
  | ldl (f : Fields)
  /-- Stores to the core's own LM by offset (R181) -/
  | stl (f : Fields)
  /-- Makes a stash window of LM granules over a global range (R184) -/
  | stash (f : Fields)
  /-- Writes back or drops a window's dirty bytes and frees the entry (R185) -/
  | unstash (f : Fields)
  /-- Reads a copy channel's write pointer, or waits until it reaches a target (R191) -/
  | wptr (f : Fields)
  /-- Releases the held token of an in-port and takes the next token (R196) -/
  | eread (f : Fields)
  /-- Releases the held token of an in-port only (R196) -/
  | ereadRel (f : Fields)
  /-- Reserves a ring slot and writes one data token on an out-port (R195) -/
  | ewrite (f : Fields)
  /-- Marks the end of the core's stream on an out-port (R197) -/
  | eos (f : Fields)
  /-- Loads global memory, per lane or once per thread (R222) -/
  | ld (f : Fields)
  /-- Stores to global memory in an order group (R222) -/
  | st (f : Fields)
  /-- Loads typed elements or block metadata through a fat pointer (R224) -/
  | ldf (f : Fields)
  /-- Stores typed elements through a fat pointer, quantising blocks (R225) -/
  | stf (f : Fields)
  /-- Loads per lane from a base plus scaled indices (R223) -/
  | gather (f : Fields)
  /-- Stores per lane to a base plus scaled indices (R223) -/
  | scatter (f : Fields)
  /-- Asks for a line to be brought into the L1D or LLC (R226) -/
  | prf (f : Fields)
  /-- Performs an atomic read-modify-write at the home of each address (R227) -/
  | amo (f : Fields)
  /-- Compares and swaps one aligned location at its home (R228) -/
  | cas (f : Fields)
  /-- Stores and records one barrier arrival once the bytes are performed (R229) -/
  | sta (f : Fields)
  /-- Drops L1D lines that overlap a range, or all lines (R230) -/
  | inv (f : Fields)
  /-- Removes translations of the ASID and waits for the drain tokens (R231) -/
  | tlbinv (f : Fields)
  /-- Starts a release of a scope over a group mask (R252) -/
  | rel (f : Fields)
  /-- Performs an acquire of a scope (R252) -/
  | acq (f : Fields)
  /-- Performs a release, waits for its join, then acquires (R252) -/
  | fence (f : Fields)
  /-- Writes a snapshot of which order groups still have unperformed writes (R252) -/
  | ogq (f : Fields)
  /-- Queues a strided copy command on a copy channel (R262) -/
  | cpy (f : Fields)
  /-- Queues an indexed gather copy command (R262) -/
  | cpyg (f : Fields)
  /-- Queues a copy that converts between block and float formats (R263) -/
  | cpyf (f : Fields)
  /-- Waits until a channel, or both channels, have no command (R264) -/
  | cpw (f : Fields)
  /-- Discards a faulted copy command and the shadow's command (R264) -/
  | cpwDrop (f : Fields)
  /-- Writes a snapshot of a channel's status (R265) -/
  | cpq (f : Fields)
  /-- Initialises a barrier object's expected counts (R268) -/
  | binit (f : Fields)
  /-- Makes one arrival on a barrier object (R269) -/
  | barv (f : Fields)
  /-- Adds expected bytes to a barrier, optionally with an arrival (R270) -/
  | bexp (f : Fields)
  /-- Waits for a barrier phase to complete or a timeout (R271) -/
  | bwait (f : Fields)
  /-- Writes a snapshot of a barrier doubleword (R272) -/
  | btest (f : Fields)
  /-- Makes the core's arrival at a group barrier and waits for the episode (R273) -/
  | gbar (f : Fields)
  /-- Allots a task record from an LM image (R306) -/
  | tkmk (f : Fields)
  /-- Adds a signed value to a MADE record's counter (R307) -/
  | tkarm (f : Fields)
  /-- Appends a successor entry to a MADE record (R307) -/
  | tksucc (f : Fields)
  /-- Sends a decrement to a task record (R308) -/
  | tkdec (f : Fields)
  /-- Ends the thread, optionally recording a fire mask (R309) -/
  | tkdone (f : Fields)
  /-- Instantiates a graph template and arms its records (R310) -/
  | ginst (f : Fields)
  /-- Cancels one task record (R311) -/
  | tkcan (f : Fields)
  /-- Cancels every record of a graph instance on the device (R311) -/
  | tkcanG (f : Fields)
  /-- Returns a snapshot of a task record (R312) -/
  | tkst (f : Fields)
  /-- Submits a record handle to a task queue's ring (R313) -/
  | tksub (f : Fields)
  /-- Allots an arrival-match entry (R314) -/
  | arrm (f : Fields)
  /-- Frees an arrival-match entry without a decrement (R314) -/
  | arrmFree (f : Fields)
  /-- Unfreezes a task queue and resumes its faulted tasks (R315) -/
  | tkres (f : Fields)
  /-- Reserves an index of a publication ring (R316) -/
  | rgres (f : Fields)
  /-- Publishes a reserved ring index (R316) -/
  | rgpub (f : Fields)
  /-- Copies the next published ring entry to LM and advances TAKE (R316) -/
  | rgtake (f : Fields)
  /-- Sends an active message that runs a handler on a target core (R324) -/
  | am (f : Fields)
  /-- Sends a tagged 32-byte deposit into a target core's LM (R324) -/
  | amD (f : Fields)
  /-- Sends an active message and receives the handler's reply (R325) -/
  | amr (f : Fields)
  /-- Ends a handler thread and returns its reply (R326) -/
  | hend (f : Fields)
  /-- Sends a value to a queue object's home Yard (R340) -/
  | push (f : Fields)
  /-- Sends a pop to a queue object's home Yard (R341) -/
  | pop (f : Fields)
  /-- Sends a pop that waits up to a timeout at the home Yard (R341) -/
  | popW (f : Fields)
  /-- Makes a queue object and its splice-table entry (R335) -/
  | qmk (f : Fields)
  /-- Frees a queue object after its waiting operations fall through (R336) -/
  | qmkFree (f : Fields)
  /-- Sends a value to a mailbox of a target core (R329) -/
  | mbsend (f : Fields)
  /-- Writes the entry count of one or all mailboxes (R332) -/
  | mbcnt (f : Fields)
  /-- Prepares a collective plan on every node device (R373) -/
  | cplan (f : Fields)
  /-- Frees a collective plan on every Yard (R373) -/
  | cplanFree (f : Fields)
  /-- Sends a reduce contribution to the member's node (R374) -/
  | red (f : Fields)
  /-- Sends a broadcast call to the member's node (R374) -/
  | cbcast (f : Fields)
  /-- Sends a gather contribution to the member's node (R374) -/
  | cgath (f : Fields)
  /-- Waits for a collective call's result or a timeout (R375) -/
  | redw (f : Fields)
  /-- Rescales a reef by NMEM/POP (R376) -/
  | redr (f : Fields)
  /-- Applies the oldest or every waiting correction to a delivered result (R377) -/
  | redfix (f : Fields)
  /-- Raises the explicit trap with an immediate code (R398) -/
  | trap (f : Fields)
  /-- Raises the breakpoint trap with an immediate code (R398) -/
  | brk (f : Fields)
  /-- Sends a request that resumes one trapped thread with an action (R400) -/
  | eret (f : Fields)
  /-- Starts a drain of all or one graph instance of the context (R384) -/
  | drain (f : Fields)
  /-- Clears the drain request and lets binding resume (R388) -/
  | drainRes (f : Fields)
  /-- Hard-freezes another core and writes its freeze image (R392) -/
  | frz (f : Fields)
  /-- Thaws a frozen core and replays its spill ring (R394) -/
  | frzRes (f : Fields)
  /-- Saves the thread's slices, predicates and named slots to a save area (R390) -/
  | ctxsv (f : Fields)
  /-- Restores a save area into the thread and continues at its RPC (R391) -/
  | ctxld (f : Fields)
  /-- Instantiates a template on several devices to arm at one tick (R354) -/
  | gang (f : Fields)
  /-- A base word with OPC 0x000, 0x3FF or an unassigned opcode raises the precise illegal-instruction trap under every predicate (R51) -/
  | unassignedOpcode (opc : BitVec 10) (f : Fields)
  /-- A port's link fails and does not retrain (R352) -/
  | linkFailure (dev : Nat) (port : Nat)
  /-- A UALink port retrains (R352) -/
  | linkRetrain (dev : Nat) (port : Nat)
  /-- The tick master fails or becomes unreachable (R353) -/
  | tickMasterFailure (dev : Nat)
  /-- A device joins a pod and steps its tick forward once (R353) -/
  | deviceJoin (dev : Nat) (ticks : Nat)
  /-- Management firmware sets the device number at pod configuration (R344) -/
  | deviceNumberSet (dev : Nat) (num : Nat)
  /-- Data returns with an uncorrectable error and the reader is reported at its marker (R219) -/
  | uncorrectableError (key : Nat)
  /-- A CTXSW write with operation 0 switches a core out of its context (R395) -/
  | ctxswSwitchOut (dev : Nat) (core : Nat)
  /-- A CTXSW write with operation 1 loads a context onto a core (R395) -/
  | ctxswSwitchIn (dev : Nat) (core : Nat)
  /-- A read of RRES performs rgres on the RDESC ring (R403) -/
  | rres (dev : Nat) (fn : Nat)
  /-- A write of RPUB performs rgpub of the index on the RDESC ring (R403) -/
  | rpub (dev : Nat) (fn : Nat) (val : Nat)
  /-- A read of RTAKE returns the index to take without advancing TAKE (R403) -/
  | rtake (dev : Nat) (fn : Nat)
  /-- A write of RDONE advances TAKE when it equals the written value (R403) -/
  | rdone (dev : Nat) (fn : Nat) (val : Nat)
  /-- A write of PWRCAP stores the clamped cap and scales the power budgets (R405) -/
  | pwrcap (dev : Nat) (val : Nat)
  /-- A write of RECSEL selects the recorder die and page, clamping the die (R403) -/
  | recsel (dev : Nat) (val : Nat)
  /-- A host write to a register page entry with no row of its own (R403) -/
  | hostRegisterWrite (dev : Nat) (fn : Nat) (off : Nat) (val : Nat)
  /-- A host access through BAR2 is translated and performed or refused (R402) -/
  | bar2Access (dev : Nat) (fn : Nat) (off : Nat) (n : Nat) (val : Option Nat)
  /-- Every 10 µs a die compares power and temperature and steps its clock (R406) -/
  | dvfsLoop (die : Nat) (power : Nat) (temp : Nat)
  /-- At 115 °C the management processor cuts power (R406) -/
  | thermalCutoff (dev : Nat)
  /-- Cold reset runs the boot ROM checks and brings up the device in order (R413) -/
  | coldReset (dev : Nat) (ok : Bool) (ver : Nat) (digest : Nat)
  /-- Warm reset repeats bring-up steps 2 to 5 and unloads every context (R413) -/
  | warmReset (dev : Nat)
  /-- The PCIe link trains at its achieved width and rate (R402) -/
  | pcieLinkTraining (dev : Nat) (width : Nat) (rate : Nat)
  /-- An SPDM GET_VERSION request is answered over DOE (R409) -/
  | getVersion (dev : Nat)
  /-- An SPDM GET_CAPABILITIES request is answered (R409) -/
  | getCapabilities (dev : Nat)
  /-- An SPDM NEGOTIATE_ALGORITHMS request is answered (R409) -/
  | negotiateAlgorithms (dev : Nat)
  /-- An SPDM GET_DIGESTS request is answered (R409) -/
  | getDigests (dev : Nat)
  /-- An SPDM GET_CERTIFICATE request is answered (R409) -/
  | getCertificate (dev : Nat)
  /-- An SPDM CHALLENGE request is answered (R409) -/
  | challenge (dev : Nat)
  /-- An SPDM GET_MEASUREMENTS request returns the measurement blocks (R409) -/
  | getMeasurements (dev : Nat)
  /-- An SPDM KEY_EXCHANGE request is answered (R409) -/
  | keyExchange (dev : Nat)
  /-- An SPDM FINISH request is answered (R409) -/
  | finish (dev : Nat)
  /-- An SRAM scrubber reads through its array and writes back corrected words (R410) -/
  | scrubPass (die : Nat) (word : Nat)
  /-- A step die patrols the whole of DRAM every 24 hours (R410) -/
  | dramPatrol (die : Nat) (page : Nat)
  /-- A pending class L result lands; the last one of a run unparks the thread (R71).  `who`: eid, slot, id. -/
  | classLResultWrite
  /-- A 32-byte fetch block read completes into the fetch buffer (R101).  `who`: eid, slot. -/
  | fetchBlockRead
  /-- A handler's 4,097th instruction takes the watchdog trap (R321).  `who`: eid, slot. -/
  | handlerWatchdog
  /-- A spawn request reaches its target core and is granted or refused (R64).  `who`: pkt. -/
  | spawnArrival
  /-- A waiting thread's masked event holds and the wait ends (R111).  `who`: eid, slot. -/
  | waitWake
  /-- A wait's cycle limit expires (R111).  `who`: eid, slot. -/
  | waitTimeout
  /-- A sleep's cycle count runs out (R112).  `who`: eid, slot. -/
  | sleepExpiry
  /-- The pod tick reaches a tick.at target (R112).  `who`: eid, slot. -/
  | tickAtWake
  /-- A core whose slots all wait enters a sleep depth (R113).  `who`: eid. -/
  | coreSleepEntry
  /-- A waking event brings a sleeping core back to issue after 4 or 60 cycles (R113).  `who`: eid. -/
  | coreWake
  /-- An active message reaches its target and is checked, queued or refused (R318).  `who`: pkt. -/
  | activeMessageArrival
  /-- The head of the handler queue takes a free handler slot (R320).  `who`: eid. -/
  | handlerStart
  /-- A deposit is written into the target LM and counted on arrival-match entries (R324).  `who`: pkt. -/
  | depositArrival
  /-- A refusal returns to the sender, which takes the trap after its run's marker (R319).  `who`: pkt. -/
  | messageRefused
  /-- The reply of an amr handler returns to the sender (R325).  `who`: pkt. -/
  | amrReply
  /-- A mailbox entry reaches its target and is accepted, refused as full or answered STATE (R329).  `who`: pkt. -/
  | mailboxEntryArrival
  /-- A full-refused entry is retried after 64 cycles (R329).  `who`: pkt. -/
  | mbsendRetry
  /-- A sender that found the record full retries after 256 cycles (R330).  `who`: pkt. -/
  | mbsendRecordRetry
  /-- A reserved place is released 512 cycles after its offer (R330).  `who`: eid, pkt. -/
  | mailboxReservationExpiry
  /-- An eret request reaches the trapped thread's core and acts (R400).  `who`: pkt. -/
  | eretRequestArrival
  /-- A push is committed at the home Yard: paired, stored or made to wait (R337).  `who`: pkt. -/
  | pushArrival
  /-- A pop is committed at the home Yard: paired, served from memory, made to wait or answered EMPTY (R337).  `who`: pkt. -/
  | popArrival
  /-- A waiting push's window expires and it falls through to memory (R338).  `who`: dev, pkt. -/
  | pushWindowExpiry
  /-- A waiting pop's window or timeout expires and it is answered EMPTY (R338).  `who`: dev, pkt. -/
  | popWindowExpiry
  /-- A drain's cancel of a waiting pop.w is committed at the home Yard (R342).  `who`: pkt. -/
  | popWCancel
  /-- A request reaches a handler unit and is served from cache, refused stale, refused or performed (R350).  `who`: pkt. -/
  | fabricRequestArrival
  /-- A sender with no reply retransmits at T_RT/2, T_RT or 3·T_RT/2 (R349).  `who`: pkt. -/
  | retransmitTimer
  /-- A request with no reply at 2·T_RT is abandoned and reported (R349).  `who`: pkt. -/
  | requestAbandon
  /-- A reply-cache entry becomes free 2·T_RT + 1 µs after its reply (R350).  `who`: unit, seq. -/
  | replyCacheExpiry
  /-- A RETRY-LATER sender resends after its backoff (R350).  `who`: pkt. -/
  | retryLaterResend
  /-- A packet whose port wait reaches the threshold moves to the escape channel (R351).  `who`: pkt. -/
  | escapeMove
  /-- A port recomputes its recovery threshold every 2^20 Yard cycles (R351).  `who`: dev, port. -/
  | thresholdRecompute
  /-- The Yard removes a failed port from its routes (R352).  `who`: dev, port. -/
  | routeRemoval
  /-- A device with no route for T_RT is declared unreachable (R352).  `who`: dev, other. -/
  | deviceUnreachable
  /-- A route to an unreachable device is found again (R352).  `who`: dev, other. -/
  | routeFound
  /-- A write into the aperture from a non-Kwezia accelerator is discarded and counted (R347).  `who`: dev. -/
  | apertureWriteDiscard
  /-- A device measures link delay and slews its tick toward the master (R353).  `who`: dev. -/
  | tickMeasurement
  /-- Management firmware names a new tick master (R353).  `who`: dev. -/
  | newTickMaster
  /-- A read or write is performed at its home and its reply returns (R234).  `who`: acc. -/
  | homeAccess
  /-- The home performs an atomic indivisibly (R206).  `who`: acc. -/
  | atomicAtHome
  /-- A handler slot runs device microcode to perform an LM atomic (R206).  `who`: eid. -/
  | lmAtomicMicrocode
  /-- A queued page walk starts when a walker is free (R214).  `who`: die. -/
  | walkStart
  /-- A page walk completes with a translation or a translation fault (R213).  `who`: die, asid, vpn. -/
  | pageWalk
  /-- Every drain token reaches the memory edge and tlbinv writes its status (R231).  `who`: eid, slot, id. -/
  | tlbinvAck
  /-- Every write of a release's join set is performed at its scope (R240).  `who`: eid, slot, id. -/
  | joinComplete
  /-- A fill of an empty stash granule completes or faults (R187).  `who`: eid, gran. -/
  | stashFill
  /-- A dirty stash granule is written back at the device's choice (R188).  `who`: eid, gran. -/
  | stashWriteback
  /-- At a quantum end or idle array, the arbiter grants the next quantum (R157).  `who`: tile. -/
  | mxuArbitrate
  /-- The operand stager fetches the rows of a core's next quantum (R158).  `who`: eid. -/
  | stagerFetch
  /-- The accumulator port performs an eligible mld, mst, msteer or mclr (R155).  `who`: eid. -/
  | accPortCommand
  /-- A drain writes one accumulator row into the consumer ring once it has room (R165).  `who`: eid. -/
  | msteerTokenWrite
  /-- A matrix command's last effect is performed; locks and queue entry free (R156).  `who`: eid. -/
  | mxuCommandComplete
  /-- A matrix command's access faults; the slot is marked faulted at its point (R162).  `who`: eid. -/
  | mxuFault
  /-- A parked copy command swaps in from the shadow and starts (R255).  `who`: eid, ch. -/
  | copyCommandStart
  /-- A copy request holding a tag writes one destination line (R254).  `who`: eid, ch. -/
  | copyRequest
  /-- A copy command's access faults and the channel is marked faulted (R260).  `who`: eid, ch. -/
  | copyFault
  /-- A copy command's last byte is performed and counted; locks release (R259).  `who`: eid, ch. -/
  | copyCommandComplete
  /-- A byte count, arrival or expectation update reaches a barrier object (R267).  `who`: pkt. -/
  | barrierUpdate
  /-- The store acknowledgement of sta returns and its arrival is recorded (R229).  `who`: eid, slot, id. -/
  | staAck
  /-- A bwait limit expires with status 1 (R271).  `who`: eid, slot. -/
  | bwaitTimeout
  /-- Every member core has arrived and the group episode completes (R273).  `who`: key. -/
  | gbarEpisodeComplete
  /-- A reservation request reaches an edge ring and is granted a slot when free (R195).  `who`: pkt. -/
  | edgeReservation
  /-- A data token's bytes arrive in its reserved ring slot (R195).  `who`: pkt. -/
  | edgeTokenArrival
  /-- An end-of-stream mark reaches the ring and NPROD falls (R197).  `who`: pkt. -/
  | eosMarkArrival
  /-- The dispatcher places a drain marker in a ring whose producer has stopped (R385).  `who`: edge. -/
  | drainMarkerInject
  /-- The dispatcher takes a published handle from a task queue's ring and arms it (R281).  `who`: die, asid, queue. -/
  | queueRingTake
  /-- The dispatcher selects a candidate and binds it to a berth (R283).  `who`: die. -/
  | dispatchSelection
  /-- A ready-table entry rises one priority level after 2^16 cycles (R284).  `who`: handle. -/
  | priorityAging
  /-- An operand or code prefetch lands, merged or alone (R287).  `who`: handle, op. -/
  | operandPrefetch
  /-- A prefetch or code load faults and its task becomes FAULTED (R295).  `who`: handle, op. -/
  | prefetchFault
  /-- A bound task becomes runnable and its threads are created (R289).  `who`: handle. -/
  | threadCreation
  /-- After the last thread exits, the task's commands finish and its successors fire (R292).  `who`: handle. -/
  | taskCompletion
  /-- A decrement reaches its record and is applied or reported as stray (R293).  `who`: pkt. -/
  | decrementApply
  /-- An instance's quiescence window runs out; snapshot and record are written (R302).  `who`: dev, asid, gid. -/
  | quiescenceExpiry
  /-- A gang prepare request is handled on a named device (R354).  `who`: pkt. -/
  | gangPrepare
  /-- A gang commit or abort reaches a named device (R354).  `who`: pkt. -/
  | gangCommit
  /-- At the first tick at or after TSTART the instance's records are armed (R354).  `who`: dev, asid, gid. -/
  | gangArm
  /-- A plan prepare request is handled on a node device's Yard (R373).  `who`: pkt. -/
  | planPrepare
  /-- A member contribution or child forward reaches a node, which forwards if all slots are present (R364).  `who`: pkt. -/
  | contributionArrival
  /-- Notice that an epoch opened reaches a node (R364).  `who`: plan, node, epoch. -/
  | epochOpen
  /-- A node's forward tick arrives and it forwards the present slots (R364).  `who`: plan, node, epoch. -/
  | forwardTickExpiry
  /-- A result reaches a member's node, which writes DST, the status and wakes redw (R367).  `who`: plan, member, epoch. -/
  | resultDelivery
  /-- The root commits a shake-out packet and sends its correction to every member (R368).  `who`: plan. -/
  | shakeOutCommit
  /-- A correction reaches a member's node and PENDFIX rises (R368).  `who`: plan, member. -/
  | correctionArrival
  /-- A yard core runs the user combine routine (R361).  `who`: plan, node, epoch. -/
  | userRoutineRun
  /-- A user routine's 65,537th instruction traps and aborts the epoch (R361).  `who`: eid. -/
  | yardRoutineWatchdog
  /-- A plan's device is lost and its epochs are aborted or its subtree made absent (R370).  `who`: plan, dev. -/
  | planDeviceLost
  /-- An arrival at a frozen core is caught in the spill ring (R393).  `who`: pkt. -/
  | spillRingCatch
  /-- A die at 110 °C stops issue until it falls below 100 °C (R406).  `who`: die. -/
  | thermalStop
  /-- The IMM timeout of a blocked redw passes and the instruction returns EMPTY (R375).  `who`: eid, slot. -/
  | redwTimeout
  /-- After the tick master is lost, a device's growing error estimate passes ±15 ns before it has measured a new master, and the device becomes unlocked and refuses gang launch (R353).  `who`: dev. -/
  | lossOfLock
  /-- A die that stopped issue at 110 °C falls below 100 °C and its cores issue again (R406).  `who`: die. -/
  | thermalIssueResume
  deriving DecidableEq, Repr

end Sys2Proof
end

