-- ==== Sys2Proof/WellFormed.lean ====
section
/-! DEFINITION. Which instructions are well formed: the decoding checks of class 1 of R52, form by form.
A step that is no encoded instruction has no encoding and is well formed as it stands. -/

namespace Sys2Proof

open Sys2Proof.Machine

/-- The form that an encoded instruction has, by its MOD value; none for a reserved MOD value, for an unassigned opcode
 and for a step that no word encodes. -/
def formOf : Instr → Option Form
  | .mov f => formMov f
  | .movi f => formMovi f
  | .movhi f => formMovhi f
  | .sext f => formExt f
  | .zext f => formExt f
  | .pack f => formPack f
  | .xtr f => formField f
  | .ins f => formIns f
  | .bcast f => formBcast f
  | .lane f => formLane f
  | .shfl f => formShfl f
  | .shfli f => formShfli f
  | .sspill f => formSspill f
  | .sfill f => formSfill f
  | .dead f => formDead f
  | .swin f => formSwin f
  | .sclr f => formSclr f
  | .br f => formBr f
  | .bra f => formBra f
  | .call f => formCall f
  | .calla f => formCalla f
  | .ret f => formBra f
  | .loop f => formLoop f
  | .bany f => formBanyall f
  | .ball f => formBanyall f
  | .pand f => formPlog f
  | .por f => formPlog f
  | .pxor f => formPlog f
  | .pnot f => formPnot f
  | .pmov f => formPmov f
  | .pcnt f => formPcnt f
  | .spawn f => formSpawn f
  | .exit f => formPlain f
  | .yield f => formPlain f
  | .wait f => formWait f
  | .sleep f => formSleep f
  | .nop f => formPlain f
  | .isync f => formIsync f
  | .rdsr f => formRdsr f
  | .wrsr f => formWrsr f
  | .tick f => formTick f
  | .tickAt f => formTickAt f
  | .add f => formArith f
  | .sub f => formArith f
  | .addc f => formCarry f
  | .subb f => formCarry f
  | .mul f => formArith f
  | .mulh f => formMulh f
  | .mad f => formMad f
  | .min f => formArith f
  | .max f => formArith f
  | .abs f => formUnary f
  | .neg f => formUnary f
  | .and f => formLogic f
  | .or f => formLogic f
  | .xor f => formLogic f
  | .not f => formBitUn f
  | .andn f => formLogic f
  | .shl f => formLogic f
  | .shr f => formLogic f
  | .sar f => formLogic f
  | .rot f => formLogic f
  | .popc f => formBitUn f
  | .clz f => formBitUn f
  | .brev f => formBitUn f
  | .sel f => formSel f
  | .cmp f => formCmp f
  | .sad f => formSad f
  | .dp4 f => formDp f [1, 2]
  | .dp8 f => formDp f [15, 16]
  | .div f => formDiv f
  | .rem f => formLogic f
  | .ired f => formIred f
  | .iscan f => formIscan f
  | .padd f => formPadd f
  | .pmk f => formPmk f
  | .pfmt f => formPfmt f
  | .fadd f => formFarith f
  | .fsub f => formFarith f
  | .fmul f => formFarith f
  | .fma f => formFma f
  | .fmin f => formFminmax f
  | .fmax f => formFminmax f
  | .fabs f => formFsign f
  | .fneg f => formFsign f
  | .fcmp f => formFcmp f
  | .fclass f => formFclass f
  | .frcp f => formFn f
  | .frsq f => formFn f
  | .fsqrt f => formFn f
  | .fdiv f => formFarith f
  | .fexp2 f => formFn f
  | .flog2 f => formFn f
  | .fsin f => formFn f
  | .fcos f => formFn f
  | .fscale f => formFscale f
  | .frint f => formFrint f
  | .fred f => formFred f
  | .fdot2 f => formFdot2 f
  | .fsplit f => formFsplit f
  | .cvt f => formCvt f
  | .bxq f => formBxq f
  | .bxd f => formBxd f
  | .lsmk f => formLsmk f
  | .lsadd f => formLsadd f
  | .lscvt f => formLscvt f
  | .mma f => formMma f
  | .mmaz f => formMma f
  | .mld f => formMld f
  | .mst f => formMst f
  | .msteer f => formMsteer f
  | .mwait f => formMwait f
  | .mprog f => formMprog f
  | .mweight f => formMweight f
  | .mclr f => formMclr f
  | .ldl f => formLdl f
  | .stl f => formStl f
  | .stash f => formStash f
  | .unstash f => formUnstash f
  | .wptr f => formWptr f
  | .eread f => formEread f
  | .ereadRel f => formEreadRel f
  | .ewrite f => formEwrite f
  | .eos f => formEos f
  | .ld f => formLd f
  | .st f => formSt f
  | .ldf f => formLdf f
  | .stf f => formStf f
  | .gather f => formGather f
  | .scatter f => formScatter f
  | .prf f => formPrf f
  | .amo f => formAmo f
  | .cas f => formCas f
  | .sta f => formSta f
  | .inv f => formInv f
  | .tlbinv f => formTlbinv f
  | .rel f => formRel f
  | .acq f => formAcq f
  | .fence f => formRel f
  | .ogq f => formOgq f
  | .cpy f => formCpy f
  | .cpyg f => formCpy f
  | .cpyf f => formCpyf f
  | .cpw f => formCpw f
  | .cpwDrop f => formCpwDrop f
  | .cpq f => formCpq f
  | .binit f => formBinit f
  | .barv f => formBarv f
  | .bexp f => formBexp f
  | .bwait f => formBwait f
  | .btest f => formBtest f
  | .gbar f => formGbar f
  | .tkmk f => formTkmk f
  | .tkarm f => formTkarm f
  | .tksucc f => formTksucc f
  | .tkdec f => formTkdec f
  | .tkdone f => formTkdone f
  | .ginst f => formGinst f
  | .tkcan f => formResA f 0
  | .tkcanG f => formResA f 1
  | .tkst f => formResA f 0
  | .tksub f => formTksub f
  | .arrm f => formArrm f
  | .arrmFree f => formResA f 1
  | .tkres f => formResA f 0
  | .rgres f => formRgres f
  | .rgpub f => formRgpub f
  | .rgtake f => formRgpub f
  | .am f => formAm f false
  | .amD f => formAm f true
  | .amr f => formAmr f
  | .hend f => formHend f
  | .push f => formPush f
  | .pop f => formPop f
  | .popW f => formPopW f
  | .qmk f => formQmk f
  | .qmkFree f => formQmkFree f
  | .mbsend f => formMbsend f
  | .mbcnt f => formMbcnt f
  | .cplan f => formCplan f
  | .cplanFree f => formCplanFree f
  | .red f => formRed f
  | .redw f => formRedw f
  | .redr f => formRedr f
  | .redfix f => formRedfix f
  | .cbcast f => formRed f
  | .cgath f => formRed f
  | .trap f => formTrap f
  | .eret f => formEret f
  | .drain f => formDrain f
  | .drainRes f => formDrainRes f
  | .frz f => formResA f 0
  | .frzRes f => formResA f 1
  | .ctxsv f => formCtxsv f
  | .ctxld f => formCtx f
  | .gang f => formGang f
  | .brk f => formTrap f
  | .unassignedOpcode _ _ => none
  | .classLResultWrite => none
  | .fetchBlockRead => none
  | .handlerWatchdog => none
  | .spawnArrival => none
  | .waitWake => none
  | .waitTimeout => none
  | .sleepExpiry => none
  | .tickAtWake => none
  | .coreSleepEntry => none
  | .coreWake => none
  | .activeMessageArrival => none
  | .handlerStart => none
  | .depositArrival => none
  | .messageRefused => none
  | .amrReply => none
  | .mailboxEntryArrival => none
  | .mbsendRetry => none
  | .mbsendRecordRetry => none
  | .mailboxReservationExpiry => none
  | .eretRequestArrival => none
  | .pushArrival => none
  | .popArrival => none
  | .pushWindowExpiry => none
  | .popWindowExpiry => none
  | .popWCancel => none
  | .fabricRequestArrival => none
  | .retransmitTimer => none
  | .requestAbandon => none
  | .replyCacheExpiry => none
  | .retryLaterResend => none
  | .escapeMove => none
  | .thresholdRecompute => none
  | .linkFailure _ _ => none
  | .routeRemoval => none
  | .deviceUnreachable => none
  | .routeFound => none
  | .linkRetrain _ _ => none
  | .apertureWriteDiscard => none
  | .tickMeasurement => none
  | .tickMasterFailure _ => none
  | .newTickMaster => none
  | .deviceJoin _ _ => none
  | .deviceNumberSet _ _ => none
  | .homeAccess => none
  | .atomicAtHome => none
  | .lmAtomicMicrocode => none
  | .uncorrectableError _ => none
  | .walkStart => none
  | .pageWalk => none
  | .tlbinvAck => none
  | .joinComplete => none
  | .stashFill => none
  | .stashWriteback => none
  | .mxuArbitrate => none
  | .stagerFetch => none
  | .accPortCommand => none
  | .msteerTokenWrite => none
  | .mxuCommandComplete => none
  | .mxuFault => none
  | .copyCommandStart => none
  | .copyRequest => none
  | .copyFault => none
  | .copyCommandComplete => none
  | .barrierUpdate => none
  | .staAck => none
  | .bwaitTimeout => none
  | .gbarEpisodeComplete => none
  | .edgeReservation => none
  | .edgeTokenArrival => none
  | .eosMarkArrival => none
  | .drainMarkerInject => none
  | .queueRingTake => none
  | .dispatchSelection => none
  | .priorityAging => none
  | .operandPrefetch => none
  | .prefetchFault => none
  | .threadCreation => none
  | .taskCompletion => none
  | .decrementApply => none
  | .quiescenceExpiry => none
  | .gangPrepare => none
  | .gangCommit => none
  | .gangArm => none
  | .planPrepare => none
  | .contributionArrival => none
  | .epochOpen => none
  | .forwardTickExpiry => none
  | .resultDelivery => none
  | .shakeOutCommit => none
  | .correctionArrival => none
  | .userRoutineRun => none
  | .yardRoutineWatchdog => none
  | .planDeviceLost => none
  | .spillRingCatch => none
  | .ctxswSwitchOut _ _ => none
  | .ctxswSwitchIn _ _ => none
  | .rres _ _ => none
  | .rpub _ _ _ => none
  | .rtake _ _ => none
  | .rdone _ _ _ => none
  | .pwrcap _ _ => none
  | .recsel _ _ => none
  | .hostRegisterWrite _ _ _ _ => none
  | .bar2Access _ _ _ _ _ => none
  | .dvfsLoop _ _ _ => none
  | .thermalStop => none
  | .thermalCutoff _ => none
  | .coldReset _ _ _ _ => none
  | .warmReset _ => none
  | .pcieLinkTraining _ _ _ => none
  | .getVersion _ => none
  | .getCapabilities _ => none
  | .negotiateAlgorithms _ => none
  | .getDigests _ => none
  | .getCertificate _ => none
  | .challenge _ => none
  | .getMeasurements _ => none
  | .keyExchange _ => none
  | .finish _ => none
  | .scrubPass _ _ => none
  | .dramPatrol _ _ => none
  | .redwTimeout => none
  | .lossOfLock => none
  | .thermalIssueResume => none

/-- The fields of an encoded instruction. -/
def Instr.fields? : Instr → Option Fields
  | .mov f => some f
  | .movi f => some f
  | .movhi f => some f
  | .sext f => some f
  | .zext f => some f
  | .pack f => some f
  | .xtr f => some f
  | .ins f => some f
  | .bcast f => some f
  | .lane f => some f
  | .shfl f => some f
  | .shfli f => some f
  | .sspill f => some f
  | .sfill f => some f
  | .dead f => some f
  | .swin f => some f
  | .sclr f => some f
  | .br f => some f
  | .bra f => some f
  | .call f => some f
  | .calla f => some f
  | .ret f => some f
  | .loop f => some f
  | .bany f => some f
  | .ball f => some f
  | .pand f => some f
  | .por f => some f
  | .pxor f => some f
  | .pnot f => some f
  | .pmov f => some f
  | .pcnt f => some f
  | .spawn f => some f
  | .exit f => some f
  | .yield f => some f
  | .wait f => some f
  | .sleep f => some f
  | .nop f => some f
  | .isync f => some f
  | .rdsr f => some f
  | .wrsr f => some f
  | .tick f => some f
  | .tickAt f => some f
  | .add f => some f
  | .sub f => some f
  | .addc f => some f
  | .subb f => some f
  | .mul f => some f
  | .mulh f => some f
  | .mad f => some f
  | .min f => some f
  | .max f => some f
  | .abs f => some f
  | .neg f => some f
  | .and f => some f
  | .or f => some f
  | .xor f => some f
  | .not f => some f
  | .andn f => some f
  | .shl f => some f
  | .shr f => some f
  | .sar f => some f
  | .rot f => some f
  | .popc f => some f
  | .clz f => some f
  | .brev f => some f
  | .sel f => some f
  | .cmp f => some f
  | .sad f => some f
  | .dp4 f => some f
  | .dp8 f => some f
  | .div f => some f
  | .rem f => some f
  | .ired f => some f
  | .iscan f => some f
  | .padd f => some f
  | .pmk f => some f
  | .pfmt f => some f
  | .fadd f => some f
  | .fsub f => some f
  | .fmul f => some f
  | .fma f => some f
  | .fmin f => some f
  | .fmax f => some f
  | .fabs f => some f
  | .fneg f => some f
  | .fcmp f => some f
  | .fclass f => some f
  | .frcp f => some f
  | .frsq f => some f
  | .fsqrt f => some f
  | .fdiv f => some f
  | .fexp2 f => some f
  | .flog2 f => some f
  | .fsin f => some f
  | .fcos f => some f
  | .fscale f => some f
  | .frint f => some f
  | .fred f => some f
  | .fdot2 f => some f
  | .fsplit f => some f
  | .cvt f => some f
  | .bxq f => some f
  | .bxd f => some f
  | .lsmk f => some f
  | .lsadd f => some f
  | .lscvt f => some f
  | .mma f => some f
  | .mmaz f => some f
  | .mld f => some f
  | .mst f => some f
  | .msteer f => some f
  | .mwait f => some f
  | .mprog f => some f
  | .mweight f => some f
  | .mclr f => some f
  | .ldl f => some f
  | .stl f => some f
  | .stash f => some f
  | .unstash f => some f
  | .wptr f => some f
  | .eread f => some f
  | .ereadRel f => some f
  | .ewrite f => some f
  | .eos f => some f
  | .ld f => some f
  | .st f => some f
  | .ldf f => some f
  | .stf f => some f
  | .gather f => some f
  | .scatter f => some f
  | .prf f => some f
  | .amo f => some f
  | .cas f => some f
  | .sta f => some f
  | .inv f => some f
  | .tlbinv f => some f
  | .rel f => some f
  | .acq f => some f
  | .fence f => some f
  | .ogq f => some f
  | .cpy f => some f
  | .cpyg f => some f
  | .cpyf f => some f
  | .cpw f => some f
  | .cpwDrop f => some f
  | .cpq f => some f
  | .binit f => some f
  | .barv f => some f
  | .bexp f => some f
  | .bwait f => some f
  | .btest f => some f
  | .gbar f => some f
  | .tkmk f => some f
  | .tkarm f => some f
  | .tksucc f => some f
  | .tkdec f => some f
  | .tkdone f => some f
  | .ginst f => some f
  | .tkcan f => some f
  | .tkcanG f => some f
  | .tkst f => some f
  | .tksub f => some f
  | .arrm f => some f
  | .arrmFree f => some f
  | .tkres f => some f
  | .rgres f => some f
  | .rgpub f => some f
  | .rgtake f => some f
  | .am f => some f
  | .amD f => some f
  | .amr f => some f
  | .hend f => some f
  | .push f => some f
  | .pop f => some f
  | .popW f => some f
  | .qmk f => some f
  | .qmkFree f => some f
  | .mbsend f => some f
  | .mbcnt f => some f
  | .cplan f => some f
  | .cplanFree f => some f
  | .red f => some f
  | .redw f => some f
  | .redr f => some f
  | .redfix f => some f
  | .cbcast f => some f
  | .cgath f => some f
  | .trap f => some f
  | .eret f => some f
  | .drain f => some f
  | .drainRes f => some f
  | .frz f => some f
  | .frzRes f => some f
  | .ctxsv f => some f
  | .ctxld f => some f
  | .gang f => some f
  | .brk f => some f
  | .unassignedOpcode _ f => some f
  | .classLResultWrite => none
  | .fetchBlockRead => none
  | .handlerWatchdog => none
  | .spawnArrival => none
  | .waitWake => none
  | .waitTimeout => none
  | .sleepExpiry => none
  | .tickAtWake => none
  | .coreSleepEntry => none
  | .coreWake => none
  | .activeMessageArrival => none
  | .handlerStart => none
  | .depositArrival => none
  | .messageRefused => none
  | .amrReply => none
  | .mailboxEntryArrival => none
  | .mbsendRetry => none
  | .mbsendRecordRetry => none
  | .mailboxReservationExpiry => none
  | .eretRequestArrival => none
  | .pushArrival => none
  | .popArrival => none
  | .pushWindowExpiry => none
  | .popWindowExpiry => none
  | .popWCancel => none
  | .fabricRequestArrival => none
  | .retransmitTimer => none
  | .requestAbandon => none
  | .replyCacheExpiry => none
  | .retryLaterResend => none
  | .escapeMove => none
  | .thresholdRecompute => none
  | .linkFailure _ _ => none
  | .routeRemoval => none
  | .deviceUnreachable => none
  | .routeFound => none
  | .linkRetrain _ _ => none
  | .apertureWriteDiscard => none
  | .tickMeasurement => none
  | .tickMasterFailure _ => none
  | .newTickMaster => none
  | .deviceJoin _ _ => none
  | .deviceNumberSet _ _ => none
  | .homeAccess => none
  | .atomicAtHome => none
  | .lmAtomicMicrocode => none
  | .uncorrectableError _ => none
  | .walkStart => none
  | .pageWalk => none
  | .tlbinvAck => none
  | .joinComplete => none
  | .stashFill => none
  | .stashWriteback => none
  | .mxuArbitrate => none
  | .stagerFetch => none
  | .accPortCommand => none
  | .msteerTokenWrite => none
  | .mxuCommandComplete => none
  | .mxuFault => none
  | .copyCommandStart => none
  | .copyRequest => none
  | .copyFault => none
  | .copyCommandComplete => none
  | .barrierUpdate => none
  | .staAck => none
  | .bwaitTimeout => none
  | .gbarEpisodeComplete => none
  | .edgeReservation => none
  | .edgeTokenArrival => none
  | .eosMarkArrival => none
  | .drainMarkerInject => none
  | .queueRingTake => none
  | .dispatchSelection => none
  | .priorityAging => none
  | .operandPrefetch => none
  | .prefetchFault => none
  | .threadCreation => none
  | .taskCompletion => none
  | .decrementApply => none
  | .quiescenceExpiry => none
  | .gangPrepare => none
  | .gangCommit => none
  | .gangArm => none
  | .planPrepare => none
  | .contributionArrival => none
  | .epochOpen => none
  | .forwardTickExpiry => none
  | .resultDelivery => none
  | .shakeOutCommit => none
  | .correctionArrival => none
  | .userRoutineRun => none
  | .yardRoutineWatchdog => none
  | .planDeviceLost => none
  | .spillRingCatch => none
  | .ctxswSwitchOut _ _ => none
  | .ctxswSwitchIn _ _ => none
  | .rres _ _ => none
  | .rpub _ _ _ => none
  | .rtake _ _ => none
  | .rdone _ _ _ => none
  | .pwrcap _ _ => none
  | .recsel _ _ => none
  | .hostRegisterWrite _ _ _ _ => none
  | .bar2Access _ _ _ _ _ => none
  | .dvfsLoop _ _ _ => none
  | .thermalStop => none
  | .thermalCutoff _ => none
  | .coldReset _ _ _ _ => none
  | .warmReset _ => none
  | .pcieLinkTraining _ _ _ => none
  | .getVersion _ => none
  | .getCapabilities _ => none
  | .negotiateAlgorithms _ => none
  | .getDigests _ => none
  | .getCertificate _ => none
  | .challenge _ => none
  | .getMeasurements _ => none
  | .keyExchange _ => none
  | .finish _ => none
  | .scrubPass _ _ => none
  | .dramPatrol _ _ => none
  | .redwTimeout => none
  | .lossOfLock => none
  | .thermalIssueResume => none

/-- The opcode of an encoded instruction (R50). -/
def Instr.opc : Instr → Option (BitVec 10)
  | .mov _ => some 0x001#10
  | .movi _ => some 0x002#10
  | .movhi _ => some 0x003#10
  | .sext _ => some 0x004#10
  | .zext _ => some 0x005#10
  | .pack _ => some 0x006#10
  | .xtr _ => some 0x007#10
  | .ins _ => some 0x008#10
  | .bcast _ => some 0x009#10
  | .lane _ => some 0x00A#10
  | .shfl _ => some 0x00B#10
  | .shfli _ => some 0x00C#10
  | .sspill _ => some 0x010#10
  | .sfill _ => some 0x011#10
  | .dead _ => some 0x012#10
  | .swin _ => some 0x013#10
  | .sclr _ => some 0x014#10
  | .br _ => some 0x040#10
  | .bra _ => some 0x041#10
  | .call _ => some 0x042#10
  | .calla _ => some 0x043#10
  | .ret _ => some 0x044#10
  | .loop _ => some 0x045#10
  | .bany _ => some 0x046#10
  | .ball _ => some 0x047#10
  | .pand _ => some 0x050#10
  | .por _ => some 0x051#10
  | .pxor _ => some 0x052#10
  | .pnot _ => some 0x053#10
  | .pmov _ => some 0x054#10
  | .pcnt _ => some 0x055#10
  | .spawn _ => some 0x060#10
  | .exit _ => some 0x061#10
  | .yield _ => some 0x062#10
  | .wait _ => some 0x063#10
  | .sleep _ => some 0x064#10
  | .nop _ => some 0x065#10
  | .isync _ => some 0x066#10
  | .rdsr _ => some 0x067#10
  | .wrsr _ => some 0x068#10
  | .tick _ => some 0x06A#10
  | .tickAt _ => some 0x06A#10
  | .add _ => some 0x080#10
  | .sub _ => some 0x081#10
  | .addc _ => some 0x082#10
  | .subb _ => some 0x083#10
  | .mul _ => some 0x084#10
  | .mulh _ => some 0x085#10
  | .mad _ => some 0x086#10
  | .min _ => some 0x087#10
  | .max _ => some 0x088#10
  | .abs _ => some 0x089#10
  | .neg _ => some 0x08A#10
  | .and _ => some 0x08B#10
  | .or _ => some 0x08C#10
  | .xor _ => some 0x08D#10
  | .not _ => some 0x08E#10
  | .andn _ => some 0x08F#10
  | .shl _ => some 0x090#10
  | .shr _ => some 0x091#10
  | .sar _ => some 0x092#10
  | .rot _ => some 0x093#10
  | .popc _ => some 0x094#10
  | .clz _ => some 0x095#10
  | .brev _ => some 0x096#10
  | .sel _ => some 0x097#10
  | .cmp _ => some 0x098#10
  | .sad _ => some 0x099#10
  | .dp4 _ => some 0x09A#10
  | .dp8 _ => some 0x09B#10
  | .div _ => some 0x09C#10
  | .rem _ => some 0x09D#10
  | .ired _ => some 0x09E#10
  | .iscan _ => some 0x09F#10
  | .padd _ => some 0x0A0#10
  | .pmk _ => some 0x0A1#10
  | .pfmt _ => some 0x0A2#10
  | .fadd _ => some 0x100#10
  | .fsub _ => some 0x101#10
  | .fmul _ => some 0x102#10
  | .fma _ => some 0x103#10
  | .fmin _ => some 0x104#10
  | .fmax _ => some 0x105#10
  | .fabs _ => some 0x106#10
  | .fneg _ => some 0x107#10
  | .fcmp _ => some 0x108#10
  | .fclass _ => some 0x109#10
  | .frcp _ => some 0x10A#10
  | .frsq _ => some 0x10B#10
  | .fsqrt _ => some 0x10C#10
  | .fdiv _ => some 0x10D#10
  | .fexp2 _ => some 0x10E#10
  | .flog2 _ => some 0x10F#10
  | .fsin _ => some 0x110#10
  | .fcos _ => some 0x111#10
  | .fscale _ => some 0x112#10
  | .frint _ => some 0x113#10
  | .fred _ => some 0x114#10
  | .fdot2 _ => some 0x115#10
  | .fsplit _ => some 0x116#10
  | .cvt _ => some 0x180#10
  | .bxq _ => some 0x182#10
  | .bxd _ => some 0x183#10
  | .lsmk _ => some 0x184#10
  | .lsadd _ => some 0x185#10
  | .lscvt _ => some 0x186#10
  | .mma _ => some 0x200#10
  | .mmaz _ => some 0x201#10
  | .mld _ => some 0x202#10
  | .mst _ => some 0x203#10
  | .msteer _ => some 0x204#10
  | .mwait _ => some 0x205#10
  | .mprog _ => some 0x206#10
  | .mweight _ => some 0x207#10
  | .mclr _ => some 0x208#10
  | .ldl _ => some 0x240#10
  | .stl _ => some 0x241#10
  | .stash _ => some 0x243#10
  | .unstash _ => some 0x244#10
  | .wptr _ => some 0x245#10
  | .eread _ => some 0x246#10
  | .ereadRel _ => some 0x246#10
  | .ewrite _ => some 0x247#10
  | .eos _ => some 0x248#10
  | .ld _ => some 0x280#10
  | .st _ => some 0x281#10
  | .ldf _ => some 0x282#10
  | .stf _ => some 0x283#10
  | .gather _ => some 0x284#10
  | .scatter _ => some 0x285#10
  | .prf _ => some 0x286#10
  | .amo _ => some 0x287#10
  | .cas _ => some 0x288#10
  | .sta _ => some 0x289#10
  | .inv _ => some 0x28A#10
  | .tlbinv _ => some 0x28B#10
  | .rel _ => some 0x300#10
  | .acq _ => some 0x301#10
  | .fence _ => some 0x302#10
  | .ogq _ => some 0x303#10
  | .cpy _ => some 0x320#10
  | .cpyg _ => some 0x321#10
  | .cpyf _ => some 0x322#10
  | .cpw _ => some 0x323#10
  | .cpwDrop _ => some 0x323#10
  | .cpq _ => some 0x324#10
  | .binit _ => some 0x330#10
  | .barv _ => some 0x331#10
  | .bexp _ => some 0x332#10
  | .bwait _ => some 0x333#10
  | .btest _ => some 0x334#10
  | .gbar _ => some 0x335#10
  | .tkmk _ => some 0x360#10
  | .tkarm _ => some 0x361#10
  | .tksucc _ => some 0x362#10
  | .tkdec _ => some 0x363#10
  | .tkdone _ => some 0x364#10
  | .ginst _ => some 0x365#10
  | .tkcan _ => some 0x366#10
  | .tkcanG _ => some 0x366#10
  | .tkst _ => some 0x367#10
  | .tksub _ => some 0x368#10
  | .arrm _ => some 0x369#10
  | .arrmFree _ => some 0x369#10
  | .tkres _ => some 0x36A#10
  | .rgres _ => some 0x370#10
  | .rgpub _ => some 0x371#10
  | .rgtake _ => some 0x372#10
  | .am _ => some 0x3A0#10
  | .amD _ => some 0x3A0#10
  | .amr _ => some 0x3A1#10
  | .hend _ => some 0x3A2#10
  | .push _ => some 0x3A3#10
  | .pop _ => some 0x3A4#10
  | .popW _ => some 0x3A4#10
  | .qmk _ => some 0x3A5#10
  | .qmkFree _ => some 0x3A5#10
  | .mbsend _ => some 0x3A6#10
  | .mbcnt _ => some 0x3A7#10
  | .cplan _ => some 0x3D0#10
  | .cplanFree _ => some 0x3D0#10
  | .red _ => some 0x3D1#10
  | .redw _ => some 0x3D2#10
  | .redr _ => some 0x3D3#10
  | .redfix _ => some 0x3D4#10
  | .cbcast _ => some 0x3D5#10
  | .cgath _ => some 0x3D6#10
  | .trap _ => some 0x3F0#10
  | .eret _ => some 0x3F1#10
  | .drain _ => some 0x3F2#10
  | .drainRes _ => some 0x3F2#10
  | .frz _ => some 0x3F3#10
  | .frzRes _ => some 0x3F3#10
  | .ctxsv _ => some 0x3F4#10
  | .ctxld _ => some 0x3F5#10
  | .gang _ => some 0x3F6#10
  | .brk _ => some 0x3F7#10
  | .unassignedOpcode opc _ => some opc
  | .classLResultWrite => none
  | .fetchBlockRead => none
  | .handlerWatchdog => none
  | .spawnArrival => none
  | .waitWake => none
  | .waitTimeout => none
  | .sleepExpiry => none
  | .tickAtWake => none
  | .coreSleepEntry => none
  | .coreWake => none
  | .activeMessageArrival => none
  | .handlerStart => none
  | .depositArrival => none
  | .messageRefused => none
  | .amrReply => none
  | .mailboxEntryArrival => none
  | .mbsendRetry => none
  | .mbsendRecordRetry => none
  | .mailboxReservationExpiry => none
  | .eretRequestArrival => none
  | .pushArrival => none
  | .popArrival => none
  | .pushWindowExpiry => none
  | .popWindowExpiry => none
  | .popWCancel => none
  | .fabricRequestArrival => none
  | .retransmitTimer => none
  | .requestAbandon => none
  | .replyCacheExpiry => none
  | .retryLaterResend => none
  | .escapeMove => none
  | .thresholdRecompute => none
  | .linkFailure _ _ => none
  | .routeRemoval => none
  | .deviceUnreachable => none
  | .routeFound => none
  | .linkRetrain _ _ => none
  | .apertureWriteDiscard => none
  | .tickMeasurement => none
  | .tickMasterFailure _ => none
  | .newTickMaster => none
  | .deviceJoin _ _ => none
  | .deviceNumberSet _ _ => none
  | .homeAccess => none
  | .atomicAtHome => none
  | .lmAtomicMicrocode => none
  | .uncorrectableError _ => none
  | .walkStart => none
  | .pageWalk => none
  | .tlbinvAck => none
  | .joinComplete => none
  | .stashFill => none
  | .stashWriteback => none
  | .mxuArbitrate => none
  | .stagerFetch => none
  | .accPortCommand => none
  | .msteerTokenWrite => none
  | .mxuCommandComplete => none
  | .mxuFault => none
  | .copyCommandStart => none
  | .copyRequest => none
  | .copyFault => none
  | .copyCommandComplete => none
  | .barrierUpdate => none
  | .staAck => none
  | .bwaitTimeout => none
  | .gbarEpisodeComplete => none
  | .edgeReservation => none
  | .edgeTokenArrival => none
  | .eosMarkArrival => none
  | .drainMarkerInject => none
  | .queueRingTake => none
  | .dispatchSelection => none
  | .priorityAging => none
  | .operandPrefetch => none
  | .prefetchFault => none
  | .threadCreation => none
  | .taskCompletion => none
  | .decrementApply => none
  | .quiescenceExpiry => none
  | .gangPrepare => none
  | .gangCommit => none
  | .gangArm => none
  | .planPrepare => none
  | .contributionArrival => none
  | .epochOpen => none
  | .forwardTickExpiry => none
  | .resultDelivery => none
  | .shakeOutCommit => none
  | .correctionArrival => none
  | .userRoutineRun => none
  | .yardRoutineWatchdog => none
  | .planDeviceLost => none
  | .spillRingCatch => none
  | .ctxswSwitchOut _ _ => none
  | .ctxswSwitchIn _ _ => none
  | .rres _ _ => none
  | .rpub _ _ _ => none
  | .rtake _ _ => none
  | .rdone _ _ _ => none
  | .pwrcap _ _ => none
  | .recsel _ _ => none
  | .hostRegisterWrite _ _ _ _ => none
  | .bar2Access _ _ _ _ _ => none
  | .dvfsLoop _ _ _ => none
  | .thermalStop => none
  | .thermalCutoff _ => none
  | .coldReset _ _ _ _ => none
  | .warmReset _ => none
  | .pcieLinkTraining _ _ _ => none
  | .getVersion _ => none
  | .getCapabilities _ => none
  | .negotiateAlgorithms _ => none
  | .getDigests _ => none
  | .getCertificate _ => none
  | .challenge _ => none
  | .getMeasurements _ => none
  | .keyExchange _ => none
  | .finish _ => none
  | .scrubPass _ _ => none
  | .dramPatrol _ _ => none
  | .redwTimeout => none
  | .lossOfLock => none
  | .thermalIssueResume => none

/-- The extension fields are zero where no extension word stands (R38). -/
def Fields.extOk (f : Fields) : Bool :=
  f.x || (f.c == 0 && f.imm == 0 && !f.lra && !f.lrb && !f.lrc && f.etype == 0 && f.rnd == 0 && !f.sat && f.smod == 0)

/-- Well formed: the form exists and passes its decoding checks (R52, class 1).  An unassigned opcode is a word that
traps, so it is not well formed (R51). -/
def Instr.wf (i : Instr) : Bool :=
  match i.fields? with
  | none => true
  | some f => f.extOk && (match formOf i with
    | some fm => fm.legal f
    | none => false)

end Sys2Proof
end

