-- ==== Sys2Proof/Decode.lean ====
section
/-! DEFINITION. Decoding the words of an instruction and encoding it (R36 to R38, R48, R50, R51).  Every word
decodes: one that the spec calls illegal decodes to an instruction that traps (R51, R52).  Too few bytes are the one
thing the decoder rejects. -/

namespace Sys2Proof

open Sys2Proof.Machine

/-- Why no instruction is read. -/
inductive DecodeError where
  /-- fewer bytes than the words of the instruction take (R48) -/
  | tooShort
  deriving DecidableEq, Repr

/-- The fields of a base word and an extension word (R36, R37). -/
def fieldsOf (w e : BitVec 64) : Fields :=
  { m := w.getLsbD 63, psel := w.extractLsb' 60 3, psense := w.getLsbD 59, d := w.extractLsb' 35 14,
    a := w.extractLsb' 21 14, b := w.extractLsb' 7 14, mod := w.extractLsb' 1 6, x := w.getLsbD 0,
    c := e.extractLsb' 50 14, imm := e.extractLsb' 18 32, lra := e.getLsbD 17, lrb := e.getLsbD 16,
    lrc := e.getLsbD 15, etype := e.extractLsb' 10 5, rnd := e.extractLsb' 7 3, sat := e.getLsbD 6,
    smod := e.extractLsb' 0 6 }

/-- The opcode field (R36). -/
def opcOf (w : BitVec 64) : BitVec 10 := w.extractLsb' 49 10

/-- The instruction of an opcode with its fields (R50, R51).  Where one opcode has several rows of the operations table,
MOD chooses among them; a reserved MOD value goes to the first, which then traps (R39). -/
def instrOf (opc : BitVec 10) (f : Fields) : Instr :=
  match opc.toNat with
  | 0x001 => .mov f
  | 0x002 => .movi f
  | 0x003 => .movhi f
  | 0x004 => .sext f
  | 0x005 => .zext f
  | 0x006 => .pack f
  | 0x007 => .xtr f
  | 0x008 => .ins f
  | 0x009 => .bcast f
  | 0x00A => .lane f
  | 0x00B => .shfl f
  | 0x00C => .shfli f
  | 0x010 => .sspill f
  | 0x011 => .sfill f
  | 0x012 => .dead f
  | 0x013 => .swin f
  | 0x014 => .sclr f
  | 0x040 => .br f
  | 0x041 => .bra f
  | 0x042 => .call f
  | 0x043 => .calla f
  | 0x044 => .ret f
  | 0x045 => .loop f
  | 0x046 => .bany f
  | 0x047 => .ball f
  | 0x050 => .pand f
  | 0x051 => .por f
  | 0x052 => .pxor f
  | 0x053 => .pnot f
  | 0x054 => .pmov f
  | 0x055 => .pcnt f
  | 0x060 => .spawn f
  | 0x061 => .exit f
  | 0x062 => .yield f
  | 0x063 => .wait f
  | 0x064 => .sleep f
  | 0x065 => .nop f
  | 0x066 => .isync f
  | 0x067 => .rdsr f
  | 0x068 => .wrsr f
  | 0x06A => if f.md = 1 then .tickAt f else .tick f
  | 0x080 => .add f
  | 0x081 => .sub f
  | 0x082 => .addc f
  | 0x083 => .subb f
  | 0x084 => .mul f
  | 0x085 => .mulh f
  | 0x086 => .mad f
  | 0x087 => .min f
  | 0x088 => .max f
  | 0x089 => .abs f
  | 0x08A => .neg f
  | 0x08B => .and f
  | 0x08C => .or f
  | 0x08D => .xor f
  | 0x08E => .not f
  | 0x08F => .andn f
  | 0x090 => .shl f
  | 0x091 => .shr f
  | 0x092 => .sar f
  | 0x093 => .rot f
  | 0x094 => .popc f
  | 0x095 => .clz f
  | 0x096 => .brev f
  | 0x097 => .sel f
  | 0x098 => .cmp f
  | 0x099 => .sad f
  | 0x09A => .dp4 f
  | 0x09B => .dp8 f
  | 0x09C => .div f
  | 0x09D => .rem f
  | 0x09E => .ired f
  | 0x09F => .iscan f
  | 0x0A0 => .padd f
  | 0x0A1 => .pmk f
  | 0x0A2 => .pfmt f
  | 0x100 => .fadd f
  | 0x101 => .fsub f
  | 0x102 => .fmul f
  | 0x103 => .fma f
  | 0x104 => .fmin f
  | 0x105 => .fmax f
  | 0x106 => .fabs f
  | 0x107 => .fneg f
  | 0x108 => .fcmp f
  | 0x109 => .fclass f
  | 0x10A => .frcp f
  | 0x10B => .frsq f
  | 0x10C => .fsqrt f
  | 0x10D => .fdiv f
  | 0x10E => .fexp2 f
  | 0x10F => .flog2 f
  | 0x110 => .fsin f
  | 0x111 => .fcos f
  | 0x112 => .fscale f
  | 0x113 => .frint f
  | 0x114 => .fred f
  | 0x115 => .fdot2 f
  | 0x116 => .fsplit f
  | 0x180 => .cvt f
  | 0x182 => .bxq f
  | 0x183 => .bxd f
  | 0x184 => .lsmk f
  | 0x185 => .lsadd f
  | 0x186 => .lscvt f
  | 0x200 => .mma f
  | 0x201 => .mmaz f
  | 0x202 => .mld f
  | 0x203 => .mst f
  | 0x204 => .msteer f
  | 0x205 => .mwait f
  | 0x206 => .mprog f
  | 0x207 => .mweight f
  | 0x208 => .mclr f
  | 0x240 => .ldl f
  | 0x241 => .stl f
  | 0x243 => .stash f
  | 0x244 => .unstash f
  | 0x245 => .wptr f
  | 0x246 => if f.md = 1 then .ereadRel f else .eread f
  | 0x247 => .ewrite f
  | 0x248 => .eos f
  | 0x280 => .ld f
  | 0x281 => .st f
  | 0x282 => .ldf f
  | 0x283 => .stf f
  | 0x284 => .gather f
  | 0x285 => .scatter f
  | 0x286 => .prf f
  | 0x287 => .amo f
  | 0x288 => .cas f
  | 0x289 => .sta f
  | 0x28A => .inv f
  | 0x28B => .tlbinv f
  | 0x300 => .rel f
  | 0x301 => .acq f
  | 0x302 => .fence f
  | 0x303 => .ogq f
  | 0x320 => .cpy f
  | 0x321 => .cpyg f
  | 0x322 => .cpyf f
  | 0x323 => if f.md = 2 then .cpwDrop f else .cpw f
  | 0x324 => .cpq f
  | 0x330 => .binit f
  | 0x331 => .barv f
  | 0x332 => .bexp f
  | 0x333 => .bwait f
  | 0x334 => .btest f
  | 0x335 => .gbar f
  | 0x360 => .tkmk f
  | 0x361 => .tkarm f
  | 0x362 => .tksucc f
  | 0x363 => .tkdec f
  | 0x364 => .tkdone f
  | 0x365 => .ginst f
  | 0x366 => if f.md = 1 then .tkcanG f else .tkcan f
  | 0x367 => .tkst f
  | 0x368 => .tksub f
  | 0x369 => if f.md = 1 then .arrmFree f else .arrm f
  | 0x36A => .tkres f
  | 0x370 => .rgres f
  | 0x371 => .rgpub f
  | 0x372 => .rgtake f
  | 0x3A0 => if f.mod.getLsbD 0 then .amD f else .am f
  | 0x3A1 => .amr f
  | 0x3A2 => .hend f
  | 0x3A3 => .push f
  | 0x3A4 => if f.md = 1 then .popW f else .pop f
  | 0x3A5 => if f.md = 1 then .qmkFree f else .qmk f
  | 0x3A6 => .mbsend f
  | 0x3A7 => .mbcnt f
  | 0x3D0 => if f.md = 1 then .cplanFree f else .cplan f
  | 0x3D1 => .red f
  | 0x3D2 => .redw f
  | 0x3D3 => .redr f
  | 0x3D4 => .redfix f
  | 0x3D5 => .cbcast f
  | 0x3D6 => .cgath f
  | 0x3F0 => .trap f
  | 0x3F1 => .eret f
  | 0x3F2 => if f.md = 2 then .drainRes f else .drain f
  | 0x3F3 => if f.md = 1 then .frzRes f else .frz f
  | 0x3F4 => .ctxsv f
  | 0x3F5 => .ctxld f
  | 0x3F6 => .gang f
  | 0x3F7 => .brk f
  | _ => .unassignedOpcode opc f

/-- Decodes a base word and, where X is 1, its extension word. -/
def decodeWords (w e : BitVec 64) : Instr := instrOf (opcOf w) (fieldsOf w (if w.getLsbD 0 then e else 0))

/-- Decodes the bytes at an LM offset: the instruction and its length (R36, R48). -/
def decode (bs : List Byte) : Except DecodeError (Instr × Nat) :=
  if bs.length < 8 then .error .tooShort
  else
    let w := BitVec.ofNat 64 (ofBytes (bs.take 8))
    if w.getLsbD 0 then
      if bs.length < 16 then .error .tooShort
      else .ok (decodeWords w (BitVec.ofNat 64 (ofBytes ((bs.drop 8).take 8))), 16)
    else .ok (decodeWords w 0, 8)

/-- The base word of fields under an opcode (R36). -/
def baseWord (opc : BitVec 10) (f : Fields) : BitVec 64 :=
  BitVec.ofBool f.m ++ f.psel ++ BitVec.ofBool f.psense ++ opc ++ f.d ++ f.a ++ f.b ++ f.mod ++ BitVec.ofBool f.x

/-- The extension word of fields (R37). -/
def extWord (f : Fields) : BitVec 64 :=
  f.c ++ f.imm ++ BitVec.ofBool f.lra ++ BitVec.ofBool f.lrb ++ BitVec.ofBool f.lrc ++ f.etype ++ f.rnd ++
    BitVec.ofBool f.sat ++ f.smod

/-- The words of an encoded instruction; none for a step that no word encodes. -/
def encode (i : Instr) : Option (List (BitVec 64)) :=
  match i.opc, i.fields? with
  | some opc, some f => some (if f.x then [baseWord opc f, extWord f] else [baseWord opc f])
  | _, _ => none

/-- The bytes of words, little-endian (R1). -/
def wordBytes (l : List (BitVec 64)) : List Byte := l.flatMap (fun w => toBytes 8 w.toNat)

/-- The instruction that the decoder reads from the bits of an operations-table row: the base word lowest, then the
extension word, zero above the bits given. -/
def decodeTableWord (nbits w : Nat) : Option Instr :=
  match decode (toBytes 16 (w % 2 ^ nbits)) with
  | .ok (i, _) => some i
  | .error _ => none

end Sys2Proof
end

