-- ==== Sys2Proof/Machine/Float.lean ====
section
/-! DEFINITION. Types, float formats, exact values, rounding, conversions (R6, R8 to R17, R35, R135). -/

namespace Sys2Proof.Machine

/-- The element types of R6. -/
inductive Ty where
  | raw | i8 | n8 | i16 | fp16 | bf16 | fp32 | fp64 | i32 | i64 | e4m3 | e5m2 | bx4 | bx8e4 | bx8e5
  | i4 | n4 | n16 | n32 | n64
  deriving DecidableEq, Repr

/-- The type of a code (R6); codes 20 to 31 are reserved. -/
def Ty.ofCode : Nat → Option Ty
  | 0 => some .raw | 1 => some .i8 | 2 => some .n8 | 3 => some .i16 | 4 => some .fp16 | 5 => some .bf16
  | 6 => some .fp32 | 7 => some .fp64 | 8 => some .i32 | 9 => some .i64 | 10 => some .e4m3 | 11 => some .e5m2
  | 12 => some .bx4 | 13 => some .bx8e4 | 14 => some .bx8e5 | 15 => some .i4 | 16 => some .n4
  | 17 => some .n16 | 18 => some .n32 | 19 => some .n64 | _ => none

/-- Element bits (R6). -/
def Ty.width : Ty → Nat
  | .raw | .i8 | .n8 | .e4m3 | .e5m2 | .bx8e4 | .bx8e5 => 8
  | .i16 | .n16 | .fp16 | .bf16 => 16
  | .i32 | .n32 | .fp32 => 32
  | .i64 | .n64 | .fp64 => 64
  | .i4 | .n4 | .bx4 => 4

/-- Signedness of an integer type. -/
def Ty.sgn : Ty → Bool
  | .i4 | .i8 | .i16 | .i32 | .i64 => true
  | _ => false

/-- The float formats of R9. -/
inductive Fmt where
  | fp64 | fp32 | fp16 | bf16 | e5m2 | e4m3 | e2m1
  deriving DecidableEq, Repr

/-- The float format of a type. -/
def Ty.fmt : Ty → Option Fmt
  | .fp16 => some .fp16 | .bf16 => some .bf16 | .fp32 => some .fp32 | .fp64 => some .fp64
  | .e4m3 => some .e4m3 | .e5m2 => some .e5m2 | _ => none

/-- Width in bits (R9). -/
def Fmt.w : Fmt → Nat
  | .fp64 => 64 | .fp32 => 32 | .fp16 => 16 | .bf16 => 16 | .e5m2 => 8 | .e4m3 => 8 | .e2m1 => 4

/-- Fraction bits (R9). -/
def Fmt.mb : Fmt → Nat
  | .fp64 => 52 | .fp32 => 23 | .fp16 => 10 | .bf16 => 7 | .e5m2 => 2 | .e4m3 => 3 | .e2m1 => 1

/-- Exponent bias (R9). -/
def Fmt.bias : Fmt → Nat
  | .fp64 => 1023 | .fp32 => 127 | .fp16 => 15 | .bf16 => 127 | .e5m2 => 15 | .e4m3 => 7 | .e2m1 => 1

/-- Formats with infinities (R9). -/
def Fmt.hasInf : Fmt → Bool
  | .e4m3 | .e2m1 => false
  | _ => true

/-- The canonical NaN of a format (R9, R11); E2M1 has none and none is ever asked for (R11). -/
def Fmt.nan : Fmt → Nat
  | .fp64 => 0x7FF8000000000000 | .fp32 => 0x7FC00000 | .fp16 => 0x7E00 | .bf16 => 0x7FC0
  | .e5m2 => 0x7E | .e4m3 => 0x7F | .e2m1 => 0

/-- The code of the largest finite value (R9). -/
def Fmt.maxCode : Fmt → Nat
  | .fp64 => 0x7FEFFFFFFFFFFFFF | .fp32 => 0x7F7FFFFF | .fp16 => 0x7BFF | .bf16 => 0x7F7F
  | .e5m2 => 0x7B | .e4m3 => 0x7E | .e2m1 => 7

/-- The code of +∞ in a format that has it. -/
def Fmt.infCode (t : Fmt) : Nat := t.maxCode + 1

/-- The exponent of the smallest normal value. -/
def Fmt.emin (t : Fmt) : Int := 1 - (t.bias : Int)

/-- The largest finite value as a significand and the exponent of its last bit. -/
def Fmt.maxSig (t : Fmt) : Nat × Int :=
  match t with
  | .fp64 => (2 ^ 53 - 1, 971)
  | .fp32 => (2 ^ 24 - 1, 104)
  | .fp16 => (2047, 5)
  | .bf16 => (255, 120)
  | .e5m2 => (7, 13)
  | .e4m3 => (14, 5)
  | .e2m1 => (3, 1)

/-- What a float pattern stands for (R10): a NaN (quiet or not), an infinity, or `±m·2^e`. -/
inductive FVal where
  | nan (quiet : Bool)
  | inf (neg : Bool)
  | fin (neg : Bool) (m : Nat) (e : Int)
  deriving DecidableEq, Repr

/-- `float_value(b, t)` of R10. -/
def floatValue (t : Fmt) (b : Nat) : FVal :=
  let s := bit b (t.w - 1)
  let e := bits b (t.w - 2) t.mb
  let f := b % 2 ^ t.mb
  if t.hasInf && e == 2 ^ (t.w - 1 - t.mb) - 1 then
    if f = 0 then .inf s else .nan (bit f (t.mb - 1))
  else if t = .e4m3 ∧ e = 15 ∧ f = 7 then .nan true
  else if e = 0 then .fin s f (1 - (t.bias : Int) - t.mb)
  else .fin s (2 ^ t.mb + f) ((e : Int) - t.bias - t.mb)

/-- An exact result before rounding: a NaN, an infinity, or `±(num/den)·2^e`. -/
inductive XVal where
  | nan
  | inf (neg : Bool)
  | fin (neg : Bool) (num den : Nat) (e : Int)
  deriving DecidableEq, Repr

/-- The flags of FPSR (R116), by bit. -/
abbrev Flags := BitVec 6

def fNV : Flags := 1#6
def fDZ : Flags := 2#6
def fOF : Flags := 4#6
def fUF : Flags := 8#6
def fNX : Flags := 16#6
def fIDZ : Flags := 32#6

/-- The rounding modes of R13. -/
inductive RM where
  | rne | rtz | rup | rdn | rna | sr
  deriving DecidableEq, Repr

/-- The mode of an RND field (R13). -/
def RM.ofCode : Nat → Option RM
  | 0 => some .rne | 1 => some .rtz | 2 => some .rup | 3 => some .rdn | 4 => some .rna | 5 => some .sr
  | _ => none

/-- Whether a magnitude with lower neighbour `k` and rest `r/d` of a grid step goes up (R14, R17); `u` is the
generator's value in mode SR. -/
def goesUp (m : RM) (neg : Bool) (u k r d : Nat) : Bool :=
  if r = 0 then false
  else match m with
    | .rne => 2 * r > d || (2 * r == d && k % 2 == 1)
    | .rna => 2 * r ≥ d
    | .rtz => false
    | .rup => !neg
    | .rdn => neg
    | .sr => r * 65536 > u * d

/-- The exponent of the leading bit of `num/den·2^e` with `num` not zero. -/
def leadExp (num den : Nat) (e : Int) : Int :=
  let g : Int := (Nat.log2 num : Int) - (Nat.log2 den : Int)
  -- 2^g ≤ num/den, or 2^(g-1) ≤ num/den < 2^g
  let ok : Bool := if 0 ≤ g then den * 2 ^ g.toNat ≤ num else den ≤ num * 2 ^ (-g).toNat
  (if ok then g else g - 1) + e

/-- `num/den·2^e` in steps of `2^q`: the quotient, the rest and the divisor. -/
def onGrid (num den : Nat) (e q : Int) : Nat × Nat × Nat :=
  let sh := e - q
  let n := if 0 ≤ sh then num * 2 ^ sh.toNat else num
  let d := if 0 ≤ sh then den else den * 2 ^ (-sh).toNat
  (n / d, n % d, d)

/-- Rounds `num/den·2^e` to steps of `2^q`: the count of steps, and whether it is exact. -/
def roundGrid (m : RM) (u : Nat) (neg : Bool) (num den : Nat) (e q : Int) : Nat × Bool :=
  let (k, r, d) := onGrid num den e q
  (if goesUp m neg u k r d then k + 1 else k, r == 0)

/-- Sets the sign bit of a code. -/
def withSign (t : Fmt) (neg : Bool) (c : Nat) : Nat := if neg then c + 2 ^ (t.w - 1) else c

/-- What a result beyond the largest finite value becomes (the table of R14), without saturation. -/
def overflowCode (t : Fmt) (m : RM) (neg : Bool) : Nat :=
  let toMax : Bool := match m with
    | .rtz => true
    | .rup => neg
    | .rdn => !neg
    | _ => false
  if toMax then withSign t neg t.maxCode
  else if t.hasInf then withSign t neg t.infCode
  else t.nan

/-- `round_to(x, t, m)` with the saturate bit (R12, R14): the code and the flags.  An E2M1 destination is
always clamped (R11, R25). -/
def roundTo (t : Fmt) (m : RM) (sat : Bool) (u : Nat) (x : XVal) : Nat × Flags :=
  match x with
  | .nan => (t.nan, 0)
  | .inf neg =>
    if sat then (withSign t neg t.maxCode, fOF ||| fNX)
    else if t.hasInf then (withSign t neg t.infCode, 0)
    else (overflowCode t m neg, fOF ||| fNX)
  | .fin neg num den e =>
    if num = 0 then (withSign t neg 0, 0)
    else
      let p := leadExp num den e
      let q := max p t.emin - t.mb
      let (k, exact) := roundGrid m u neg num den e q
      let (ms, me) := t.maxSig
      -- k·2^q beyond the largest finite value, with unbounded exponent
      let isOver : Bool := if me ≤ q then ms < k * 2 ^ (q - me).toNat else ms * 2 ^ (me - q).toNat < k
      if isOver then
        (if sat then withSign t neg t.maxCode else overflowCode t m neg, fOF ||| fNX)
      else
        let (k', _) := roundGrid m u neg num den e (p - t.mb)
        -- tiny after rounding with unbounded exponent range: k'·2^(p-mb) < 2^emin
        let tiny : Bool := p < t.emin && k' < 2 ^ (t.emin - (p - t.mb)).toNat
        let code := if k = 0 then 0 else (q + t.mb + t.bias - 1).toNat * 2 ^ t.mb + k
        (withSign t neg code,
          (if exact then 0 else fNX) ||| (if tiny && !exact then fUF else 0))

/-- `sr_step` of R16. -/
def srStep (s : BitVec 16) : BitVec 16 :=
  let fb := s.getLsbD 15 ^^ s.getLsbD 13 ^^ s.getLsbD 12 ^^ s.getLsbD 10
  (s <<< 1) ||| (if fb then 1#16 else 0#16)

/-- The generator after one element delivered in mode `m` (R17). -/
def srNext (m : RM) (s : BitVec 16) : BitVec 16 := if m = .sr then srStep s else s

/-- The exact value of a finite float as a result to round. -/
def FVal.x : FVal → XVal
  | .nan _ => .nan
  | .inf n => .inf n
  | .fin n m e => .fin n m 1 e

/-- A signalling NaN sets the invalid flag (R11). -/
def FVal.snan : FVal → Flags
  | .nan false => fNV
  | _ => 0

def FVal.isNan : FVal → Bool
  | .nan _ => true
  | _ => false

def FVal.neg : FVal → FVal
  | .nan q => .nan q
  | .inf n => .inf !n
  | .fin n m e => .fin (!n) m e

/-- Sign of a float that is no NaN. -/
def FVal.sign : FVal → Bool
  | .nan _ => false
  | .inf n => n
  | .fin n _ _ => n

/-- Whether a float is a zero. -/
def FVal.isZero : FVal → Bool
  | .fin _ 0 _ => true
  | _ => false

/-- An exact dyadic number `m·2^e`. -/
structure Dy where
  m : Int
  e : Int
  deriving DecidableEq, Repr

/-- Exact sum. -/
def Dy.add (a b : Dy) : Dy :=
  let e := min a.e b.e
  ⟨a.m * 2 ^ (a.e - e).toNat + b.m * 2 ^ (b.e - e).toNat, e⟩

/-- Exact product. -/
def Dy.mul (a b : Dy) : Dy := ⟨a.m * b.m, a.e + b.e⟩

/-- Exact comparison `a < b`. -/
def Dy.lt (a b : Dy) : Bool := (a.add ⟨-b.m, b.e⟩).m < 0

/-- A dyadic number as a result to round; a zero takes the sign given. -/
def Dy.x (zneg : Bool) (a : Dy) : XVal :=
  if a.m = 0 then .fin zneg 0 1 0 else .fin (decide (a.m < 0)) a.m.natAbs 1 a.e

/-- The dyadic value of a finite float (of 0 for the others). -/
def FVal.dy : FVal → Dy
  | .fin n m e => ⟨if n then -(m : Int) else m, e⟩
  | _ => ⟨0, 0⟩

/-- The product of two floats as a float-like value, with NV for 0·∞ and signalling NaNs (R135). -/
def fprod (a b : FVal) : FVal × Flags :=
  let f := a.snan ||| b.snan
  match a, b with
  | .nan _, _ => (.nan true, f)
  | _, .nan _ => (.nan true, f)
  | .inf n, y => if y.isZero then (.nan true, f ||| fNV) else (.inf (n != y.sign), f)
  | x, .inf n => if x.isZero then (.nan true, f ||| fNV) else (.inf (n != x.sign), f)
  | .fin n m e, .fin n' m' e' => (.fin (n != n') (m * m') (e + e'), f)

/-- The exact sum of floats, with the IEEE rules for infinities and zeros (R135); an exact zero sum is +0, but −0 in
mode RDN, and a sum of zeros of one sign keeps it. -/
def fsum (m : RM) (l : List FVal) : XVal × Flags :=
  let f := l.foldl (fun f x => f ||| x.snan) 0
  if l.any FVal.isNan then (.nan, f)
  else
    let pinf := l.any (fun x => x = .inf false)
    let ninf := l.any (fun x => x = .inf true)
    if pinf && ninf then (.nan, f ||| fNV)
    else if pinf then (.inf false, f)
    else if ninf then (.inf true, f)
    else
      let d := l.foldl (fun (a : Dy) x => a.add x.dy) ⟨0, 0⟩
      let allZero := l.all FVal.isZero
      let zneg : Bool :=
        if allZero && l.all (fun x => x.sign) then true
        else if allZero && l.all (fun x => !x.sign) then false
        else m == .rdn
      (d.x zneg, f)

/-- Rounds and gathers the flags. -/
def deliver (t : Fmt) (m : RM) (sat : Bool) (u : Nat) (r : XVal × Flags) : Nat × Flags :=
  let (c, f) := roundTo t m sat u r.1
  (c, f ||| r.2)

/-- `a + b` (R135). -/
def fAdd (m : RM) (a b : FVal) : XVal × Flags := fsum m [a, b]

/-- `a − b` (R135). -/
def fSub (m : RM) (a b : FVal) : XVal × Flags := fsum m [a, b.neg]

/-- `a · b` (R135). -/
def fMul (a b : FVal) : XVal × Flags :=
  let (p, f) := fprod a b
  (p.x, f)

/-- `a · b + c` with one rounding (R135). -/
def fMa (m : RM) (a b c : FVal) : XVal × Flags :=
  let (p, f) := fprod a b
  let (s, g) := fsum m [p, c]
  (s, f ||| g)

/-- `a / b` (R135). -/
def fDiv (a b : FVal) : XVal × Flags :=
  let f := a.snan ||| b.snan
  match a, b with
  | .nan _, _ => (.nan, f)
  | _, .nan _ => (.nan, f)
  | .inf _, .inf _ => (.nan, f ||| fNV)
  | .inf n, y => (.inf (n != y.sign), f)
  | x, .inf n => (.fin (n != x.sign) 0 1 0, f)
  | .fin n m e, .fin n' m' e' =>
    if m' = 0 then if m = 0 then (.nan, f ||| fNV) else (.inf (n != n'), f ||| fDZ)
    else (.fin (n != n') m m' (e - e'), f)

/-- The order of two floats that are no NaN, −0 and +0 equal: −1, 0, 1. -/
def fOrder (a b : FVal) : Int :=
  match a, b with
  | .inf n, .inf n' => if n = n' then 0 else if n then -1 else 1
  | .inf n, _ => if n then -1 else 1
  | _, .inf n => if n then 1 else -1
  | x, y => if x.dy.lt y.dy then -1 else if y.dy.lt x.dy then 1 else 0

/-- `fmin` (`gt` false) or `fmax` of two patterns of a format (R136): the code and the flags. -/
def fMinMax (t : Fmt) (isMax : Bool) (a b : Nat) : Nat × Flags :=
  let x := floatValue t a
  let y := floatValue t b
  let f := x.snan ||| y.snan
  if x.isNan && y.isNan then (t.nan, f)
  else if x.isNan then (b, f)
  else if y.isNan then (a, f)
  else
    let o := fOrder x y
    -- −0 is ordered below +0
    let less : Bool := o < 0 || (o == 0 && x.sign && !y.sign)
    (if less == isMax then b else a, f)

/-- Rounds a float to an integer in mode `m` (R15, R139): the signed value and whether it is exact. -/
def roundInt (m : RM) (u : Nat) (neg : Bool) (num : Nat) (e : Int) : Int × Bool :=
  let (k, ex) := roundGrid m u neg num 1 e 0
  (if neg then -(k : Int) else k, ex)

/-- Float to integer (R15). -/
def floatToInt (t : Ty) (m : RM) (u : Nat) (v : FVal) : Int × Flags :=
  match v with
  | .nan _ => (0, fNV)
  | .inf n => (if n then intMin t.sgn t.width else intMax t.sgn t.width, fNV)
  | .fin n k e =>
    let (i, ex) := roundInt m u n k e
    if i < intMin t.sgn t.width ∨ intMax t.sgn t.width < i then (satInt t.sgn t.width i, fNV)
    else (i, if ex then 0 else fNX)

/-- An integer as a result to round. -/
def intX (v : Int) : XVal := .fin (decide (v < 0)) v.natAbs 1 0

/-- One element of `cvt` (R15, R143): a pattern of the source type to a value of the destination type.  A float
result is its code; an integer result is the exact integer, which R69 then fits to the destination. -/
def cvtElem (src dst : Ty) (m : RM) (sat : Bool) (u : Nat) (p : Nat) : Int × Flags :=
  match src.fmt, dst.fmt with
  | some f, some g =>
    let v := floatValue f p
    let (c, fl) := roundTo g m sat u v.x
    ((c : Int), fl ||| v.snan)
  | some f, none => floatToInt dst m u (floatValue f p)
  | none, some g =>
    let v := if src.sgn then signed src.width p else (p % 2 ^ src.width : Nat)
    let (c, fl) := roundTo g m sat u (intX v)
    ((c : Int), fl)
  | none, none =>
    let v := if src.sgn then signed src.width p else (p % 2 ^ src.width : Nat)
    (reduceInt sat dst.sgn dst.width v, 0)

end Sys2Proof.Machine
end

