-- ==== Sys2Proof/Machine/Block.lean ====
section
/-! DEFINITION. Fat pointers and block formats (R18 to R25). -/

namespace Sys2Proof.Machine

/-- The block formats. -/
inductive Bx where
  | bx4 | bx8e4 | bx8e5
  deriving DecidableEq, Repr

/-- The block format of a type code (R6). -/
def Bx.ofCode : Nat → Option Bx
  | 12 => some .bx4 | 13 => some .bx8e4 | 14 => some .bx8e5 | _ => none

/-- The element format of a block (R21). -/
def Bx.elem : Bx → Fmt
  | .bx4 => .e2m1 | .bx8e4 => .e4m3 | .bx8e5 => .e5m2

/-- Element bits. -/
def Bx.ebits : Bx → Nat
  | .bx4 => 4 | _ => 8

/-- The code that would be −0, and stands for the extra value (R19). -/
def Bx.negzero : Bx → Nat
  | .bx4 => 8 | _ => 0x80

/-- The largest finite element value (`emx` of R25). -/
def Bx.emx : Bx → Nat
  | .bx4 => 6 | .bx8e4 => 448 | .bx8e5 => 57344

/-- The extra magnitudes of R20, times 4. -/
def Bx.extra4 (f : Bx) (k : Nat) : Nat :=
  match f with
  | .bx4 => [1, 3, 10, 20, 32, 48, 64, 96].getD k 0
  | .bx8e4 => 4 * [18, 56, 192, 384, 576, 896, 1152, 1792].getD k 0
  | .bx8e5 => 4 * [2560, 7168, 24576, 49152, 81920, 114688, 163840, 229376].getD k 0

/-- The value of a block scale with exponent 1 to 254 (R18). -/
def scaleDy (s12 : Nat) : Dy := ⟨16 + s12 % 16, (bits s12 11 4 : Int) - 131⟩

/-- The extra value of a metadata word over its scale (R19, R20). -/
def extraDy (f : Bx) (code4 : Nat) : Dy :=
  let m : Int := f.extra4 (code4 % 8)
  ⟨if 8 ≤ code4 then -m else m, -2⟩

/-- `bx_value(code, md, fmt)` of R21. -/
def bxValue (f : Bx) (md code : Nat) : FVal :=
  let e := bits md 11 4
  if e = 0 then .fin false 0 0
  else if e = 255 then .nan true
  else
    let s := scaleDy (md % 2 ^ 12)
    let scaled (d : Dy) : FVal := .fin (decide (d.m < 0)) d.m.natAbs d.e
    if code = f.negzero then scaled (s.mul (extraDy f (bits md 15 12)))
    else match floatValue f.elem code with
      | .fin n m e' => if m = 0 then .fin n 0 0 else scaled (s.mul (FVal.fin n m e').dy)
      | v => v

/-- The block length of a BLEN code (R23). -/
def blenOf : Nat → Nat
  | 1 => 16 | 2 => 32 | 3 => 64 | _ => 0

/-- Element bytes of a panel (R22). -/
def panelE (f : Bx) (blen : Nat) : Nat := 16 * (blen * f.ebits / 8)

/-- Bytes of a panel (R22). -/
def panelT (f : Bx) (blen : Nat) : Nat := panelE f blen + 32

/-- A fat pointer (R23): FMT, BLEN, ADDR. -/
structure FatPtr where
  fmt : Nat
  blen : Nat
  addr : Nat
  deriving DecidableEq, Repr

/-- Reads a fat pointer (R23). -/
def FatPtr.of (v : Nat) : FatPtr := ⟨bits v 63 59, bits v 58 56, v % 2 ^ 56⟩

/-- Whether the pointer's format and length pair passes the check of R24. -/
def FatPtr.ok (p : FatPtr) : Bool :=
  p.fmt < 17 && p.blen < 4 &&
    (if 12 ≤ p.fmt && p.fmt ≤ 14 then p.blen != 0 else p.blen == 0)

/-- `panel_map(L, fmt, blen)` of R24: the data byte's and the metadata word's address; `none` is the format trap. -/
def panelMap (f : Bx) (blen : Nat) (l : Int) : Option (Nat × Nat) :=
  if l < 0 then none
  else
    let e := panelE f blen
    let t := panelT f blen
    let n := l.toNat / e
    let o := l.toNat % e
    let half := blen * f.ebits / 8
    let data := n * t + o
    let md := n * t + e + 2 * (o / half)
    if 2 ^ 56 - 1 < md + 1 then none else some (data, md)

/-- Element width in bits by format code (R133 `.ebits`). -/
def fmtBits (f : Nat) : Nat :=
  if f = 12 ∨ f = 15 ∨ f = 16 then 4
  else if f ≤ 2 ∨ f = 10 ∨ f = 11 ∨ f = 13 ∨ f = 14 then 8
  else if f = 3 ∨ f = 4 ∨ f = 5 then 16
  else if f = 6 ∨ f = 8 then 32
  else if f = 7 ∨ f = 9 then 64
  else 0

/-! ## Quantisation (R25) -/

/-- A non-negative rational times a power of two, to compare errors exactly. -/
def absDiff (a b : Dy) : Dy :=
  let d := a.add ⟨-b.m, b.e⟩
  ⟨(d.m.natAbs : Int), d.e⟩

def Dy.abs (a : Dy) : Dy := ⟨(a.m.natAbs : Int), a.e⟩

/-- `scale_up(a/emx)`: the least scale with 1 ≤ e ≤ 254 whose value is at least the quotient (R25). -/
def scaleUp (f : Bx) (a : Dy) : Nat :=
  -- S·emx ≥ a, with S = (16+fr)·2^(e-131)
  let fits (s12 : Nat) : Bool := !(((scaleDy s12).mul ⟨f.emx, 0⟩).lt a)
  if fits 0x010 then 0x010
  else
    -- the exponent of a/emx, then the fraction
    let p := leadExp a.m.natAbs f.emx a.e
    let e := (p + 127).toNat
    let cands := (List.range 32).map (fun i => e * 16 + i) |>.filter (fun s => 0x010 ≤ s && s ≤ 0xFEF)
    match cands.find? fits with
    | some s => s
    | none => 0xFEF

/-- A candidate encoding of a block: metadata, codes and the generators' values after. -/
structure BxCand where
  md : Nat
  codes : List Nat
  deriving DecidableEq, Repr

/-- The exact value of an element of a candidate. -/
def candVal (f : Bx) (md : Nat) (code : Nat) : Dy := (bxValue f md code).dy

/-- The index whose test value is largest, lowest index on ties. -/
def argMax (l : List Dy) : Nat :=
  (l.foldl (fun (acc : Nat × Nat × Dy) d =>
    let (i, best, m) := acc
    if i = 0 ∨ m.lt d then (i + 1, i, d) else (i + 1, best, m)) (0, 0, ⟨0, 0⟩)).2.1

/-- The 4-bit extra code whose scaled value is nearest `x`, ties to the lower code. -/
def nearestExtra (f : Bx) (s : Dy) (x : Dy) : Nat :=
  let err (c : Nat) : Dy := absDiff x (s.mul (extraDy f c))
  (List.range 16).foldl (fun best c => if (err c).lt (err best) then c else best) 0

/-- `encode(x, S, fmt, m, forced)` of R25; `modes` gives each element its rounding mode and generator value. -/
def bxEncode (f : Bx) (xs : List Dy) (s12 : Nat) (modes : List (RM × Nat)) (forced : Option Nat) : BxCand :=
  let s := scaleDy s12
  let q0 := (xs.zip modes).map fun (x, (m, u)) =>
    -- x/S: the quotient of two dyadic numbers
    let xv : XVal := .fin (decide (x.m < 0)) x.m.natAbs s.m.natAbs (x.e - s.e)
    let (c, _) := roundTo f.elem m true u xv
    if c = f.negzero then 0 else c
  let val (c : Nat) : Dy := candVal f s12 c
  let errs := (xs.zip q0).map fun (x, c) => absDiff x (val c)
  let (v, fidx) : Option Nat × Option Nat :=
    match forced with
    | some i => (some (nearestExtra f s (xs.getD i ⟨0, 0⟩)), some i)
    | none =>
      let j := argMax errs
      let xj := xs.getD j ⟨0, 0⟩
      let c := nearestExtra f s xj
      if (absDiff xj (s.mul (extraDy f c))).lt (errs.getD j ⟨0, 0⟩) then (some c, none) else (none, none)
  let codes := (xs.zip (q0.zip errs)).zipIdx.map fun ((x, (c, er)), i) =>
    if some i = fidx then f.negzero
    else match v with
      | some ex => if (absDiff x (s.mul (extraDy f ex))).lt er then f.negzero else c
      | none => c
  ⟨s12 + (v.getD 0) * 2 ^ 12, codes⟩

/-- `sse(c)`: the exact sum of squared errors. -/
def bxSse (f : Bx) (xs : List Dy) (c : BxCand) : Dy :=
  (xs.zip c.codes).foldl (fun acc (x, q) =>
    let d := absDiff x (candVal f c.md q)
    acc.add (d.mul d)) ⟨0, 0⟩

/-- The value of an FP32 element for quantisation: an infinity counts as the largest finite value (R25). -/
def bxInput (v : FVal) : Dy :=
  match v with
  | .inf n => ⟨if n then -(2 ^ 24 - 1) else 2 ^ 24 - 1, 104⟩
  | w => w.dy

/-- `bx_quantise` (R25) of FP32 patterns: the candidate, whether a NaN was met, whether the error is not zero. -/
def bxQuantise (f : Bx) (ps : List Nat) (modes : List (RM × Nat)) : BxCand × Bool × Bool :=
  let vs := ps.map (floatValue .fp32)
  let zeros := ps.map (fun _ => 0)
  if vs.any FVal.isNan then (⟨0x0FF0, zeros⟩, true, false)
  else
    let xs := vs.map bxInput
    let ab := xs.map Dy.abs
    let i1 := argMax ab
    let a1 := ab.getD i1 ⟨0, 0⟩
    let a2 := (ab.zipIdx.filter (fun p => p.2 != i1)).foldl (fun m p => if Dy.lt m p.1 then p.1 else m) ⟨0, 0⟩
    if a1.m = 0 then (⟨0, zeros⟩, false, false)
    else
      let ca := bxEncode f xs (scaleUp f a1) modes none
      let ea := bxSse f xs ca
      if 0 < a2.m then
        let cb := bxEncode f xs (scaleUp f a2) modes (some i1)
        let eb := bxSse f xs cb
        if eb.lt ea then (cb, false, eb.m != 0) else (ca, false, ea.m != 0)
      else (ca, false, ea.m != 0)

end Sys2Proof.Machine
end

