-- ==== Sys2Proof/Machine/FloatFn.lean ====
section
/-! DEFINITION. The function instructions of R138: the exact real is enclosed between two neighbours of a fine
grid, which fixes its rounding in every mode; series in integer arithmetic, at rising precision. -/

namespace Sys2Proof.Machine

/-- Bits kept of an enclosed result, beyond every format's fraction and the 16 bits of R17. -/
def enclBits : Nat := 128

/-- A value strictly between `k·2^e` and `(k+1)·2^e`, the decision points of every rounding being multiples of `2^e`:
its midpoint rounds alike. -/
def between (neg : Bool) (k : Nat) (e : Int) : XVal := .fin neg (2 * k + 1) 1 (e - 1)

/-- A value in `[lo, hi]·2^e` that is no dyadic number: the enclosure of the lower bound, and whether the upper bound agrees on
it. -/
def enclose (neg : Bool) (lo hi : Nat) (e : Int) : XVal × Bool :=
  let d := Nat.log2 lo - enclBits
  (between neg (lo / 2 ^ d) (e + d), lo / 2 ^ d == hi / 2 ^ d)

/-- The working precisions tried in turn, from 320 to 655,360 bits.  The values of R138 that are no dyadic numbers are
transcendental or irrational, so some precision decides each of them (log entry 87). -/
def workBits : List Nat := (List.range 12).map fun i => 320 * 2 ^ i

/-- `2·atanh(p/q)·2^w` rounded down term by term: `Σ 2(p/q)^(2j+1)/(2j+1)`. -/
def atanhSum (p2 q2 : Nat) : Nat → Nat → Nat → Nat → Nat
  | 0, _, _, acc => acc
  | fuel + 1, j, t, acc =>
    if t = 0 then acc else atanhSum p2 q2 fuel (j + 1) (t * p2 / q2) (acc + 2 * t / (2 * j + 1))

/-- `ln 2 · 2^w`, a little low. -/
def ln2 (w : Nat) : Nat := atanhSum 1 9 w 0 (2 ^ w / 3) 0

/-- `atan(1/n)·2^w` by its alternating series. -/
def atanInv (n : Nat) : Nat → Nat → Nat → Int → Int
  | 0, _, _, acc => acc
  | fuel + 1, j, t, acc =>
    if t = 0 then acc
    else atanInv n fuel (j + 1) (t / (n * n))
      (if j % 2 = 0 then acc + (t / (2 * j + 1) : Nat) else acc - (t / (2 * j + 1) : Nat))

/-- `π · 2^w` (Machin's formula). -/
def piFix (w : Nat) : Nat :=
  (16 * atanInv 5 w 0 (2 ^ w / 5) 0 - 4 * atanInv 239 w 0 (2 ^ w / 239) 0).toNat

/-- `Σ x^j/j!` in steps of `2^-w`. -/
def expSum (w x : Nat) : Nat → Nat → Nat → Nat → Nat
  | 0, _, _, acc => acc
  | fuel + 1, j, t, acc => if t = 0 then acc else expSum w x fuel (j + 1) (t * x / 2 ^ w / (j + 1)) (acc + t)

/-- `Σ (-1)^j u^j/(2j+o)!` with `o` 0 (cosine) or 1 (sine over its argument). -/
def trigSum (w u o : Nat) : Nat → Nat → Nat → Int → Int
  | 0, _, _, acc => acc
  | fuel + 1, j, t, acc =>
    if t = 0 then acc
    else trigSum w u o fuel (j + 1) (t * u / 2 ^ w / ((2 * j + 1 + o) * (2 * j + 2 + o)))
      (if j % 2 = 0 then acc + (t : Nat) else acc - (t : Nat))

/-- More than every rounding error of the series above. -/
def slack : Nat := 65536

/-- The enclosure of the first working precision that decides it, else of the last. -/
def firstEncl (f : Nat → XVal × Bool) : List Nat → XVal
  | [] => .nan
  | [w] => (f w).1
  | w :: r => match f w with
    | (x, true) => x
    | (_, false) => firstEncl f r

/-- The square root of `m·2^e`, `m` not 0. -/
def sqrtX (neg : Bool) (m : Nat) (e : Int) : XVal :=
  let (m, e) := if e % 2 = 0 then (m, e) else (2 * m, e - 1)
  let v := m * 2 ^ (2 * enclBits)
  let r := isqrt (Nat.log2 v / 2 + 1) 0 v
  if r * r = v then .fin neg r 1 (e / 2 - enclBits) else between neg r (e / 2 - enclBits)

/-- `1/√(m·2^e)`, `m` not 0. -/
def rsqrtX (m : Nat) (e : Int) : XVal :=
  let (m, e) := if e % 2 = 0 then (m, e) else (2 * m, e - 1)
  let v := 2 ^ (2 * (enclBits + 64))
  let r := isqrt (enclBits + 66) 0 (v / m)
  if m * r * r = v then .fin false r 1 (-(e / 2) - (enclBits + 64 : Nat))
  else between false r (-(e / 2) - (enclBits + 64 : Nat))

/-- `2^a` for `a = ±m·2^e`, `m` not 0. -/
def exp2X (neg : Bool) (m : Nat) (e : Int) : XVal :=
  if 14 ≤ leadExp m 1 e then .fin false 1 1 (if neg then -20000 else 20000)
  else if leadExp m 1 e < -(enclBits : Int) - 8 then
    if neg then between false (2 ^ enclBits - 1) (-(enclBits : Int))
    else between false (2 ^ enclBits) (-(enclBits : Int))
  else if 0 ≤ e then
    let n := m * 2 ^ e.toNat
    .fin false 1 1 (if neg then -(n : Int) else n)
  else
    let k := (-e).toNat
    let a : Int := if neg then -(m : Int) else m
    let n := a / (2 ^ k : Nat)
    let f := (a % (2 ^ k : Nat)).toNat
    if f = 0 then .fin false 1 1 n
    else firstEncl (fun w =>
      let x := ln2 w * f / 2 ^ k
      let s := expSum w x w 0 (2 ^ w) 0
      enclose false (s - slack) (s + slack) (n - w)) workBits

/-- `log2(m·2^e)`, `m` not 0. -/
def log2X (m : Nat) (e : Int) : XVal :=
  let b := Nat.log2 m
  let n : Int := (b : Int) + e
  if m = 2 ^ b then intX n
  else firstEncl (fun w =>
    let z := (m - 2 ^ b) * 2 ^ w / (m + 2 ^ b)
    let l := atanhSum (z * z) (2 ^ (2 * w)) w 0 z 0
    let y := l * 2 ^ w / ln2 w
    let t : Int := n * 2 ^ w + y
    enclose (decide (t < 0)) (t.natAbs - slack) (t.natAbs + slack) (-(w : Int))) workBits

/-- `sin(π·t/2^k)` for `0 < t/2^k ≤ 1/4`. -/
def sinCore (neg : Bool) (t k : Nat) : XVal :=
  firstEncl (fun w =>
    let p := piFix w
    let x := p * t / 2 ^ k
    let s := (trigSum w (x * x / 2 ^ w) 1 w 0 (2 ^ w) 0).toNat
    let v := p * s / 2 ^ w
    enclose neg ((v - slack) * t) ((v + slack) * t) (-(w : Int) - k)) workBits

/-- `cos(π·t/2^k)` for `0 < t/2^k ≤ 1/4`. -/
def cosCore (neg : Bool) (t k : Nat) : XVal :=
  if leadExp t 1 (-(k : Int)) < -(enclBits : Int) then
    between neg (2 ^ enclBits - 1) (-(enclBits : Int))
  else firstEncl (fun w =>
    let x := piFix w * t / 2 ^ k
    let c := (trigSum w (x * x / 2 ^ w) 0 w 0 (2 ^ w) 0).toNat
    enclose neg (c - slack) (c + slack) (-(w : Int))) workBits

/-- `sin(π·a)` for `a = ±m·2^e` (R138). -/
def sinX (neg : Bool) (m : Nat) (e : Int) : XVal :=
  if 0 ≤ e then .fin neg 0 1 0
  else
    let k := (-e).toNat
    let t := m % 2 ^ (k + 1)
    let (neg', t) := if t < 2 ^ k then (neg, t) else (!neg, t - 2 ^ k)
    if t = 0 then .fin neg 0 1 0
    else
      let t := if 2 ^ k < 2 * t then 2 ^ k - t else t
      if 2 * t = 2 ^ k then .fin neg' 1 1 0
      else if 4 * t ≤ 2 ^ k then sinCore neg' t k
      else cosCore neg' (2 ^ k - 2 * t) (k + 1)

/-- `cos(π·a)` for `a = ±m·2^e` (R138). -/
def cosX (m : Nat) (e : Int) : XVal :=
  let k := (-e).toNat
  let m := if 0 ≤ e then m * 2 ^ e.toNat else m
  let t := m % 2 ^ (k + 1)
  let t := if 2 ^ k < t then 2 ^ (k + 1) - t else t
  let (neg, t) := if 2 ^ k < 2 * t then (true, 2 ^ k - t) else (false, t)
  if t = 0 then .fin neg 1 1 0
  else if 2 * t = 2 ^ k then .fin false 0 1 0
  else if 4 * t ≤ 2 ^ k then cosCore neg t k
  else sinCore neg (2 ^ k - 2 * t) (k + 1)

/-- The function instructions of R138. -/
inductive Fn1 where
  | rcp | rsq | sqrt | exp2 | log2 | sin | cos
  deriving DecidableEq, Repr

/-- The exact value and the flags of a function (the table of R138). -/
def fnExact (fn : Fn1) (v : FVal) : XVal × Flags :=
  match fn, v with
  | _, .nan q => (.nan, if q then 0 else fNV)
  | .rcp, .inf n => (.fin n 0 1 0, 0)
  | .rcp, .fin n m e => if m = 0 then (.inf n, fDZ) else (.fin n 1 m (-e), 0)
  | .rsq, .inf n => if n then (.nan, fNV) else (.fin false 0 1 0, 0)
  | .rsq, .fin n m e =>
    if m = 0 then (.inf n, fDZ) else if n then (.nan, fNV) else (rsqrtX m e, 0)
  | .sqrt, .inf n => if n then (.nan, fNV) else (.inf false, 0)
  | .sqrt, .fin n m e =>
    if m = 0 then (.fin n 0 1 0, 0) else if n then (.nan, fNV) else (sqrtX false m e, 0)
  | .exp2, .inf n => (if n then .fin false 0 1 0 else .inf false, 0)
  | .exp2, .fin n m e => if m = 0 then (.fin false 1 1 0, 0) else (exp2X n m e, 0)
  | .log2, .inf n => if n then (.nan, fNV) else (.inf false, 0)
  | .log2, .fin n m e =>
    if m = 0 then (.inf true, fDZ) else if n then (.nan, fNV) else (log2X m e, 0)
  | .sin, .inf _ => (.nan, fNV)
  | .sin, .fin n m e => if m = 0 then (.fin n 0 1 0, 0) else (sinX n m e, 0)
  | .cos, .inf _ => (.nan, fNV)
  | .cos, .fin _ m e => if m = 0 then (.fin false 1 1 0, 0) else (cosX m e, 0)

/-- One element of a function instruction (R138): the code and the flags. -/
def fnElem (fn : Fn1) (t : Fmt) (m : RM) (sat : Bool) (u a : Nat) : Nat × Flags :=
  deliver t m sat u (fnExact fn (floatValue t a))

end Sys2Proof.Machine
end

