-- ==== Sys2Proof/Config.lean ====
section
/-! DEFINITION. What an implementation fixes and the values the spec leaves open: constants without a body,
so that no proof can see what they are (log entry 2). -/

namespace Sys2Proof.Config

/-- Which of several steps that are all possible comes next: applied to the count of steps (log entry 3). -/
opaque nextStep : Nat → Nat

/-- A choice that the spec leaves open within a step, by counter. -/
opaque choose : Nat → Nat

/-- A mask that says, slice by slice, which of two allowed values a read or a run's end gives (R72, R73):
applied to the free counter, to the field's place, to the number of the pending result and to the lane. -/
opaque pick : Nat → Nat → Nat → Nat → Nat

/-- A value of 64 bits that the spec leaves open, applied to the free counter and to a number for its place. -/
opaque freeWord : Nat → Nat → BitVec 64

/-- How much time passes after a step: core cycles of a die, Yard cycles, pod ticks, and so on, by counter and
by clock number.  Time never stands still for ever is no clause of this model (log entry 4). -/
opaque passed : Nat → Nat → Nat

/-- Whether an event that the spec allows but does not compel takes place, by counter and by what it concerns. -/
opaque happens : Nat → Nat → Bool

/-- The digest of what a measurement covers (R409), and the contents of an SPDM answer that the spec does not lay out. -/
opaque digest : List Nat → BitVec 64

/-- How many bytes a core's freeze image has, and what they hold: its layout belongs to the device (R66, R392). -/
opaque imageLen : Nat
opaque imageByte : Nat → Nat → BitVec 8

/-- The SRAM of a die that a word of a scrubber's pass is in (R410). -/
opaque sramOf : Nat → Nat

/-- The home core slice of a physical address is "a hash" of it (R200). -/
opaque homeHash : Nat → Nat

end Sys2Proof.Config
end

