-- ==== Sys2Proof/Machine/LongSum.lean ====
section
/-! DEFINITION. Long sums (R31 to R35, R148, R149). -/

namespace Sys2Proof.Machine

/-- The four flags of a long sum (R31). -/
structure LsFlags where
  inexact : Bool := false
  invalid : Bool := false
  posinf : Bool := false
  neginf : Bool := false
  deriving DecidableEq, Repr

def LsFlags.or (a b : LsFlags) : LsFlags :=
  ⟨a.inexact || b.inexact, a.invalid || b.invalid, a.posinf || b.posinf, a.neginf || b.neginf⟩

/-- A two-word long sum (R31). -/
structure LongSum where
  m : Int
  e : Int
  count : Nat
  flags : LsFlags
  deriving DecidableEq, Repr

/-- Reads a long sum from its two words (R31). -/
def LongSum.of (w0 w1 : Nat) : LongSum :=
  ⟨signed 64 w0, signed 16 w1, bits w1 31 16, ⟨bit w1 32, bit w1 33, bit w1 34, bit w1 35⟩⟩

/-- Word 1 of a long sum, bits 63:36 zero (R31). -/
def LongSum.word1 (l : LongSum) : Nat :=
  pat 16 l.e + 2 ^ 16 * (l.count % 2 ^ 16) + 2 ^ 32 * b2n l.flags.inexact + 2 ^ 33 * b2n l.flags.invalid +
    2 ^ 34 * b2n l.flags.posinf + 2 ^ 35 * b2n l.flags.neginf

def LongSum.word0 (l : LongSum) : Nat := pat 64 l.m

/-- A float as a long sum (R31).  DESIGN CHOICE (log entry 96): R31 gives M = 0 for an infinity and a NaN and no E; the model
puts E = 0. -/
def lsOfFloat (v : FVal) : LongSum :=
  match v with
  | .nan _ => ⟨0, 0, 1, { invalid := true }⟩
  | .inf n => ⟨0, 0, 1, { posinf := !n, neginf := n }⟩
  | .fin n m e => if m = 0 then ⟨0, 0, 1, {}⟩ else ⟨if n then -(m : Int) else m, e, 1, {}⟩

/-- An integer as a long sum (R148). -/
def lsOfInt (v : Int) : LongSum :=
  if v < 2 ^ 63 then ⟨v, 0, 1, {}⟩ else ⟨v / 2, 1, 1, { inexact := v % 2 == 1 }⟩

/-- Raises the exponent until the floor fits 64 bits (the loop of R149). -/
def lsFit (s : Dy) : Nat → Int → Int
  | 0, e => e
  | n + 1, e =>
    let m := if e ≤ s.e then s.m * 2 ^ (s.e - e).toNat else s.m / 2 ^ (e - s.e).toNat
    if m < -(2 ^ 63) ∨ 2 ^ 63 ≤ m then lsFit s n (e + 1) else e

/-- `floor(s·2^-e)` and whether it is exact. -/
def floorAt (s : Dy) (e : Int) : Int × Bool :=
  if e ≤ s.e then (s.m * 2 ^ (s.e - e).toNat, true)
  else
    let d : Int := 2 ^ (e - s.e).toNat
    (s.m / d, s.m % d == 0)

/-- `lsadd` (R149). -/
def lsAdd2 (a b : LongSum) : LongSum :=
  let fl := a.flags.or b.flags
  let cnt := min (a.count + b.count) 0xFFFF
  if a.m = 0 ∧ b.m = 0 then ⟨0, 0, cnt, fl⟩
  else if a.m = 0 then ⟨b.m, b.e, cnt, fl⟩
  else if b.m = 0 then ⟨a.m, a.e, cnt, fl⟩
  else
    let s := (Dy.mk a.m a.e).add ⟨b.m, b.e⟩
    if s.m = 0 then ⟨0, 0, cnt, fl⟩
    else
      -- the sum has at most 64 + |EA - EB| bits, so the loop ends within that many steps
      let e := lsFit s (Nat.log2 s.m.natAbs + 2) (min a.e b.e)
      let (m, ex) := floorAt s e
      let fl := if ex then fl else { fl with inexact := true }
      if 32767 < e then
        ⟨0, 0, cnt, { fl with inexact := true, posinf := fl.posinf || decide (0 < s.m),
                              neginf := fl.neginf || decide (s.m ≤ 0) }⟩
      else ⟨m, e, cnt, fl⟩

/-- A long-sum accumulator (R32); `none` in `val` is an empty one. -/
structure LsAcc where
  /-- A, L and Emax of an accumulator that is not empty -/
  val : Option (Int × Int × Int)
  count : Nat
  flags : LsFlags
  deriving DecidableEq, Repr

def LsAcc.empty : LsAcc := ⟨none, 0, {}⟩

/-- `ls_align` of R32: A, L and the inexact flag. -/
def lsAlign (a l : Int) (e : Int) : Int × Int × Bool :=
  if l < e then
    let d : Int := 2 ^ (e - l).toNat
    (a / d, e, a % d != 0)
  else (a, l, false)

/-- `ls_add` of R32. -/
def LsAcc.add (acc : LsAcc) (m e : Int) (cnt : Nat) (fl : LsFlags) : LsAcc :=
  let flags := acc.flags.or fl
  let count := min (acc.count + cnt) 0xFFFF
  if m = 0 then ⟨acc.val, count, flags⟩
  else
    let (a, l, em) := acc.val.getD (0, e - 96, e)
    let (a, l, ix1) := if em < e then lsAlign a (l) (e - 96) else (a, l, false)
    let em := max em e
    let (t, ex) := floorAt ⟨m, e⟩ l
    let a := a + t
    let (a, l, ix2) :=
      if a < -(2 ^ 159) ∨ 2 ^ 159 ≤ a then
        let (a, l, _) := lsAlign a l (l + 32)
        (a, l, true)
      else (a, l, false)
    ⟨some (a, l, em), count, { flags with inexact := flags.inexact || ix1 || !ex || ix2 }⟩

/-- Merging two accumulators (R32): the one with the smaller Emax is added into the other, so that the order does not matter
(R33).  DESIGN CHOICE (log entry 106): R32 does not say which of two is added into which. -/
def LsAcc.merge (acc o : LsAcc) : LsAcc :=
  let count := min (acc.count + o.count) 0xFFFF
  let flags := acc.flags.or o.flags
  match acc.val, o.val with
  | v, none => ⟨v, count, flags⟩
  | none, v => ⟨v, count, flags⟩
  | some v, some w =>
    let (big, a, l, _) := if v.2.2 < w.2.2 then (w, v) else (v, w)
    let r := (⟨some big, 0, flags⟩ : LsAcc).add a l 0 {}
    ⟨r.val.map fun (x, y, _) => (x, y, big.2.2), count, r.flags⟩

/-- The 32 bytes of a wide long sum (R34). -/
def LsAcc.wide (acc : LsAcc) : List Byte :=
  let (a, l) := match acc.val with
    | some (a, l, _) => (a, l)
    | none => (0, -(2 ^ 31))
  toBytes 24 (pat 192 a) ++ toBytes 4 (pat 32 l) ++ toBytes 2 acc.count ++
    toBytes 1 (b2n acc.flags.inexact + 2 * b2n acc.flags.invalid + 4 * b2n acc.flags.posinf +
      8 * b2n acc.flags.neginf) ++ toBytes 1 0

/-- Conversion of a long sum `a·2^l` with flags to a float (R35, R150). -/
def lsToFloat (t : Fmt) (m : RM) (sat : Bool) (u : Nat) (a l : Int) (fl : LsFlags) : Nat × Flags :=
  let ix : Flags := if fl.inexact then fNX else 0
  if fl.invalid || (fl.posinf && fl.neginf) then (t.nan, fNV ||| ix)
  else if fl.posinf then deliver t m sat u (.inf false, ix)
  else if fl.neginf then deliver t m sat u (.inf true, ix)
  else deliver t m sat u ((Dy.mk a l).x false, ix)

end Sys2Proof.Machine
end

