-- ==== Sys2Proof/Machine/State.lean ====
section
/-! DEFINITION. The state: everything the spec gives the machine, as plain data.  A core is named by its EID
(R343: device 21:12, die 11:10, endpoint 9:0); a tile by EID/8, a die by device·4+die; a record by the low 28 bits
of its handle (R275). -/

namespace Sys2Proof.Machine

/-! ## Traps -/

/-- What a fault record says of a trap or a posted event (R381). -/
structure TrapInfo where
  code : Nat
  cause : Nat := 0
  unit : Nat := 0
  index : Nat := 0
  /-- lowest lane that failed the check, 255 when none -/
  lane : Nat := 255
  defer : Bool := false
  tcode : Nat := 0
  ipc : Nat := 0
  rpc : Nat := 0
  va : Nat := 0
  word : Nat := 0
  /-- MODEL: the call block whose contribution starts again when the thread resumes (R371) -/
  blk : Option Nat := none
  deriving DecidableEq, Repr, Inhabited

/-! ## Threads (R62 to R119) -/

/-- Where a class L result goes. -/
inductive Target where
  /-- nothing is written, but the marker waits for it (R71) -/
  | none
  | vec (start w : Nat)
  | scal (start w : Nat)
  /-- a predicate, of a class L `fcmp` (R134) -/
  | pred (k : Nat)
  deriving DecidableEq, Repr, Inhabited

/-- A class L result of a run (R71 to R77). -/
structure Pend where
  id : Nat
  target : Target
  /-- lane and pattern, lane 0 for a scalar; the pattern of a predicate lane is 0 or 1 -/
  vals : List (Nat × Nat) := []
  flags : BitVec 6 := 0
  /-- slices that a later last-read mark has killed (R77), numbered within the target's file -/
  killed : BitVec 512 := 0
  /-- accesses or replies still to come -/
  need : Nat := 0
  /-- what an `ldf` has read so far, by element (codes at even, metadata at odd places), and how it is converted: the
  fat pointer, the instruction, the active lanes with their generators (R224) -/
  raw : List (Nat × Nat) := []
  conv : Option (Nat × Fields × List (Nat × Nat)) := none
  /-- the status of a `tlbinv`, written at its acknowledgement (R231) -/
  tlb : Bool := false
  /-- the result of a `pop`, an acquire when it says OK (R341) -/
  acq : Bool := false
  /-- written: the result has landed (R71) -/
  landed : Bool := false
  /-- a read of it met an error: nothing is written (R219) -/
  lost : Bool := false
  deriving DecidableEq, Repr, Inhabited

/-- What a waiting thread waits for, as snapshot at issue (R111, R112, R271, R273, R375). -/
inductive WaitFor where
  | event (mask addr cmp lim : Nat)
  | sleep (until_ : Nat)
  | tick (target : Nat)
  | barrier (obj lim : Nat)
  | group (asid grp : Nat)
  | call (block lim : Nat)
  deriving DecidableEq, Repr, Inhabited

/-- A `wait`, `sleep`, `tick.at`, `bwait`, `gbar` or `redw` in progress. -/
structure Waiting where
  what : WaitFor
  /-- the instruction, for its retirement -/
  f : Fields
  /-- core cycle of issue -/
  issued : Nat
  /-- sleep depth requested, 0 for a blocked instruction (R113) -/
  depth : Nat := 0
  /-- the events of a `wait` that were found to hold in the first cycle in which one did (R111) -/
  hit : Nat := 0
  deriving DecidableEq, Repr, Inhabited

/-- What an instruction that blocks part-way has begun, so that it does not begin it twice. -/
inductive Phase where
  /-- a release whose join set holds these accesses (R240) -/
  | join (ids : List Nat)
  /-- an edge reservation was requested, and granted or not (R195) -/
  | edge (granted : Bool)
  /-- `mwait`, `ctxsv` and others that have begun and wait for an engine; a `tksub` whose index stays reserved (R313) -/
  | begun (n : Nat)
  /-- a request that acts at its home is on its way, and the instruction waits for its answer (R313, R316) -/
  | asked
  /-- its answer: the result word, and the scope of the acquire that goes with it -/
  | told (w scope : Nat)
  /-- its answer is a fault: trap code, cause and address, and the ring index that stays reserved -/
  | failed (code cause va : Nat) (index : Option Nat)
  deriving DecidableEq, Repr, Inhabited

/-- The slot's state (R91).  A free slot holds no thread; a thread whose next words are not in its buffer is
fetching. -/
inductive TStatus where
  | ready
  | fetching
  /-- a marked instruction that has retired waits for the run's results; or an `exit`, `swin` and the like waits for them
  before it takes effect -/
  | parked (retired : Bool)
  /-- a trap waits for the run's earlier results (R75) -/
  | trapPark (t : TrapInfo)
  /-- blocked with a trap as its reason (R379) -/
  | trapped (t : TrapInfo)
  | blocked
  | waiting (w : Waiting)
  deriving DecidableEq, Repr, Inhabited

/-- Who is answered when a handler ends (R325): the sender's EID, slot and result, and its instruction. -/
structure ReplyTo where
  eid : Nat
  slot : Nat
  pend : Nat
  ipc : Nat := 0
  word : Nat := 0
  deriving DecidableEq, Repr, Inhabited

/-- A release in progress that the thread does not wait for itself (`rel`, R252). -/
structure Join where
  id : Nat
  scope : Nat
  ids : List Nat
  /-- stash granules are still to be written back (R188) -/
  stash : Bool
  pend : Nat
  deriving DecidableEq, Repr, Inhabited

/-- A thread. -/
structure Thread where
  pc : BitVec 20
  status : TStatus := .ready
  /-- the vector window: 512 slices of 4 bits for each of 32 lanes; those at SWINV and above are no part of it -/
  vec : List (BitVec 2048)
  scal : BitVec 1024
  /-- liveness (R76) -/
  vlive : BitVec 512
  slive : BitVec 256
  /-- slices, by lane, that a class I write of the present run has written (R73) -/
  runV : List (BitVec 512)
  runS : BitVec 256
  /-- predicate lanes that the present run has written, p1 first -/
  runP : List (BitVec 32) := List.replicate 7 0
  /-- p1 to p7 -/
  preds : List (BitVec 32)
  pend : List Pend := []
  fpsr : BitVec 6 := 0
  trapCnt : BitVec 16 := 0
  lastTrap : BitVec 8 := 0
  drainReq : Bool := false
  hslot : Bool := false
  deadRead : Bool := false
  swinv : Nat
  units : List Nat
  task : BitVec 32
  targ : List (BitVec 64)
  seed : List (BitVec 16)
  /-- fetch blocks held: LM offset and 32 bytes (R101) -/
  fetch : List (Nat × List Byte) := []
  /-- the ready stamp (R95) -/
  stamp : Nat := 0
  /-- instructions issued, for the watchdogs (R321, R361) -/
  issued : Nat := 0
  /-- order in which the handler started (R95) -/
  startNo : Nat := 0
  replyTo : Option ReplyTo := none
  phase : Option Phase := none
  joins : List Join := []
  /-- refusals and memory errors of the run, each under the number of what met it, which are delivered one after another from
  its marker on (R219, R319) -/
  deferred : List (Nat × TrapInfo) := []
  /-- faulted collective reads wait for this thread's `redw` or `exit` (R371): call block and fault -/
  collFault : List (Nat × TrapInfo) := []
  /-- the fault that the last walk for this thread met: ASID, page, trap code (R213) -/
  walkFault : Option (Nat × Nat × Nat) := none
  /-- the plan and the node that a routine on a yard core works for (R361) -/
  routine : Option (Nat × Nat) := none
  /-- MODEL: the steps of its creation, of its last acquire, and of its `isync`s with the LM bytes they cover (R102) -/
  born : Nat := 0
  acqAt : Nat := 0
  isyncs : List (Nat × Nat × Nat) := []
  /-- what of the thread's own SRAM holds an uncorrectable error (R380): vector slice i under i, scalar slice i under 512 + i,
  predicate k under 768 + k, the fetch block at LM offset o under 1024 + o / 32 -/
  ecc : List Nat := []
  deriving DecidableEq, Repr, Inhabited

/-! ## Memory accesses (R200 to R249) -/

/-- What an access does at its home. -/
inductive AccOp where
  | load
  | store (data : Nat)
  /-- a 4-bit code that merges into its byte by a read and a write (R225): whether the high nibble, and the code -/
  | nibble (hi : Bool) (v : Nat)
  /-- `amo` (R227): operation, type code, operand -/
  | amo (op ty b : Nat)
  /-- `cas` (R228): compare and new patterns -/
  | cas (cmp new : Nat)
  deriving DecidableEq, Repr, Inhabited

/-- One access of a thread that has issued and is not yet performed: pieces of naturally aligned bytes in order (R235). -/
structure Access where
  id : Nat
  eid : Nat
  slot : Nat
  op : AccOp
  /-- virtual address, for a fault record -/
  va : Nat
  /-- the memory key of each byte -/
  keys : List Nat
  /-- pieces still to perform: offset and length -/
  pieces : List (Nat × Nat)
  /-- order group, 4 for a read -/
  grp : Nat
  /-- the result it fills: its number and the lane, or the place of an `ldf` element -/
  pend : Nat := 0
  lane : Nat := 0
  /-- how a loaded value becomes the destination's pattern: type code and destination slices (R69) -/
  ty : Nat := 0
  dw : Nat := 0
  /-- value bytes read so far -/
  got : Nat := 0
  /-- the line may be cached and `.nc` was not written; the access drops the line (R201, R236) -/
  fill : Bool := false
  drop : Bool := false
  /-- the instruction's offset and base word, for a deferred trap -/
  ipc : Nat := 0
  word : Nat := 0
  /-- the instruction that it belongs to, by a number: its lanes share miss registers (R205) -/
  inst : Nat := 0
  /-- it holds miss registers: no access by own-LM offset -/
  regs : Bool := true
  /-- accesses that are performed first, of a `.rel` atomic (R240), and the scope at which -/
  after : List Nat := []
  ascope : Nat := 2
  /-- performed at a peer's home, with the acknowledgement still on its way (R350) -/
  done : Bool := false
  /-- how far a store to global memory is performed short of its home: 0 nowhere, 1 at core scope, 2 at tile scope (R234) -/
  near : Nat := 0
  /-- the task of the thread that has ended (R243) -/
  task : Nat := 0
  /-- the access of the piece before it, of a misaligned store, 0 for none (R235) -/
  prev : Nat := 0
  deriving DecidableEq, Repr, Inhabited

/-- The acknowledgement of an `sta` that is to come (R229): the instruction's number, the object's LM offset, the accesses
that its release waits for and the scope at which they are performed, the accesses of its own. -/
structure Ack where
  id : Nat
  eid : Nat
  slot : Nat
  obj : Nat
  after : List Nat
  scope : Nat := 2
  own : List Nat := []
  deriving DecidableEq, Repr, Inhabited

/-- A TLB entry (R208, R209): ASID, first page, pages, leaf (R212) with the PPN of the first page. -/
structure TlbEntry where
  asid : Nat
  vpn : Nat
  pages : Nat
  leaf : Nat
  deriving DecidableEq, Repr, Inhabited

/-- A page walk (R214): who waits for it, and whether it runs. -/
structure Walk where
  asid : Nat
  vpn : Nat
  core : Nat
  slots : List (Nat × Nat)
  running : Bool
  deriving DecidableEq, Repr, Inhabited

/-- A range-lock entry (R217): the command that holds it, and its bytes in LM or virtual form. -/
structure RLock where
  owner : Nat
  lm : Bool
  lo : Nat
  hi : Nat
  deriving DecidableEq, Repr, Inhabited

/-! ## Local memory (R175 to R197) -/

/-- What a granule of LM belongs to (R175). -/
inductive Region where
  | context
  /-- text of a task: its CODE and CODEGR, and the granule's index in it -/
  | code (addr gr idx : Nat)
  | data (handle : Nat)
  /-- an edge ring, by the edge's number -/
  | ring (edge : Nat)
  /-- MODEL: the ring of an in-port, while a binding is being made -/
  | unborn (port : Nat)
  deriving DecidableEq, Repr, Inhabited

/-- The state of a granule of a stash window, with its dirty bytes (R182). -/
structure StashGr where
  filled : Bool
  dirty : BitVec 4096
  /-- an access waits for its fill (R187), and the trap code of a fill that faulted -/
  want : Bool := false
  fault : Option Nat := none
  /-- an acquire has emptied it while accesses that were issued before are still to be performed in it: they find it filled, a
  later one finds it empty -/
  stale : Bool := false
  deriving DecidableEq, Repr, Inhabited

/-- A stash window (R182). -/
structure Stash where
  lo : Nat
  va : Nat
  grs : List StashGr
  deriving DecidableEq, Repr, Inhabited

/-- What stands in an edge ring's queue (R195, R197). -/
inductive EdgeItem where
  | data (slot : Nat)
  | eos
  | drain
  deriving DecidableEq, Repr, Inhabited

/-- An edge channel (R193): producer and consumer task, ring, counts, queue. -/
structure Edge where
  id : Nat
  asid : Nat
  prod : Nat
  cons : Nat
  inPort : Nat
  /-- first core of the consumer berth, once bound -/
  core : Nat
  off : Nat
  ntok : Nat
  tsize : Nat
  wcount : Nat := 0
  rcount : Nat := 0
  nprod : Nat
  /-- which of the edges between these two tasks (R278) -/
  k : Nat := 0
  /-- the ring is allotted; before the consumer's binding it acts as a full ring (R286).  An edge whose ring has been
  freed for good has `ntok` 0 -/
  placed : Bool := false
  /-- slots reserved and not yet written -/
  resv : Nat := 0
  /-- reservations that wait for a slot, by packet (R195) -/
  waitq : List Nat := []
  queue : List EdgeItem := []
  held : Option Nat := none
  /-- producer cores that have written end-of-stream -/
  ended : List Nat := []
  marker : Bool := false
  deriving DecidableEq, Repr, Inhabited

/-! ## Matrix units (R151 to R174) -/

/-- A command of a core's matrix queue (R155), with the operand values read at issue. -/
structure MxCmd where
  id : Nat
  /-- 1 `mma`, 2 `mmaz`, 3 `mld`, 4 `mst`, 5 `msteer`, 6 `mclr` (R164) -/
  kind : Nat
  task : BitVec 32
  thread : Nat
  phys : Nat
  logical : Nat
  pa : Nat
  pb : Nat
  sa : Nat
  sb : Nat
  k : Nat
  la : Bool
  lb : Bool
  rnd : Nat
  sat : Bool
  grp : Nat
  /-- the accesses that precede it and that it must see (R161) -/
  after : List Nat
  started : Bool := false
  /-- what the operand stager holds of the next quantum: rows of A, then of B, each the codes of its steps; a block's codes
  are followed by its metadata word (R158) -/
  stage : List (List Nat) := []
  /-- the lowest step of the next quantum whose access faulted: step, cause, address (R162) -/
  lim : Option (Nat × Nat × Nat) := none
  deriving DecidableEq, Repr, Inhabited

/-- An accumulator slot (R152, R164). -/
structure AccSlot where
  fp64 : Bool := false
  /-- 32 rows of 32 FP32 patterns, or 16 of 32 FP64 patterns, row by row -/
  val : List (BitVec 64)
  kind : Nat := 0
  flags : BitVec 4 := 0
  srgen : BitVec 16 := 1
  pos : Nat := 0
  /-- a fault: cause and address -/
  fault : Option (Nat × Nat) := none
  owner : Option Nat := none
  logical : Nat := 0
  deriving DecidableEq, Repr, Inhabited

/-! ## Copy engines (R253 to R265) -/

/-- The kinds of copy. -/
inductive CopyKind where
  | plain
  | gather
  | format (rnd : Nat) (sat : Bool)
  deriving DecidableEq, Repr, Inhabited

/-- A copy command (R256). -/
structure CopyCmd where
  id : Nat
  kind : CopyKind
  eid : Nat
  slot : Nat
  task : BitVec 32
  asid : Nat
  ls : Bool
  ld : Bool
  src : Nat
  dst : Nat
  n0 : Nat
  n1 : Nat
  n2 : Nat
  ss1 : Int
  ss2 : Int
  ds1 : Int
  ds2 : Int
  bar : Option Nat
  mc : Option Nat
  idx : Nat
  after : List Nat
  deriving DecidableEq, Repr, Inhabited

/-- A copy channel (R191, R265). -/
structure Chan where
  seq : BitVec 16 := 0
  bytes : Nat := 0
  cmd : Option CopyCmd := none
  /-- a fault: cause and address -/
  fault : Option (Nat × Nat) := none
  /-- NV, OF, UF, NX from bit 3 down (R265) -/
  flags : BitVec 4 := 0
  srgen : BitVec 16
  /-- bytes read and not yet written, and the index of a gather row, by row (R257, R262) -/
  buf : List Byte := []
  index : Option (Nat × Int) := none
  deriving DecidableEq, Repr, Inhabited

/-! ## Messages (R317 to R332) -/

/-- A message in a handler queue (R320). -/
inductive HMsg where
  | am (addr : Nat) (args : List Nat) (reply : Option ReplyTo)
  | atomic (acc : Nat)
  deriving DecidableEq, Repr, Inhabited

/-- An arrival-match entry (R294). -/
structure ArrMatch where
  tag : Nat
  handle : Nat
  target : Nat
  opmask : Nat
  count : Nat
  deriving DecidableEq, Repr, Inhabited

/-- A reserved mailbox place (R330): mailbox, packet, the core cycle at which it lapses. -/
structure MbResv where
  box : Nat
  pkt : Nat
  until_ : Nat
  deriving DecidableEq, Repr, Inhabited

/-! ## Tasks on a core (R285 to R292) -/

/-- What a binding holds on one core. -/
structure Binding where
  handle : Nat
  /-- slots and units held and not yet filled -/
  slots : List Nat
  units : List (List Nat)
  /-- physical accumulator slots, logical order -/
  accs : List Nat
  /-- first core of the berth -/
  first : Nat
  dataLo : Nat
  dataN : Nat
  /-- out-ports and in-ports: the edge numbers -/
  outs : List Nat
  ins : List (Option Nat)
  /-- an `eread` of the task on this core has returned KIND 2 (R386) -/
  sawDrain : Bool := false
  deriving DecidableEq, Repr, Inhabited

/-! ## Cores -/

/-- A core. -/
structure Core where
  ctx : Option Nat := none
  threads : Keyed Thread := []
  /-- the rotating pointer (R95) -/
  ptr : Nat := 0
  startNo : Nat := 0
  limit : BitVec 2 := 2
  last : BitVec 2 := 0
  /-- the sleep depth the core is in, 0 when awake, and the cycle at which it issues again -/
  depth : Nat := 0
  wakeAt : Nat := 0
  /-- the cycle of the event that wakes it, once there is one (R113) -/
  woke : Option Nat := none
  /-- the cycle in which units were last asked for, and by whom in the order of R64: 0 a binding, 1 and the sender's EID a
  spawn, above them a `swin` -/
  unitsAt : Nat × Nat := (0, 0)
  cycle0 : Nat := 0
  /-- the cycle from which the issue port is free (R95) -/
  busy : Nat := 0
  mboxes : List (List (BitVec 64)) := [[], [], [], []]
  mbRec : List (List Nat) := [[], [], [], []]
  mbResv : List MbResv := []
  /-- the cycle in which an entry was last accepted, and its mailbox (R328); before the first one every mailbox has its turn -/
  mbAt : Nat × Nat := (0, 3)
  match_ : Keyed ArrMatch := []
  handlerQ : List HMsg := []
  gran : Keyed Region := []
  stash : List Stash := []
  rlocks : List RLock := []
  accs : List AccSlot
  mxq : List MxCmd := []
  mxw : BitVec 8 := 1
  chan : List Chan
  shadow : Option (Nat × CopyCmd) := none
  bindings : List Binding := []
  /-- L1D lines: line number (memory key / 64) and bytes -/
  l1d : Keyed (List Byte) := []
  tlb : List TlbEntry := []
  frozen : Bool := false
  /-- a freeze asked for and not yet done: who is answered -/
  freezing : Option ReplyTo := none
  /-- MODEL: the step at which the freeze image was written -/
  imageAt : Nat := 0
  spill : List Nat := []
  /-- a CTXSW that runs on it: `some none` a switch-out, else a switch-in with its descriptor's address (R404) -/
  switching : Option (Option Nat) := none
  deriving DecidableEq, Repr, Inhabited

/-- A tile: the MAC array's arbiter (R157), the accumulator port (R155) and the tile TLB (R209). -/
structure Tile where
  ptr : Nat := 7
  credit : Nat := 0
  /-- the core whose quantum is in progress, and the k-steps left of it -/
  run : Option (Nat × Nat) := none
  /-- the accumulator port's commands in the order in which they became eligible: cycle, position of the core, command
  (R155) -/
  portQ : List (Nat × Nat × Nat) := []
  /-- pages, by ASID, whose last walk for an engine of the tile met a fault, with its code (R213) -/
  noWalk : List (Nat × Nat × Nat) := []
  tlb : List TlbEntry := []
  deriving DecidableEq, Repr, Inhabited

/-! ## Graph memory (R274 to R302) -/

/-- Task states (R279). -/
inductive TaskState where
  | free | made | armed | ready | ahead | staging | running | faulted | done | cancelling
  deriving DecidableEq, Repr, Inhabited

/-- An operand descriptor (R277), with how its prefetch stands. -/
structure TaskOp where
  src : Nat
  len : Nat
  lmofs : Nat
  sym : Bool
  pw : Bool
  all : Bool
  rdy : Bool
  v : Bool
  /-- 0 not started, 1 in flight, 2 landed, 3 faulted -/
  fetch : Nat := 0
  /-- the first byte of the prefetch that has not been read, and the places of the lines beyond it that have -/
  got : Nat := 0
  ahead : List Nat := []
  /-- what has been read and not yet written, by place -/
  buf : List (Nat × List Byte) := []
  /-- the prefetch's number, and those of the prefetches that it was merged with at its start (R290) -/
  no : Nat := 0
  mates : List Nat := []
  deriving DecidableEq, Repr, Inhabited

/-- The operand without a prefetch. -/
def TaskOp.unfetched (o : TaskOp) : TaskOp := { o with fetch := 0, got := 0, ahead := [], buf := [], no := 0, mates := [] }

/-- A successor entry (R278). -/
structure Succ where
  handle : Nat
  opmask : Nat
  deriving DecidableEq, Repr, Inhabited

/-- An edge entry (R278). -/
structure EdgeEnt where
  peer : Nat
  ntok : Nat
  tsize : Nat
  inEdge : Bool
  deriving DecidableEq, Repr, Inhabited

/-- A task record (R276). -/
structure Rec where
  handle : Nat
  asid : Nat
  state : TaskState
  cls : Nat
  cores : Nat
  threads : Nat
  slices : Nat
  slots : Nat
  ra : Bool
  pin : Nat
  pincore : Nat
  queue : Nat := 0
  prio : Nat := 0
  count : Int
  gid : Nat
  lmgr : Nat
  code : Nat
  codegr : Nat
  entry : Nat
  qentry : Nat := 0
  targ : List (BitVec 64)
  ops : List TaskOp
  succ : List Succ
  edges : List EdgeEnt
  /-- the berth's first core, while bound -/
  berth : Option Nat := none
  /-- the text: 0 not asked for, 1 in flight, 2 resident, 3 faulted; its bytes landed, and the berth cores it is loaded
  onto (R287) -/
  text : Nat := 0
  textGot : Nat := 0
  loads : List Nat := []
  fire : Nat := 255
  /-- the state before a fault (R315) -/
  before : TaskState := .made
  /-- the cycle of READY or of arming, and the order among equal cycles -/
  since : Nat := 0
  tabled : Bool := false
  /-- a thread of the task ended by drain (R387) -/
  drained : Bool := false
  /-- a completion stopped by a write-back fault (R189) -/
  wbFault : Bool := false
  /-- MODEL: the cores beyond its berth on which threads of the task have run (R108) -/
  ran : List Nat := []
  /-- an arrangement that a released in-edge ring keeps the first core (R291) -/
  keepCore : Option Nat := none
  deriving DecidableEq, Repr, Inhabited

/-- A graph instance on a device (R301, R302, R384). -/
structure Inst where
  asid : Nat
  gid : Nat
  queue : Nat
  qexp : Nat
  snap : Nat
  snapLen : Nat
  groups : List Nat
  /-- cycle at which the present quiet window began, and whether it has been reported -/
  since : Nat
  die : Nat
  told : Bool := false
  draining : Bool := false
  suspended : Bool := false
  /-- a gang's instance that is prepared or committed and not yet armed: start tick (R354) -/
  armAt : Option Nat := none
  committed : Bool := true
  deriving DecidableEq, Repr, Inhabited

/-- A merge entry of a die's prefetches (R290). It holds the context as well, since a merge leaves the bytes that each
prefetch lands as they are. DEDUCED (log entry 114). -/
structure Merge where
  asid : Nat
  addr : Nat
  len : Nat
  tag : Nat
  start : Nat
  /-- the number of the prefetch -/
  no : Nat
  deriving DecidableEq, Repr, Inhabited

/-- An event record (R411). -/
structure Event where
  seq : Nat
  tick : Nat
  type : Nat
  eid : Nat
  arg0 : Nat
  arg1 : Nat
  deriving DecidableEq, Repr, Inhabited

/-- A die's recorder (R411): its last 65,536 events, oldest first; the number of the last one; corrected errors counted
for each structure, DRAM under 0 and the SRAMs from 1 on (R410).  Under key device·8 + die, the Yard die being die 4. -/
structure Recorder where
  events : List Event := []
  no : Nat := 0
  corrected : Keyed Nat := []
  /-- ticks of the corrected errors of the last 24 hours, by DRAM page -/
  pages : Keyed (List Nat) := []
  deriving DecidableEq, Repr, Inhabited

/-- A compute die. -/
structure Die where
  /-- core cycles, counted at the clock in force -/
  cycles : Nat := 0
  mhz : Nat := 1300
  /-- the hottest junction in tenths of a degree, and the power in watts, as last measured; issue has stopped (R406) -/
  temp : Nat := 250
  power : Nat := 0
  stopped : Bool := false
  /-- ready-table handles in order of entry, and those that wait for a place (R282) -/
  ready : List Nat := []
  overflow : List Nat := []
  /-- the grant pointers (R283) -/
  grants : List Nat := [0, 0, 0, 0, 0, 0, 0, 0]
  /-- frozen queues: ASID·256 + queue -/
  frozenQ : List Nat := []
  walks : List Walk := []
  merges : List Merge := []
  deriving DecidableEq, Repr, Inhabited

/-! ## Splicing (R333 to R342) -/

/-- A queue entry of a splice table. -/
structure QEntry where
  pa : Nat
  fifo : Bool
  logn : Nat
  window : Nat
  nosplice : Bool
  tail : Nat := 0
  head : Nat := 0
  shadow : Nat := 0
  deriving DecidableEq, Repr, Inhabited

/-- A waiting push or pop: queue address, the push's value, when it expires in Yard cycles, who is answered. -/
structure QOp where
  pkt : Nat
  pa : Nat
  push : Option Nat
  until_ : Nat
  src : ReplyTo
  deriving DecidableEq, Repr, Inhabited

/-! ## Collectives (R355 to R377) -/

/-- A node of a plan (R356). -/
structure PNode where
  dev : Nat
  parent : Option Nat
  pslot : Nat
  depth : Nat
  deriving DecidableEq, Repr, Inhabited

/-- A member of a plan (R356). -/
structure PMem where
  eid : Nat
  node : Nat
  slot : Nat
  /-- next epoch, counted without the modulo -/
  next : Nat := 0
  deriving DecidableEq, Repr, Inhabited

/-- One element as a node combines it: a bit pattern, a long-sum accumulator, or the long sum of one contribution. -/
inductive Elem where
  | pat (v : Nat)
  | ls (a : LsAcc)
  | one (l : LongSum)
  deriving DecidableEq, Repr, Inhabited

/-- A value on its way through the tree: the members it holds, its elements in order (for a gather the blocks of the members
in the bitmap's order), the call's LEN, ROOT and deadline, the flags of its combinations. -/
structure Share where
  bitmap : List Nat
  elems : List Elem
  len : Nat
  root : Nat
  deadline : Nat
  flags : BitVec 6 := 0
  deriving DecidableEq, Repr, Inhabited

/-- An epoch that a node knows to be open: its present slots, whether it has forwarded it, its deadline under DLMODE 1. -/
structure NEpoch where
  node : Nat
  epoch : Nat
  slots : List (Nat × Share) := []
  forwarded : Bool := false
  deadline : Option Nat := none
  deriving DecidableEq, Repr, Inhabited

/-- A combination by a user routine (R361): at a node's forward, or for a correction of a member; what is combined so far,
the child slots still to come, the yard core that runs the routine now. -/
structure Job where
  node : Nat
  epoch : Nat
  member : Option Nat
  /-- the thread whose `redfix` it is for, its range-lock entry, and how many corrections it applies (R371, R377) -/
  eid : Nat := 0
  tslot : Nat := 0
  lock : Nat := 0
  fixes : Nat := 0
  acc : Share
  rest : List (Nat × Share)
  core : Option Nat := none
  deriving DecidableEq, Repr, Inhabited

/-- What the root sends down for an epoch: the result, or an abort code. -/
structure RResult where
  epoch : Nat
  share : Share
  late : Nat := 0
  abort : Nat := 0
  dlused : Nat := 0
  offused : Nat := 0
  deriving DecidableEq, Repr, Inhabited

/-- A call of a member (R362): `st` is STATE, 1 while it is pending; `bitmap` what its result holds so far. -/
structure Call where
  id : Nat
  member : Nat
  epoch : Nat
  block : Nat
  src : Nat
  dst : Nat
  len : Nat
  root : Nat
  deadline : Nat
  st : Nat := 1
  /-- ABORTCODE -/
  abort : Nat := 0
  bitmap : List Nat := []
  /-- DST has been written, and the status waits for the member's core (R370) -/
  wrote : Bool := false
  /-- corrections of this epoch are discarded (R363) -/
  discard : Bool := false
  deriving DecidableEq, Repr, Inhabited

/-- A plan (R355), held once for the pod: every Yard of its nodes holds the same entry number.  A plan that is being
prepared names the devices still to answer and who waits for it. -/
structure Plan where
  entry : Nat
  gen : Nat
  asid : Nat
  kind : Nat
  mode : Nat
  op : Nat
  ls : Bool
  ty : Nat
  dlmode : Nat
  latefrac : Nat
  pstart : Nat
  period : Nat
  offset : Nat
  hop : Nat
  routine : List Byte
  nodes : List PNode
  members : List PMem
  prep : List Nat := []
  src : Option ReplyTo := none
  freed : Bool := false
  /-- OFF_e of the epochs after the first two (R365) -/
  offs : Keyed Nat := []
  epochs : List NEpoch := []
  /-- epochs that are open, with the LEN and ROOT of their first contribution (R363, R364) -/
  opened : List (Nat × Nat × Nat) := []
  /-- arrivals that wait in staging (R366): node, epoch, slot, share -/
  staged : List (Nat × Nat × Nat × Share) := []
  calls : List Call := []
  /-- results at their member's node that wait for their call: member and result -/
  results : List (Nat × RResult) := []
  /-- corrections at their member's node, not yet counted in PENDFIX, and those that are: member, epoch, share -/
  fixes : List (Nat × Nat × Share) := []
  held : List (Nat × Nat × Share) := []
  /-- shake-outs that the root has committed and not yet sent on, in commit order: epoch, share -/
  shakes : List (Nat × Share) := []
  jobs : List Job := []
  /-- devices lost, those that have lost the root, and whether the plan is dead for all (R370) -/
  lost : List Nat := []
  cutOff : List Nat := []
  dead : Bool := false
  /-- a correction half applied: member, epoch, element reached, flags so far (R377) -/
  half : List (Nat × Nat × Nat × BitVec 6) := []
  deriving DecidableEq, Repr, Inhabited

/-! ## The fabric (R343 to R354) -/

/-- What is answered to a request. -/
inductive Answer where
  /-- RETRY-LATER (R350); what stands with a request that has had no answer yet -/
  | later
  /-- the patterns of its result -/
  | result (vals : List (Nat × Nat))
  /-- a refusal, with its reason (R318) -/
  | refuse (reason : Nat)
  /-- nothing that its sender waits for -/
  | quiet
  /-- the fabric's own: STALE-RETRY (R350), and a mailbox entry refused as full (R329) -/
  | stale
  | full
  deriving DecidableEq, Repr, Inhabited

/-- What a request asks for. -/
inductive Body where
  | spawn (off swinv : Nat) (scal : Nat) (task : BitVec 32) (targ : List (BitVec 64))
  | am (addr : Nat) (args : List Nat) (reply : Bool)
  | deposit (off : Nat) (args : List Nat) (tag : Nat)
  /-- mailbox entry: box, value, `.nb` -/
  | mbox (k : Nat) (v : Nat) (nb : Bool)
  | push (pa v : Nat)
  | pop (pa : Nat) (timeout : Option Nat)
  | popCancel (pa pend : Nat)
  /-- a task or ring instruction performed at another device: operation number and arguments -/
  | taskOp (op : Nat) (args : List Nat)
  | decr (handle n opmask : Nat) (queue qentry : Nat)
  | edgeResv (edge : Nat)
  | edgeToken (edge : Nat) (bytes : List Byte)
  | eosMark (edge core : Nat)
  /-- a barrier update at an object: 0 bytes, 1 arrival, 2 `bexp`, 3 `bexp.arv`, 4 `binit`; amount -/
  | barrier (key kind n : Nat)
  | eret (slot act target : Nat)
  /-- a member's contribution, whose bytes are read when it leaves: plan and call -/
  | contrib (plan call : Nat)
  /-- a child node's forward: plan, child node, epoch -/
  | forward (plan node epoch : Nat) (share : Share)
  /-- a node's shake-out for the root; what comes down the tree to a node: a result, a correction (R367, R368) -/
  | shake (plan node epoch : Nat) (share : Share)
  | planResult (plan node : Nat) (r : RResult)
  | planFix (plan node epoch : Nat) (share : Share)
  /-- a thread's access to the memory of another device, by its number (R348) -/
  | access (id : Nat)
  /-- an engine's access to a line of another device's memory; `State.fars` keeps what it reads or writes (R348) -/
  | engine
  | gangPrep (gang : Nat)
  | gangCommit (gang : Nat)
  | planPrep (plan : Nat)
  /-- a refusal on its way back: reason (R319) -/
  | refusal (reason ipc : Nat)
  /-- the reply of a handler (R325) -/
  | amrReply (v : Nat)
  /-- a reply that a frozen core catches, and an LM atomic that it catches, by its access (R393) -/
  | reply (a : Answer)
  | lmAtomic (acc : Nat)
  deriving DecidableEq, Repr, Inhabited

/-- How a request stands at its sender. -/
inductive PktState where
  /-- on its way -/
  | flying
  /-- it has reached the handler unit of another device, which performs it (R350) -/
  | arrived
  /-- a mailbox entry refused as full, resent at a later time (R329) -/
  | refused
  /-- answered RETRY-LATER, resent at a later time (R350) -/
  | later
  /-- accepted and not yet answered: a recorded sender (R330), a waiting push or pop (R338); of a token, placed on its port and
  waiting for its reservation (R195) -/
  | recorded
  /-- answered at the handler unit of another device, the reply on its way (R350, R351) -/
  | answered
  /-- answered there, the reply lost on its way -/
  | done
  deriving DecidableEq, Repr, Inhabited

/-- A request in the fabric (R348). -/
structure Packet where
  id : Nat
  asid : Nat
  /-- source EID and slot, and the result that its reply writes (0 for none) -/
  src : Nat
  slot : Nat
  pend : Nat
  /-- destination: an EID; for a die's dispatcher or a device's Yard, one of an endpoint of their own (`Net.lean`) -/
  dst : Nat
  /-- the handler unit at the destination, 0 for the endpoint's own, else a Yard's reduction node (R348) -/
  sub : Nat := 0
  cls : Nat
  seq : Nat
  /-- the tick of the first transmission, once there has been one; since when it waits at its Yard port (R348, R351) -/
  tick0 : Option Nat
  queued : Option Nat := none
  /-- this copy has left its port -/
  out : Bool := false
  body : Body
  state : PktState := .flying
  /-- the reply that its unit has given last -/
  ans : Answer := .later
  /-- refusals as full so far, RETRY-LATER refusals so far, and retransmissions so far -/
  tries : Nat := 0
  laters : Nat := 0
  resent : Nat := 0
  /-- the abandoned requests of its stream that it reports (R348) -/
  tells : List Nat := []
  /-- time of the next resend: die cycles for a mailbox entry, ticks otherwise -/
  due : Nat := 0
  ipc : Nat := 0
  word : Nat := 0
  escape : Bool := false
  /-- accesses that must be performed first, and the scope at which (R243) -/
  after : List Nat := []
  ascope : Nat := 2
  deriving DecidableEq, Repr, Inhabited

/-- An access of an engine, or of another unit of a device, to a line of another device's memory (R345, R348): its request, who asks
(EID, slot and command as its reads name them, 0 for one that reads as the last of all), the line, whether it writes, the bytes that
it carries or has brought, and how it stands: 0 on its way, 1 answered, 2 not performed. -/
structure FarAccess where
  pkt : Nat
  eid : Nat
  slot : Nat
  id : Nat
  line : Nat
  write : Bool
  bytes : List (Nat × Byte)
  st : Nat
  deriving DecidableEq, Repr, Inhabited

/-- A cached reply of a handler unit (R350): source, class, sequence number, which request it was, the reply, the tick at
which it is freed. -/
structure CachedReply where
  unit : Nat
  src : Nat
  cls : Nat
  seq : Nat
  pkt : Nat
  reply : Answer
  freeAt : Nat
  deriving DecidableEq, Repr, Inhabited

/-- A virtual channel of a Yard port (R351): the recovery threshold in ns, and the waits of the last 65,536 packets that left. -/
structure Vc where
  threshold : Nat := 20000
  waits : List Nat := []
  deriving DecidableEq, Repr, Inhabited

/-- A Yard port (R351, R352). -/
structure Port where
  up : Bool := true
  routed : Bool := true
  /-- one virtual channel for each class (log entry 104) -/
  vcs : List Vc := List.replicate 7 {}
  /-- the Yard cycle of the last computation, and the packets moved to the escape channel -/
  computed : Nat := 0
  moved : Nat := 0
  deriving DecidableEq, Repr, Inhabited

/-- A gang launch in progress (R354). -/
structure Gang where
  id : Nat
  asid : Nat
  src : ReplyTo
  template : Nat
  rename : Nat
  queue : Nat
  tstart : Nat
  devs : List Nat
  gid : Nat
  /-- the issuing core's die on its device -/
  die : Nat
  refusedG : List Nat
  round : Nat
  /-- devices prepared, and refusals met in this round: device and status; devices still to answer; 0 preparing, 1 aborting,
  2 committing -/
  prepared : List Nat
  refusals : List (Nat × Nat)
  waits : List Nat
  phase : Nat := 0
  deriving DecidableEq, Repr, Inhabited

/-! ## Host, power, security (R402 to R413) -/

/-- A host function's registers (R403). -/
structure HostFn where
  /-- the context that the function is bound to, and its cores, none for no limit -/
  asid : Option Nat := none
  cores : Option (List Nat) := none
  rdesc : BitVec 64 := 0
  rpubRes : BitVec 64 := 0
  watch : List (BitVec 64) := List.replicate 16 0
  ctxdesc : BitVec 64 := 0
  ctxstat : BitVec 64 := 0
  pwrcap : BitVec 64 := 2600
  pfbase : BitVec 64 := 0
  recsel : BitVec 64 := 0
  /-- the value the last read returned, and the MSI-X vectors raised -/
  read : BitVec 64 := 0
  msix : List Nat := []
  deriving DecidableEq, Repr, Inhabited

/-- A device. -/
structure Device where
  /-- bring-up, the last step done: 0 none, 1 firmware accepted, 2 step dies and masts, 3 die links, 4 UALink ports trained, 5 PCIe
  link up; 9 recovery (R408, R413) -/
  stage : Nat := 0
  /-- its number has been set since the last cold reset (R344) -/
  numbered : Bool := false
  tick : Nat := 0
  yard : Nat := 0
  /-- the tick's estimated error in ns, whether it is locked, the tick of the last measurement -/
  err : Nat := 0
  locked : Bool := false
  measured : Nat := 0
  master : Bool := false
  /-- the rate by which its tick is slewed, in parts per million, and what is left of a nanosecond by it; the master has
  failed or been lost since the last measurement; its tick has stepped forward at a join (R353) -/
  slew : Int := 0
  slewRest : Nat := 0
  adrift : Bool := false
  joined : Bool := false
  ports : List Port := List.replicate 24 {}
  unreachable : List Nat := []
  /-- since when no route leads to a device: device and tick -/
  noRoute : Keyed Nat := []
  queues : List QEntry := []
  qops : List QOp := []
  /-- the GEN that the Yard last recorded, by entry number (R358) -/
  planGen : Keyed Nat := []
  fns : List HostFn := List.replicate 17 {}
  /-- power has been cut (R406) -/
  cutoff : Bool := false
  /-- fuses: security version, and the four key slots by the hash that each holds with whether it is revoked (R408) -/
  fuseVer : Nat := 0
  keySlots : List (Nat × Bool) := List.replicate 4 (0, false)
  /-- the digest of the accepted firmware image (R409) -/
  image : BitVec 64 := 0
  /-- the last SPDM answer: the request, numbered in the order of R409, and its contents -/
  spdm : Option (Nat × List (BitVec 64)) := none
  linkWidth : Nat := 16
  linkRate : Nat := 128
  discarded : Nat := 0
  refusedBar : Nat := 0
  deriving DecidableEq, Repr, Inhabited

/-! ## Contexts (R396) -/

/-- A loaded context. -/
structure Ctx where
  ctxgr : Nat
  root : Nat
  fring : Nat
  csv : Nat
  frz : Nat
  /-- range entries (R210): VBASE, VLAST, ATTR, enabled -/
  ranges : List (Nat × Nat × Nat × Bool)
  handlers : List (Nat × Nat)
  /-- task queues: ring descriptors' address (0 disabled) and priority -/
  queues : List (Nat × Nat)
  dropped : Nat := 0
  deriving DecidableEq, Repr, Inhabited

/-- An entry of a device's group table (R299): the instance that filled it, the core EIDs, and who has arrived at
the group's barrier in this episode and in the next (R273). -/
structure Group where
  gid : Nat
  eids : List Nat
  arrived : List Nat := []
  early : List (Nat × Nat) := []
  deriving DecidableEq, Repr, Inhabited

/-! ## Outcomes -/

/-- Reasons for the machine to stop.  No meaning of this model ends in one: every error the spec describes is a trap, a
status or a record, which is a next state. -/
inductive Fault where
  /-- never raised: the spec stops the machine nowhere; safe -/
  | none
  deriving DecidableEq, Repr

/-- Reasons to give no meaning. -/
inductive Refusal where
  /-- an instruction that is not modelled, raised by its arm of `exec`; safe -/
  | notModelled (mnemonic : String)
  deriving DecidableEq, Repr

/-! ## The machine -/

/-- The whole machine: a pod of devices, their hosts, and what is on its way between them. -/
structure State where
  /-- every byte that is not 0: device DRAM, host memory and LM, by memory key (`Ops.lean`) -/
  mem : List Host.Cell
  cores : Keyed Core
  tiles : Keyed Tile
  dies : Keyed Die
  devs : Keyed Device
  recorders : Keyed Recorder
  ctxs : Keyed Ctx
  recs : Keyed Rec
  /-- generations of records that have been freed (R275), 0 where none is kept -/
  gens : Keyed Nat
  insts : List (Nat × Inst)
  /-- group tables: device·2^24 + ASID·256 + group (R299) -/
  groups : Keyed Group
  edges : List Edge
  accs : List Access
  acks : List Ack
  net : List Packet
  cache : List CachedReply
  /-- accesses of engines to other devices' memory (R348) -/
  fars : List FarAccess
  /-- requests of classes 1 and 2 that their senders have abandoned before they reached their unit, with their streams, until the
  unit is told (R348) -/
  gaps : List (Nat × Nat × Nat × Nat)
  /-- sequence numbers by stream: source, class, destination (R348) -/
  seqs : List ((Nat × Nat × Nat) × Nat)
  /-- sequence numbers that may not be used again yet: stream, number, tick of the first transmission (R348) -/
  used : List ((Nat × Nat × Nat) × Nat × Nat)
  /-- accelerators of the pod that are no Kwezia devices, by their numbers (R347) -/
  accels : List Nat
  /-- plans, each under a number of its own; a freed one stays for the calls that named it (R355) -/
  plans : Keyed Plan
  gangs : List Gang
  /-- bytes with an uncorrectable error (R179, R204), by memory key -/
  bad : List Nat
  trt : Nat
  /-- MODEL: fetch blocks of LM as they stood before a write: memory key, the step that wrote, the bytes (R102) -/
  past : List (Nat × Nat × List Byte)
  /-- the slot that holds the issue port: core EID (or yard core) and slot -/
  cur : Nat × Nat
  /-- MODEL: what the step being taken acts on, as its constructor's docstring lists it -/
  who : List Nat
  /-- events of the outside world that are to come, in order, with what each acts on -/
  inputs : List (Instr × List Nat)
  /-- MODEL: the next number for a result, access, command or packet -/
  nextId : Nat
  /-- MODEL: steps taken, which index the free values (log entry 2) -/
  steps : Nat
  deriving DecidableEq, Repr

/-- A free accumulator slot.  DESIGN CHOICE (log entry 1): SRGEN of a slot that no task has been assigned is 1. -/
def AccSlot.reset : AccSlot := { val := List.replicate 1024 0 }

/-- A core that nothing has been loaded onto: it has no occupied slot and sleeps at depth LIMIT (R113).  Copy channels'
generators stand at channel number plus 1 within the core (R263). -/
def Core.reset (pos : Nat) : Core :=
  { depth := 2
    accs := List.replicate 4 AccSlot.reset
    chan := [{ srgen := BitVec.ofNat 16 (2 * pos + 1) }, { srgen := BitVec.ofNat 16 (2 * pos + 2) }] }

/-- The machine right after reset (R275, R413): one device, with number 0, nothing loaded, nothing on its way. -/
def State.reset : State :=
  { mem := [], cores := [], tiles := [], dies := [], devs := [(0, {})], recorders := [], ctxs := [], recs := [], gens := [],
    insts := [], groups := [], edges := [], accs := [], acks := [], net := [], cache := [], fars := [], gaps := [], seqs := [], used := [], accels := [], plans := [],
    gangs := [], bad := [], trt := 1000000, past := [], cur := (0, 0), who := [], inputs := [], nextId := 1, steps := 0 }

end Sys2Proof.Machine
end

