-- ==== Sys2Proof/Machine/Mem.lean ====
section
/-! DEFINITION. Memory: the bytes of every store under one key each, and the translation of virtual addresses
(R175 to R178, R198 to R216). -/

namespace Sys2Proof.Machine

/-! ## Bytes -/

/-- What a byte that nothing has written reads as (log entry 5). -/
def Memory.blank : Byte := 0

/-- The byte at a key. -/
def Memory.get : List Host.Cell → Nat → Byte
  | [], _ => Memory.blank
  | (k, v) :: r, n => if n = k then v else if n < k then Memory.blank else Memory.get r n

/-- A cell list with a cell in front, left out when it holds what an unlisted key reads as. -/
def Memory.cons (n : Nat) (b : Byte) (l : List Host.Cell) : List Host.Cell :=
  if b = Memory.blank then l else (n, b) :: l

/-- Writes the byte at a key. -/
def Memory.put : List Host.Cell → Nat → Byte → List Host.Cell
  | [], n, b => Memory.cons n b []
  | (k, v) :: r, n, b =>
    if n = k then Memory.cons n b r
    else if n < k then Memory.cons n b ((k, v) :: r)
    else (k, v) :: Memory.put r n b

/-- The canonical form above a bound: keys rise, and no cell holds what an unlisted key reads as. -/
def Memory.wfFrom : Nat → List Host.Cell → Bool
  | _, [] => true
  | lo, (k, v) :: r => decide (lo ≤ k) && v != Memory.blank && Memory.wfFrom (k + 1) r

/-- The canonical form. -/
def Memory.wf (l : List Host.Cell) : Bool := Memory.wfFrom 0 l

namespace State

/-- The byte at a key. -/
def byte (s : State) (k : Nat) : Byte := Memory.get s.mem k

/-- Writes one byte. -/
def setByte (s : State) (k : Nat) (b : Byte) : State := { s with mem := Memory.put s.mem k b }

/-- Writes bytes at keys, in order. -/
def setBytes (s : State) : List (Nat × Byte) → State
  | [] => s
  | (k, b) :: r => (s.setByte k b).setBytes r

/-- The number that the bytes at keys hold, the first lowest (R1). -/
def numAt (s : State) (ks : List Nat) : Nat := ofBytes (ks.map s.byte)

/-- `n` bytes from a key on. -/
def rd (s : State) (k n : Nat) : Nat := s.numAt ((List.range n).map (k + ·))

/-- Whether one of `n` bytes from a key on holds an uncorrectable error. -/
def badAt (s : State) (k n : Nat) : Bool := !s.bad.isEmpty && (List.range n).any fun i => s.bad.contains (k + i)

/-- `n` bytes from a key on are written anew, and hold no uncorrectable error (log entry 21). -/
def mend (s : State) (k n : Nat) : State :=
  if s.bad.isEmpty then s else { s with bad := s.bad.filter fun x => !(decide (k ≤ x) && decide (x < k + n)) }

/-- Writes the low `n` bytes of a number from a key on. -/
def wr (s : State) (k n v : Nat) : State :=
  s.setBytes (((List.range n).map (k + ·)).zip (toBytes n v))

end State

/-! ## Keys -/

/-- The key of a byte of a device's DRAM, of a core's LM, and of a device's host memory. -/
def dramKey (dev pa : Nat) : Nat := dev * 2 ^ 39 + pa
def lmKey (eid off : Nat) : Nat := 2 ^ 50 + eid * 2 ^ 19 + off
def hostKey (dev pa : Nat) : Nat := 2 ^ 56 + dev * 2 ^ 52 + pa

/-- Whether a key is a byte of some LM, and of which core. -/
def keyIsLm (k : Nat) : Bool := decide (2 ^ 50 ≤ k) && decide (k < 2 ^ 56)
def keyCore (k : Nat) : Nat := (k - 2 ^ 50) / 2 ^ 19
def keyOff (k : Nat) : Nat := k % 2 ^ 19
def keyIsHost (k : Nat) : Bool := decide (2 ^ 56 ≤ k)

/-! ## Places -/

/-- Device, die (device · 4 + die) and tile of an EID, and the position in the tile (R343). -/
def eidDev (e : Nat) : Nat := e / 4096
def eidDie (e : Nat) : Nat := e / 1024
def eidTile (e : Nat) : Nat := e / 8
def eidEp (e : Nat) : Nat := e % 1024
def eidPos (e : Nat) : Nat := e % 8

/-- A yard core (R343): endpoints 768 to 799 of die 0. -/
def isYard (e : Nat) : Bool := decide (768 ≤ eidEp e) && decide (eidEp e < 800) && e / 1024 % 4 == 0

/-- A core of a W-tile. -/
def isWTile (e : Nat) : Bool := decide (512 ≤ eidEp e)

/-- The device whose memory holds a byte; none for host memory. -/
def keyDev (k : Nat) : Option Nat :=
  if keyIsHost k then none else if keyIsLm k then some (eidDev (keyCore k)) else some (k / 2 ^ 39)

namespace State

/-- Whether a Kwezia device of the pod has this number (R344). -/
def hasDev (s : State) (d : Nat) : Bool := (Keyed.get? s.devs d).isSome

/-- Whether an EID names a core of the pod. -/
def hasCore (s : State) (e : Nat) : Bool := s.hasDev (eidDev e) && decide (eidEp e < 576)

/-- A core; one that nothing has been loaded onto has no entry. -/
def core (s : State) (e : Nat) : Core := (Keyed.get? s.cores e).getD (Core.reset (eidPos e))
def setCore (s : State) (e : Nat) (c : Core) : State := { s with cores := Keyed.put s.cores e c }
def modCore (s : State) (e : Nat) (g : Core → Core) : State := s.setCore e (g (s.core e))

def tile (s : State) (t : Nat) : Tile := (Keyed.get? s.tiles t).getD {}
def modTile (s : State) (t : Nat) (g : Tile → Tile) : State := { s with tiles := Keyed.put s.tiles t (g (s.tile t)) }

def die (s : State) (d : Nat) : Die := (Keyed.get? s.dies d).getD {}
def modDie (s : State) (d : Nat) (g : Die → Die) : State := { s with dies := Keyed.put s.dies d (g (s.die d)) }

def dev (s : State) (d : Nat) : Device := (Keyed.get? s.devs d).getD {}
def modDev (s : State) (d : Nat) (g : Device → Device) : State := { s with devs := Keyed.put s.devs d (g (s.dev d)) }

/-- A thread. -/
def thr? (s : State) (e i : Nat) : Option Thread := Keyed.get? (s.core e).threads i
def setThr (s : State) (e i : Nat) (t : Thread) : State :=
  s.modCore e fun c => { c with threads := Keyed.put c.threads i t }
/-- Changes a thread, if the slot holds one. -/
def modThr (s : State) (e i : Nat) (g : Thread → Thread) : State :=
  match s.thr? e i with
  | some t => s.setThr e i (g t)
  | none => s

/-- The context that a device holds under an ASID. -/
def ctx? (s : State) (dev asid : Nat) : Option Ctx := Keyed.get? s.ctxs (dev * 65536 + asid)
def modCtx (s : State) (dev asid : Nat) (g : Ctx → Ctx) : State :=
  match s.ctx? dev asid with
  | some c => { s with ctxs := Keyed.put s.ctxs (dev * 65536 + asid) (g c) }
  | none => s

/-- The core cycle of the die of an EID. -/
def cycle (s : State) (e : Nat) : Nat := (s.die (eidDie e)).cycles

/-- The free counter: how many free values have been drawn so far is told by the count of steps. -/
def free (s : State) : Nat := s.steps

/-- A recorder. -/
def recorder (s : State) (k : Nat) : Recorder := (Keyed.get? s.recorders k).getD {}
def modRecorder (s : State) (k : Nat) (g : Recorder → Recorder) : State :=
  { s with recorders := Keyed.put s.recorders k (g (s.recorder k)) }

/-- Writes an event record of a die of a device (R411); an argument that its TYPE does not settle is of no stated
value. -/
def record (s : State) (dev die type eid : Nat) (arg0 arg1 : Option Nat) : State :=
  s.modRecorder (dev * 8 + die) fun r =>
    let free (i : Nat) : Nat := (Config.freeWord s.free (2 ^ 70 + (r.no * 8192 + dev * 8 + die) * 2 + i)).toNat
    let x : Event :=
      { seq := r.no + 1, tick := (s.dev dev).tick, type := type, eid := eid % 2 ^ 22
        arg0 := arg0.getD (free 0) % 2 ^ 32, arg1 := arg1.getD (free 1) % 2 ^ 64 }
    { r with no := r.no + 1, events := (r.events ++ [x]).drop (r.events.length + 1 - 65536) }

/-- Whether a byte is in the memory of another Kwezia device than the one given: what crosses a Yard port (R346, R348). -/
def far (s : State) (dev k : Nat) : Bool :=
  match keyDev k with
  | some d => d != dev && s.hasDev d
  | none => false

/-- Whether a device has a port in its routes. -/
def hasRoute (s : State) (d : Nat) : Bool := (s.dev d).ports.any fun p => p.up && p.routed

/-- Whether a route leads from a device to another of the pod, a Kwezia device or not (R352). -/
def reaches (s : State) (d o : Nat) : Bool := s.hasRoute d && (s.accels.contains o || s.hasRoute o)

/-- Whether no route leads from a device to the accelerator, not a Kwezia device, whose byte it is (R347, R352). -/
def noWay (s : State) (dev k : Nat) : Bool := (keyDev k).any fun d => s.accels.contains d && !s.reaches dev d

/-- Whether a device counts the home of a byte as unreachable (R352). -/
def cutKey (s : State) (dev k : Nat) : Bool :=
  match keyDev k with
  | some d => (s.dev dev).unreachable.contains d
  | none => false

/-- A new number for a result, access, command or packet. -/
def fresh (s : State) : Nat × State := (s.nextId, { s with nextId := s.nextId + 1 })

end State

/-! ## LM -/

/-- Whether a granule is allotted in the core's current context (R175, R177). -/
def Core.granOk (c : Core) (g : Nat) : Bool := g != 127 && (Keyed.get? c.gran g).isSome

/-- Whether every byte of an LM range is allotted. -/
def Core.lmOk (c : Core) (off n : Nat) : Bool :=
  n == 0 || (List.range ((off + n - 1) / 4096 + 1 - off / 4096)).all fun i => c.granOk (off / 4096 + i)

/-- Whether a range of LM touches the header of an edge ring (R193). -/
def State.inHeader (s : State) (e off n : Nat) : Bool :=
  s.edges.any fun g => g.placed && g.core == e && decide (off < g.off + 64) && decide (g.off < off + n)

/-! ## Translation -/

/-- The outcome of a look-up: a key and whether the line may be cached, a trap code, or no structure holds the page. -/
inductive Xl where
  | ok (key : Nat) (cache : Bool)
  | fault (code : Nat)
  | miss
  deriving DecidableEq, Repr

/-- Fields of a page-table entry (R212). -/
def ptV (e : Nat) : Bool := bit e 0
def ptL (e : Nat) : Bool := bit e 1
def ptW (e : Nat) : Bool := bit e 2
def ptC (e : Nat) : Bool := bit e 4
def ptC64 (e : Nat) : Bool := bit e 5
def ptTgt (e : Nat) : Nat := bits e 7 6
def ptPpn (e : Nat) : Nat := bits e 51 12
def ptDev (e : Nat) : Nat := bits e 63 54

/-- The reserved bits of an entry, C64 apart (R212). -/
def ptResvOk (e : Nat) : Bool := bits e 53 52 == 0 && bits e 11 8 == 0 && !bit e 3

/-- The key that a leaf with physical page `ppn` gives a byte, with the checks of R215. -/
def leafKey (s : State) (dev leaf ppn va : Nat) (write : Bool) : Xl :=
  let pa := ppn * 4096 + va % 4096
  let d := if ptTgt leaf = 1 then ptDev leaf else dev
  if ptTgt leaf = 3 ∨ (ptTgt leaf ≤ 1 ∧ 2 ^ 39 ≤ pa) ∨ (ptTgt leaf = 1 ∧ ¬ s.hasDev d ∧ ¬ s.accels.contains d) then .fault 5
  else if write ∧ ¬ ptW leaf then .fault 6
  else .ok (if ptTgt leaf = 2 then hostKey dev pa else dramKey d pa) (ptC leaf)

/-- The range entries (R210): the lowest-numbered enabled one that holds the page. -/
def rangeFind (l : List (Nat × Nat × Nat × Bool)) (vpn : Nat) : Option (Nat × Nat) :=
  (l.find? fun (b, t, a, en) => en && ptV a && decide (b ≤ vpn) && decide (vpn ≤ t)).map
    fun (b, _, a, _) => (a, ptPpn a + (vpn - b))

/-- The first TLB entry that holds the page. -/
def tlbFind (l : List TlbEntry) (asid vpn : Nat) : Option (Nat × Nat) :=
  (l.find? fun t => t.asid == asid && decide (t.vpn ≤ vpn) && decide (vpn < t.vpn + t.pages)).map
    fun t => (t.leaf, ptPpn t.leaf + (vpn - t.vpn))

/-- A virtual address in the LM windows (R178, R198). -/
def windowKey (s : State) (asid va : Nat) (thread write : Bool) : Xl :=
  let o := va - 0xF0 * 2 ^ 48
  let e := o / 2 ^ 20
  let off := o % 2 ^ 20
  if 2 ^ 42 ≤ o ∨ 2 ^ 19 ≤ off ∨ ¬ s.hasCore e then .fault 5
  else if (s.core e).ctx ≠ some asid ∨ ¬ (s.core e).granOk (off / 4096) then .fault 6
  else if thread ∧ write ∧ s.inHeader e off 1 then .fault 6
  else .ok (lmKey e off) false

/-- Looks up one byte's address: the windows, the range entries, then the TLB entries given (R209). -/
def lookup (s : State) (dev asid va : Nat) (tlb : List TlbEntry) (thread write : Bool) : Xl :=
  let vpn := va / 4096
  if 2 ^ 56 ≤ va then .fault 5
  else if 0xF0 * 2 ^ 48 ≤ va then windowKey s asid va thread write
  else
    match (match s.ctx? dev asid with | some c => rangeFind c.ranges vpn | none => none) with
    | some (a, ppn) => leafKey s dev a ppn va write
    | none =>
      match tlbFind tlb asid vpn with
      | some (a, ppn) => leafKey s dev a ppn va write
      | none => .miss

/-- A leaf at a level 0 entry: a 64 KiB page when its group of 16 is uniform, else 4 KiB (R213). -/
def smallLeaf (s : State) (dev table idx e vpn : Nat) : TlbEntry :=
  let base := idx / 16 * 16
  let ent i := s.rd (dramKey dev (table + 8 * (base + i))) 8
  let first := ent 0
  let uni := (List.range 16).all fun i =>
    ptC64 (ent i) && ptV (ent i) && ptL (ent i) && ptPpn (ent i) == ptPpn first + i &&
      bits (ent i) 63 52 == bits first 63 52 && bits (ent i) 11 0 == bits first 11 0
  if uni ∧ ptPpn first % 16 = 0 then { asid := 0, vpn := vpn / 16 * 16, pages := 16, leaf := first }
  else { asid := 0, vpn := vpn, pages := 1, leaf := e }

/-- Whether an entry that a walk reads holds an uncorrectable error: the one of the page, and at level 0 those of its group of 16,
which are read with it when it has C64 (R204, R213). -/
def entryBad (s : State) (dev table idx e level : Nat) : Bool :=
  s.badAt (dramKey dev (table + 8 * idx)) 8 ||
    (level == 0 && ptC64 e && s.badAt (dramKey dev (table + 8 * (idx / 16 * 16))) 128)

/-- A page walk from a table at a level down (R211, R213).  An error is a trap code: the translation trap, or 0x0B when an entry
holds an uncorrectable error, which is reported against the agent that the walk is for (R204; DEDUCED, log entry 110). -/
def walkFrom (s : State) (dev vpn : Nat) : Nat → Nat → Except Nat TlbEntry
  | level, table =>
    if 2 ^ 39 ≤ table then .error 5
    else
      let idx := vpn / 2 ^ (9 * level) % (if level = 4 then 256 else 512)
      let e := s.rd (dramKey dev (table + 8 * idx)) 8
      if entryBad s dev table idx e level then .error 11
      else if ¬ ptV e ∨ ¬ ptResvOk e then .error 5
      else if ptL e then
        if level = 0 then .ok (smallLeaf s dev table idx e vpn)
        else if 3 ≤ level ∨ ptC64 e ∨ ptPpn e % 2 ^ (9 * level) ≠ 0 then .error 5
        else .ok { asid := 0, vpn := vpn / 2 ^ (9 * level) * 2 ^ (9 * level), pages := 2 ^ (9 * level), leaf := e }
      else
        match level with
        | 0 => .error 5
        | l + 1 => if ptC64 e then .error 5 else walkFrom s dev vpn l (ptPpn e * 4096)

/-- The whole walk for a page of a context. -/
def walk (s : State) (dev asid vpn : Nat) : Except Nat TlbEntry :=
  match s.ctx? dev asid with
  | some c => (walkFrom s dev vpn 4 (c.root * 4096)).map fun t => { t with asid := asid }
  | none => .error 5

/-- A translation by a unit of the device that walks for itself: the dispatcher, the fault ring, the Yard. -/
def xlDev (s : State) (dev asid va : Nat) (write : Bool) : Xl :=
  match lookup s dev asid va [] false write with
  | .miss =>
    match walk s dev asid (va / 4096) with
    | .ok t => leafKey s dev t.leaf (ptPpn t.leaf + (va / 4096 - t.vpn)) va write
    | .error c => .fault c
  | r => r

/-- Translations of `n` bytes from `va` on. -/
def xlAll (x : Nat → Xl) (va : Nat) : Nat → Except Xl (List Nat × Bool)
  | 0 => .ok ([], true)
  | n + 1 =>
    match x va with
    | .ok k c =>
      match xlAll x (va + 1) n with
      | .ok (ks, cs) => .ok (k :: ks, c && cs)
      | .error e => .error e
    | r => .error r

/-- The translation of an address for a core, by its TLBs or else by a walk at once. -/
def xlCore (s : State) (eid asid va : Nat) (write : Bool) : Xl :=
  match lookup s (eidDev eid) asid va ((s.core eid).tlb ++ (s.tile (eidTile eid)).tlb) false write with
  | .miss => xlDev s (eidDev eid) asid va write
  | r => r

/-- The key of `n` contiguous bytes that lie within one page (a descriptor, a doubleword), by the device itself; an
error is the trap code, 0x0B for an uncorrectable error. -/
def xlBlock (s : State) (dev asid va n : Nat) (write : Bool) : Except Nat Nat :=
  match xlDev s dev asid va write with
  | .ok k _ => if s.badAt k n ∨ s.cutKey dev k then .error 11 else .ok k
  | .fault c => .error c
  | .miss => .error 5

/-! ## Writing bytes (R182, R186) -/

/-- The stash window and granule of a core that hold an LM offset. -/
def Core.stashOf (c : Core) (off : Nat) : Option (Nat × Nat) :=
  (List.range c.stash.length).findSome? fun i =>
    match c.stash[i]? with
    | some w => if w.lo ≤ off ∧ off < w.lo + 4096 * w.grs.length then some (i, (off - w.lo) / 4096) else none
    | none => none

/-- Changes a granule of a stash window. -/
def modGran (s : State) (eid i g : Nat) (f : StashGr → StashGr) : State :=
  s.modCore eid fun c =>
    { c with stash := c.stash.mapIdx fun k w =>
        if k = i then { w with grs := w.grs.mapIdx fun j x => if j = g then f x else x } else w }

/-- Marks a byte written by LM offset as dirty. -/
def markDirty (s : State) (k : Nat) : State :=
  if keyIsLm k then
    match (s.core (keyCore k)).stashOf (keyOff k) with
    | some (i, g) => modGran s (keyCore k) i g fun x => { x with dirty := x.dirty ||| BitVec.ofNat 4096 (2 ^ (k % 4096)) }
    | none => s
  else s

/-- Writes bytes as a program's, an engine's, the dispatcher's or a remote agent's writes do: a byte that is written anew holds
no uncorrectable error. -/
def putBytes (s : State) : List (Nat × Byte) → State
  | [] => s
  | (k, b) :: r => putBytes { markDirty (s.setByte k b) k with bad := s.bad.filter (· != k) } r

/-- Writes `n` bytes of a number from a key on. -/
def putNum (s : State) (k n v : Nat) : State := putBytes s (((List.range n).map (k + ·)).zip (toBytes n v))

end Sys2Proof.Machine
end

