-- ==== Sys2Proof/Machine/Rings.lean ====
section
/-! DEFINITION. Publication rings (R303, R316), result words (R305) and the posting of fault records (R381, R382). -/

namespace Sys2Proof.Machine

/-! ## Result words (R305) -/

def stOK : Nat := 0
def stNOMEM : Nat := 1
def stSTALE : Nat := 2
def stSTATE : Nat := 3
def stFULL : Nat := 4
def stRETRY : Nat := 5
def stFROZEN : Nat := 6
def stEMPTY : Nat := 7
def stGROUPS : Nat := 8
def stLATE : Nat := 9
def stGIDUSE : Nat := 10

/-- STATUS in bits 63:56, VALUE in bits 55:0. -/
def resWord (st v : Nat) : Nat := st * 2 ^ 56 + v % 2 ^ 56

/-! ## Descriptors -/

/-- The fields of a ring descriptor. -/
structure Ring where
  base : Nat
  logn : Nat
  loge : Nat
  scope : Nat
  frozen : Bool
  res : Nat
  pub : Nat
  take : Nat
  pend : Nat
  /-- every field in range, the reserved ones zero -/
  ok : Bool
  deriving DecidableEq, Repr

/-- Reads the descriptor at a key. -/
def ringAt (s : State) (k : Nat) : Ring :=
  let d i := s.rd (k + 8 * i) 8
  { base := bits (d 0) 55 0, logn := bits (d 1) 4 0, loge := bits (d 1) 10 8, scope := bits (d 1) 18 16,
    frozen := bit (d 1) 19, res := d 2, pub := d 3, take := d 4, pend := d 5,
    ok := bits (d 0) 63 56 == 0 && bits (d 1) 7 5 == 0 && bits (d 1) 15 11 == 0 && bits (d 1) 63 20 == 0 &&
      d 6 == 0 && d 7 == 0 && decide (bits (d 1) 4 0 ≤ 24) && decide (3 ≤ bits (d 1) 10 8) &&
      decide (bits (d 1) 10 8 ≤ 8) && decide (bits (d 1) 18 16 ≤ 5) }

/-- The virtual address of an entry. -/
def Ring.entry (r : Ring) (i : Nat) : Nat := r.base + i % 2 ^ r.logn * 2 ^ r.loge

/-- Whether WATCH register `w` of a function bound to an ASID is enabled and names the descriptor at a key (R403). -/
def watchHits (s : State) (d asid k w : Nat) : Bool :=
  bit w 63 && match xlDev s d asid (bits w 55 0) false with
    | .ok k' _ => k' == k
    | _ => false

/-- Raises the MSI-X vectors of one function. -/
def watchFn (s : State) (d k : Nat) (h : HostFn) : HostFn :=
  match h.asid with
  | none => h
  | some a => { h with msix := h.msix ++ (List.range 16).filter fun i => watchHits s d a k (h.watch.getD i 0).toNat }

/-- The MSI-X vectors that an advance of PUB raises (R403). -/
def watchRaise (s : State) (k : Nat) : State :=
  { s with devs := s.devs.map fun (d, dv) => (d, { dv with fns := dv.fns.map (watchFn s d k) }) }

/-- `rgres` (R316): the result word and the state. -/
def ringRes (s : State) (k : Nat) : Nat × State :=
  let r := ringAt s k
  if ¬ r.ok then (resWord stSTATE 0, s)
  else if r.res = r.take + 2 ^ r.logn then (resWord stFULL 0, s)
  else if r.pub + 64 ≤ r.res then (resWord stRETRY 0, s)
  else (resWord stOK r.res, putNum s (k + 16) 8 (r.res + 1))

/-- The run of published indices at the low end of PEND. -/
def pubRun : Nat → Nat → Nat
  | 0, _ => 0
  | n + 1, p => if p % 2 = 1 then pubRun n (p / 2) + 1 else 0

/-- `rgpub` (R316). -/
def ringPub (s : State) (k i : Nat) : Nat × State :=
  let r := ringAt s k
  if ¬ r.ok then (resWord stSTATE 0, s)
  else
    let j := i - r.pub
    if i < r.pub ∨ r.res ≤ i ∨ 64 ≤ j ∨ bit r.pend j then (resWord stSTATE 0, s)
    else
      let p := r.pend + 2 ^ j
      let n := pubRun 64 p
      let s := putNum (putNum s (k + 24) 8 (r.pub + n)) (k + 40) 8 (p / 2 ^ n)
      (resWord stOK 0, if n = 0 then s else watchRaise s k)

/-- Why a take gives nothing: its status, or 0 when entry TAKE may be taken (R316). -/
def takeStatus (r : Ring) : Nat :=
  if ¬ r.ok then stSTATE else if r.frozen then stFROZEN else if r.take = r.pub then stEMPTY else stOK

/-- Advances TAKE. -/
def takeDone (s : State) (k : Nat) : State := putNum s (k + 32) 8 (s.rd (k + 32) 8 + 1)

/-! ## Fault records -/

/-- Where a record says it comes from (R381): EID, TID or 255, and the task's fields. -/
structure Origin where
  eid : Nat := 0
  tslot : Nat := 255
  handle : Nat := 0xFFFFFFFF
  queue : Nat := 0
  qentry : Nat := 0
  gid : Nat := 0xFFFF
  aux : Nat := 0
  deriving DecidableEq, Repr, Inhabited

/-- The eight doublewords of a fault record (R381). -/
def recordWords (t : TrapInfo) (o : Origin) (tick dropped : Nat) : List Nat :=
  [t.code + t.cause * 2 ^ 8 + t.unit * 2 ^ 16 + t.index * 2 ^ 19 + o.tslot * 2 ^ 24 + t.lane * 2 ^ 32 +
     b2n t.defer * 2 ^ 40 + t.tcode * 2 ^ 48,
   o.eid + o.handle * 2 ^ 32, t.ipc + t.rpc * 2 ^ 32, t.va % 2 ^ 56,
   o.queue + o.qentry * 2 ^ 8 + o.gid * 2 ^ 32, tick, t.word, dropped + o.aux * 2 ^ 32]

/-- Counts a record as lost (R382). -/
def dropRecord (s : State) (dev asid : Nat) : State := s.modCtx dev asid fun c => { c with dropped := c.dropped + 1 }

/-- Posts a fault record on the context's fault ring: `rgres`, the 64 bytes, `rgpub` (R382); the event recorder logs it
(R411). -/
def postRecord (s : State) (dev asid : Nat) (t : TrapInfo) (o : Origin) : State :=
  match s.ctx? dev asid with
  | none => s
  | some c =>
    match xlBlock s dev asid c.fring 64 true with
    | .error _ => dropRecord s dev asid
    | .ok k =>
      let r := ringAt s k
      if r.loge ≠ 6 then dropRecord s dev asid
      else
        match ringRes s k with
        | (w, s1) =>
          if bits w 63 56 ≠ 0 then dropRecord s dev asid
          else
            match xlBlock s1 dev asid (r.entry r.res) 64 true with
            | .error _ => dropRecord s dev asid
            | .ok ek =>
              let ws := recordWords t o (s.dev dev).tick c.dropped
              let s2 := (List.range 8).foldl (fun s i => putNum s (ek + 8 * i) 8 (ws.getD i 0)) s1
              ((ringPub s2 k r.res).2.modCtx dev asid fun c => { c with dropped := 0 }).record dev (if isYard o.eid then 4 else eidDie o.eid % 4) 2 o.eid
                (some t.code) (some t.va)

end Sys2Proof.Machine
end

