-- ==== Sys2Proof/Machine/Operands.lean ====
section
/-! DEFINITION. Operands: reading slices, mailbox heads and immediates, writing destinations, last-read marks and the
class L results of a run (R41 to R45, R62 to R79, R97 to R100). -/

namespace Sys2Proof.Machine

/-! ## Slices -/

/-- Each bit of a mask widened to the four bits of a slice. -/
def nibs : Nat → Nat → Nat
  | 0, _ => 0
  | n + 1, m => m % 2 * 15 + 16 * nibs n (m / 2)

/-- Takes the slices of a mask from `new`, the others from `old`; `w` slices. -/
def blend (w old new m : Nat) : Nat := old ^^^ ((old ^^^ new) &&& nibs w m)

/-- The mask of the slices `st` to `st + w − 1`. -/
def span (st w : Nat) : Nat := (2 ^ w - 1) * 2 ^ st

/-- The slices `st` to `st + w − 1` of a file held as one number (R67). -/
def slices (file st w : Nat) : Nat := file / 2 ^ (4 * st) % 2 ^ (4 * w)

/-- Puts `w` slices at `st` into a file. -/
def putSlices (file st w v : Nat) : Nat :=
  file ^^^ ((slices file st w ^^^ v % 2 ^ (4 * w)) * 2 ^ (4 * st))

/-- Where a pending result goes: whether to the vector file, start, width. -/
def Target.place : Target → Option (Bool × Nat × Nat)
  | .none | .pred _ => Option.none
  | .vec st w => some (true, st, w)
  | .scal st w => some (false, st, w)

/-- The pattern that a pending result gives a lane. -/
def Pend.val (p : Pend) (l : Nat) : Option Nat := Keyed.get? p.vals l

/-- The mask, within `st` to `st + w − 1`, of the slices of a file that a pending result writes and that no later mark
has killed (R77). -/
def Pend.covers (p : Pend) (isVec : Bool) (st w : Nat) : Nat :=
  match p.target.place with
  | none => 0
  | some (v, ps, pw) =>
    if v = isVec then ((span ps pw) &&& ((2 ^ 512 - 1) ^^^ p.killed.toNat)) / 2 ^ st % 2 ^ w else 0

/-- The pattern of a pending result as it lies over the slices `st` to `st + w − 1`. -/
def Pend.laid (p : Pend) (v st w : Nat) : Nat :=
  match p.target.place with
  | none => 0
  | some (_, ps, _) => v * 2 ^ (4 * ps) / 2 ^ (4 * st) % 2 ^ (4 * w)

/-- What a read of `w` slices at `st` returns over the held value: for each slice the held value or that of a landed
class L result of the run, as the free value says (R72). -/
def overlay (free field : Nat) (isVec : Bool) (st w l : Nat) : List Pend → Nat → Nat
  | [], v => v
  | p :: r, v =>
    match p.landed, p.val l with
    | true, some x =>
      overlay free field isVec st w l r
        (blend w v (p.laid x st w) (p.covers isVec st w &&& Config.pick free field p.id l))
    | _, _ => overlay free field isVec st w l r v

/-- A lane of the vector file as one number. -/
def Thread.lane (t : Thread) (l : Nat) : Nat := (t.vec.getD l 0).toNat

/-- The pattern that an operand names, in a lane (R42, R67, R68, R79). -/
def readOpnd (free : Nat) (c : Core) (t : Thread) (field : Nat) (o : Opnd) (l : Nat) : Nat :=
  match o with
  | .vec st w => overlay free field true st w l t.pend (slices (t.lane l) st w)
  | .scal st w => overlay free field false st w 0 t.pend (slices t.scal.toNat st w)
  | .mbox k => ((c.mboxes.getD k []).headD 0).toNat
  | .zero _ | .bad => 0

/-- Whether an operand touches a dead slice (R78). -/
def Thread.dead (t : Thread) : Opnd → Nat → Bool
  | .vec st w, sp => span st (w * sp) &&& t.vlive.toNat != span st (w * sp)
  | .scal st w, sp => span st (w * sp) &&& t.slive.toNat != span st (w * sp)
  | _, _ => false

/-! ## Predicates -/

/-- Predicate `k`, 1 to 7. -/
def Thread.pred (t : Thread) (k : Nat) : BitVec 32 := t.preds.getD (k - 1) 0

/-- Whether an instruction is active in a lane (R97). -/
def activeIn (t : Thread) (f : Fields) (l : Nat) : Bool :=
  f.psel == 0 || ((t.pred f.psel.toNat).getLsbD l != f.psense)

/-! ## Writes -/

/-- A class I write: for each lane a pattern or nothing; lane 0 for a scalar (R73, R76).  A write to a dead slice makes
it live, and the other lanes of it read zero. -/
def Thread.write (t : Thread) (o : Opnd) (val : Nat → Option Nat) : Thread :=
  match o with
  | .vec st w =>
    if (List.range 32).any fun l => (val l).isSome then
      { t with
        vec := (List.range 32).map fun l =>
          match val l with
          | some v => BitVec.ofNat 2048 (putSlices (t.lane l) st w v)
          | none => t.vec.getD l 0
        vlive := t.vlive ||| BitVec.ofNat 512 (span st w)
        runV := (List.range 32).map fun l =>
          if (val l).isSome then t.runV.getD l 0 ||| BitVec.ofNat 512 (span st w) else t.runV.getD l 0 }
    else t
  | .scal st w =>
    match val 0 with
    | some v =>
      { t with
        scal := BitVec.ofNat 1024 (putSlices t.scal.toNat st w v)
        slive := t.slive ||| BitVec.ofNat 256 (span st w)
        runS := t.runS ||| BitVec.ofNat 256 (span st w) }
    | none => t
  | .zero _ | .mbox _ | .bad => t

/-- The target of a destination operand. -/
def Opnd.target : Opnd → Target
  | .vec st w => .vec st w
  | .scal st w => .scal st w
  | _ => .none

/-- Adds a class L result that is to come; `writes` says whether any lane is written, which makes the slices live at
once, in program order (R77). -/
def Thread.addPend (t : Thread) (p : Pend) (writes : Bool) : Thread :=
  let t := { t with pend := t.pend ++ [p] }
  if ¬ writes then t
  else
    match p.target with
    | .vec st w => { t with vlive := t.vlive ||| BitVec.ofNat 512 (span st w) }
    | .scal st w => { t with slive := t.slive ||| BitVec.ofNat 256 (span st w) }
    | .none | .pred _ => t

/-- Makes the slices of an operand dead: they hold zero, and what earlier instructions of the run wrote to them is
discarded, so that a later class L write of them is what they hold (R76, R77). -/
def Thread.kill (t : Thread) (o : Opnd) (sp : Nat) : Thread :=
  match o with
  | .vec st w =>
    { t with
      vec := t.vec.map fun x => BitVec.ofNat 2048 (putSlices x.toNat st (w * sp) 0)
      vlive := t.vlive &&& ~~~ BitVec.ofNat 512 (span st (w * sp))
      runV := t.runV.map (· &&& ~~~ BitVec.ofNat 512 (span st (w * sp)))
      pend := t.pend.map fun p =>
        match p.target with
        | .vec _ _ => { p with killed := p.killed ||| BitVec.ofNat 512 (span st (w * sp)) }
        | _ => p }
  | .scal st w =>
    { t with
      scal := BitVec.ofNat 1024 (putSlices t.scal.toNat st (w * sp) 0)
      slive := t.slive &&& ~~~ BitVec.ofNat 256 (span st (w * sp))
      runS := t.runS &&& ~~~ BitVec.ofNat 256 (span st (w * sp))
      pend := t.pend.map fun p =>
        match p.target with
        | .scal _ _ => { p with killed := p.killed ||| BitVec.ofNat 512 (span st (w * sp)) }
        | _ => p }
  | _ => t

/-- Writes the lanes of a predicate (R99). -/
def Thread.setPred (t : Thread) (k : Nat) (val : Nat → Option Bool) : Thread :=
  let old := t.pred k
  let new := BitVec.ofNat 32 ((List.range 32).foldl (fun acc l =>
    acc + b2n ((val l).getD (old.getLsbD l)) * 2 ^ l) 0)
  let wrote := BitVec.ofNat 32 ((List.range 32).foldl (fun acc l => acc + b2n (val l).isSome * 2 ^ l) 0)
  { t with preds := t.preds.set (k - 1) new, runP := t.runP.set (k - 1) (t.runP.getD (k - 1) 0 ||| wrote) }

/-! ## The end of a run (R73) -/

/-- What an instruction with a destination does to the values that its slices, or the bits of its predicate, may hold at the end of
the run: where it writes a class L result, a class I write of an earlier instruction is no longer among them; a class I result
counts again as soon as it is written.  DEDUCED (log entry 109): R73 lists the last class I write whatever its place, and the
programs of R423 to R429 need that a later class L write of the run outlasts it.  `u` is the thread as the instruction reads it. -/
def Thread.renew (t u : Thread) (d : Use) (f : Fields) (sp : Nat) : Thread :=
  let lanes := (List.range 32).filter (activeIn u f)
  match d, Opnd.ofField f.d with
  | .dst _, .vec st w =>
    { t with runV := if t.runV.all (· == 0) then t.runV else (List.range 32).map fun l =>
        if lanes.contains l then t.runV.getD l 0 &&& ~~~ BitVec.ofNat 512 (span st (w * sp)) else t.runV.getD l 0 }
  | .dst _, .scal st w =>
    if lanes.contains 0 then { t with runS := t.runS &&& ~~~ BitVec.ofNat 256 (span st (w * sp)) } else t
  | .pred, _ =>
    let k := f.d.toNat - 1
    { t with runP := t.runP.set k (t.runP.getD k 0 &&& ~~~ BitVec.ofNat 32 ((lanes.map (2 ^ ·)).sum)) }
  | _, _ => t

/-- One file's value at the end of a run: `hv` are the slices whose value so far is one of those that R73 allows. -/
def settleFile (free : Nat) (isVec : Bool) (n l : Nat) : List Pend → Nat → Nat → Nat
  | [], v, _ => v
  | p :: r, v, hv =>
    match p.val l with
    | some x =>
      let cov := p.covers isVec 0 n
      let m := cov &&& (Config.pick free 16 p.id l ||| ((2 ^ n - 1) ^^^ hv))
      settleFile free isVec n l r (blend n v (p.laid x 0 n) m) (hv ||| cov)
    | none => settleFile free isVec n l r v hv

/-- The lanes in which a pending result writes predicate `k`, as a mask. -/
def Pend.predLanes (p : Pend) (k : Nat) : BitVec 32 :=
  match p.target with
  | .pred j =>
    if j = k then BitVec.ofNat 32 ((List.range 32).foldl (fun acc l => acc + b2n (p.val l).isSome * 2 ^ l) 0) else 0
  | _ => 0

/-- A predicate with a pending result over it, in the lanes of a mask. -/
def Pend.overPred (p : Pend) (m : Nat) (old : BitVec 32) : BitVec 32 :=
  BitVec.ofNat 32 ((List.range 32).foldl (fun acc l =>
    acc + (match p.val l with
      | some v => if bit m l then v else b2n (old.getLsbD l)
      | none => b2n (old.getLsbD l)) * 2 ^ l) 0)

/-- Predicate `k` with the pending results over it: bit by bit the held value or that of a class L write, as the masks say;
`hv` are the bits that hold a value of the run, the others take the first class L write of them (R72, R73, R134). -/
def mergePred (pick : Nat → Nat → Nat) (all : Bool) (k : Nat) : List Pend → BitVec 32 → BitVec 32 → BitVec 32
  | [], v, _ => v
  | p :: r, v, hv =>
    match p.target, p.landed || all with
    | .pred j, true =>
      if j = k then
        mergePred pick all k r (p.overPred (pick p.id k ||| (if all then 0xFFFFFFFF ^^^ hv.toNat else 0)) v)
          (hv ||| p.predLanes k)
      else mergePred pick all k r v hv
    | _, _ => mergePred pick all k r v hv

/-- Every predicate with the pending results over it; `have_` are, by predicate, the bits that the run has written. -/
def mergePreds (pick : Nat → Nat → Nat) (all : Bool) (pend : List Pend) (preds have_ : List (BitVec 32)) :
    List (BitVec 32) :=
  preds.mapIdx fun i v => mergePred pick all (i + 1) pend v (have_.getD i 0)

/-- The thread as an instruction reads it: its predicates as R72 lets them be read. -/
def Thread.seen (t : Thread) (free : Nat) : Thread :=
  { t with preds := mergePreds (fun id k => Config.pick free 18 id k) false t.pend t.preds t.runP }

/-- The slices of a file that the pending results write in a lane. -/
def landedIn (isVec : Bool) (n l : Nat) (pend : List Pend) : Nat :=
  pend.foldl (fun m p => if (p.val l).isSome then m ||| p.covers isVec 0 n else m) 0

/-- The class L results of the run so far are written: every slice and predicate bit that the run has written holds the value
of its last class I write or of one of its class L writes (R73).  The run goes on: later class L writes are again as good as
these values (R75). -/
def Thread.flush (t : Thread) (free : Nat) : Thread :=
  { t with
    vec := if t.pend.isEmpty then t.vec else
      (List.range 32).map fun l =>
        BitVec.ofNat 2048 (settleFile free true 512 l t.pend (t.lane l) (t.runV.getD l 0).toNat)
    scal := if t.pend.isEmpty then t.scal else
      BitVec.ofNat 1024 (settleFile free false 256 0 t.pend t.scal.toNat t.runS.toNat)
    preds := mergePreds (fun id k => Config.pick free 19 id k) true t.pend t.preds t.runP
    runV := if t.pend.isEmpty then t.runV else
      (List.range 32).map fun l => t.runV.getD l 0 ||| BitVec.ofNat 512 (landedIn true 512 l t.pend)
    runS := t.runS ||| BitVec.ofNat 256 (landedIn false 256 0 t.pend)
    runP := t.runP.mapIdx fun i m => t.pend.foldl (fun m p => m ||| p.predLanes (i + 1)) m
    pend := [] }

/-- After the marker of a run: its results are written, and no slice or predicate counts as written by the run to come. -/
def Thread.settle (t : Thread) (free : Nat) : Thread :=
  { t.flush free with
    runP := List.replicate 7 0
    runV := List.replicate 32 0
    runS := 0 }

/-- Every class L result of the run has landed. -/
def Thread.allLanded (t : Thread) : Bool := t.pend.all (·.landed)

/-! ## The instruction in hand -/

/-- An instruction that issues: the state before it, the state with what every issue does (the count, the pops, the
marks, the program counter moved on), its core and thread as they were, its fields and length. -/
structure Env where
  s0 : State
  s : State
  eid : Nat
  slot : Nat
  c : Core
  t : Thread
  f : Fields
  len : Nat
  deriving DecidableEq, Repr

namespace Env

/-- The operands as the fields name them. -/
def od (e : Env) : Opnd := Opnd.ofField e.f.d
def oa (e : Env) : Opnd := Opnd.ofField e.f.a
def ob (e : Env) : Opnd := Opnd.ofField e.f.b
def oc (e : Env) : Opnd := Opnd.ofField e.f.c

/-- The pattern of an operand in a lane; `field` tells the reads of one instruction apart. -/
def rd (e : Env) (field : Nat) (o : Opnd) (l : Nat) : Nat := readOpnd e.s0.free e.c e.t field o l

def d (e : Env) (l : Nat) : Nat := e.rd 0 e.od l
def a (e : Env) (l : Nat) : Nat := e.rd 1 e.oa l
def b (e : Env) (l : Nat) : Nat := e.rd 2 e.ob l
def c_ (e : Env) (l : Nat) : Nat := e.rd 3 e.oc l

/-- Whether a lane is active. -/
def act (e : Env) (l : Nat) : Bool := activeIn e.t e.f l

/-- The active lanes. -/
def lanes (e : Env) : List Nat := (List.range 32).filter e.act

/-- The lanes for which a destination is written: the active ones, or lane 0 for the thread (R98). -/
def dlanes (e : Env) : List Nat := if e.od.isVec then e.lanes else if e.act 0 then [0] else []

/-- The device, context and offset of the thread. -/
def dev (e : Env) : Nat := eidDev e.eid
def asid (e : Env) : Nat := e.c.ctx.getD 0
def pc (e : Env) : Nat := e.t.pc.toNat

/-- Changes the thread in the state to come. -/
def modT (e : Env) (g : Thread → Thread) : State := e.s.modThr e.eid e.slot g

/-- Ends a class I instruction: patterns by lane for D, and flags (R116). -/
def doneI (e : Env) (vals : List (Nat × Nat)) (fl : BitVec 6) : State :=
  e.modT fun t => { t.write e.od (fun l => Keyed.get? vals l) with fpsr := t.fpsr ||| fl }

/-- Ends a class L instruction whose result is known: it is still to land (R71). -/
def doneL (e : Env) (vals : List (Nat × Nat)) (fl : BitVec 6) : State :=
  let (n, s) := e.s.fresh
  s.modThr e.eid e.slot fun t =>
    t.addPend { id := n, target := e.od.target, vals := vals, flags := fl } (!vals.isEmpty)

/-- Adds a result that `need` replies or accesses complete: its number and the state. -/
def pendL (e : Env) (tg : Target) (need : Nat) : Nat × State :=
  let (n, s) := e.s.fresh
  (n, s.modThr e.eid e.slot fun t => t.addPend { id := n, target := tg, need := need } true)

/-- A zero-extended scalar operand, for lane 0. -/
def a0 (e : Env) : Nat := e.a 0
def b0 (e : Env) : Nat := e.b 0
def c0 (e : Env) : Nat := e.c_ 0

/-- IMM as a signed number. -/
def imm (e : Env) : Int := e.f.imm.toInt

/-- The operand that a pair or a quad field names: `sp` times its width (R146). -/
def wide (o : Opnd) (sp : Nat) : Opnd :=
  match o with
  | .vec st w => .vec st (w * sp)
  | .scal st w => .scal st (w * sp)
  | o => o

/-- As `doneI` and `doneL` with the destination widened. -/
def wideI (e : Env) (sp : Nat) (vals : List (Nat × Nat)) (fl : BitVec 6) : State :=
  e.modT fun t => { t.write (wide e.od sp) (fun l => Keyed.get? vals l) with fpsr := t.fpsr ||| fl }

def wideL (e : Env) (sp : Nat) (vals : List (Nat × Nat)) (fl : BitVec 6) : State :=
  let (n, s) := e.s.fresh
  s.modThr e.eid e.slot fun t =>
    t.addPend { id := n, target := (wide e.od sp).target, vals := vals, flags := fl } (!vals.isEmpty)

end Env

/-! ## The width rules (R69) -/

/-- An integer source of `w` slices read as a type of `n` bits. -/
def srcInt (sgn : Bool) (n w v : Nat) : Int :=
  let m := min n (4 * w)
  if sgn then signed m v else (v % 2 ^ m : Nat)

/-- An integer result reduced to the type and then to a destination of `w` slices. -/
def fitInt (sat sgn : Bool) (n w : Nat) (v : Int) : Nat :=
  pat (4 * w) (reduceInt sat sgn (4 * w) (reduceInt sat sgn n v))

/-- A pattern under the raw rule. -/
def fitRaw (w v : Nat) : Nat := v % 2 ^ (4 * w)

end Sys2Proof.Machine

/-- The rounding mode that RND selects (R13). -/
def Sys2Proof.Fields.rm (f : Sys2Proof.Fields) : Sys2Proof.Machine.RM :=
  (Sys2Proof.Machine.RM.ofCode f.rnd.toNat).getD .rne
end

