-- ==== Sys2Proof/Machine/Flags.lean ====
section
/-! DEFINITION. The flag and status registers of a thread and of a core: FPSR (R116), TSTAT (R117), COREPWR (R118). -/

namespace Sys2Proof.Machine

/-- Whether a result of an instruction in this type is class L although the map says I: FP64 on a core of a D-tile
(R49). -/
def slowType (e : Env) (ty : Nat) : Bool := ty == 7 && !isWTile (eidEp e.eid)

/-- FPSR as `rdsr` reads it: the flags that have been set so far; those of a pending class L instruction are not among
them until its result is written (R116). -/
def readFpsr (t : Thread) : Nat := t.fpsr.toNat

/-- Steps the generators of the lanes that deliver a result in SR, `n` elements each (R17). -/
def stepSeeds (e : Env) (n : Nat) (s : State) : State :=
  if e.f.rm != .sr then s
  else
    s.modThr e.eid e.slot fun t =>
      { t with seed := (List.range 32).map fun l =>
          let u := t.seed.getD l 1
          if e.dlanes.contains l then Nat.repeat srStep n u else u }

/-- TSTAT (R117). -/
def readTstat (t : Thread) : Nat :=
  t.trapCnt.toNat * 2 ^ 16 + t.lastTrap.toNat * 2 ^ 8 + b2n t.drainReq * 4 + b2n t.hslot * 2 + b2n t.deadRead

/-- COREPWR (R118). -/
def readCorepwr (c : Core) : Nat := c.limit.toNat * 4 + c.last.toNat

/-- The LIMIT that a write stores: 3 is stored as 2 (R118). -/
def limitOf (v : Nat) : BitVec 2 := if bits v 3 2 = 3 then 2 else BitVec.ofNat 2 (bits v 3 2)

/-- SRSEED as stored: 0 is stored as 1 (R16). -/
def seedOf (v : Nat) : BitVec 16 := if v % 65536 = 0 then 1 else BitVec.ofNat 16 v

end Sys2Proof.Machine
end

