-- ==== Sys2Proof/Machine/Ops.lean ====
section
/-! DEFINITION. The shared operations of threads: issue and retirement (R91 to R101), the landing of class L results
(R71 to R77), taking a trap (R378 to R382) and returning from one (R383, R400), and the freezing of a faulted task
(R291, R295). -/

namespace Sys2Proof.Machine

/-! ## Fetched words (R101) -/

/-- The doubleword at an LM offset, if the fetch buffer holds it. -/
def Thread.wordAt (t : Thread) (off : Nat) : Option Nat :=
  (t.fetch.find? fun (b, _) => b == off / 32 * 32).map fun (_, bs) => ofBytes ((bs.drop (off % 32)).take 8)

/-- Whether the words of the next instruction are in the fetch buffer; past the end of LM there are none to wait for. -/
def Thread.hasWords (t : Thread) : Bool :=
  let pc := t.pc.toNat
  if 0x7FFF8 < pc then true
  else
    match t.wordAt pc with
    | none => false
    | some w => w % 2 == 0 || pc == 0x7FFF8 || (t.wordAt (pc + 8)).isSome

/-- The base word at the program counter, 0 past the end of LM. -/
def Thread.word (t : Thread) : Nat := (t.wordAt t.pc.toNat).getD 0

/-- A thread that goes on: ready, or fetching while a word of its next instruction is absent (R91). -/
def Thread.goOn (t : Thread) : Thread := { t with status := if t.hasWords then .ready else .fetching }

/-- A thread that enters the ready state now, or stays in it: its stamp is the later of now and the cycle after its last
grant (R95). -/
def enterReady (s : State) (eid slot : Nat) (t : Thread) : State :=
  s.setThr eid slot { t.goOn with stamp := max t.stamp (s.cycle eid) }

/-! ## Records and bindings -/

namespace State

/-- The record that a handle names; none when the handle is stale (R275). -/
def rec? (s : State) (h : Nat) : Option Rec :=
  match Keyed.get? s.recs (h % 2 ^ 28) with
  | some r => if r.handle = h then some r else none
  | none => none

def setRec (s : State) (r : Rec) : State := { s with recs := Keyed.put s.recs (r.handle % 2 ^ 28) r }

def modRec (s : State) (h : Nat) (g : Rec → Rec) : State :=
  match s.rec? h with
  | some r => s.setRec (g r)
  | none => s

/-- Device and die of a handle (R275). -/
def hDev (h : Nat) : Nat := bits h 27 18
def hDie (h : Nat) : Nat := bits h 27 16

/-- The threads of a task: those whose TASKID is its handle (R292), as EID and slot. -/
def taskThreads (s : State) (h : Nat) : List (Nat × Nat) :=
  s.cores.flatMap fun (e, c) =>
    (c.threads.filter fun (i, t) => decide (i < 16) && t.task.toNat == h).map fun (i, _) => (e, i)

def setEdge (s : State) (g : Edge) : State :=
  { s with edges := s.edges.map fun x => if x.id = g.id then g else x }

def edge? (s : State) (id : Nat) : Option Edge := s.edges.find? (·.id == id)

/-- The binding of a task on a core. -/
def binding? (s : State) (eid h : Nat) : Option Binding := (s.core eid).bindings.find? (·.handle == h)

/-- Every core of a task's berth; `ranOn` adds those on which other threads of it have run. -/
def berthCores (r : Rec) : List Nat :=
  match r.berth with
  | some b => (List.range (2 ^ r.cores)).map (b + ·)
  | none => []

def ranOn (r : Rec) : List Nat := berthCores r ++ r.ran

/-- Restarts the quiescence window of an instance (R302). -/
def touchInst (s : State) (dev asid gid : Nat) : State :=
  if gid = 0xFFFF then s
  else
    { s with insts := s.insts.map fun (d, i) =>
        (d, if d = dev ∧ i.asid = asid ∧ i.gid = gid then
              { i with since := (s.die i.die).cycles, told := false }
            else i) }

end State

/-- The address of the ring descriptor of a task queue on a die (R281); none when the queue is disabled. -/
def queueRing (s : State) (die asid q : Nat) : Option Nat :=
  match s.ctx? (die / 4) asid with
  | some c => match c.queues[q]? with
    | some (0, _) => none
    | some (a, _) => some (a + 64 * (die % 4))
    | none => none
  | none => none

/-- Sets or clears the FROZEN bit of a queue's ring, which follows its queue's freeze (R303). -/
def markFrozen (s : State) (die asid q : Nat) (on : Bool) : State :=
  match queueRing s die asid q with
  | none => s
  | some va =>
    match xlBlock s (die / 4) asid va 64 true with
    | .error _ => s
    | .ok k =>
      let r := ringAt s k
      if ¬ r.ok ∨ r.frozen = on then s
      else
        let w := s.rd (k + 8) 8
        putNum s (k + 8) 8 (if on then w + 2 ^ 19 else w - 2 ^ 19)

/-- Freezes a task queue (R295). -/
def freezeQueue (s : State) (die asid q : Nat) : State :=
  markFrozen (s.modDie die fun d =>
    if d.frozenQ.contains (asid * 256 + q) then d else { d with frozenQ := d.frozenQ ++ [asid * 256 + q] }) die asid q true

/-- A slot that a task gives back: its contents and flags stay until it is assigned again (R153). -/
def AccSlot.freed (h : Nat) (a : AccSlot) : AccSlot :=
  if a.owner = some h then { a with owner := none, fault := none } else a

/-- Takes a task's regions, slots, ports and held threads' room off one core. -/
def freeOnCore (s : State) (h : Nat) (eid : Nat) : State :=
  s.modCore eid fun c =>
    { c with
      bindings := c.bindings.filter (·.handle != h)
      gran := c.gran.filter fun (_, r) => r != .data h
      accs := c.accs.map (·.freed h) }

/-- Whether every thread of a task that has run on a core has exited there. -/
def leftCore (s : State) (eid : Nat) (b : Binding) : Bool :=
  ((s.rec? b.handle).any fun r => r.state == .running || r.state == .done || r.state == .cancelling ||
      (r.state == .faulted && r.before == .running)) &&
    !(s.taskThreads b.handle).any fun x => x.1 == eid

/-- Whether a command of a task is queued or runs on some engine. -/
def engaged (s : State) (h : Nat) : Bool :=
  let t := BitVec.ofNat 32 h
  s.cores.any fun (_, c) => (c.chan.any fun x => x.cmd.any (·.task == t)) || (c.shadow.any fun x => x.2.task == t) ||
    c.mxq.any (·.task == t)

/-- Gives back what a task that has left a core holds there: the accumulator slots once no queued command names them (R153),
the data region once no engine command of the task runs, no access to it is on its way and no stash window lies in it, which
the task's completion still writes back (R175, R292). -/
def reclaim (s : State) (eid : Nat) : State :=
  (s.core eid).bindings.foldl (fun s b =>
    if ¬ leftCore s eid b then s
    else
      let c := s.core eid
      let slots := !b.accs.isEmpty && !c.mxq.any fun m => b.accs.contains m.phys
      let data := b.dataN != 0 && !engaged s b.handle &&
        !(s.accs.any fun a => a.keys.any fun k => decide (lmKey eid b.dataLo ≤ k) && decide (k < lmKey eid b.dataLo + 4096 * b.dataN)) &&
        !c.stash.any fun w => decide (b.dataLo ≤ w.lo) && decide (w.lo < b.dataLo + 4096 * b.dataN)
      if ¬ slots ∧ ¬ data then s
      else
        s.setCore eid { c with
          accs := if slots then c.accs.map (·.freed b.handle) else c.accs
          gran := if data then c.gran.filter fun (_, r) => r != .data b.handle else c.gran
          bindings := c.bindings.map fun x => if x.handle ≠ b.handle then x else
            { x with accs := if slots then [] else x.accs, dataN := if data then 0 else x.dataN } }) s

/-- Takes an edge's ring away: its granules return to the free pool and its tokens are lost. -/
def freeRing (s : State) (g : Edge) : State :=
  let s := if g.ntok = 0 then s else
    s.modCore g.core fun c => { c with gran := c.gran.filter fun (_, r) => r != .ring g.id }
  s.setEdge { g with ntok := 0, placed := false, queue := [], held := none, resv := 0, waitq := [], ended := [], marker := false }

/-- Takes an edge away whose ring no producer is bound to: a later binding makes it anew. -/
def dropEdge (s : State) (g : Edge) : State :=
  let s := freeRing s g
  { s with edges := s.edges.filter (·.id != g.id) }

/-- Whether a bound task of a core uses the text at an address (R175). -/
def codeUsed (s : State) (eid code gr : Nat) : Bool :=
  (s.core eid).bindings.any fun b =>
    match s.rec? b.handle with
    | some r => r.code == code && r.codegr == gr
    | none => false

/-- Takes the unused code regions of a core away that satisfy a test. -/
def freeCode (s : State) (eid : Nat) (p : Nat → Nat → Bool) : State :=
  s.modCore eid fun c => { c with gran := c.gran.filter fun (_, x) =>
    match x with | .code a g _ => !p a g || codeUsed s eid a g | _ => true }

/-- Whether an in-edge ring stays at an undo: a token not yet taken, or a producer's port bound to it (R291). -/
def ringStays (s : State) (g : Edge) : Bool :=
  g.ntok != 0 && (g.queue.any (fun i => match i with | .data _ => true | _ => false) ||
    s.cores.any fun (_, c) => c.bindings.any fun b => b.handle == g.prod && b.outs.contains g.id)

/-- Undoes a binding (R291): prefetches stop, the berth's resources return, the task is ARMED again.  A cancelled
graph makes no exception for rings. -/
def undoBinding (s : State) (h : Nat) (cancel : Bool) : State :=
  match s.rec? h with
  | none => s
  | some r =>
    let mine := s.edges.filter fun g => g.cons == h && g.ntok != 0
    let stay := if cancel then [] else mine.filter (ringStays s)
    let s : State := { s with fars := s.fars.filter fun f => f.slot / 2 ^ 100 != h + 1 }
    let s := (State.berthCores r).foldl (fun s e => freeOnCore s h e) s
    let s := mine.foldl (fun s g =>
      if stay.any (·.id == g.id) then s
      else if cancel then freeRing s g
      else dropEdge s g) s
    let s := if r.text = 2 then s else
      r.loads.foldl (fun s e => freeCode s e fun a g => a == r.code && g == r.codegr) s
    s.setRec { r with state := .armed, berth := none, text := 0, textGot := 0, loads := [],
                      keepCore := if stay.isEmpty then none else r.berth,
                      ops := r.ops.map TaskOp.unfetched }

/-- Makes a task FAULTED (R295): its queue is frozen and its run-ahead successors are undone, also when the task is FAULTED
already. -/
def taskFault (s : State) (h : Nat) : State :=
  match s.rec? h with
  | none => s
  | some r =>
    if r.state = .cancelling ∨ r.state = .free then s
    else
      let s := if r.state = .faulted then s else s.setRec { r with state := .faulted, before := r.state }
      let s := freezeQueue s (State.hDie h) r.asid r.queue
      r.succ.foldl (fun s x =>
        match s.rec? x.handle with
        | some r' => if r'.state = .ahead then undoBinding s x.handle false else s
        | none => s) s

/-! ## The end of a thread -/

/-- Writes RCOUNT or WCOUNT of a ring's header to memory (R193). -/
def putCounts (s : State) (g : Edge) : State :=
  let s := s.wr (lmKey g.core g.off) 4 (g.wcount % 2 ^ 32)
  (s.wr (lmKey g.core (g.off + 4)) 4 (g.rcount % 2 ^ 32)).mend (lmKey g.core g.off) 8

/-- Releases the token that an in-port holds (R196). -/
def releaseHeld (s : State) (g : Edge) : State :=
  match g.held with
  | none => s
  | some _ =>
    let g := { g with held := none, rcount := g.rcount + 1 }
    putCounts (s.setEdge g) g

/-- What a thread has issued goes on without it, under a slot number that no thread has. -/
def orphan (s : State) (eid slot : Nat) : State :=
  let task := ((s.thr? eid slot).map fun t => t.task.toNat).getD 0
  { s with
    accs := s.accs.map fun a => if a.eid = eid ∧ a.slot = slot then { a with slot := 30, task := task } else a
    net := s.net.map fun p => if p.src = eid ∧ p.slot = slot then { p with slot := 30 } else p
    cores := s.cores.map fun (k, c) =>
      let own (m : CopyCmd) : CopyCmd := if m.slot = slot then { m with slot := 30 } else m
      (k, if k = eid then
        { c with chan := c.chan.map fun h => { h with cmd := h.cmd.map own }
                 shadow := c.shadow.map fun (ch, m) => (ch, own m)
                 mxq := c.mxq.map fun m => if m.thread = slot then { m with thread := 30 } else m } else c) }

/-- A reply to a result of a thread, with the patterns given; late replies to an ended thread find nothing (R311). -/
def finishPend (s : State) (eid slot id : Nat) (vals : List (Nat × Nat)) : State :=
  s.modThr eid slot fun t =>
    { t with pend := t.pend.map fun p => if p.id = id then { p with vals := p.vals ++ vals, need := p.need - 1 } else p }

/-- The bytes of a core's freeze image, by memory key (R396): as many as the device's layout has, each where the context's
translation puts it; a byte without one is left out (log entry 25). -/
def imageKeys (s : State) (eid : Nat) : List (Nat × Nat) :=
  match (s.core eid).ctx.bind fun a => (s.ctx? (eidDev eid) a).map fun x => (a, x) with
  | none => []
  | some (a, x) =>
    (List.range Config.imageLen).filterMap fun i =>
      match xlDev s (eidDev eid) a (x.frz + (eidDie eid % 4 * 576 + eidEp eid) * 2 ^ 18 + i) true with
      | .ok k _ => some (k, i)
      | _ => none

/-- Writes a core's freeze image (R392). -/
def writeImage (s : State) (eid : Nat) : State :=
  (s.setBytes ((imageKeys s eid).map fun (k, i) => (k, Config.imageByte s.steps i))).modCore eid fun c =>
    { c with imageAt := s.steps }

/-- Whether the freeze image holds what the freeze wrote: the program must not write it (R392). -/
def imageKept (s : State) (eid : Nat) : Bool :=
  (imageKeys s eid).all fun (k, i) => s.byte k == Config.imageByte (s.core eid).imageAt i

/-- The slices of a thread that is reloaded from an image that something else has overwritten: of no stated value. -/
def Thread.spoilt (t : Thread) (free eid slot : Nat) : Thread :=
  { t with
    vec := (List.range 32).map fun l => BitVec.ofNat 2048 ((List.range (t.swinv / 16)).foldl (fun v i =>
      v + (Config.freeWord free (2 ^ 74 + ((eid * 16 + slot) * 33 + l) * 32 + i)).toNat * 2 ^ (64 * i)) 0)
    scal := BitVec.ofNat 1024 ((List.range 16).foldl (fun v i =>
      v + (Config.freeWord free (2 ^ 74 + ((eid * 16 + slot) * 33 + 32) * 32 + i)).toNat * 2 ^ (64 * i)) 0) }

/-- Reloads a core's threads from its freeze image (R66, R394). -/
def reloadImage (s : State) (eid : Nat) : State :=
  if imageKept s eid then s
  else s.modCore eid fun c => { c with threads := c.threads.map fun (i, t) => (i, t.spoilt s.free eid i) }

/-- Whether a thread has a release under way: a join that others wait for, or that of a `fence` or `gbar` in progress (R250). -/
def Thread.releasing (t : Thread) (s : State) : Bool :=
  !t.joins.isEmpty || match t.phase with
    | some (.join ids) => s.accs.any (fun a => ids.contains a.id || ids.contains a.inst) ||
        s.cores.any fun (_, c) => c.mxq.any fun m => ids.contains m.id
    | _ => false

/-- Completes a freeze that was asked for, once no handler runs and no join of the core's threads is pending (R392): a matrix
command in progress stops after its present k-step (R163), the image is written, the operand stager's rows are dropped, and
`frz` is answered. -/
def tryFreeze (s : State) (eid : Nat) : State :=
  let c := s.core eid
  match c.freezing with
  | none => s
  | some r =>
    if c.threads.any fun (i, t) => decide (16 ≤ i) || t.releasing s then s
    else
      let s := s.modTile (eidTile eid) fun x => { x with run := x.run.filter fun y => y.1 != eid }
      let s := writeImage (s.setCore eid { c with
        frozen := true, freezing := none, mxq := c.mxq.map fun m => { m with stage := [], lim := none } }) eid
      let w := match (s.thr? r.eid r.slot).bind fun t => t.pend.find? (·.id == r.pend) with
        | some { target := .scal _ w, .. } => w
        | _ => 16
      finishPend s r.eid r.slot r.pend [(0, 0 % 2 ^ (4 * w))]

/-- Whether the instruction that sends a request stays at its issue until the answer is there: `tksub` and `rgtake`, whose faults
are precise (R313, R316). -/
def Body.blocking : Body → Bool
  | .taskOp 7 _ | .taskOp 13 _ => true
  | _ => false

/-- Whether a request has been granted and its sender has not heard of it. -/
def Packet.granted (p : Packet) : Bool := p.ans == .quiet

/-- Takes back what the instruction at which a thread is held has begun: a reservation that is not granted with the token that
it is for (R195), a request that stays at its issue. -/
def takeBack (s : State) (eid slot : Nat) : State :=
  match (s.thr? eid slot).bind (·.phase) with
  | some (.edge false) | some .asked =>
    let own (p : Packet) : Bool := p.src == eid && p.slot == slot
    let lost := s.net.filterMap fun p => match p.body with
      | .edgeResv id => if own p ∧ p.granted then some id else none
      | _ => none
    { s with
      net := s.net.filter fun p => !(own p && match p.body with
        | .edgeResv _ => true
        | .edgeToken .. => p.state == .recorded
        | b => b.blocking)
      edges := s.edges.map fun g => if lost.contains g.id then { g with resv := g.resv - 1 } else g }
  | _ => s

/-- The accesses to other devices' memory that a command of a thread, or with number 0 its instruction, has made are over. -/
def farDone (s : State) (eid slot id : Nat) : State :=
  { s with fars := s.fars.filter fun f => !(f.eid == eid && f.slot == slot && f.id == id) }

/-- Whether a combination by a user routine is for a thread's `redfix`. -/
def Job.isFor (j : Job) (eid slot : Nat) : Bool := j.member.isSome && j.eid == eid && j.tslot == slot

def Plan.without (p : Plan) (eid slot : Nat) : Plan := { p with jobs := p.jobs.filter fun j => !j.isFor eid slot }

/-- A thread's `redfix` is over: what a user routine combines for it goes, with its range-lock entry (R371). -/
def dropFix (s : State) (eid slot : Nat) : State :=
  let mine := s.plans.flatMap fun (_, p) => p.jobs.filter (·.isFor eid slot)
  if mine.isEmpty then s
  else
    let s := { s with plans := s.plans.map fun (x : Nat × Plan) => (x.1, x.2.without eid slot) }
    s.modCore eid fun c => { c with rlocks := c.rlocks.filter fun l => !mine.any fun j => j.lock == l.owner }

/-- Ends a thread: its slot and units are free (R65, R109).  The last thread of a task on a core lets go of the tokens
held there (R196); the last of all makes a RUNNING task DONE (R292). -/
def endThread (s : State) (eid slot : Nat) (drained : Bool) : State :=
  match s.thr? eid slot with
  | none => s
  | some t =>
    let h := t.task.toNat
    let s := tryFreeze ((orphan (dropFix (takeBack (farDone s eid slot 0) eid slot) eid slot) eid slot).modCore eid fun c => { c with threads := Keyed.del c.threads slot }) eid
    if 16 ≤ slot then s
    else
      match s.rec? h with
      | none => s
      | some r =>
        let s := if drained then s.setRec { r with drained := true } else s
        let left := s.taskThreads h
        let s := if left.any (·.1 == eid) then s else
          (s.edges.filter fun g => g.cons == h && g.core == eid && g.ntok != 0).foldl releaseHeld s
        if left.isEmpty then
          s.modRec h fun r => if r.state = .running then { r with state := .done } else r
        else s

/-! ## Replies -/

/-- Whether a packet goes from device to device. -/
def Packet.travels (p : Packet) : Bool := eidDev p.src != eidDev p.dst

/-- Whether a packet is a request that crosses a Yard port (R348). -/
def Packet.crosses (p : Packet) : Bool := p.cls != 6 && p.travels

/-- The number of requests that a stream has sent. -/
def seqOf (l : List ((Nat × Nat × Nat) × Nat)) (k : Nat × Nat × Nat) : Nat :=
  ((l.find? fun x => x.1 == k).map (·.2)).getD 0

/-- The handler unit of a request, and its stream (R348). -/
def Packet.unit (p : Packet) : Nat := p.sub * 2 ^ 22 + p.dst
def Packet.key (p : Packet) : Nat × Nat × Nat := (p.src, p.cls, p.unit)

/-- Takes the next number of a stream. -/
def takeSeq (s : State) (k : Nat × Nat × Nat) : State :=
  { s with seqs := (k, seqOf s.seqs k + 1) :: s.seqs.filter fun x => x.1 != k }

/-- Puts a packet on its way, with the next sequence number of its stream (R348). -/
def sendPacket (s : State) (p : Packet) : State :=
  let n := seqOf s.seqs p.key
  let s := if p.crosses then takeSeq s p.key else s
  { s with net := s.net ++ [{ p with id := s.nextId, seq := n % 65536, tick0 := none }], nextId := s.nextId + 1 }

/-- Sends a refused or offered request anew: it is a request with a number of its own (R329, R348). -/
def renewPkt (s : State) (id : Nat) : State :=
  match s.net.find? (·.id == id) with
  | none => s
  | some p =>
    let n := seqOf s.seqs p.key
    let s := if p.crosses then takeSeq s p.key else s
    { s with net := s.net.map fun q => if q.id = id then
        { q with state := .flying, seq := n % 65536, tick0 := none, queued := none, out := false, resent := 0, escape := false } else q }

/-- The die number under which an endpoint's events are recorded: 4 for the Yard. -/
def recDie (eid : Nat) : Nat := if isYard eid ∨ eidEp eid = 1001 then 4 else eidDie eid % 4

/-- A negative acknowledgement is logged at an endpoint that sends or receives it, with its peer (R411). -/
def nackNote (s : State) (at_ peer : Nat) : State :=
  if s.hasDev (eidDev at_) then s.record (eidDev at_) (recDie at_) 3 (peer % 2 ^ 22) none none else s

/-- Ends a handler by a trap: its `amr` sender gets refusal reason 5 (R321). -/
def endHandler (s : State) (eid slot : Nat) (t : Thread) : State :=
  let s := tryFreeze ((orphan s eid slot).modCore eid fun c => { c with threads := Keyed.del c.threads slot }) eid
  match t.replyTo with
  | none => s
  | some r =>
    sendPacket (nackNote s eid r.eid) { (default : Packet) with
      asid := (s.core eid).ctx.getD 0, src := eid, dst := r.eid, slot := r.slot, pend := r.pend, cls := 6,
      body := .refusal 5 r.ipc, ipc := r.ipc, word := r.word }

/-! ## Taking a trap (R379) -/

/-- The origin fields of a record about a thread. -/
def originOf (s : State) (eid slot : Nat) (t : Thread) : Origin :=
  let h := if 16 ≤ slot ∨ isYard eid then 0xFFFFFFFF else t.task.toNat
  match s.rec? h with
  | some r => { eid := eid, tslot := slot, handle := h, queue := r.queue, qentry := r.qentry, gid := r.gid }
  | none => { eid := eid, tslot := slot, handle := h }

/-- Delivers a trap once the run's earlier results are written: TSTAT, the fault record, then what the agent is decides
(R379).  A thread in a thread slot is blocked with the trap as its reason and its task becomes FAULTED; a handler ends;
a routine of a yard core waits for its end under R361. -/
def deliverTrap (s : State) (eid slot : Nat) (i : TrapInfo) : State :=
  match s.thr? eid slot with
  | none => s
  | some t =>
    let t := { t with trapCnt := if t.trapCnt = 0xFFFF then 0xFFFF else t.trapCnt + 1,
                      lastTrap := BitVec.ofNat 8 i.code, status := .trapped i }
    let t := t.flush s.free
    let s := postRecord ((farDone s eid slot 0).setThr eid slot t) (eidDev eid) ((s.core eid).ctx.getD 0) i (originOf s eid slot t)
    if 16 ≤ slot then endHandler s eid slot t
    else if isYard eid then s
    else taskFault s t.task.toNat

/-- Takes a trap: at once when every earlier class L result of the run is written, else when the last of them is
(R75). -/
def takeTrap (s : State) (eid slot : Nat) (i : TrapInfo) : State :=
  match s.thr? eid slot with
  | none => s
  | some t =>
    let s := s.setThr eid slot { t with walkFault := none }
    if t.allLanded then deliverTrap s eid slot i
    else s.setThr eid slot { t with walkFault := none, status := .trapPark i }

/-! ## The end of a run -/

/-- A thread between two runs goes on, once no refusal or memory error of the last run is left to deliver (R219, R319). -/
def nextRun (s : State) (eid slot : Nat) (t : Thread) : State :=
  match t.deferred with
  | (_, i) :: rest =>
    deliverTrap (s.setThr eid slot { t with deferred := rest }) eid slot { i with rpc := t.pc.toNat, defer := true }
  | [] => enterReady s eid slot t

/-- After the marker, with every result landed: the slices settle (R73). -/
def endRun (s : State) (eid slot : Nat) (t : Thread) : State := nextRun s eid slot (t.settle s.free)

/-- Retires an instruction: a marker ends the run or parks the thread, otherwise the thread goes on (R71, R91). -/
def retire (s : State) (eid slot : Nat) (m : Bool) : State :=
  match s.thr? eid slot with
  | none => s
  | some t =>
    if m then
      if t.allLanded then endRun s eid slot t else s.setThr eid slot { t with status := .parked true }
    else s.setThr eid slot t.goOn

/-- A class L result lands: its flags are set, and the last one of a run unparks the thread (R71, R75, R116). -/
def landPend (s : State) (eid slot id : Nat) : State :=
  match s.thr? eid slot with
  | none => s
  | some t =>
    let t := { t with
      fpsr := t.pend.foldl (fun f p => if p.id = id then f ||| p.flags else f) t.fpsr
      pend := t.pend.map fun p => if p.id = id then { p with landed := true } else p }
    let s := s.setThr eid slot t
    if t.allLanded then
      match t.status with
      | .parked true => endRun s eid slot t
      | .trapPark i => deliverTrap s eid slot i
      | _ => s
    else s

/-! ## Acquires -/

/-- Whether every read, atomic and receive of the thread has bound its value (R241); a release that it does not wait for
is none. -/
def readsBound (t : Thread) : Bool := t.pend.all fun p => p.need == 0 || t.joins.any (·.pend == p.id)

/-- Whether something that has been issued is still to be performed in a granule of LM, which it found filled at its issue. -/
def granInUse (s : State) (eid g : Nat) : Bool :=
  let inG (k : Nat) : Bool := k / 4096 == lmKey eid 0 / 4096 + g
  (s.accs.any fun a => a.keys.any inG) || (s.acks.any fun a => a.eid == eid && a.obj / 4096 == g) ||
    s.net.any fun p => match p.body with
      | .barrier k _ _ | .taskOp 9 [k] | .taskOp 10 [k, _] => inG k
      | .deposit off args _ => decide (args.length < 4) && inG (lmKey p.dst off)
      | _ => false

/-- A granule that an acquire returns to empty when it is clean.  DESIGN CHOICE (log entry 111): what was issued before is still
performed in it, as if before the acquire. -/
def StashGr.emptied (g : StashGr) (used : Bool) : StashGr :=
  if g.dirty ≠ 0 ∨ ¬ g.filled then g else if used then { g with stale := true } else { g with filled := false }

/-- The last step of an acquire: from die scope on, the core's L1D is dropped and clean stash granules return to empty
(R190, R203, R241). -/
def acquire (s : State) (eid slot scope : Nat) : State :=
  let s := s.modThr eid slot fun t => { t with acqAt := s.steps }
  if scope < 2 then s
  else
    State.modCore { s with fars := s.fars.filter fun f => !(f.eid == eid && f.slot / 2 ^ 16 == 1) } eid fun c =>
      { c with
        l1d := []
        stash := c.stash.map fun w =>
          { w with grs := w.grs.mapIdx fun i g => g.emptied (granInUse s eid (w.lo / 4096 + i)) } }

/-! ## Mailbox heads (R79, R330) -/

/-- The mailboxes that the source fields of an instruction name. -/
def mboxesOf (fm : Form) (f : Fields) : List Nat :=
  let one (u : Use) (x : OpField) := if u.isSrc then
      (match Opnd.ofField x with | .mbox k => [k] | _ => []) else []
  ((one fm.a f.a) ++ (one fm.b f.b) ++ (one fm.c f.c)).eraseDups

/-- Offers a freed place of a mailbox to the earliest recorded sender (R330), one that has given up left out. -/
def offerPlace (s : State) (eid k : Nat) : State :=
  let c := s.core eid
  match (c.mbRec.getD k []).filter fun p => s.net.any (·.id == p) with
  | [] => s
  | p :: r =>
    let s := s.setCore eid { c with
      mbRec := c.mbRec.set k r
      mbResv := c.mbResv ++ [{ box := k, pkt := p, until_ := s.cycle eid + 512 }] }
    renewPkt s p

/-- Removes the head entry of a mailbox. -/
def popMbox (s : State) (eid k : Nat) : State :=
  offerPlace (s.modCore eid fun c => { c with mboxes := c.mboxes.set k ((c.mboxes.getD k []).drop 1) }) eid k

/-! ## Issue -/

/-- How an instruction's own description ends when it does not complete. -/
inductive Stop where
  /-- a precise trap -/
  | trap (i : TrapInfo)
  /-- a trap that leaves what an engine has done for it -/
  | fail (s : State) (i : TrapInfo)
  /-- it cannot issue for a reason that its description names (R91) -/
  | block
  /-- it waits for the run's results before it takes effect (R71) -/
  | park
  /-- it has begun something and waits -/
  | start (s : State)
  /-- a wait is in progress, and its marks are applied when it ends (R111, R112) -/
  | wait (w : Waiting)
  /-- as `wait`, after an effect made when it begins -/
  | hold (s : State) (w : Waiting)
  deriving DecidableEq, Repr

/-- A trap at the instruction in hand. -/
def Env.info (e : Env) (code : Nat) : TrapInfo :=
  { code := code, ipc := e.pc, rpc := e.pc, word := e.t.word }

/-- Ends an instruction by a trap. -/
def Env.trap {α : Type} (e : Env) (code : Nat) : Except Stop α := .error (.trap (e.info code))

/-- Ends an instruction by a trap that a lane's check found. -/
def Env.trapLane {α : Type} (e : Env) (code lane va : Nat) : Except Stop α :=
  .error (.trap { e.info code with lane := lane, va := va })

/-- A check of an instruction's own list. -/
def Env.need (e : Env) (ok : Bool) (code : Nat) : Except Stop Unit := if ok then .ok () else e.trap code

/-- Waits for the run's results, as R71 states. -/
def Env.settled (e : Env) : Except Stop Unit := if e.t.allLanded then .ok () else .error .park

/-- An effect of the thread, made when lane 0 is active (R98). -/
def Env.thread (e : Env) (k : Unit → Except Stop State) : Except Stop State := if e.act 0 then k () else .ok e.s

/-- The places in `Thread.ecc` of the slices of an operand (R380). -/
def Opnd.eccKeys (sp : Nat) : Opnd → List Nat
  | .vec st w => (List.range (w * sp)).map (st + ·)
  | .scal st w => (List.range (w * sp)).map (512 + st + ·)
  | _ => []

/-- The places in `Thread.ecc` of the slices and of the predicates that an instruction reads. -/
def readKeys (fm : Form) (f : Fields) : List Nat × List Nat :=
  let one (rd : Bool) (x : OpField) (sp : Nat) := if rd then (Opnd.ofField x).eccKeys sp else []
  let pr (u : Use) (x : OpField) := match u with | .pred => [768 + x.toNat] | _ => []
  (one fm.a.isSrc f.a fm.aspan ++ one fm.b.isSrc f.b fm.bspan ++ one fm.c.isSrc f.c fm.cspan ++
     one fm.dread f.d fm.dspan,
   (if f.psel = 0 then [] else [768 + f.psel.toNat]) ++ pr fm.a f.a ++ pr fm.b f.b ++ pr fm.c f.c)

/-- The places in `Thread.ecc` that an instruction writes anew: its destination, where every lane of it is active. -/
def writtenKeys (fm : Form) (f : Fields) (t : Thread) : List Nat :=
  let o := Opnd.ofField f.d
  let lanes : List Nat := match fm.d, o with | .dst _, .scal .. => [0] | _, _ => List.range 32
  if ¬ lanes.all (activeIn t f) then []
  else match fm.d with
    | .dst _ => o.eccKeys fm.dspan
    | .pred => [768 + f.d.toNat]
    | _ => []

/-- The checks before an instruction's own list: the watchdogs (R321, R361), decoding (R52 classes 1 to 3) and errors in what it
reads (R380).  DESIGN CHOICE (log entry 91): R52 does not place the watchdog trap and the uncorrectable errors among its classes;
the watchdog and an error in the instruction's words come before class 1, an error in a slice or a predicate after class 3. -/
def precheck (form : Option Form) (hOk yOk : Bool) (eid slot : Nat) (t : Thread) (f : Fields) :
    Option TrapInfo :=
  let at_ (code cause : Nat) : Option TrapInfo :=
    some { code := code, cause := cause, ipc := t.pc.toNat, rpc := t.pc.toNat, word := t.word }
  let handler := decide (16 ≤ slot)
  if (handler ∧ 4096 ≤ t.issued) ∨ (isYard eid ∧ 65536 ≤ t.issued) then at_ 9 0
  else if (List.range (if f.x then 2 else 1)).any fun i => t.ecc.contains (1024 + (t.pc.toNat + 8 * i) / 32) then at_ 11 3
  else
    match form with
    | none => at_ 1 0
    | some fm =>
      if ¬ fm.legal f ∨ 0x7FFF8 < t.pc.toNat ∨ (f.x ∧ t.pc.toNat = 0x7FFF8) ∨ (handler ∧ ¬ hOk) ∨ (¬ handler ∧ fm.hOnly) ∨ (isYard eid ∧ ¬ yOk) ∨
          (handler ∧ ¬ (mboxesOf fm f).isEmpty) then at_ 1 0
      else if fm.narrow f then at_ 2 0
      else if fm.past f t.swinv then at_ 3 0
      else
        match readKeys fm f with
        | (sl, pr) =>
          if sl.any t.ecc.contains then at_ 11 1
          else if pr.any t.ecc.contains then at_ 11 2
          else none

/-- The cycles beyond the first that the instruction occupies the issue port: one for each operand that crosses a bank
(R70), one for FP64 in the float group and `cvt` (R123). -/
def crossings (fm : Form) (f : Fields) : Nat :=
  let one (u : Use) (x : OpField) (sp : Nat) := if u.isOpnd then
      (match Opnd.ofField x with
       | .vec st w | .scal st w => b2n (st / 16 != (st + w * sp - 1) / 16)
       | _ => 0) else 0
  one fm.d f.d fm.dspan + one fm.a f.a fm.aspan + one fm.b f.b fm.bspan + one fm.c f.c fm.cspan + b2n fm.fp64

/-- The grant of the issue port: the pointer, the ready stamp, the cycles that the port is busy (R95). -/
def grantPort (s : State) (eid slot : Nat) (t : Thread) (k : Nat) : State :=
  let s := s.modCore eid fun c =>
    { c with ptr := if slot < 16 then (slot + 1) % 16 else c.ptr, busy := s.cycle eid + 1 + k }
  s.setThr eid slot { t with stamp := s.cycle eid + 1 }

/-- The grant to an instruction that issues, which also restarts the quiescence window of the thread's instance, on the
device of its task's record (R302). -/
def grant (s : State) (eid slot : Nat) (t : Thread) (k : Nat) : State :=
  let s := grantPort s eid slot t k
  match s.rec? t.task.toNat with
  | some r => if slot < 16 then s.touchInst (State.hDev r.handle) r.asid r.gid else s
  | none => s

/-- The grant to an instruction that cannot issue yet: the thread is blocked or parked (R91, R95). -/
def holdAt (s : State) (eid slot : Nat) (t : Thread) (st : TStatus) : State :=
  (grantPort s eid slot t 0).modThr eid slot fun t => { t with status := st }

/-- Whether an instruction of the thread reads a dead slice that it must report (R78). -/
def Thread.readsDead (t : Thread) (fm : Form) (f : Fields) : Bool :=
  let saw (u : Use) (x : OpField) (sp : Nat) := u.isSrc && t.dead (Opnd.ofField x) sp
  !fm.quiet && (saw fm.a f.a fm.aspan || saw fm.b f.b fm.bspan || saw fm.c f.c fm.cspan ||
    (fm.dread && t.dead (Opnd.ofField f.d) fm.dspan))

/-- The thread as its instruction leaves it but for the instruction's own effect: counted, moved on, marks applied,
reads of dead slices noticed (R76, R78). -/
def Thread.issue (t : Thread) (fm : Form) (f : Fields) (len : Nat) : Thread :=
  let o := Opnd.ofField
  let dr := t.readsDead fm f
  let t := { t with issued := t.issued + 1, pc := t.pc + BitVec.ofNat 20 len, phase := none, walkFault := none,
                    deadRead := t.deadRead || dr, ecc := if t.ecc.isEmpty then [] else t.ecc.filter fun k => !(writtenKeys fm f t).contains k }
  let t := if f.lra then t.kill (o f.a) fm.aspan else t
  let t := if f.lrb then t.kill (o f.b) fm.bspan else t
  if f.lrc then t.kill (o f.c) fm.cspan else t

/-- Whether a mailbox entry of a thread has spent its budget: the thread issues nothing until it is accepted (R330). -/
def mbHeld (s : State) (eid slot : Nat) : Bool :=
  s.net.any fun p => p.src == eid && p.slot == slot && decide (17 ≤ p.tries) &&
    match p.body with | .mbox _ _ nb => !nb | _ => false

/-- Whether the mailboxes whose heads an instruction reads hold entries, and the acquire of the pop may be made (R79,
R241). -/
def headsReady (c : Core) (t : Thread) (boxes : List Nat) : Bool :=
  boxes.all (fun k => !(c.mboxes.getD k []).isEmpty) && (boxes.isEmpty || (readsBound t && t.pend.all fun p => !p.acq || p.landed))

/-- Whether a thread's task is cancelled (R311). -/
def cancelled (s : State) (slot : Nat) (t : Thread) : Bool :=
  decide (slot < 16) && (s.rec? t.task.toNat).any (·.state == .cancelling)

/-- The instruction in hand: the grant, the marks, the mailbox heads popped (R79, R95). -/
def issueEnv (fm : Form) (f : Fields) (s : State) (eid slot : Nat) (t : Thread) : Env :=
  let len := if f.x then 16 else 8
  let boxes := mboxesOf fm f
  let u := t.seen s.free
  let s1 := (grant s eid slot t (crossings fm f)).modThr eid slot fun t => (t.issue fm f len).renew u fm.d f fm.dspan
  let s2 := boxes.foldl (fun s k => popMbox s eid k) s1
  let s3 := if boxes.isEmpty then s2 else acquire s2 eid slot 2
  { s0 := s, s := s3, eid := eid, slot := slot, c := s.core eid, t := u, f := f, len := len }

/-- What follows an instruction's own description: retirement, a trap, or the state in which the thread is held (R71, R75,
R91); `k` is the instruction's further cycles at the issue port. -/
def conclude (s : State) (eid slot : Nat) (t : Thread) (k : Nat) (f : Fields) : Except Stop State → State
  | .ok s' =>
    (match s'.thr? eid slot with
     | none => s'
     | some _ => retire s' eid slot f.m)
  | .error (.trap i) => takeTrap (grant s eid slot t k) eid slot i
  | .error (.fail s' i) => takeTrap (grant s' eid slot ((s'.thr? eid slot).getD t) k) eid slot i
  | .error .block => holdAt s eid slot t .blocked
  | .error .park => holdAt s eid slot t (.parked false)
  | .error (.wait w) => (grant s eid slot t k).modThr eid slot fun t => { t with status := .waiting w }
  | .error (.hold s' w) =>
    (grant s' eid slot ((s'.thr? eid slot).getD t) k).modThr eid slot fun t => { t with status := .waiting w }
  | .error (.start s') => holdAt s' eid slot ((s'.thr? eid slot).getD t) .blocked

/-- Issues an instruction of the thread in the slot that holds the issue port (R91, R95, R98), or ends the thread when its
task is cancelled (R311): the checks of R52, the mailbox heads (R79), the instruction's own description `eff`, then
retirement.  `hOk` and `yOk` say whether it is legal in a handler slot and on a yard core. -/
def issueAt (form : Option Form) (hOk yOk : Bool) (eff : Env → Except Stop State) (f : Fields) (s : State)
    (eid slot : Nat) : State :=
  match s.thr? eid slot with
  | none => s
  | some t =>
    if cancelled s slot t then endThread s eid slot false
    else if mbHeld s eid slot then holdAt s eid slot t .blocked
    else
      match precheck form hOk yOk eid slot t f with
      | some i => takeTrap (grant s eid slot t (crossings (form.getD {}) f)) eid slot i
      | none =>
        let fm := form.getD {}
        if headsReady (s.core eid) t (mboxesOf fm f) then
          conclude s eid slot t (crossings fm f) f (eff (issueEnv fm f s eid slot t))
        else holdAt s eid slot t .blocked

/-- The form of an instruction that waits. -/
def WaitFor.form (w : WaitFor) (f : Fields) : Form :=
  (match w with
   | .event .. => formWait f
   | .sleep _ => formSleep f
   | .tick _ => formTickAt f
   | .barrier .. => formBwait f
   | .group .. => formGbar f
   | .call .. => formRedw f).getD {}

/-- Ends a wait: the instruction retires, its marks are applied and `v`, where it has a result, is still to
land; that of `tick.at`, a class I instruction, is written at once. -/
def endWait (s : State) (eid slot : Nat) (w : Waiting) (v : Option Nat) : State :=
  match s.thr? eid slot with
  | none => s
  | some t =>
    let o := Opnd.ofField w.f.d
    let fm := w.what.form w.f
    let t := (t.issue fm w.f (if w.f.x then 16 else 8)).renew (t.seen s.free) fm.d w.f fm.dspan
    let t := match v with
      | some v =>
        match w.what with
        | .tick _ => t.write o fun l => if l = 0 then some (fitRaw o.w v) else none
        | _ => t.addPend { id := s.nextId, target := o.target, vals := [(0, fitRaw o.w v)] } true
      | none => t
    retire (enterReady { s with nextId := s.nextId + 1 } eid slot t) eid slot w.f.m

/-- The outcome of an instruction of the thread that holds the issue port: always a next state. -/
def issue (form : Option Form) (hOk yOk : Bool) (eff : Env → Except Stop State) (f : Fields) (s : State) :
    Host.Outcome State Fault Refusal :=
  .next (issueAt form hOk yOk eff f s s.cur.1 s.cur.2)

/-- Takes a step of an engine, of a unit or of the outside world: always a next state. -/
def event (g : State → State) (s : State) : Host.Outcome State Fault Refusal := .next (g s)

/-! ## Returning from a trap (R383, R400) -/

/-- A FAULTED task with no trapped thread and no faulted prefetch, code load or write-back returns to the state it held
before (R383). -/
def unfault (s : State) (h : Nat) : State :=
  match s.rec? h with
  | none => s
  | some r =>
    let trapped := (s.taskThreads h).any fun (e, i) =>
      match s.thr? e i with
      | some t => match t.status with | .trapped _ => true | _ => false
      | none => false
    if r.state = .faulted ∧ ¬ trapped ∧ ¬ r.wbFault ∧ r.text ≠ 3 ∧ r.ops.all (·.fetch != 3) then
      let done := r.before = .running ∧ (s.taskThreads h).isEmpty
      s.setRec { r with state := if done then .done else r.before }
    else s

/-- The faulted slots that a trap of a thread of task `h` reported: the task's own, or at an `exit` (R162) another's. -/
def AccSlot.reported (h : Nat) (i : TrapInfo) (own : Bool) (a : AccSlot) : Bool :=
  a.fault == some (i.cause, i.va) && a.logical == i.index && (a.owner == some h || !own)

/-- Lets a faulted engine command that a trap reported restart at its recorded point (R163, R260, R371). -/
def restartEngine (s : State) (eid h : Nat) (i : TrapInfo) : State :=
  match i.unit with
  | 1 => s.modCore eid fun c =>
      { c with accs := c.accs.map fun a =>
          if a.reported h i (c.accs.any (·.reported h i true)) then { a with fault := none } else a }
  | 4 => { s with net := s.net.map fun p =>
      match p.body, p.state with
      | .contrib k id, .refused =>
        let block := (Keyed.get? s.plans k).bind fun q => (q.calls.find? (·.id == id)).map (·.block)
        if p.src = eid ∧ block = i.blk then { p with state := .flying } else p
      | _, _ => p }
  | 2 => s.modCore (eid / 8 * 8 + i.index / 2) fun c =>
      { c with chan := c.chan.mapIdx fun k h => if k = i.index % 2 then { h with fault := none } else h }
  | _ => s

/-- Resumes a trapped thread with action 0 to 3 of R400; false when the thread is not trapped, or the target fails its
check. -/
def resume (s : State) (eid slot act target : Nat) : State × Bool :=
  match s.thr? eid slot with
  | none => (s, false)
  | some t =>
    match t.status with
    | .trapped i =>
      let h := t.task.toNat
      let back := if act = 0 then s else takeBack s eid slot
      let t := { t with phase := if act = 0 then t.phase else none
                        collFault := if act = 0 then t.collFault.filter fun x => some x.1 != i.blk else t.collFault }
      -- a marked `trap` or `brk` ends its run when the thread goes on after it; what else the last run met comes before the
      -- next instruction
      let at_ (pc : Nat) (s : State) : State :=
        let t := { t with pc := BitVec.ofNat 20 pc }
        unfault (if 13 ≤ i.code ∧ act < 2 ∧ bit i.word 63 then retire (s.setThr eid slot t) eid slot true
          else if i.defer then nextRun s eid slot t
          else enterReady s eid slot t) h
      let after := if i.defer then i.rpc else i.ipc + (if i.word % 2 = 1 then 16 else 8)
      match act with
      | 0 => (at_ i.rpc (restartEngine s eid h i), true)
      | 1 => (at_ after back, true)
      | 2 => (unfault (endThread back eid slot false) h, true)
      | _ =>
        if target ≤ 0x7FFF8 ∧ target % 8 = 0 then (at_ target back, true) else (s, false)
    | _ => (s, false)

end Sys2Proof.Machine
end

