-- ==== Sys2Proof/Machine/FloatFam.lean ====
section
/-! DEFINITION. The float group (R134 to R142). -/

namespace Sys2Proof.Machine

/-- The format in force. -/
def Env.fmt (e : Env) : Fmt := (((Ty.ofCode (floatType e.f)).bind Ty.fmt)).getD .fp32

/-- Generator value of lane `l` for its `j`-th rounding (R17). -/
def Env.draw (e : Env) (l j : Nat) : Nat := (Nat.repeat srStep j (e.t.seed.getD l 1)).toNat

/-- Ends an instruction of the float group: class L as the map says, or because of R49, otherwise class I. -/
def Env.doneF (e : Env) (isL : Bool) (vals : List (Nat × Nat)) (fl : BitVec 6) : State :=
  if isL || slowType e (floatType e.f) then e.doneL vals fl else e.doneI vals fl

/-- Element `j` of a source pattern. -/
def Env.felem (e : Env) (v j : Nat) : Nat := v / 2 ^ (e.fmt.w * j) % 2 ^ e.fmt.w

/-- The results of a lane's elements put together, with their flags. -/
def Env.fpack (e : Env) (r : Nat → Nat × Flags) : Nat × Flags :=
  if e.f.pk = 0 then (fitRaw e.od.w (r 0).1, (r 0).2)
  else ((r 0).1 + 2 ^ e.fmt.w * (r 1).1, (r 0).2 ||| (r 1).2)

/-- An instruction of the float group whose elements do not look at each other: `g` takes the generator's value and the
patterns of the element's sources (R121, R135). -/
def floatOp (isL : Bool) (form : Option Form) (g : Env → Nat → Nat → Nat → Nat → Nat × Flags) (f : Fields) (s : State) :
    Host.Outcome State Fault Refusal :=
  issue form true true (fun e =>
    let r := e.dlanes.map fun l =>
      (l, e.fpack fun j => g e (e.draw l j) (e.felem (e.a l) j) (e.felem (e.b l) j) (e.felem (e.c_ l) j))
    .ok (stepSeeds e (2 ^ e.f.pk)
      (e.doneF isL (r.map fun x => (x.1, x.2.1)) (r.foldl (fun fl x => fl ||| x.2.2) 0)))) f s

/-- One rounding of an exact result. -/
def Env.round (e : Env) (u : Nat) (r : XVal × Flags) : Nat × Flags := deliver e.fmt e.f.rm e.f.sat u r

/-- The value of a pattern in the format in force. -/
def Env.fv (e : Env) (p : Nat) : FVal := floatValue e.fmt p

def execFadd (f : Fields) (s : State) : Host.Outcome State Fault Refusal :=
  floatOp false (formFarith f) (fun e u a b _ => e.round u (fAdd e.f.rm (e.fv a) (e.fv b))) f s
def execFsub (f : Fields) (s : State) : Host.Outcome State Fault Refusal :=
  floatOp false (formFarith f) (fun e u a b _ => e.round u (fSub e.f.rm (e.fv a) (e.fv b))) f s
def execFmul (f : Fields) (s : State) : Host.Outcome State Fault Refusal :=
  floatOp false (formFarith f) (fun e u a b _ => e.round u (fMul (e.fv a) (e.fv b))) f s
def execFdiv (f : Fields) (s : State) : Host.Outcome State Fault Refusal :=
  floatOp true (formFarith f) (fun e u a b _ => e.round u (fDiv (e.fv a) (e.fv b))) f s
def execFma (f : Fields) (s : State) : Host.Outcome State Fault Refusal :=
  floatOp false (formFma f) (fun e u a b c => e.round u (fMa e.f.rm (e.fv a) (e.fv b) (e.fv c))) f s

def execFmin (f : Fields) (s : State) : Host.Outcome State Fault Refusal :=
  floatOp false (formFminmax f) (fun e _ a b _ => fMinMax e.fmt false a b) f s
def execFmax (f : Fields) (s : State) : Host.Outcome State Fault Refusal :=
  floatOp false (formFminmax f) (fun e _ a b _ => fMinMax e.fmt true a b) f s

/-- `fabs` and `fneg` on a pattern: the canonical NaN for a NaN (R136). -/
def signOp (t : Fmt) (g : Nat → Nat) (a : Nat) : Nat × Flags :=
  let v := floatValue t a
  if v.isNan then (t.nan, v.snan) else (g a, 0)

def execFabs (f : Fields) (s : State) : Host.Outcome State Fault Refusal :=
  floatOp false (formFsign f) (fun e _ a _ _ => signOp e.fmt (· % 2 ^ (e.fmt.w - 1)) a) f s
def execFneg (f : Fields) (s : State) : Host.Outcome State Fault Refusal :=
  floatOp false (formFsign f) (fun e _ a _ _ => signOp e.fmt (· ^^^ 2 ^ (e.fmt.w - 1)) a) f s

/-- The truth of an `fcmp` condition and its flags (R137). -/
def fcmpCond (op : Nat) (x y : FVal) : Bool × Flags :=
  let un := x.isNan || y.isNan
  let o := fOrder x y
  let fl := if 2 ≤ op ∧ op ≤ 5 ∧ un then fNV else x.snan ||| y.snan
  (match op with
   | 0 => !un && o == 0
   | 1 => un || o != 0
   | 2 => !un && decide (o < 0)
   | 3 => !un && decide (o ≤ 0)
   | 4 => !un && decide (0 < o)
   | 5 => !un && decide (0 ≤ o)
   | 6 => un
   | _ => !un, fl)

/-- `fcmp`: class L, its predicate pending, for FP64 on a D-tile core (R49, R134). -/
def fcmpEff (e : Env) : State :=
  let r := e.lanes.map fun l => (l, fcmpCond e.f.op (e.fv (e.felem (e.a l) 0)) (e.fv (e.felem (e.b l) 0)))
  let fl := r.foldl (fun fl x => fl ||| x.2.2) 0
  if slowType e (floatType e.f) then
    let (n, s) := e.s.fresh
    s.modThr e.eid e.slot fun t =>
      t.addPend { id := n, target := .pred e.f.d.toNat, vals := r.map fun x => (x.1, b2n x.2.1), flags := fl } true
  else
    e.modT fun t => { t.setPred e.f.d.toNat (fun l => (Keyed.get? r l).map (·.1)) with fpsr := t.fpsr ||| fl }

def execFcmp (f : Fields) (s : State) : Host.Outcome State Fault Refusal :=
  issue (formFcmp f) true true (fun e => .ok (fcmpEff e)) f s

/-- The class mask of a pattern (R137). -/
def classOf (t : Fmt) (a : Nat) : Nat :=
  match floatValue t a with
  | .nan q => if q then 512 else 256
  | .inf n => if n then 1 else 128
  | .fin n m _ =>
    let sub := decide (a % 2 ^ (t.w - 1) < 2 ^ t.mb)
    if m = 0 then (if n then 8 else 16) else if sub then (if n then 4 else 32) else if n then 2 else 64

/-- `fclass`: a signalling NaN operand sets NV (R11, R137). -/
def execFclass (f : Fields) (s : State) : Host.Outcome State Fault Refusal :=
  floatOp false (formFclass f) (fun e _ a _ _ => (classOf e.fmt a, (floatValue e.fmt a).snan)) f s

/-- A function instruction (R138). -/
def fnOp (fn : Fn1) (f : Fields) (s : State) : Host.Outcome State Fault Refusal :=
  floatOp true (formFn f) (fun e u a _ _ => fnElem fn e.fmt e.f.rm e.f.sat u a) f s

def execFrcp (f : Fields) (s : State) : Host.Outcome State Fault Refusal := fnOp .rcp f s
def execFrsq (f : Fields) (s : State) : Host.Outcome State Fault Refusal := fnOp .rsq f s
def execFsqrt (f : Fields) (s : State) : Host.Outcome State Fault Refusal := fnOp .sqrt f s
def execFexp2 (f : Fields) (s : State) : Host.Outcome State Fault Refusal := fnOp .exp2 f s
def execFlog2 (f : Fields) (s : State) : Host.Outcome State Fault Refusal := fnOp .log2 f s
def execFsin (f : Fields) (s : State) : Host.Outcome State Fault Refusal := fnOp .sin f s
def execFcos (f : Fields) (s : State) : Host.Outcome State Fault Refusal := fnOp .cos f s

/-- `a·2^b` exactly.  From ±5000 on every format overflows or underflows alike, so larger exponents count as that. -/
def scaleX (v : FVal) (b : Int) : XVal × Flags :=
  match v with
  | .fin n m x => (.fin n m 1 (x + max (-5000) (min 5000 b)), 0)
  | v => (v.x, v.snan)

/-- The exponent operand of `fscale` (R139). -/
def scaleBy (e : Env) (l : Nat) : Int := if e.f.isI then simm14 e.f.b else signed (4 * e.ob.w) (e.b l)

def execFscale (f : Fields) (s : State) : Host.Outcome State Fault Refusal :=
  issue (formFscale f) true true (fun e =>
    let r := e.dlanes.map fun l =>
      (l, e.fpack fun j => e.round (e.draw l j) (scaleX (e.fv (e.felem (e.a l) 0)) (scaleBy e l)))
    .ok (stepSeeds e 1 (e.doneF false (r.map fun x => (x.1, x.2.1)) (r.foldl (fun fl x => fl ||| x.2.2) 0)))) f s

/-- `frint` of a pattern (R139). -/
def rintOp (t : Fmt) (m : RM) (u a : Nat) : Nat × Flags :=
  match floatValue t a with
  | .fin n k x => ((roundTo t .rne false 0 (.fin n (roundInt m u n k x).1.natAbs 1 0)).1, 0)
  | v => ((roundTo t .rne false 0 v.x).1, v.snan)

def execFrint (f : Fields) (s : State) : Host.Outcome State Fault Refusal :=
  floatOp false (formFrint f) (fun e u a _ _ => rintOp e.fmt e.f.rm u a) f s

/-! ## `fred` (R140) -/

/-- The tree's state: the lanes' values, the generators and the flags. -/
structure FredState where
  v : List (Option Nat)
  seed : List (BitVec 16)
  fl : Flags

/-- `comb` of R140 with lane `q`'s generator. -/
def fredComb (e : Env) (q : Nat) (x y : Option Nat) (st : FredState) : Option Nat × FredState :=
  match x, y with
  | none, y => (y, st)
  | x, none => (x, st)
  | some a, some b =>
    let u := st.seed.getD q 1
    if e.f.op = 0 then
      let r := e.round u.toNat (fAdd e.f.rm (e.fv a) (e.fv b))
      (some r.1, { st with seed := st.seed.set q (srNext e.f.rm u), fl := st.fl ||| r.2 })
    else
      let r := fMinMax e.fmt (e.f.op == 2) a b
      (some r.1, { st with fl := st.fl ||| r.2 })

/-- One pair of a level. -/
def fredPair (e : Env) (q d : Nat) (st : FredState) : FredState :=
  let (r, st') := fredComb e q (st.v.getD q none) (st.v.getD (q + d) none) st
  { st' with v := st'.v.set q r }

/-- The whole tree. -/
def fredTree (e : Env) : FredState :=
  let init : FredState := { v := [], seed := e.t.seed, fl := 0 }
  let st := (List.range 32).foldl (fun st l =>
    if ¬ e.act l then { st with v := st.v ++ [none] }
    else if e.f.pk = 1 then
      let (r, st') := fredComb e l (some (e.felem (e.a l) 0)) (some (e.felem (e.a l) 1)) st
      { st' with v := st'.v ++ [r] }
    else { st with v := st.v ++ [some (e.felem (e.a l) 0)] }) init
  [1, 2, 4, 8, 16].foldl (fun st d => (List.range (16 / d)).foldl (fun st i => fredPair e (2 * d * i) d st) st) st

/-- The result of an empty combination. -/
def fredIdentity (e : Env) : Nat :=
  match e.f.op with
  | 0 => 0
  | 1 => e.fmt.infCode
  | _ => withSign e.fmt true e.fmt.infCode

/-- What `fred` delivers: a NaN that came through the tree uncombined is the canonical one, and a signalling one sets NV
(R11). -/
def fredOut (t : Fmt) (a : Nat) : Nat × Flags :=
  match floatValue t a with
  | .nan q => (t.nan, (FVal.nan q).snan)
  | _ => (a, 0)

def fredEff (e : Env) : State :=
  if e.dlanes.isEmpty then e.s.modThr e.eid e.slot fun t => { t with seed := (fredTree e).seed }
  else
    let st := fredTree e
    let (r, fl) := fredOut e.fmt ((st.v.getD 0 none).getD (fredIdentity e))
    let s := e.doneF true (e.dlanes.map fun l => (l, fitRaw e.od.w r)) (st.fl ||| fl)
    s.modThr e.eid e.slot fun t => { t with seed := st.seed }

def execFred (f : Fields) (s : State) : Host.Outcome State Fault Refusal :=
  issue (formFred f) true true (fun e => .ok (fredEff e)) f s

/-! ## `fdot2` and `fsplit` (R141, R142) -/

/-- `c + a0·b0 + a1·b1` with one rounding to FP32. -/
def dot2 (t : Fmt) (m : RM) (sat : Bool) (u a b c : Nat) : Nat × Flags :=
  let p0 := fprod (floatValue t (a % 65536)) (floatValue t (b % 65536))
  let p1 := fprod (floatValue t (a / 65536 % 65536)) (floatValue t (b / 65536 % 65536))
  let r := fsum m [floatValue .fp32 (c % 2 ^ 32), p0.1, p1.1]
  deliver .fp32 m sat u (r.1, r.2 ||| p0.2 ||| p1.2)

def execFdot2 (f : Fields) (s : State) : Host.Outcome State Fault Refusal :=
  issue (formFdot2 f) true true (fun e =>
    let t := if e.f.etype = 4 then Fmt.fp16 else .bf16
    let r := e.dlanes.map fun l => (l, dot2 t e.f.rm e.f.sat (e.draw l 0) (e.a l) (e.b l) (e.c_ l))
    .ok (stepSeeds e 1 (e.doneI (r.map fun x => (x.1, fitRaw e.od.w x.2.1)) (r.foldl (fun fl x => fl ||| x.2.2) 0)))) f s

/-- The parts of `fsplit` of a finite value: `n` more of them, each rounded from what is left; a generator value per
part.  OF is that of R12: the part's exact value rounds beyond the largest finite one, which it is then clamped to. -/
def splitParts (pt : Fmt) (m : RM) (draw : Nat → Nat) : Nat → Nat → XVal → Dy → List Nat × Flags
  | 0, _, _, rest => ([], if rest.m = 0 then 0 else fNX)
  | n + 1, k, x, rest =>
    let (c, fl) := roundTo pt m false (draw k) x
    let v := floatValue pt c
    let c := match v with | .inf _ => withSign pt v.sign pt.maxCode | _ => c
    let d := (floatValue pt c).dy
    let rest := rest.add ⟨-d.m, d.e⟩
    let (ps, fl') := splitParts pt m draw n (k + 1) (rest.x false) rest
    (c :: ps, fl' ||| (fl &&& fOF))

/-- `fsplit` of a pattern of the source format into `n` parts. -/
def splitVal (st pt : Fmt) (m : RM) (draw : Nat → Nat) (n a : Nat) : Nat × Flags :=
  let v := floatValue st a
  let (ps, fl) : List Nat × Flags :=
    match v with
    | .nan q => (List.replicate n pt.nan, (FVal.nan q).snan)
    | .inf neg => (withSign pt neg pt.infCode :: List.replicate (n - 1) 0, 0)
    | .fin .. => splitParts pt m draw n 0 v.x v.dy
  (ps.foldr (fun p acc => p + 2 ^ pt.w * acc) 0, fl)

def fsplitEff (e : Env) : State :=
  let n := if e.f.op = 0 then 3 else 2
  let (st, pt) : Fmt × Fmt := if e.f.op = 2 then (.fp64, .fp32) else (.fp32, .bf16)
  let r := e.dlanes.map fun l => (l, splitVal st pt e.f.rm (e.draw l) n (e.a l % 2 ^ st.w))
  let vals := r.map fun x => (x.1, fitRaw e.od.w x.2.1)
  let fl := r.foldl (fun fl x => fl ||| x.2.2) 0
  stepSeeds e n (if slowType e e.f.etype.toNat then e.doneL vals fl else e.doneI vals fl)

def execFsplit (f : Fields) (s : State) : Host.Outcome State Fault Refusal :=
  issue (formFsplit f) true true (fun e => .ok (fsplitEff e)) f s

end Sys2Proof.Machine
end

