-- ==== Sys2Proof/Machine/Access.lean ====
section
/-! DEFINITION. The accesses of threads: checks, range locks, page walks, stash windows, the L1D, order groups, releases
and what happens at a home (R180 to R190, R198 to R252). -/

namespace Sys2Proof.Machine

/-! ## Lines of the L1D -/

/-- Drops a line from the L1D of every core of a tile but one (R202). -/
def dropLine (s : State) (tile keep key : Nat) : State :=
  { s with cores := s.cores.map fun (e, c) =>
      (e, if eidTile e = tile ∧ e ≠ keep then { c with l1d := Keyed.del c.l1d (key / 64) } else c) }

/-- Writes a byte into the line of a core's L1D that holds it. -/
def ownLine (s : State) (eid key : Nat) (b : Byte) : State :=
  s.modCore eid fun c =>
    match Keyed.get? c.l1d (key / 64) with
    | some l => { c with l1d := Keyed.put c.l1d (key / 64) (l.set (key % 64) b) }
    | none => c

/-- A write as it is performed at core and tile scope at once: a present line of the own L1D is updated, the line is dropped
from the other L1Ds of the tile (R201, R202). -/
def nearStore (s : State) (eid : Nat) : List (Nat × Byte) → State
  | [] => s
  | (k, b) :: r => nearStore (if keyIsLm k then s else ownLine (dropLine s (eidTile eid) eid k) eid k b) eid r

/-- The unit that performs accesses at a byte's home: the core whose LM holds it, or an LLC slice (R200, R348). -/
def homeUnit (k : Nat) : Nat :=
  if keyIsLm k then keyCore k
  else let h := Config.homeHash (k / 256) % 384; k / 2 ^ 39 * 4096 + h % 4 * 1024 + 640 + h / 4

/-- The first byte of an access that lies in another device's memory. -/
def Access.farKey (a : Access) (s : State) : Option Nat := a.keys.find? (s.far (eidDev a.eid))

/-- Adds an access to those that are to be performed; one to another device's memory travels as a request (R348). -/
def addAccess (s : State) (a : Access) : State :=
  let t : State := { s with accs := s.accs ++ [{ a with id := s.nextId }], nextId := s.nextId + 1 }
  match a.farKey s with
  | none => t
  | some k => sendPacket t { (default : Packet) with
      src := a.eid, slot := a.slot, dst := homeUnit k, cls := 0, body := .access s.nextId, ipc := a.ipc, word := a.word }

/-- The request of an access. -/
def Access.pkt? (a : Access) (s : State) : Option Packet := s.net.find? fun p => p.body == .access a.id

/-- Drops a line from one core's L1D. -/
def dropOwn (s : State) (eid key : Nat) : State :=
  s.modCore eid fun c => { c with l1d := Keyed.del c.l1d (key / 64) }

/-- Whether an access writes. -/
def AccOp.writes : AccOp → Bool
  | .load => false
  | _ => true

def AccOp.isStore : AccOp → Bool
  | .store _ => true
  | _ => false

/-- The data that a store still to be performed puts at a key. -/
def Access.byteAt (a : Access) (k : Nat) : Option Byte :=
  match a.op with
  | .store d =>
    (a.pieces.findSome? fun (o, n) => (List.range n).find? fun i => a.keys.getD (o + i) 0 == k).bind fun _ =>
      (firstIdx a.keys.length fun i => a.keys.getD i 0 == k && a.pieces.any fun (o, n) => decide (o ≤ i) && decide (i < o + n)).map
        fun i => BitVec.ofNat 8 (d / 2 ^ (8 * i))
  | _ => none

/-- How a store that its home has not performed stands to a read, number `id`, of a thread: 3 an earlier one of the thread
itself that is performed nowhere yet, or to LM; 2 one performed for its core; 1 one performed for its tile; 0 it is not seen
(R234). -/
def Access.nearTo (a : Access) (eid slot id key : Nat) : Nat :=
  if keyIsLm key ∨ a.near = 0 then (if a.eid = eid ∧ a.slot = slot ∧ a.id < id then 3 else 0)
  else if a.near = 1 then (if a.eid = eid then 2 else 0)
  else if eidTile a.eid = eidTile eid then 1 else 0

/-- A byte as a read by a thread, or by an engine for it, returns it: the coherence-latest store that it sees and that is not
performed at the home, else the home.  Stores of one standing stand in `State.accs` in coherence order (R234, R236, R245). -/
def seenByte (s : State) (eid slot id key : Nat) : Byte :=
  (s.accs.foldl (fun (best : Nat × Byte) a =>
    let n := a.nearTo eid slot id key
    if n = 0 ∨ n < best.1 then best
    else match a.byteAt key with
      | some b => (n, b)
      | none => best) (0, s.byte key)).2

/-- The byte of the last store of a thread to a key that is performed nowhere yet. -/
def ownByte (s : State) (eid slot key : Nat) : Option Byte :=
  (s.accs.filter fun a => a.eid == eid && a.slot == slot && a.near == 0).reverse.findSome? (·.byteAt key)

/-- A number as such a read returns it. -/
def seenNum (s : State) (eid slot id : Nat) (ks : List Nat) : Nat := ofBytes (ks.map (seenByte s eid slot id))

/-! ## Pieces (R235) -/

/-- The largest aligned unit of 1, 2, 4 or 8 bytes that begins at `a` and holds at most `n` bytes. -/
def unitAt (a n : Nat) : Nat :=
  if a % 8 = 0 ∧ 8 ≤ n then 8 else if a % 4 = 0 ∧ 4 ≤ n then 4 else if a % 2 = 0 ∧ 2 ≤ n then 2 else 1

/-- The pieces of an access of `n` bytes at `a`, as offset and length. -/
def piecesOf (a : Nat) : Nat → Nat → Nat → List (Nat × Nat)
  | 0, _, _ => []
  | fuel + 1, off, n => if n = 0 then [] else
      let u := unitAt (a + off) n
      (off, u) :: piecesOf a fuel (off + u) (n - u)

/-! ## Range locks (R217) -/

/-- The own-LM offset of a virtual address, when it lies in the core's own window. -/
def ownLm (eid va : Nat) : Option Nat :=
  let o := va - 0xF0 * 2 ^ 48
  if 0xF0 * 2 ^ 48 ≤ va ∧ o / 2 ^ 20 = eid ∧ o % 2 ^ 20 < 2 ^ 19 then some (o % 2 ^ 20) else none

/-- Whether bytes overlap an entry of the table. -/
def locked (c : Core) (lm : Bool) (lo n : Nat) : Bool :=
  c.rlocks.any fun r => r.lm == lm && decide (lo ≤ r.hi) && decide (r.lo < lo + n)

/-- Whether an access at a virtual address is locked: each byte counts in LM form where it lies in the core's own LM. -/
def lockedVa (c : Core) (eid va n : Nat) : Bool :=
  !c.rlocks.isEmpty && (List.range n).any fun i =>
    match ownLm eid (va + i) with
    | some off => locked c true off 1
    | none => locked c false (va + i) 1

/-- The window address of an own-LM offset, for a fault record (R381). -/
def windowVa (eid off : Nat) : Nat := 0xF0 * 2 ^ 48 + eid * 2 ^ 20 + off

/-- The same for an offset that lies in no window, in the 56 bits of the record. -/
def windowVaAny (eid : Nat) (off : Int) : Nat := ((windowVa eid 0 + off) % 2 ^ 56).toNat

/-! ## Page walks (R209, R213, R214) -/

/-- The slot number under which the copy channels and the stager of a core ask for walks. -/
def engineSlot : Nat := 40

/-- Asks for a walk, joining one that covers the page. -/
def askWalk (s : State) (eid slot asid vpn : Nat) : State :=
  s.modDie (eidDie eid) fun d =>
    if d.walks.any fun w => w.asid == asid && w.vpn == vpn then
      { d with walks := d.walks.map fun w =>
          if w.asid = asid ∧ w.vpn = vpn ∧ ¬ w.slots.contains (eid, slot) then
            { w with slots := w.slots ++ [(eid, slot)] } else w }
    else { d with walks := d.walks ++ [{ asid := asid, vpn := vpn, core := eid, slots := [(eid, slot)], running := false }] }

/-- Translates `n` bytes for a thread: the keys and whether the lines may be cached; a fault traps, a miss asks for a walk
and blocks. -/
def xlThread (e : Env) (lane va n : Nat) (write : Bool) : Except Stop (List Nat × Bool) :=
  let tlb := e.c.tlb ++ (e.s0.tile (eidTile e.eid)).tlb
  let one (a : Nat) : Xl :=
    match lookup e.s0 e.dev e.asid a tlb true write with
    | .miss =>
      match e.t.walkFault with
      | some (i, v, c) => if i = e.asid ∧ v = a / 4096 then .fault c else .miss
      | none => .miss
    | r => r
  match xlAll one va n with
  | .ok r => .ok r
  | .error (.fault c) => e.trapLane c lane va
  | .error _ =>
    match firstIdx n fun i => one (va + i) == .miss with
    | some i => .error (.start (askWalk e.s0 e.eid e.slot e.asid ((va + i) / 4096)))
    | none => .error .block

/-! ## Stash fills (R187) -/

/-- The first of some keys that lies in an empty stash granule, for an access that is made now: core, window, granule. -/
def emptyGran (s : State) (ks : List Nat) : Option (Nat × Nat × Nat) :=
  ks.findSome? fun k =>
    if keyIsLm k then
      match (s.core (keyCore k)).stashOf (keyOff k) with
      | some (i, g) =>
        match ((s.core (keyCore k)).stash[i]?).bind fun w => w.grs[g]? with
        | some x => if x.filled ∧ ¬ x.stale then none else some (keyCore k, i, g)
        | none => none
      | none => none
    else none

/-- A granule's state. -/
def granOf (s : State) (e i g : Nat) : Option StashGr := ((s.core e).stash[i]?).bind fun w => w.grs[g]?

/-! ## Accesses of engines to other devices (R345, R348) -/

/-- The command under which such an access is kept: none for one that reads as the last of all. -/
def State.farId (s : State) (id : Nat) : Nat := if id = s.nextId then 0 else id

/-- The slot number under which a unit reads for a request or a gang. -/
def unitSlot (id : Nat) : Nat := 2 ^ 20 + id

/-- The access to a line that an engine has made for a command. -/
def farOf? (s : State) (eid slot id line : Nat) (write : Bool) : Option FarAccess :=
  s.fars.find? fun f => f.eid == eid && f.slot == slot && f.id == id && f.line == line && f.write == write

/-- Sends the request of such an access. -/
def askFar (asid eid slot id : Nat) (write : Bool) (bytes : List (Nat × Byte)) (s : State) (line : Nat) : State :=
  sendPacket { s with fars := s.fars ++ [{ pkt := s.nextId, eid := eid, slot := slot, id := id, line := line, write := write, bytes := bytes, st := 0 }] }
    { (default : Packet) with asid := asid, src := eid, slot := 26, dst := homeUnit (64 * line), cls := 0, body := .engine }

/-- The lines of other devices' memory among some bytes. -/
def farLines (s : State) (eid : Nat) (ks : List Nat) : List Nat := ((ks.filter (s.far (eidDev eid))).map (· / 64)).eraseDups

/-- Whether every line of other devices' memory among some bytes has been read for a command: if not, the state in which it is
waited for, or none when a request has been given up. -/
def farRead (s : State) (asid eid slot id : Nat) (ks : List Nat) : Except (Option State) Unit :=
  let got := (farLines s eid ks).map fun l => (l, farOf? s eid slot (s.farId id) l false)
  let new := (got.filter fun x => x.2.isNone).map (·.1)
  if ¬ new.isEmpty then .error (some (new.foldl (askFar asid eid slot (s.farId id) false []) s))
  else if got.any fun x => x.2.any (·.st == 2) then .error none
  else if got.any fun x => x.2.any (·.st == 0) then .error (some s)
  else .ok ()

/-- A byte as an engine reads it: one of another device as its line's reply brought it; none for an uncorrectable error.  A slot
number above 31 is that of a unit of the core, which reads as the write-backs of its stash windows leave memory. -/
def farSeen (s : State) (eid slot id k : Nat) : Option Byte :=
  if s.far (eidDev eid) k then
    (farOf? s eid slot (s.farId id) (k / 64) false).bind fun f => (f.bytes.find? fun x => x.1 == k).map (·.2)
  else if s.bad.contains k then none
  else some (seenByte s eid (min slot 31) id k)

/-- Waits until no byte of an access lies in an empty granule; a fill that faulted traps. -/
def waitFill (e : Env) (lane va : Nat) (ks : List Nat) : Except Stop Unit :=
  match emptyGran e.s0 ks with
  | none => .ok ()
  | some (c, i, g) =>
    match granOf e.s0 c i g with
    | some { fault := some code, .. } =>
      .error (.fail (modGran e.s0 c i g fun x => { x with want := false, fault := none })
        { e.info code with lane := lane, va := va, cause := if code = 10 then 7 else 0 })
    | _ => .error (.start (modGran e.s0 c i g fun x => { x with want := true }))

/-! ## Releases (R240, R243) -/

/-- Whether an access that its home has not performed is not performed at a scope either: a store to global memory may be at
core or tile scope (R234). -/
def Access.short (a : Access) (scope : Nat) : Bool :=
  decide (2 ≤ scope) || !a.op.isStore || a.keys.any keyIsLm || decide (a.near ≤ scope)

/-- The writes of a thread in the groups of a mask that are not performed at a scope. -/
def ownWrites (s : State) (eid slot mask scope : Nat) : List Access :=
  s.accs.filter fun a => a.eid == eid && a.slot == slot && a.op.writes && bit mask a.grp && a.short scope

/-- The `mst` commands of a thread in the groups of a mask that are still queued (R169). -/
def queuedStores (s : State) (eid slot mask : Nat) : List Nat :=
  ((s.core eid).mxq.filter fun m => m.kind == 4 && m.thread == slot && bit mask m.grp).map (·.id)

/-- Whether a write of a join set is not performed at a scope: an access, a queued `mst`, or one of its rows. -/
def outstanding (s : State) (scope : Nat) (ids : List Nat) : Bool :=
  !ids.isEmpty && ((s.accs.any fun a => (ids.contains a.id || ids.contains a.inst) && a.short scope) ||
    s.cores.any fun (_, c) => c.mxq.any fun m => ids.contains m.id)

/-- Whether a store is performed for a core at some scope narrower than `scope`, and not at `scope` (R240). -/
def Access.partWay (a : Access) (eid scope : Nat) : Bool :=
  a.op.isStore && !a.keys.all keyIsLm &&
    ((a.near == 1 && a.eid == eid && decide (1 ≤ scope)) || (a.near == 2 && eidTile a.eid == eidTile eid && decide (2 ≤ scope)))

/-- The join set of a release: the thread's own writes, and every write of another agent that is performed for it at a narrower
scope only (R240). -/
def joinSet (s : State) (eid slot mask scope : Nat) : List Nat :=
  ((ownWrites s eid slot mask scope) ++
    s.accs.filter fun a => a.partWay eid scope && !(a.eid == eid && a.slot == slot)).map (·.id) ++
    queuedStores s eid slot mask

/-- The scope of a destination core for a sender (R233). -/
def scopeTo (src dst : Nat) : Nat :=
  if src = dst then 0
  else if eidTile src = eidTile dst then 1
  else if eidDie src = eidDie dst then 2
  else if eidDev src = eidDev dst then 3
  else 4

/-- The dirty bytes of a granule, as offsets. -/
def dirtyOffs (x : StashGr) : List Nat := (List.range 4096).filter fun i => x.dirty.getLsbD i

/-- The maximal runs of a rising list: first and length. -/
def runsOf : List Nat → List (Nat × Nat)
  | [] => []
  | o :: r =>
    match runsOf r with
    | (p, n) :: l => if p = o + 1 then (o, n + 1) :: l else (o, 1) :: (p, n) :: l
    | [] => [(o, 1)]

/-- The store that a write-back makes of bytes, split into aligned pieces (R188). -/
def wbPart (eid : Nat) (s : State) (va key : Nat) (bs : List Byte) : State :=
  addAccess s
    { (default : Access) with
      eid := eid, slot := 31, op := .store (ofBytes bs), va := va, keys := (List.range bs.length).map (key + ·),
      pieces := piecesOf va bs.length 0 bs.length, grp := 5, regs := false }

/-- The stores of a run of `n` bytes: a write that crosses to another device has at most 256 bytes (R345). -/
def wbStore (eid va key : Nat) (bs : List Byte) (s : State) : State :=
  (List.range ((bs.length + 255) / 256)).foldl (fun s i =>
    wbPart eid s (va + 256 * i) (key + 256 * i) ((bs.drop (256 * i)).take 256)) s

/-- Writes back a run of dirty bytes up to the first that meets an error, in LM or at its home (R179, R189). -/
def wbRun (s : State) (eid asid i g lm va : Nat) (r : Nat × Nat) : State × Option (Nat × Nat) :=
  match xlCore s eid asid (va + r.1) true with
  | .ok k _ =>
    let stop := firstIdx r.2 fun j => s.bad.contains (k + j) || s.bad.contains (lmKey eid (lm + r.1 + j))
    let n := stop.getD r.2
    let s := wbStore eid (va + r.1) k ((List.range n).map fun j => s.byte (lmKey eid (lm + r.1 + j))) s
    (modGran s eid i g fun x => { x with dirty := x.dirty &&& ~~~ BitVec.ofNat 4096 ((2 ^ n - 1) * 2 ^ r.1) },
      stop.map fun j => (11, va + r.1 + j))
  | .fault c => (s, some (c, va + r.1))
  | .miss => (s, some (5, va + r.1))

/-- Writes back the dirty bytes of one granule in order, run by run: the state, and the fault that stopped it (R189). -/
def wbBytes (eid asid i g lm va : Nat) : List (Nat × Nat) → State → State × Option (Nat × Nat)
  | [], s => (s, none)
  | x :: r, s =>
    match wbRun s eid asid i g lm va x with
    | (s, none) => wbBytes eid asid i g lm va r s
    | f => f

/-- Writes back every dirty byte of the windows of a core that satisfy a test (R185, R188). -/
def writeBack (s : State) (eid asid : Nat) (which : Stash → Bool) : State × Option (Nat × Nat) :=
  (List.range (s.core eid).stash.length).foldl (fun (st : State × Option (Nat × Nat)) i =>
    match st with
    | (s, some f) => (s, some f)
    | (s, none) =>
      match (s.core eid).stash[i]? with
      | none => (s, none)
      | some w =>
        if ¬ which w then (s, none)
        else
          (List.range w.grs.length).foldl (fun (st : State × Option (Nat × Nat)) g =>
            match st with
            | (s, some f) => (s, some f)
            | (s, none) =>
              match granOf s eid i g with
              | some x => wbBytes eid asid i g (w.lo + 4096 * g) (w.va + 4096 * g) (runsOf (dirtyOffs x)) s
              | none => (s, none)) (s, none)) (s, none)

/-- The write-back stores of a core that are not yet performed. -/
def wbPending (s : State) (eid : Nat) : List Nat :=
  (s.accs.filter fun a => a.eid == eid && a.slot == 31).map (·.id)

/-- Whether no earlier write of the thread into a stash window of its core is still to be performed. -/
def stashSettled (e : Env) : Bool :=
  e.c.stash.isEmpty ||
    !((e.s0.accs.any fun a => a.eid == e.eid && a.slot == e.slot && a.op.writes && a.keys.any fun k =>
        keyIsLm k && keyCore k == e.eid && (e.c.stashOf (keyOff k)).isSome) ||
      e.c.mxq.any fun m => m.kind == 4 && m.thread == e.slot && (m.la || decide (0xF0 * 2 ^ 48 ≤ m.pa % 2 ^ 56)))

/-- A release by the thread in hand: from device scope on it first writes back dirty stash granules, once the thread's own
stores into them are performed, and a write-back that faults is the engine-fault trap (R188, R189).  The state and the join
set. -/
def release (e : Env) (s : State) (mask scope : Nat) : Except Stop (State × List Nat) :=
  if scope < 3 then .ok (s, joinSet s e.eid e.slot mask scope)
  else if ¬ stashSettled e then .error .block
  else
    match writeBack e.s0 e.eid e.asid (fun _ => true) with
    | (s0, some (cause, va)) => .error (.fail s0 { e.info 12 with cause := cause, unit := 3, va := va })
    | _ =>
      let s := (writeBack s e.eid e.asid fun _ => true).1
      .ok (s, joinSet s e.eid e.slot mask scope ++ wbPending s e.eid)

/-- Holds later stores, atomics, sends and commands of the thread until a join set is performed (R240). -/
def holdJoin (e : Env) (s : State) (scope pend : Nat) (ids : List Nat) : State :=
  if ids.isEmpty ∧ pend = 0 then s
  else
    let (n, s) := s.fresh
    s.modThr e.eid e.slot fun t =>
      { t with joins := t.joins ++ [{ id := n, scope := scope, ids := ids, stash := false, pend := pend }] }

/-- Blocks while a release of the thread is not complete (R240). -/
def Env.noJoin (e : Env) : Except Stop Unit := if e.t.joins.isEmpty then .ok () else .error .block

/-- A send's release of all groups at a scope, unless `.nr` is written (R243): the state and what the send waits for. -/
def sendRelease (e : Env) (s : State) (nr : Bool) (scope : Nat) : Except Stop (State × List Nat) :=
  if nr then .ok (s, [])
  else
    match release e s 15 scope with
    | .ok (s, ids) => .ok (holdJoin e s scope 0 ids, ids)
    | .error x => .error x

/-- Sends a packet for the thread in hand, with a result that its reply completes, or none. -/
def Env.send (e : Env) (s : State) (dst cls : Nat) (after : List Nat) (pend : Nat) (body : Body) (sub : Nat := 0) : State :=
  sendPacket s { (default : Packet) with
    asid := e.asid, src := e.eid, slot := e.slot, pend := pend, dst := dst, sub := sub, cls := cls, body := body,
    ipc := e.pc, word := e.t.word, after := after, ascope := scopeTo e.eid dst }

/-! ## Issuing accesses -/

/-- One lane's access as an instruction asks for it. -/
structure Want where
  lane : Nat
  va : Int
  n : Nat
  deriving DecidableEq, Repr

/-- A lane's access with its keys. -/
structure Got where
  lane : Nat
  va : Nat
  keys : List Nat
  cache : Bool
  deriving DecidableEq, Repr

/-- Lane number in a fault record: none for a thread effect. -/
def Env.laneNo (isVec : Bool) (l : Nat) : Nat := if isVec then l else 255

/-- The lines that accesses touch. -/
def linesOf (gs : List Got) : List Nat := (gs.flatMap fun g => g.keys.map (· / 64)).eraseDups

/-- The lines of an access that are still to be performed. -/
def Access.linesLeft (a : Access) : List Nat :=
  (a.pieces.flatMap fun (o, n) => (List.range n).map fun i => a.keys.getD (o + i) 0 / 64).eraseDups

/-- The miss registers of a core that are taken: one for each line of an instruction that is still to be performed (R205). -/
def regsUsed (s : State) (eid : Nat) : Nat :=
  ((s.accs.filter fun a => a.eid == eid && a.regs).flatMap fun a => a.linesLeft.map fun k => (a.inst, k)).eraseDups.length

/-- Translates one lane's access. -/
def xlWant (e : Env) (vec write : Bool) (w : Want) : Except Stop Got :=
  match w.va with
  | .negSucc _ => e.trapLane 5 (Env.laneNo vec w.lane) (w.va % 2 ^ 56).toNat
  | .ofNat va =>
    match xlThread e (Env.laneNo vec w.lane) va w.n write with
    | .ok (ks, c) => .ok { lane := w.lane, va := va, keys := ks, cache := c }
    | .error x => .error x

/-- The checks of a global access of several lanes after the operand, format and alignment checks: range locks, then
`mid`, then lane by lane translation, permission and `each`, then the fills and the miss registers, of which an access that
`hit`s the L1D needs none (R205, R217, R218). -/
def checkGlobal (e : Env) (vec write : Bool) (ws : List Want) (mid : Except Stop Unit := .ok ())
    (each : Got → Except Stop Unit := fun _ => .ok ()) (hit : Got → Bool := fun _ => false) : Except Stop (List Got) := do
  match ws.find? fun w => decide (0 ≤ w.va) && lockedVa e.c e.eid w.va.toNat w.n with
  | some w => e.trapLane 4 (Env.laneNo vec w.lane) w.va.toNat
  | none =>
    mid
    let gs ← ws.mapM fun w => do
      let g ← xlWant e vec write w
      each g
      .ok g
    for g in gs do waitFill e (Env.laneNo vec g.lane) g.va g.keys
    if regsUsed e.s0 e.eid + (linesOf (gs.filter fun g => !hit g)).length ≤ 192 then .ok gs else .error .block

/-- The order in which the bytes of an L1D line stand: what a load that hits it reads; none for a miss. -/
def l1dHit (c : Core) (ks : List Nat) : Option (List Byte) :=
  ks.mapM fun k => (Keyed.get? c.l1d (k / 64)).bind fun l => l[k % 64]?

/-- Whether an earlier load or atomic of the thread to one of these bytes is not yet bound (R236). -/
def earlierRead (s : State) (eid slot : Nat) (ks : List Nat) : Bool :=
  s.accs.any fun a => a.eid == eid && a.slot == slot && !a.op.isStore && a.keys.any ks.contains

/-- Whether a `pop` of a thread that precedes something, by its number, is still to make its acquire or to fail (R241, R244). -/
def popHeld (s : State) (eid slot id : Nat) : Bool :=
  (s.thr? eid slot).any fun t => t.pend.any fun p => p.acq && !p.landed && decide (p.id < id)

/-- Blocks an access that is performed at issue while the acquire of an earlier `pop` is still to come (R241). -/
def Env.noPop (e : Env) : Except Stop Unit := if popHeld e.s0 e.eid e.slot e.s0.nextId then .error .block else .ok ()

/-- Whether an access is one piece (R235). -/
def onePiece (va n : Nat) : Bool := unitAt va n == n

/-- The line copies that a load of the thread in hand binds at once in the L1D (R201, R236, R241). -/
def hitsNow (s : State) (eid slot : Nat) (cached : Bool) (ks : List Nat) : Option (List Byte) :=
  if cached ∧ ¬ earlierRead s eid slot ks ∧ ¬ popHeld s eid slot s.nextId then
    (l1dHit (s.core eid) ks).map fun bs => (ks.zip bs).map fun (k, b) => (ownByte s eid slot k).getD b
  else none

/-- How a loaded value becomes the destination's pattern (R69): type code 0 is raw. -/
def loadFit (ty w n v : Nat) : Nat := if ty = 0 then fitRaw w v else fitInt false (codeSgn ty) (8 * n) w (srcInt (codeSgn ty) (8 * n) 16 v)

/-- The value of a stored element: `fit` to the access's bytes (R69, R181). -/
def storeFit (e : Env) (n v : Nat) : Nat :=
  match e.f.etype.toNat with
  | 0 => v % 2 ^ (8 * n)
  | t => pat (8 * n) (reduceInt e.f.sat (codeSgn t) (8 * n) (srcInt (codeSgn t) (codeBits t) e.oa.w v))

/-- Counts an access of a pending result as done, with a value for its place; without one nothing of the result is written
(R219). -/
def pendGot (s : State) (a : Access) (v : Option Nat) : State :=
  s.modThr a.eid a.slot fun t =>
    { t with pend := t.pend.map fun p =>
        if p.id = a.pend then
          match v with
          | none => { p with need := p.need - 1, lost := true }
          | some v =>
            if p.conv.isSome then { p with need := p.need - 1, raw := p.raw ++ [(a.lane, v)] }
            else { p with need := p.need - 1, vals := p.vals ++ [(a.lane, v)] }
        else p }

/-- Issues one lane's load into a pending result: an L1D hit binds at once (R201, R238).  A `raw` one is read whole and left
as it is, for `ldf`. -/
def issueLoad (e : Env) (pend inst : Nat) (nc regs raw : Bool) (s : State) (g : Got) : State :=
  let cached := g.cache && !nc && regs
  let n := g.keys.length
  let a : Access := { (default : Access) with
    eid := e.eid, slot := e.slot, op := .load, va := g.va, keys := g.keys,
    pieces := if raw then [(0, n)] else piecesOf g.va n 0 n, grp := 4, pend := pend, lane := g.lane,
    ty := if raw then 99 else e.f.etype.toNat, dw := e.od.w, fill := cached, drop := nc, ipc := e.pc, word := e.t.word,
    inst := inst, regs := regs }
  match hitsNow s e.eid e.slot cached g.keys with
  | some bs =>
    if onePiece g.va n then pendGot s a (some (if raw then ofBytes bs else loadFit a.ty a.dw n (ofBytes bs)))
    else addAccess s { a with regs := false }
  | none => addAccess s a

/-- Issues one piece of a store, performed at no scope yet, behind the piece before it (R235, R237). -/
def issuePiece (e : Env) (inst grp : Nat) (regs : Bool) (g : Got) (v : Nat) (s : State) (o n prev : Nat) : State :=
  addAccess s
    { (default : Access) with
      eid := e.eid, slot := e.slot, op := .store (v / 2 ^ (8 * o)), va := g.va + o, keys := (g.keys.drop o).take n,
      pieces := [(0, n)], grp := grp, ipc := e.pc, word := e.t.word, inst := inst, regs := regs, prev := prev }

/-- Issues the pieces of a store, each a separate event behind the one before it (R235). -/
def issuePieces (e : Env) (inst grp : Nat) (regs : Bool) (g : Got) (v : Nat) : List (Nat × Nat) → Nat → State → State
  | [], _, s => s
  | (o, n) :: r, prev, s => issuePieces e inst grp regs g v r s.nextId (issuePiece e inst grp regs g v s o n prev)

/-- Issues one lane's store (R235). -/
def issueStore (e : Env) (inst grp : Nat) (regs : Bool) (s : State) (g : Got) (v : Nat) : State :=
  let n := g.keys.length
  issuePieces e inst grp regs g v (piecesOf g.va n 0 n) 0 s

/-! ## At the home (R200, R234, R236) -/

/-- Whether two accesses touch a common byte that is still to be performed in the first. -/
def overlaps (a b : Access) : Bool :=
  a.keys.any b.keys.contains

/-- Whether an access is an atomic. -/
def Access.atomic (a : Access) : Bool :=
  match a.op with
  | .amo .. | .cas .. => true
  | _ => false

/-- Whether an access is a store to global memory that is still to be performed at core or tile scope. -/
def Access.isNear (a : Access) : Bool := a.op.isStore && !a.keys.all keyIsLm && decide (a.near < 2)

/-- Whether an access must wait for an earlier one of its own thread to the same bytes: all but a load behind a store, which
forwards, and a store behind one that is further on its way (R236). -/
def waitsFor (a b : Access) : Bool :=
  decide (b.id < a.id) && a.eid == b.eid && a.slot == b.slot && overlaps a b &&
    (if a.isNear then !b.op.isStore || decide (b.near ≤ a.near) else !(!a.op.writes && b.op.isStore))

/-- Whether a write must wait for a store of another thread to the same bytes that its tile or its core already sees: the
order of these stores is the order of `State.accs`, and an atomic follows them all (R234, R236). -/
def behindNear (a b : Access) : Bool :=
  b.op.isStore && overlaps a b && !a.keys.all keyIsLm && a.id != b.id &&
    (if a.isNear then a.near == 1 && b.near == 1 && a.eid == b.eid
     else if a.op.isStore then b.near == 2 && eidTile a.eid == eidTile b.eid
     else a.atomic && ((b.near == 2 && eidTile a.eid == eidTile b.eid) || (b.near == 1 && a.eid == b.eid)))

/-- Whether an access is the piece that the piece in hand must follow at the scope in question (R235). -/
def Access.behindPiece (a b : Access) : Bool := b.id == a.prev && (!a.isNear || decide (b.near ≤ a.near))

/-- Whether a barrier update of the same thread to the same bytes comes before an access. -/
def behindUpdate (a : Access) (p : Packet) : Bool :=
  match p.body with
  | .barrier k _ _ => decide (p.id < a.id) && p.src == a.eid && p.slot == a.slot && a.keys.any fun x => decide (k ≤ x) && decide (x < k + 16)
  | _ => false

/-- Whether the order lets an access be performed now, at its home or at the next of the scopes short of it: a store that follows
others does so at each of them, and nothing overtakes the acquire of a `pop` (R237, R240, R241). -/
def mayGo (s : State) (a : Access) : Bool :=
  !s.accs.any (waitsFor a) && !(a.prev != 0 && s.accs.any (a.behindPiece)) &&
    !(if a.op.isStore then s.accs.takeWhile (·.id != a.id) else s.accs).any (behindNear a) &&
    !outstanding s (if a.isNear then a.near else if a.op.isStore then 2 else a.ascope) a.after &&
    !s.net.any (behindUpdate a) && !popHeld s a.eid a.slot a.id

/-- A read of a peer's memory, which no unit caches (R350). -/
def Packet.reads (p : Packet) (s : State) : Bool :=
  match p.body with
  | .access id => s.accs.any fun a => a.id == id && a.op == .load
  | .engine => s.fars.any fun f => f.pkt == p.id && !f.write
  | _ => false

/-- Whether a request that is not yet performed is too old to be (R350); a deposit whose stores have begun goes on. -/
def Packet.stale (p : Packet) (s : State) : Bool :=
  p.crosses && !p.reads s && decide (2 * s.trt < (s.dev (eidDev p.dst)).tick - p.tick0.getD 0) &&
    (match p.body with | .deposit _ args _ => decide (4 ≤ args.length) | _ => true)

/-- Whether an access may be performed now: one to another device's memory once its request has reached the home. -/
def mayPerform (s : State) (a : Access) : Bool :=
  mayGo s a && !a.done &&
    (a.isNear || match a.pkt? s with
      | some p => p.state == .arrived && !p.stale s
      | none => !a.keys.any (s.noWay (eidDev a.eid)))

/-- Takes an access away. -/
def endAccess (s : State) (id : Nat) : State :=
  { s with accs := s.accs.filter (·.id != id), net := s.net.filter fun p => p.body != .access id }

/-- Keeps the reply of a handler unit of another device until 2·T_RT + 1 µs later (R350). -/
def cacheReply (s : State) (p : Packet) (a : Answer) : State :=
  if ¬ s.hasDev (eidDev p.dst) then s else
  { s with cache := s.cache ++ [{
      unit := p.unit, src := p.src, cls := p.cls, seq := p.seq, pkt := p.id, reply := a
      freeAt := (s.dev (eidDev p.dst)).tick + 2 * s.trt + 1000 }] }

/-- A request with its reply on the way back. -/
def Packet.withReply (p : Packet) (a : Answer) : Packet :=
  { p with state := .answered, ans := a, queued := none, out := false, escape := false }

/-- A peer's home sends the reply to an access on its way, and caches that of all but a read (R349, R350). -/
def replyHome (s : State) (a : Access) (p : Packet) (vs : List (Nat × Nat)) : State :=
  let s := if a.op = .load then s else cacheReply s p (.result vs)
  { s with
    net := s.net.map fun q => if q.id = p.id then p.withReply (.result vs) else q
    accs := s.accs.map fun b => if b.id = a.id then { b with done := true, pieces := [] } else b }

/-- An access is performed at its home, with a value for its result or none. -/
def endHome (s : State) (a : Access) (v : Option Nat) : State :=
  match a.pkt? s with
  | none => endAccess (match v with | some v => pendGot s a (some v) | none => s) a.id
  | some p => replyHome s a p [(a.lane, v.getD 0)]

/-- Defers a trap to the marker of the run (R219, R319): one for each send, and for each instruction whose accesses meet an
error. -/
def deferTrap (s : State) (eid slot key : Nat) (i : TrapInfo) : State :=
  s.modThr eid slot fun t => if t.deferred.any (·.1 == key) then t else { t with deferred := t.deferred ++ [(key, i)] }

/-- What a trap of an access that is told at the marker says. -/
def Access.info (a : Access) (code cause : Nat) : TrapInfo :=
  { code := code, cause := cause, ipc := a.ipc, rpc := a.ipc, word := a.word, va := a.va, lane := 255, defer := true }

/-- Whether an access meets an uncorrectable error at its home; a store into LM does not consume one (R179, R219). -/
def homeError (s : State) (a : Access) (ks : List Nat) : Bool := ks.any fun k => s.bad.contains k && !(a.op.isStore && keyIsLm k)

/-- The uncorrectable error of an access is told at the marker, and nothing is written to its result; a prefetch is dropped, and
what no instruction of a thread waits for tells nobody (R219, R226). -/
def tellError (s : State) (a : Access) : State :=
  if a.pend ≠ 0 then pendGot (deferTrap s a.eid a.slot a.inst (a.info 11 0)) a none
  else if a.op = .load ∨ ¬ (a.slot < 18 ∧ a.regs) then s
  else deferTrap s a.eid a.slot a.inst (a.info 11 0)

/-- An access that an uncorrectable error ends: at a peer's home the reply says so. -/
def failHome (s : State) (a : Access) : State :=
  match a.pkt? s with
  | none => endAccess (tellError s a) a.id
  | some p => replyHome s a p []

/-- Takes back the arrivals of the `sta`s one of whose own bytes is not performed (R229). -/
def loseAck (s : State) (id : Nat) : State := { s with acks := s.acks.filter fun k => !k.own.contains id }

/-- An access to a peer's memory ends without a reply: cause 6 when its request was given up, 7 when the peer counts as unreachable
(R219, R349).  A prefetch is dropped and tells nobody (R226). -/
def loseAccess (s : State) (a : Access) (cause : Nat) : State :=
  endAccess (if a.pend ≠ 0 then pendGot (deferTrap s a.eid a.slot a.inst (a.info 10 cause)) a none
    else if a.op = .load then s
    else deferTrap (loseAck s a.id) a.eid a.slot a.inst (a.info 10 cause)) a.id

/-- Fills an L1D line after a load miss, with every store that the core sees by now; a set holds 12 lines.  A line with an
uncorrectable error is not kept (R201, R204, R236). -/
def l1dFill (s : State) (a : Access) (key : Nat) : State :=
  let line := key / 64
  let bs := (List.range 64).map fun i => seenByte s a.eid 31 0 (line * 64 + i)
  if (List.range 64).any fun i => s.bad.contains (line * 64 + i) then s
  else s.modCore a.eid fun c =>
    let inSet := c.l1d.filter fun (k, _) => k % 512 == line % 512
    let l1d := if 12 ≤ inSet.length then
        Keyed.del c.l1d ((inSet.getD (Config.choose s.free % inSet.length) (0, [])).1) else c.l1d
    { c with l1d := Keyed.put l1d line bs }

/-- A store to global memory is performed at core scope, where a present line takes it, then at tile scope, where it leaves the
other L1Ds of the tile (R201, R202, R234). -/
def nearStep (s : State) (a : Access) : State :=
  let s := { s with accs := s.accs.filter (·.id != a.id) ++ [{ a with near := a.near + 1 }] }
  a.keys.foldl (fun s k =>
    if keyIsLm k then s
    else if a.near = 0 then (match a.byteAt k with | some b => ownLine s a.eid k b | none => s)
    else dropLine s (eidTile a.eid) a.eid k) s

/-- What a piece of a load reads: of a misaligned load, whose pieces are bound one after another, the bytes of an L1D line that is
there (R201, R235); else what the thread sees at the home. -/
def pieceNum (s : State) (a : Access) (ks : List Nat) : Nat :=
  match (if a.fill ∧ a.ty ≠ 99 ∧ ¬ onePiece a.va a.keys.length then l1dHit (s.core a.eid) ks else none) with
  | some bs => ofBytes ((ks.zip bs).map fun (k, b) => (ownByte s a.eid a.slot k).getD b)
  | none => seenNum s a.eid a.slot a.id ks

/-- Performs the next piece of a load or a store at its home; a 4-bit store first reads its byte.  DESIGN CHOICE (log entry 122):
where that read meets an uncorrectable error, nothing is written. -/
def homePiece (s : State) (a : Access) : State :=
  match a.pieces with
  | [] => endAccess s a.id
  | (o, n) :: rest =>
    let ks := (List.range n).map fun i => a.keys.getD (o + i) 0
    match a.op with
    | .load =>
      if homeError s a ks then failHome s a
      else
        let v := a.got + pieceNum s a ks * 2 ^ (8 * o)
        let s := if a.fill then l1dFill s a (a.keys.getD o 0) else if a.drop then dropOwn s a.eid (a.keys.getD o 0) else s
        if rest.isEmpty then
          endHome s a (some (if a.ty = 99 then v else loadFit a.ty a.dw a.keys.length v))
        else { s with accs := s.accs.map fun b => if b.id = a.id then { a with pieces := rest, got := v } else b }
    | .nibble hi v =>
      if homeError s a ks then failHome s a
      else
        let o := seenNum s a.eid a.slot a.id ks
        let d := if hi then o % 16 + 16 * (v % 16) else o / 16 * 16 + v % 16
        { s with accs := s.accs.map fun b => if b.id = a.id then { a with op := .store d } else b }
    | .store d =>
      let err := homeError s a ks
      let s := putBytes s (ks.zip (toBytes n (d / 2 ^ (8 * o))))
      if rest.isEmpty then (if err then failHome s a else endHome s a none)
      else { s with accs := s.accs.map fun b => if b.id = a.id then { a with pieces := rest } else b }
    | _ => s

/-- The next step of a load or a store. -/
def performPiece (s : State) (a : Access) : State := if a.isNear then nearStep s a else homePiece s a

end Sys2Proof.Machine
end

