-- ==== Sys2Proof/Machine/LocalMem.lean ====
section
/-! DEFINITION. The local-memory group (R180 to R197), with `sspill` and `sfill` (R87). -/

namespace Sys2Proof.Machine

/-! ## Lanes and addresses -/

/-- The accesses that a memory instruction asks for: mode 0 contiguous, 1 by lane, 2 one (R181, R222). -/
def Env.wants (e : Env) (mode n : Nat) (base : Nat → Nat) : List Want :=
  (if mode = 2 then (if e.act 0 then [0] else []) else e.lanes).map fun l =>
    { lane := l, va := (base l : Int) + e.imm + (if mode = 0 then (n * l : Nat) else 0), n := n }

/-- Issues the loads of an instruction into D. -/
def Env.loads (e : Env) (nc regs : Bool) (gs : List Got) : State :=
  if gs.isEmpty then e.s
  else
    match e.pendL e.od.target gs.length with
    | (p, s) => match s.fresh with | (n, s) => gs.foldl (issueLoad e p n nc regs false) s

/-- Issues the stores of an instruction; a lane's value is `v`. -/
def Env.stores (e : Env) (s : State) (grp : Nat) (regs : Bool) (v : Nat → Nat) (gs : List Got) : State :=
  match s.fresh with
  | (n, s) => gs.foldl (fun s g => issueStore e n grp regs s g (v g.lane)) s

/-- The checks of R181 for one lane, in its order. -/
def lmCheck (e : Env) (vec write aligned : Bool) (w : Want) : Except Stop Got :=
  let ln := Env.laneNo vec w.lane
  match w.va with
  | .negSucc _ => e.trapLane 2 ln (windowVaAny e.eid w.va)
  | .ofNat a =>
    let va := windowVa e.eid a
    if 0x80000 < a + w.n then e.trapLane 2 ln (windowVaAny e.eid w.va)
    else if ¬ e.c.lmOk a w.n ∨ (write ∧ e.s0.inHeader e.eid a w.n) then e.trapLane 6 ln va
    else if aligned ∧ a % w.n ≠ 0 then e.trapLane 8 ln va
    else if locked e.c true a w.n then e.trapLane 4 ln va
    else .ok { lane := w.lane, va := va, keys := (List.range w.n).map (lmKey e.eid a + ·), cache := false }

/-- All checks of a local access: those of R181, the fill of an empty stash granule (R187), and for a read an
uncorrectable error (R179). -/
def lmChecks (e : Env) (vec write aligned : Bool) (ws : List Want) : Except Stop (List Got) := do
  let gs ← ws.mapM (lmCheck e vec write aligned)
  for g in gs do waitFill e (Env.laneNo vec g.lane) g.va g.keys
  match if write then none else gs.find? fun g => g.keys.any e.s0.bad.contains with
  | some g => e.trapLane 11 (Env.laneNo vec g.lane) g.va
  | none => .ok gs

/-- MOD bits 3:2 of `ldl`, `stl`, `ld`, `st`. -/
def Env.mode (e : Env) : Nat := lsMode e.f

/-! ## Loads and stores -/

/-- `ldl`, and `sfill` with mode and size of its own. -/
def localLoad (e : Env) (mode n : Nat) : Except Stop State := do
  let gs ← lmChecks e (mode != 2) false (mode == 1) (e.wants mode n e.b)
  .ok (e.loads false false gs)

/-- `stl`, and `sspill`. -/
def localStore (e : Env) (mode n grp : Nat) : Except Stop State :=
  let ws := e.wants mode n e.b
  if ws.isEmpty then .ok e.s
  else do
    e.noJoin
    let gs ← lmChecks e (mode != 2) true (mode == 1) ws
    .ok (e.stores e.s grp false (fun l => storeFit e n (e.a l)) gs)

def execLdl (f : Fields) (s : State) : Host.Outcome State Fault Refusal :=
  issue (formLdl f) true true (fun e => localLoad e e.mode (lsSize e.f)) f s

def execStl (f : Fields) (s : State) : Host.Outcome State Fault Refusal :=
  issue (formStl f) true true (fun e => localStore e e.mode (lsSize e.f) (e.f.smod.toNat % 4)) f s

/-- `sspill` (R87): 8 bytes for each active lane, or 8 for a scalar. -/
def execSspill (f : Fields) (s : State) : Host.Outcome State Fault Refusal :=
  issue (formSspill f) true true (fun e => localStore e (if e.oa.isVec then 0 else 2) 8 0) f s

/-- `sfill` (R87). -/
def execSfill (f : Fields) (s : State) : Host.Outcome State Fault Refusal :=
  issue (formSfill f) true true (fun e => localLoad e (if e.od.isVec then 0 else 2) 8) f s

/-! ## Stash windows (R182 to R185) -/

/-- Whether granules `g` to `g + n − 1` may become a stash window: in a data region or the context region, and in no
other window. -/
def stashable (c : Core) (g n : Nat) : Bool :=
  (List.range n).all fun i =>
    (match Keyed.get? c.gran (g + i) with
     | some (.data _) | some .context => g + i != 127
     | _ => false) && (c.stashOf (4096 * (g + i))).isNone

/-- `stash` (R184). -/
def stashEff (e : Env) : Except Stop State :=
  e.thread fun _ => do
    let l := e.a0
    let v := e.b0
    let n := e.c0
    e.need (l % 4096 == 0 && v % 4096 == 0 && decide (1 ≤ n) && decide (n ≤ 127)) 2
    if 8 ≤ e.c.stash.length then .ok (e.doneL [(0, fitRaw e.od.w 1)] 0)
    else if ¬ stashable e.c (l / 4096) n then .ok (e.doneL [(0, fitRaw e.od.w 2)] 0)
    else if (List.range n).any fun i => granInUse e.s0 e.eid (l / 4096 + i) then .error .block
    else
      let w : Stash := { lo := l, va := bits v 55 0, grs := List.replicate n { filled := false, dirty := 0 } }
      .ok ((e.doneL [(0, 0)] 0).modCore e.eid fun c => { c with stash := c.stash ++ [w] })

def execStash (f : Fields) (s : State) : Host.Outcome State Fault Refusal := issue (formStash f) true false stashEff f s

/-- Takes a window away.  The bytes of a granule that was never filled are of no stated value (R184). -/
def freeStash (s : State) (eid i : Nat) (w : Stash) : State :=
  let s := (List.range w.grs.length).foldl (fun s g =>
    match w.grs[g]? with
    | some { filled := false, .. } =>
      let lo := lmKey eid (w.lo + 4096 * g)
      (s.setBytes ((List.range 4096).map fun o => (lo + o, (Config.freeWord s.free (lo + o)).setWidth 8))).mend lo 4096
    | _ => s) s
  s.modCore eid fun c => { c with stash := c.stash.eraseIdx i }

/-- `unstash` (R185): the thread's own earlier stores into windows are performed first. -/
def unstashEff (e : Env) : Except Stop State :=
  e.thread fun _ =>
    match firstIdx e.c.stash.length fun i => (e.c.stash[i]?).any fun w => w.lo == e.a0 with
    | none => .ok (e.doneL [(0, fitRaw e.od.w 1)] 0)
    | some i =>
      match e.c.stash[i]? with
      | none => .ok e.s
      | some w =>
        let free := freeStash (e.doneL [(0, 0)] 0) e.eid i w
        if e.f.md = 1 then .ok free
        else if ¬ stashSettled e then .error .block
        else if w.grs.all fun g => g.dirty == 0 then
          if (wbPending e.s0 e.eid).isEmpty then .ok free else .error .block
        else
          match writeBack e.s0 e.eid e.asid (·.lo == w.lo) with
          | (s, none) => .error (.start s)
          | (s, some (cause, va)) => .error (.fail s { e.info 12 with cause := cause, unit := 3, va := va })

def execUnstash (f : Fields) (s : State) : Host.Outcome State Fault Refusal :=
  issue (formUnstash f) true false unstashEff f s

/-! ## Write pointers (R191, R192) -/

/-- Whether the thread holds a channel of its tile: one of a core on which its task is bound (R191, R253).  DESIGN CHOICE (log
entry 102): a handler, which is of no task, holds those of its own core. -/
def holdsChan (e : Env) (ch : Nat) : Bool :=
  let core := e.eid / 8 * 8 + ch / 2
  (decide (16 ≤ e.slot) && core == e.eid) || (e.s0.binding? core e.t.task.toNat).isSome

/-- Channel `ch` of the thread's tile. -/
def tileChan (e : Env) (ch : Nat) : Chan := (e.s0.core (e.eid / 8 * 8 + ch / 2)).chan.getD (ch % 2) default

/-- The write pointer. -/
def Chan.ptr (h : Chan) : Nat := h.seq.toNat * 2 ^ 48 + h.bytes % 2 ^ 48

/-- `wptr` and `wptr.ge`; reading is an acquire of the delivered bytes. -/
def wptrEff (e : Env) : Except Stop State :=
  e.thread fun _ => do
    e.need (decide (e.a0 < 16) && holdsChan e e.a0) 2
    let h := tileChan e e.a0
    match h.fault with
    | some (cause, va) => .error (.trap { e.info 12 with cause := cause, unit := 2, index := e.a0, va := va })
    | none => .ok ()
    let seq0 := match e.t.phase with | some (.begun n) => n | _ => h.seq.toNat
    if e.f.md = 1 ∧ h.seq.toNat = seq0 ∧ h.bytes < e.b0 then
      .error (.start (e.s0.modThr e.eid e.slot fun t => { t with phase := some (.begun seq0) }))
    else if readsBound e.t then .ok (acquire (e.doneL [(0, h.ptr)] 0) e.eid e.slot 2)
    else .error .block

def execWptr (f : Fields) (s : State) : Host.Outcome State Fault Refusal :=
  issue (formWptr f) (f.md == 0) false wptrEff f s

/-! ## Edge channels (R193 to R197) -/

/-- The port that B names. -/
def Env.port (e : Env) : Nat := (simm14 e.f.b).toNat

/-- The edge of an out-port that still takes tokens of this core. -/
def outPort? (s : State) (eid h port : Nat) : Option Edge :=
  ((s.binding? eid h).bind fun b => (b.outs[port]?).bind s.edge?).bind fun g =>
    if g.ntok = 0 ∨ g.ended.contains eid then none else some g

def outPort (e : Env) (port : Nat) : Except Stop Edge :=
  match outPort? e.s0 e.eid e.t.task.toNat port with
  | some g => .ok g
  | none => e.trap 2

/-- The edge of an in-port. -/
def inPort (e : Env) (port : Nat) : Except Stop Edge :=
  match ((e.s0.binding? e.eid e.t.task.toNat).bind fun b => (b.ins[port]?).bind fun p => p.bind e.s0.edge?) with
  | some g => if g.ntok = 0 then e.trap 2 else .ok g
  | none => e.trap 2

/-- Token size rounded up to doublewords. -/
def Edge.stride (g : Edge) : Nat := (g.tsize + 7) / 8 * 8

/-- Tokens written and not released. -/
def Edge.tokens (g : Edge) : Nat :=
  (g.queue.filter fun i => match i with | .data _ => true | _ => false).length + b2n g.held.isSome

/-- Whether every slot is reserved or holds a token; a ring that is not allotted yet acts as a full one (R286). -/
def Edge.full (g : Edge) : Bool := !g.placed || decide (g.ntok ≤ g.resv + g.tokens)

/-- The reservations that wait at a ring and whose senders have not given up. -/
def Edge.waiting (s : State) (g : Edge) : List Nat := g.waitq.filter fun id => s.net.any (·.id == id)

/-- The bytes of the token that `ewrite` writes: those of own LM after its checks, or the lanes of A. -/
def tokenBytes (e : Env) (g : Edge) : Except Stop (List Byte) :=
  if bit e.f.md 0 then
    if g.tsize = 16 * e.oa.w then .ok ((List.range 32).flatMap fun l => toBytes (e.oa.w / 2) (e.a l)) else e.trap 2
  else do
    e.noPop
    let gs ← lmChecks e false false false [{ lane := 0, va := e.a0, n := g.tsize }]
    .ok ((gs.flatMap (·.keys)).map (seenByte e.s0 e.eid e.slot e.s0.nextId))

/-- Keeps the last `n` requests sent at their sender. -/
def holdLast (s : State) (n : Nat) : State :=
  { s with net := s.net.map fun p => if s.nextId ≤ p.id + n then { p with state := .recorded } else p }

/-- Where a request to an edge's ring goes, and the scope of a send to it.  A ring that is not allotted yet is of no core: the
request waits at its own core, and the scope is that of the consumer's die (DEDUCED, log entry 112). -/
def Edge.place (g : Edge) (eid : Nat) : Nat × Nat :=
  if g.placed then (g.core, scopeTo eid g.core) else (eid, max 2 (scopeTo eid (State.hDie g.cons * 1024)))

/-- `ewrite` (R195): at its issue it releases, asks for a slot and places the token on its port; it is blocked until the ring
grants the slot, and the token leaves then.  A ring that is not allotted yet acts as a full one (R286): the request waits for it. -/
def ewriteEff (e : Env) : Except Stop State :=
  e.thread fun _ =>
    match e.t.phase with
    | some (.edge true) => .ok e.s
    | some (.edge false) => .error .block
    | _ => do
      let g ← outPort e e.port
      let bs ← tokenBytes e g
      e.noJoin
      let (dst, scope) := g.place e.eid
      let (s, ids) ← sendRelease e e.s0 (bit e.f.md 1) scope
      let s := holdLast (e.send (e.send s dst 1 [] 0 (.edgeResv g.id)) dst 1 ids 0 (.edgeToken g.id bs)) (if g.placed then 1 else 2)
      .error (.start (s.modThr e.eid e.slot fun t => { t with phase := some (.edge false) }))

def execEwrite (f : Fields) (s : State) : Host.Outcome State Fault Refusal :=
  issue (formEwrite f) false false ewriteEff f s

/-- Unbinds an in-port of a task on a core. -/
def unbindIn (s : State) (eid h id : Nat) : State :=
  s.modCore eid fun c =>
    { c with bindings := c.bindings.map fun b =>
        if b.handle = h then { b with ins := b.ins.map fun p => if p = some id then none else p } else b }

/-- `eread` (R196, R197): it releases the held token, then takes the oldest item of the ring. -/
def ereadEff (e : Env) : Except Stop State :=
  e.thread fun _ => do
    let g ← inPort e e.port
    let s0 := releaseHeld e.s0 g
    if ¬ readsBound e.t then .error (.start s0)
    else
      match g.queue with
      | [] => .error (.start s0)
      | it :: rest =>
        let s := releaseHeld (acquire e.s e.eid e.slot 2) g
        let g := ((s.edge? g.id).getD g)
        let out (s : State) (v : Nat) : State := ({ e with s := s } : Env).doneL [(0, v)] 0
        match it with
        | .data k =>
          .ok (out (s.setEdge { g with queue := rest, held := some k })
            (g.tsize * 2 ^ 20 + (g.off + 64 + k * g.stride)))
        | .eos => .ok (out (unbindIn (freeRing s g) e.eid e.t.task.toNat g.id) (2 ^ 32))
        | .drain =>
          .ok (out ((s.setEdge { g with queue := rest }).modCore e.eid fun c =>
            { c with bindings := c.bindings.map fun b =>
                if b.handle = e.t.task.toNat then { b with sawDrain := true } else b }) (2 * 2 ^ 32))

def execEread (f : Fields) (s : State) : Host.Outcome State Fault Refusal := issue (formEread f) false false ereadEff f s

/-- `eread.rel`. -/
def ereadRelEff (e : Env) : Except Stop State :=
  e.thread fun _ => do
    let g ← inPort e e.port
    .ok (releaseHeld e.s g)

def execEreadRel (f : Fields) (s : State) : Host.Outcome State Fault Refusal :=
  issue (formEreadRel f) false false ereadRelEff f s

/-- Whether an `msteer` of this core on the same out-port has not written its last token (R197). -/
def steering (c : Core) (task : BitVec 32) (port : Nat) : Bool :=
  c.mxq.any fun m => m.kind == 5 && m.task == task && m.pa == port

/-- `eos` (R197). -/
def eosEff (e : Env) : Except Stop State :=
  e.thread fun _ => do
    let g ← outPort e e.port
    e.noJoin
    if steering e.c e.t.task e.port ∨ g.full then .error .block
    else
      match sendRelease e e.s (bit e.f.md 1) (scopeTo e.eid g.core) with
      | .error x => .error x
      | .ok (s, ids) =>
        .ok ((e.send s g.core 1 ids 0 (.eosMark g.id e.eid)).setEdge { g with ended := g.ended ++ [e.eid] })

def execEos (f : Fields) (s : State) : Host.Outcome State Fault Refusal := issue (formEos f) false false eosEff f s

end Sys2Proof.Machine
end

