-- ==== Sys2Proof/Machine/Net.lean ====
section
/-! DEFINITION. Requests in the fabric: when one may act at its handler unit, and how it is answered (R319, R348 to
R350). -/

namespace Sys2Proof.Machine

/-! ## Handler units that are no endpoint -/

/-- The destination that stands for a die's dispatcher, and for a device's Yard. -/
def dieUnit (die : Nat) : Nat := die * 1024 + 1000
def yardUnit (dev : Nat) : Nat := dev * 4096 + 1001

/-- The scope of a Yard for a sender. -/
def scopeYard (src dev : Nat) : Nat := if eidDev src = dev then 3 else 4

/-! ## Packets -/

namespace State

def pkt? (s : State) (id : Nat) : Option Packet := s.net.find? (·.id == id)

def setPkt (s : State) (p : Packet) : State := { s with net := s.net.map fun q => if q.id = p.id then p else q }

def dropPkt (s : State) (id : Nat) : State := { s with net := s.net.filter (·.id != id) }

/-- The tick of the device of an endpoint. -/
def tickOf (s : State) (eid : Nat) : Nat := (s.dev (eidDev eid)).tick

end State

/-- Two requests of one stream (R348). -/
def Packet.stream (p q : Packet) : Bool := p.key == q.key

/-- The mailbox that an entry names. -/
def Body.box : Body → Option Nat
  | .mbox k _ _ => some k
  | _ => none

/-- Whether a reply says that the request was performed or refused for good. -/
def Answer.final : Answer → Bool
  | .later | .stale | .full => false
  | _ => true

/-- Whether a request has been performed, and its reply has not reached the sender. -/
def Packet.replied (p : Packet) : Bool := p.ans.final

/-- Whether a request is under way to its unit, which has not performed it. -/
def Packet.underWay (p : Packet) : Bool := p.state != .refused && p.state != .recorded && !p.replied

/-- The edge that a token or mark goes to. -/
def Body.onEdge : Body → Option Nat
  | .edgeToken id _ | .eosMark id _ => some id
  | _ => none

/-- What the reductions keep in order (R368): a node's shake-outs, and what comes down the tree to a node. -/
def Body.line : Body → Option (Nat × Bool × Nat)
  | .shake k node _ _ => some (k, false, node)
  | .planResult k node _ | .planFix k node _ _ => some (k, true, node)
  | _ => none

/-- Whether a unit holds a request of another device behind one that its sender has abandoned and has not reported yet (R348). -/
def behindGap (s : State) (p : Packet) : Bool :=
  (p.cls == 1 || p.cls == 2) && s.gaps.any fun (id, k) => k == p.key && decide (id < p.id)

/-- Whether an earlier request of the same stream must be delivered first: in class 1 the order of issue, and a token or mark
waits for an earlier token whose reservation is not granted (R195); in class 2 between devices the order of issue, within one
an entry for a higher mailbox goes ahead (R328); an entry for a mailbox also waits behind one that its core holds for it (R329,
R348). -/
def heldBehind (s : State) (p : Packet) : Bool :=
  behindGap s p || s.net.any fun q =>
    decide (q.id < p.id) && q.stream p &&
      ((p.cls == 1 && (q.underWay || (q.state == .recorded && q.body.onEdge.isSome && q.body.onEdge == p.body.onEdge))) ||
        (p.cls == 2 && q.underWay && (p.crosses || decide ((p.body.box.getD 0) < (q.body.box.getD 0)))) ||
        (p.cls == 5 && q.underWay && p.body.line.isSome && p.body.line == q.body.line) ||
        (p.body.box.isSome && p.body.box == q.body.box && !q.replied))

/-- Whether a request is a send or an update of a thread, which waits for the acquire of an earlier `pop` (R241): no reply, no access
to memory, which waits for itself, and no end of a `pop`'s own wait. -/
def Packet.isSend (p : Packet) : Bool :=
  p.cls != 6 && !(match p.body with | .access _ | .popCancel .. => true | _ => false)

/-- Whether an entry is in the mesh: under way, and not held by its core behind an earlier one for the same mailbox (R329). -/
def Packet.inMesh (p : Packet) (s : State) : Bool :=
  p.underWay && p.body.box.isSome && !s.net.any fun q =>
    decide (q.id < p.id) && q.stream p && p.body.box == q.body.box && !q.replied

/-- Whether an entry for a mailbox waits behind one of another core, for a higher mailbox of the same target, at an arbitration
point of the mesh (R328).  DESIGN CHOICE (log entry 101): whether two entries meet at one is a free value. -/
def behindHigher (s : State) (p : Packet) : Bool :=
  p.body.box.isSome && s.net.any fun q =>
    !q.stream p && q.dst == p.dst && decide ((p.body.box.getD 0) < (q.body.box.getD 0)) && eidDev q.src == eidDev p.src &&
      q.inMesh s && Config.happens (2 ^ 80 + p.id) q.id

/-- Whether every write that a send's release waits for is performed (R240), and the acquire of an earlier `pop` made (R241). -/
def Packet.released (p : Packet) (s : State) : Bool :=
  !outstanding s p.ascope p.after && !(p.isSend && popHeld s p.src p.slot (if p.pend = 0 then p.id else p.pend))

/-- What a frozen core catches in its spill ring (R393). -/
def Body.caught : Body → Bool
  | .spawn .. | .am .. | .deposit .. | .eret .. | .reply _ | .lmAtomic _ => true
  | _ => false

/-- What of it a core sends to itself: a reply or an LM atomic that has met the freeze. -/
def Body.own : Body → Bool
  | .reply _ | .lmAtomic _ => true
  | _ => false

/-- Whether a request stands at its handler unit. -/
def Packet.here (p : Packet) (s : State) : Bool :=
  p.state == (if p.travels then .arrived else .flying) && !p.stale s && p.released s && !heldBehind s p && !behindHigher s p

/-- Whether a request may act at its handler unit now. -/
def Packet.ready (p : Packet) (s : State) : Bool := p.here s && !((s.core p.dst).frozen && p.body.caught)

/-- The request that a step acts on. -/
def readyPkt? (s : State) : Option Packet :=
  match s.who with
  | [id] => (s.pkt? id).bind fun p => if p.ready s then some p else none
  | _ => none

/-- That request with what it asks for. -/
def readyBody? (s : State) : Option (Packet × Body) := (readyPkt? s).map fun p => (p, p.body)

/-! ## Answers -/

/-- The wait before the resend after a `k`-th RETRY-LATER refusal, in ticks (R350). -/
def backoff (s : State) (k : Nat) : Nat := min (1000 * 2 ^ k) (s.trt / 8)

/-- A RETRY-LATER reaches the sender, which resends after the time of R350; it is logged there (R411). -/
def retryTaken (s : State) (p : Packet) (peer : Nat) : State :=
  (nackNote s p.src peer).setPkt { p with state := .later, laters := p.laters + 1, due := s.tickOf p.src + backoff s (p.laters + 1) }

/-- Refuses a request with RETRY-LATER at `unit` (R350, R393); the refusal of a request of another device travels back. -/
def retryLater (s : State) (p : Packet) (unit : Nat) : State :=
  let s := nackNote s unit p.src
  if p.crosses then s.setPkt (p.withReply .later) else retryTaken s p unit

/-- Catches an arrival in the spill ring of a frozen core, or has it sent again later when the ring's 64 places are
taken (R393). -/
def spillPkt (s : State) (eid : Nat) (p : Packet) : State :=
  if (s.core eid).spill.length < 64 then
    (s.setPkt { p with state := .recorded }).modCore eid fun c => { c with spill := c.spill ++ [p.id] }
  else retryLater s p eid

/-- A reply with patterns for a result of a thread: a frozen core catches it (R393). -/
def reply (s : State) (eid slot pend : Nat) (vs : List (Nat × Nat)) : State :=
  if (s.core eid).frozen then
    let p : Packet := { (default : Packet) with
      src := eid, dst := eid, slot := slot, pend := pend, cls := 6, body := .reply (.result vs) }
    spillPkt (sendPacket s p) eid { p with id := s.nextId }
  else finishPend s eid slot pend vs

/-- The answer to such a request: a result word and a scope, or a fault with its code, cause, address and reserved index. -/
def answerPhase : List (Nat × Nat) → Phase
  | [(_, w), (_, scope)] => .told w scope
  | [(_, code), (_, cause), (_, va), (_, i)] => .failed code cause va (if i = 0 then none else some (i - 1))
  | _ => .asked

/-- Tells a thread that waits for such a request. -/
def tellPhase (s : State) (p : Packet) (ph : Phase) : State := s.modThr p.src p.slot fun t => { t with phase := some ph }

/-- The answer to such a request reaches its thread; a frozen core catches it (R393). -/
def tellAnswer (s : State) (eid slot : Nat) (vs : List (Nat × Nat)) : State :=
  if (s.core eid).frozen then reply s eid slot 0 vs
  else s.modThr eid slot fun t => { t with phase := some (answerPhase vs) }

/-- A reservation's answer reaches the core whose token waits for it: the token leaves when it was granted, and is dropped with
phase `ph` when it was not (R195). -/
def tellEdge (s : State) (p : Packet) (granted : Bool) (ph : Option Phase) : State :=
  let mine (q : Packet) : Bool := q.src == p.src && q.slot == p.slot && q.state == .recorded && q.body.onEdge.isSome
  let s := s.modThr p.src p.slot fun t => { t with phase := match t.phase with | some (.edge false) => ph | x => x }
  if granted then
    { s with net := s.net.map fun q => if mine q then { q with state := .flying } else q }
  else { s with net := s.net.filter fun q => !mine q }

/-- The reply of a peer's home reaches the thread whose access it performed (R350). -/
def tellAccess (s : State) (id : Nat) (vs : List (Nat × Nat)) : State :=
  match s.accs.find? (·.id == id), vs with
  | some a, (l, v) :: _ =>
    if a.pend = 0 then endAccess s id
    else if (s.core a.eid).frozen then reply (endAccess s id) a.eid a.slot a.pend [(l, v)]
    else endAccess (pendGot s a (some v)) id
  | some a, [] => endAccess (tellError s a) id
  | none, _ => endAccess s id

/-- A mailbox entry's refusal as full reaches its sender, which resends it after 64 cycles, or after 256 once its budget is spent
and the record was full too (R329, R330). -/
def fullTaken (s : State) (p : Packet) : State :=
  s.setPkt { p with state := .refused, due := s.cycle p.src + (if p.tries < 17 then 64 else 256) }

/-- An engine's access to another device has had its answer, or will have none. -/
def setFar (s : State) (pkt st : Nat) : State :=
  { s with fars := s.fars.map fun f => if f.pkt = pkt then { f with st := st } else f }

/-- A refusal from `peer` reaches a thread, which is told at the marker; nothing is written (R319, R325). -/
def takeRefusal (s : State) (eid slot pend reason ipc word peer : Nat) : State :=
  let s := s.modThr eid slot fun t =>
    { t with pend := t.pend.map fun x => if x.id = pend then { x with need := 0, vals := [] } else x }
  deferTrap (nackNote s eid peer) eid slot pend
    { code := 10, cause := reason, lane := 255, ipc := ipc, rpc := ipc, word := word, defer := true }

/-- A send's refusal or an answer reaches its sender (R319, R325). -/
def takeAnswer (s : State) (p : Packet) (a : Answer) : State :=
  match a with
  | .result vs =>
    (match p.body with
     | .edgeResv _ => tellEdge s p false none
     | .access id => tellAccess s id vs
     | .engine => setFar s p.id 2
     | b => if b.blocking then tellAnswer s p.src p.slot vs else reply s p.src p.slot p.pend vs)
  | .quiet =>
    match p.body with
    | .edgeResv _ => tellEdge s p true (some (.edge true))
    | .engine => setFar s p.id 1
    | _ => if p.pend = 0 then s else finishPend s p.src p.slot p.pend []
  | .refuse r =>
    let s := nackNote s p.dst p.src
    if p.crosses then takeRefusal s p.src p.slot p.pend r p.ipc p.word p.dst
    else sendPacket s { (default : Packet) with
      asid := p.asid, src := p.dst, dst := p.src, slot := p.slot, pend := p.pend, cls := 6, body := .refusal r p.ipc,
      ipc := p.ipc, word := p.word }
  | _ => s

/-- Answers a request.  The unit of another device caches its reply until 2·T_RT + 1 µs later and sends it on its way back
(R350, R351). -/
def answer (s : State) (p : Packet) (a : Answer) : State :=
  if p.crosses then (if p.reads s then s else cacheReply s p a).setPkt (p.withReply a)
  else takeAnswer (s.dropPkt p.id) p a

/-- Answers a request with a pattern for a scalar destination of the width given by its result. -/
def answerWord (s : State) (p : Packet) (v : Nat) : State :=
  let w := match (s.thr? p.src p.slot).bind fun t => t.pend.find? (·.id == p.pend) with
    | some { target := .scal _ w, .. } => w
    | _ => 16
  answer s p (.result [(0, fitRaw w v)])

/-- A reservation whose reply has been lost is given up: the slot that it was granted is no longer reserved (R195). -/
def dropResv (s : State) (p : Packet) : State :=
  match p.body, p.granted with
  | .edgeResv id, true => { s with edges := s.edges.map fun g => if g.id = id then { g with resv := g.resv - 1 } else g }
  | _, _ => s

/-- Gives a request up: the outcome is unknown to its sender, which is told at its marker (R349). -/
def abandon (s : State) (p : Packet) (cause : Nat) : State :=
  let s := dropResv (s.dropPkt p.id) p
  if p.body.blocking then tellPhase s p (.failed (128 + 10) cause 0 none)
  else
  let s := if p.pend = 0 then s else finishPend s p.src p.slot p.pend []
  let s := match p.body with | .edgeResv _ => tellEdge s p false (some (.edge true)) | _ => s
  deferTrap s p.src p.slot p.pend
    { code := 10, cause := cause, ipc := p.ipc, rpc := p.ipc, word := p.word, defer := true }

/-- The channel whose command has a number stops with a fault (R260). -/
def chanFails (s : State) (eid id cause va : Nat) : State :=
  s.modCore eid fun c => { c with chan := c.chan.map fun x =>
    if (x.cmd.map fun m => m.id) = some id then { x with fault := some (cause, va) } else x }

/-- A request that must write into an empty stash granule asks for its fill; a fill that faulted is told to the sending thread at
its marker, or stops the channel whose bytes the request counts (R187). -/
def fillForPacket (s : State) (p : Packet) (x : Nat × Nat × Nat) : State :=
  match granOf s x.1 x.2.1 x.2.2 with
  | some { fault := some code, .. } =>
    let va := windowVa x.1 ((((s.core x.1).stash[x.2.1]?).map (·.lo)).getD 0 + 4096 * x.2.2)
    let s := modGran s x.1 x.2.1 x.2.2 fun y => { y with want := false, fault := none }
    if p.body = .engine then answer s p (.result [])
    else if p.slot = 29 then chanFails s p.src p.ipc code va
    else if p.body.blocking then tellPhase (s.dropPkt p.id) p (.failed code (if code = 10 then 7 else 0) va none)
    else
      let s := s.dropPkt p.id
      let s := if p.pend = 0 then s else finishPend s p.src p.slot p.pend []
      deferTrap s p.src p.slot p.pend { code := code, ipc := p.ipc, rpc := p.ipc, word := p.word, va := va, lane := 255, defer := true }
  | _ => modGran s x.1 x.2.1 x.2.2 fun y => { y with want := true }

/-- The environment with another state to come. -/
def Env.upd (e : Env) (s : State) : Env := { e with s := s }

/-- Sends a request that answers a result of the thread in hand, after a release (R240, R243). -/
def Env.request (e : Env) (nr : Bool) (scope dst cls : Nat) (body : Body) : Except Stop State :=
  match sendRelease e e.s nr scope with
  | .error x => .error x
  | .ok (s, ids) =>
    match (e.upd s).pendL e.od.target 1 with
    | (p, s) => .ok (e.send s dst cls ids p body)

/-- An instruction that stays at its issue until a request of it is answered: what it does with the answer, and the request.  A
fault is a precise trap, but one that R378 delivers after the marked instruction, whose code counts from 128 on: a request given up,
an uncorrectable error at the home.  Nothing is written to its result then. -/
def Env.answered (e : Env) (k : Nat → Nat → Except Stop State) (ask : Except Stop State) : Except Stop State :=
  match e.t.phase with
  | some (.told w scope) => k w scope
  | some .asked => .error .block
  | some (.failed code cause va i) =>
    if 128 ≤ code then
      .ok (deferTrap { e.s with nextId := e.s.nextId + 1 } e.eid e.slot e.s.nextId
        { e.info (code - 128) with cause := cause, va := va, lane := 255, defer := true })
    else .error (.fail (e.s0.modThr e.eid e.slot fun t => { t with phase := i.map .begun }) { e.info code with cause := cause, va := va })
  | _ => ask

/-- Sends such a request, after a release (R240, R243). -/
def Env.ask (e : Env) (nr : Bool) (scope dst : Nat) (body : Body) : Except Stop State := do
  e.noJoin
  let (s, ids) ← sendRelease e e.s0 nr scope
  .error (.start ((e.send s dst 3 ids 0 body).modThr e.eid e.slot fun t => { t with phase := some .asked }))

/-- The check of a target operand (R323). -/
def Env.target (e : Env) : Except Stop Nat := if e.a0 < 2 ^ 22 then .ok e.a0 else e.trap 2

/-! ## Atomics (R206, R227, R228) -/

/-- The new value of an `amo` (R227). -/
def amoNew (op ty o b : Nat) : Nat :=
  let n := codeBits ty
  let sg := codeSgn ty
  match op with
  | 0 => (o + b) % 2 ^ n
  | 1 => o &&& b
  | 2 => o ||| b
  | 3 => o ^^^ b
  | 4 => if srcInt sg n 16 o ≤ srcInt sg n 16 b then o else b
  | 5 => if srcInt sg n 16 o ≤ srcInt sg n 16 b then b else o
  | 6 => b
  | _ =>
    match (Ty.ofCode ty).bind Ty.fmt with
    | some f => (deliver f .rne false 0 (fAdd .rne (floatValue f o) (floatValue f b))).1
    | none => b

/-- Performs an atomic indivisibly at its home and writes the old value to its result.  The matching line leaves the L1Ds
of the tile (R202, R236).  DESIGN CHOICE (log entry 122): where its read meets an uncorrectable error, nothing is written. -/
def performAtomic (s : State) (a : Access) : State :=
  if homeError s a a.keys then failHome s a
  else
    let n := a.keys.length
    let o := s.numAt a.keys
    let new := match a.op with
      | .amo op ty b => some (amoNew op ty o b)
      | .cas cmp v => if o = cmp then some v else none
      | _ => none
    let s := match a.keys with
      | k :: _ => dropOwn (dropLine s (eidTile a.eid) a.eid k) a.eid k
      | [] => s
    let s := match new with
      | some v => putBytes s (a.keys.zip (toBytes n v))
      | none => s
    let v := if codeSgn a.ty then loadFit a.ty a.dw n o else fitRaw a.dw o
    if (s.core a.eid).frozen ∧ (a.pkt? s).isNone then reply (endAccess s a.id) a.eid a.slot a.pend [(a.lane, v)] else endHome s a (some v)

end Sys2Proof.Machine
end

