-- ==== Sys2Proof/Machine/Global.lean ====
section
/-! DEFINITION. The global-memory group (R199, R217 to R231). -/

namespace Sys2Proof.Machine

/-- An address operand (R199). -/
def addrOf (v : Nat) : Nat := v % 2 ^ 56

/-- The order group that SMOD names. -/
def Env.og (e : Env) : Nat := e.f.smod.toNat % 4

/-! ## `ld`, `st`, `gather`, `scatter` (R222, R223) -/

/-- The checked loads of an instruction. -/
def globalLoad (e : Env) (vec : Bool) (ws : List Want) : Except Stop State := do
  let nc := bit e.f.md 4
  let gs ← checkGlobal e vec false ws (hit := fun g => (hitsNow e.s0 e.eid e.slot (g.cache && !nc) g.keys).isSome)
  .ok (e.loads nc true gs)

/-- The checked stores of an instruction. -/
def globalStore (e : Env) (vec : Bool) (n : Nat) (ws : List Want) : Except Stop State :=
  if ws.isEmpty then .ok e.s
  else do
    e.noJoin
    let gs ← checkGlobal e vec true ws
    .ok (e.stores e.s e.og true (fun l => storeFit e n (e.a l)) gs)

/-- The accesses of `ld`, `st` and `sta`. -/
def Env.gwants (e : Env) : List Want := e.wants e.mode (lsSize e.f) fun l => addrOf (e.b l)

def execLd (f : Fields) (s : State) : Host.Outcome State Fault Refusal :=
  issue (formLd f) true false (fun e => globalLoad e (e.mode != 2) e.gwants) f s

def execSt (f : Fields) (s : State) : Host.Outcome State Fault Refusal :=
  issue (formSt f) true false (fun e => globalStore e (e.mode != 2) (lsSize e.f) e.gwants) f s

/-- The accesses of `gather` and `scatter`: base plus index times size. -/
def Env.iwants (e : Env) : List Want :=
  e.lanes.map fun l =>
    { lane := l, va := (addrOf (e.b 0) : Int) + srcInt true 32 e.oc.w (e.c_ l) * lsSize e.f, n := lsSize e.f }

def execGather (f : Fields) (s : State) : Host.Outcome State Fault Refusal :=
  issue (formGather f) true false (fun e => globalLoad e true e.iwants) f s

def execScatter (f : Fields) (s : State) : Host.Outcome State Fault Refusal :=
  issue (formScatter f) true false (fun e => globalStore e true (lsSize e.f) e.iwants) f s

/-! ## Fat pointers (R24, R224, R225) -/

/-- Where an element lies. -/
structure ElemAt where
  /-- address of its code -/
  at_ : Int
  /-- for a 4-bit element, whether it is the high nibble -/
  hi : Option Bool
  /-- address of its metadata word -/
  md : Option Nat
  deriving DecidableEq, Repr

/-- Whether an element has 4 bits. -/
def isNibble (fmt : Nat) : Bool := fmtBits fmt == 4

/-- The place of element `i` of the array that a pointer names; none is the format trap. -/
def elemAt (p : FatPtr) (i : Int) : Option ElemAt :=
  let hi := if isNibble p.fmt then some (i % 2 == 1) else none
  match Bx.ofCode p.fmt with
  | some bx =>
    (panelMap bx (blenOf p.blen) ((p.addr : Int) + (if isNibble p.fmt then i / 2 else i))).map fun (d, m) =>
      { at_ := d, hi := hi, md := some m }
  | none =>
    some { at_ := (p.addr : Int) + (if isNibble p.fmt then i / 2 else i * (fmtBits p.fmt / 8 : Nat)), hi := hi, md := none }

/-- Bytes of an element's code as it is read. -/
def codeBytes (fmt : Nat) : Nat := if isNibble fmt then 1 else fmtBits fmt / 8

/-- The type of a pointer's elements: a raw byte counts as n8 (R224, R225). -/
def ptrTy (fmt : Nat) : Option Ty := Ty.ofCode (if fmt = 0 then 2 else fmt)

/-- Bits of an element of the register side: of ETYPE, or of the pointer's format. -/
def sideBits (f : Fields) (fmt : Nat) : Nat := if f.etype.toNat = 0 then fmtBits fmt else codeBits f.etype.toNat

/-- Whether the instruction is `ldf.meta`. -/
def isMeta (f : Fields) : Bool := f.mod.getLsbD 2

/-- Index of element `j` of a lane (R224). -/
def elemIndex (f : Fields) (l j : Nat) : Int :=
  f.imm.toInt + (if isMeta f then l else 2 ^ f.pk * l + j : Nat)

/-- The lanes of `ldf`: the thread for a scalar D. -/
def ldfLanes (e : Env) : List Nat := if e.od.isVec then e.lanes else if e.act 0 then [0] else []

/-- Every element of the lanes, with its place in a lane; none for an address that is the format trap. -/
def elemsOf (f : Fields) (p : FatPtr) (lanes : List Nat) : List (Nat × Nat × Option ElemAt) :=
  lanes.flatMap fun l =>
    (List.range (if isMeta f then 1 else 2 ^ f.pk)).map fun j => (l, j, elemAt p (elemIndex f l j))

/-- The format trap of the first element that has no place. -/
def elemsOk (e : Env) (es : List (Nat × Nat × Option ElemAt)) : Except Stop (List (Nat × Nat × ElemAt)) :=
  match es.find? fun x => x.2.2.isNone with
  | some x => e.trapLane 7 (Env.laneNo e.od.isVec x.1) 0
  | none => .ok (es.filterMap fun (l, j, x) => x.map fun a => (l, j, a))

/-- Reads of `ldf`: a code under place 16·lane + 2·j, a metadata word under the place after it. -/
def ldfWants (f : Fields) (fmt : Nat) (es : List (Nat × Nat × ElemAt)) : List Want :=
  es.flatMap fun (l, j, a) =>
    (if isMeta f then [] else [{ lane := 16 * l + 2 * j, va := a.at_, n := codeBytes fmt }]) ++
      (match a.md with
       | some m => [{ lane := 16 * l + 2 * j + 1, va := m, n := 2 }]
       | none => [])

/-- Checks and translates accesses whose lane fields are places of `per` to a lane. -/
def checkPlaces (e : Env) (vec write : Bool) (per : Nat) (ws : List Want) (hit : Got → Bool := fun _ => false) :
    Except Stop (List Got) :=
  match checkGlobal e vec write (ws.map fun w => { w with lane := w.lane / per }) (hit := hit) with
  | .ok gs => .ok ((gs.zip ws).map fun (g, w) => { g with lane := w.lane })
  | .error x => .error x

/-- The illegal-operand checks of `ldf` and the format check of its pointer (R24, R224). -/
def ldfOk (e : Env) (p : FatPtr) : Except Stop Unit := do
  if isMeta e.f then e.need ((Bx.ofCode p.fmt).isSome && e.f.pk == 0 && e.f.etype == 0) 2
  else
    e.need (!(e.f.etype == 0 && decide (17 ≤ p.fmt))) 7
    e.need (4 * e.od.w == 2 ^ e.f.pk * sideBits e.f p.fmt && decide (e.od.w ≤ 16)) 2
  e.need p.ok 7

/-- `ldf`: the codes and metadata are read, and converted when the last of them is bound; with RND SR the generators step once for
each element, whether or not it is rounded (R17). -/
def ldfEff (e : Env) : Except Stop State :=
  let lanes := ldfLanes e
  if lanes.isEmpty then .ok e.s
  else do
    let p := FatPtr.of (e.b 0)
    ldfOk e p
    let es ← elemsOk e (elemsOf e.f p lanes)
    let gs ← checkPlaces e e.od.isVec false 16 (ldfWants e.f p.fmt es) fun g =>
      (hitsNow e.s0 e.eid e.slot (g.cache && !bit e.f.md 4) g.keys).isSome
    let conv := some (e.b 0, e.f, lanes.map fun l => (l, (e.t.seed.getD l 1).toNat))
    match e.s.fresh with
    | (pid, s) =>
      match s.fresh with
      | (n, s) =>
        let s := s.modThr e.eid e.slot fun t =>
          t.addPend { id := pid, target := e.od.target, need := gs.length, conv := conv } true
        let s := gs.foldl (issueLoad e pid n (bit e.f.md 4) true true) s
        .ok (stepSeeds e (2 ^ e.f.pk) s)

def execLdf (f : Fields) (s : State) : Host.Outcome State Fault Refusal := issue (formLdf f) true false ldfEff f s

/-- The generator before element `j` of a lane. -/
def drawAt (seed j : Nat) : Nat := (Nat.repeat srStep j (BitVec.ofNat 16 seed)).toNat

/-- The value of an element of `ldf` from its code and metadata word (R224). -/
def ldfElem (f : Fields) (p : FatPtr) (code md : Nat) (u : Nat) : Nat × Flags :=
  if f.etype.toNat = 0 then (code, 0)
  else
    match Ty.ofCode f.etype.toNat, Bx.ofCode p.fmt with
    | some t, some bx =>
      let v := bxValue bx md code
      (match t.fmt with
       | some g => match roundTo g f.rm f.sat u v.x with | (i, fl) => (i, fl ||| v.snan)
       | none => match floatToInt t f.rm u v with | (i, fl) => (pat t.width i, fl))
    | some t, none =>
      (match ptrTy p.fmt with
       | some src => match cvtElem src t f.rm f.sat u code with | (i, fl) => (pat t.width i, fl)
       | none => (code, 0))
    | none, _ => (code, 0)

/-- One lane of a finished `ldf`. -/
def ldfLane (f : Fields) (p : FatPtr) (raw : List (Nat × Nat)) (l seed : Nat) : Nat × Flags :=
  let at_ k := ((raw.find? fun x => x.1 == k).map (·.2)).getD 0
  if isMeta f then (at_ (16 * l + 1), 0)
  else
    (List.range (2 ^ f.pk)).foldl (fun acc j =>
      let hi := if isNibble p.fmt then some (elemIndex f l j % 2 == 1) else none
      let b := at_ (16 * l + 2 * j)
      let code := match hi with | some true => b / 16 | some false => b % 16 | none => b
      let r := ldfElem f p code (at_ (16 * l + 2 * j + 1)) (drawAt seed j)
      (acc.1 + r.1 * 2 ^ (sideBits f p.fmt * j), acc.2 ||| r.2)) (0, 0)

/-- Converts a result of `ldf` whose reads are all bound; a result of which one read met an error writes nothing (R219). -/
def Pend.convert (p : Pend) : Pend :=
  if p.lost then { p with conv := none, vals := [] }
  else
    match p.conv with
    | none => p
    | some (ptr, f, lanes) =>
      let fp := FatPtr.of ptr
      let r := lanes.map fun (l, u) => (l, ldfLane f fp p.raw l u)
      { p with conv := none, vals := r.map fun x => (x.1, x.2.1),
               flags := p.flags ||| r.foldl (fun fl x => fl ||| x.2.2) 0 }

/-! ## `stf` -/

/-- Element `j` of a lane of A. -/
def stfElem (e : Env) (w l j : Nat) : Nat := e.a l / 2 ^ (w * j) % 2 ^ w

/-- The code that an element is stored as (R225). -/
def stfCode (e : Env) (p : FatPtr) (w l j : Nat) : Nat × Flags :=
  let x := stfElem e w l j
  match Ty.ofCode e.f.etype.toNat, ptrTy p.fmt with
  | some src, some dst =>
    if e.f.etype.toNat = 0 then (x, 0)
    else match cvtElem src dst e.f.rm e.f.sat (e.draw l j) x with | (i, fl) => (pat (fmtBits p.fmt) i, fl)
  | _, _ => (x, 0)

/-- The lanes of block `b` of an `stf`, with the element within the lane. -/
def stfBlock (k len b : Nat) : List (Nat × Nat) := (List.range len).map fun i => ((b * len + i) / k, (b * len + i) % k)

/-- The illegal-operand checks of `stf`: the width of A as for `ldf`, and the rules of a block format. -/
def stfOk (e : Env) (p : FatPtr) : Except Stop Unit := do
  let k := 2 ^ e.f.pk
  e.need (!(e.f.etype == 0 && decide (17 ≤ p.fmt))) 7
  e.need (4 * e.oa.w == k * sideBits e.f p.fmt) 2
  if (Bx.ofCode p.fmt).isSome then
    let len := blenOf p.blen
    e.need (e.f.etype.toNat == 6 &&
      (len == 0 || (e.f.imm.toInt % len == 0 && k * 32 % len == 0 &&
        (List.range (k * 32 / len)).all fun b =>
          (stfBlock k len b).all (fun x => e.act x.1) || (stfBlock k len b).all fun x => !e.act x.1))) 2
  e.need p.ok 7

/-- One store of `stf` as it is issued: its address, its bytes, whether it merges a nibble, and whether it follows the
one before. -/
structure StfStore where
  lane : Nat
  at_ : Int
  bytes : List Byte
  nib : Option (Bool × Nat) := none
  follows : Bool := false
  deriving DecidableEq, Repr

/-- The stores of a plain format. -/
def stfPlain (e : Env) (p : FatPtr) : List StfStore × Flags :=
  let k := 2 ^ e.f.pk
  let w := sideBits e.f p.fmt
  (e.lanes.flatMap fun l => (List.range k).map fun j => (l, j)).foldl (fun (acc : List StfStore × Flags) (l, j) =>
    match elemAt p (elemIndex e.f l j) with
    | none => acc
    | some a =>
      let (c, fl) := stfCode e p w l j
      (acc.1 ++ [match a.hi with
        | some hi => { lane := l, at_ := a.at_, bytes := [0], nib := some (hi, c) }
        | none => { lane := l, at_ := a.at_, bytes := toBytes (codeBytes p.fmt) c }], acc.2 ||| fl)) ([], 0)

/-- Codes packed into bytes. -/
def packCodes (ebits : Nat) (cs : List Nat) : List Byte :=
  let v := (cs.zipIdx.map fun (c, i) => c * 2 ^ (ebits * i)).sum
  toBytes (cs.length * ebits / 8) v

/-- The stores of a block format: each whole active block, its element bytes and then its metadata word; none is the
format trap at a lane. -/
def stfBlocks (e : Env) (p : FatPtr) (bx : Bx) : Except Nat (List StfStore × Flags) :=
  let k := 2 ^ e.f.pk
  let len := blenOf p.blen
  ((List.range (k * 32 / len)).filter fun b => (stfBlock k len b).all fun x => e.act x.1).foldlM
    (fun (acc : List StfStore × Flags) b =>
      let xs := stfBlock k len b
      let l := (xs.headD (0, 0)).1
      match elemAt p (e.f.imm.toInt + (b * len : Nat)) with
      | some { at_ := a, md := some m, .. } =>
        let (c, nv, nx) := bxQuantise bx (xs.map fun (l, j) => stfElem e 32 l j) (xs.map fun (l, j) => (e.f.rm, e.draw l j))
        .ok (acc.1 ++ [{ lane := l, at_ := a, bytes := packCodes bx.ebits c.codes },
                       { lane := l, at_ := m, bytes := toBytes 2 c.md, follows := true }],
             acc.2 ||| (if nv then fNV else 0) ||| (if nx then fNX else 0))
      | _ => .error l) ([], 0)

/-- Issues the stores of `stf`. -/
def stfIssue (e : Env) (inst : Nat) : State → List (StfStore × Got) → State
  | s, [] => s
  | s, (x, g) :: r =>
    let id := s.nextId
    let s := match x.nib with
      | some (hi, c) =>
        addAccess s { (default : Access) with
          eid := e.eid, slot := e.slot, op := .nibble hi c, va := g.va, keys := g.keys, pieces := [(0, 1)], grp := e.og,
          ipc := e.pc, word := e.t.word, inst := inst }
      | none => issueStore e inst e.og true s g (ofBytes x.bytes)
    let s := if x.follows then
        { s with accs := s.accs.map fun a => if a.id = id then { a with after := [id - 1] } else a } else s
    stfIssue e inst s r

/-- `stf` (R225). -/
def stfEff (e : Env) : Except Stop State :=
  if e.lanes.isEmpty then .ok e.s
  else do
    e.noJoin
    let p := FatPtr.of (e.b 0)
    stfOk e p
    let (xs, fl) ← match Bx.ofCode p.fmt with
      | none => .ok (stfPlain e p)
      | some bx => match stfBlocks e p bx with
        | .ok r => .ok r
        | .error l => e.trapLane 7 l 0
    let gs ← checkPlaces e true true 1 (xs.map fun x => { lane := x.lane, va := x.at_, n := x.bytes.length })
    match e.s.fresh with
    | (n, s) =>
      let s := stfIssue e n s (xs.zip gs)
      let s := stepSeeds { e with f := { e.f with d := 0 } } (2 ^ e.f.pk) s
      match s.fresh with
      | (pid, s) =>
        .ok (if fl = 0 then s else
          s.modThr e.eid e.slot fun t => t.addPend { id := pid, target := .none, flags := fl } false)

def execStf (f : Fields) (s : State) : Host.Outcome State Fault Refusal := issue (formStf f) true false stfEff f s

/-! ## `prf` (R226) -/

/-- `prf.l1` reads the line into the L1D when its translation is at hand and registers are free; `prf.llc` leaves no
trace in this model's state. -/
def prfEff (e : Env) : State :=
  let va := (addrOf (e.b 0) : Int) + e.imm
  if ¬ e.act 0 ∨ e.f.md ≠ 0 ∨ va < 0 then e.s
  else
    let line := va.toNat / 64 * 64
    match lookup e.s0 e.dev e.asid line (e.c.tlb ++ (e.s0.tile (eidTile e.eid)).tlb) true false with
    | .ok k true =>
      if regsUsed e.s0 e.eid < 192 then
        match e.s.fresh with
        | (n, s) =>
          addAccess s { (default : Access) with
            eid := e.eid, slot := e.slot, op := .load, va := line, keys := (List.range 64).map (k + ·),
            pieces := [(0, 64)], grp := 4, fill := true, inst := n, ty := 99 }
      else e.s
    | _ => e.s

def execPrf (f : Fields) (s : State) : Host.Outcome State Fault Refusal :=
  issue (formPrf f) true false (fun e => .ok (prfEff e)) f s

/-! ## Atomics (R206, R227, R228) -/

/-- The scope that SMOD names. -/
def Env.scope (e : Env) : Nat := e.f.smod.toNat / 4 % 8

/-- Whether a byte is in the memory of an accelerator that is no Kwezia device (R347). -/
def foreignKey (s : State) (k : Nat) : Bool :=
  match keyDev k with
  | some d => s.accels.contains d && !s.hasDev d
  | none => false

/-- Whether an atomic may act on a lane's location: `ok` for host memory (R206), `ual` for that of an accelerator that is no Kwezia
device, to which only UALink's own atomics go.  DESIGN CHOICE (log entry 105): R347 names no trap for any other; it is that of host
memory. -/
def hostAtomicOk (e : Env) (vec ok : Bool) (g : Got) (ual : Bool := ok) : Except Stop Unit :=
  if (g.keys.any keyIsHost ∧ ¬ ok) ∨ (g.keys.any (foreignKey e.s0) ∧ ¬ ual) then e.trapLane 6 (Env.laneNo vec g.lane) g.va else .ok ()

/-- Issues the atomics of lanes in ascending order, each after the one before it, the first after the accesses that its release
joins (R227, R240). -/
def laneAtomics (e : Env) (p inst dw : Nat) (op : Nat → AccOp) : List Nat → List Got → State → State
  | _, [], s => s
  | after, g :: r, s =>
    laneAtomics e p inst dw op [s.nextId] r (addAccess s { (default : Access) with
      eid := e.eid, slot := e.slot, op := op g.lane, va := g.va, keys := g.keys, pieces := [(0, g.keys.length)],
      grp := e.og, pend := p, lane := g.lane, ty := e.f.etype.toNat, dw := dw, ipc := e.pc, word := e.t.word,
      inst := inst, after := after, ascope := e.scope })

/-- Issues atomics with their release; `.acq` waits, without retiring, until they are performed (R227, R228, R241). -/
def atomics (e : Env) (tg : Target) (dw : Nat) (op : Nat → AccOp) (gs : List Got) : Except Stop State :=
  let acq := bit e.f.md 3
  let make (s : State) (after : List Nat) : Nat × State :=
    match s.fresh with
    | (p, s) =>
      let s := s.modThr e.eid e.slot fun t => t.addPend { id := p, target := tg, need := gs.length } (!acq)
      match s.fresh with
      | (n, s) => (p, laneAtomics e p n dw op after gs s)
  let base := if acq then e.s0 else e.s
  match (if bit e.f.md 4 then release e base 15 e.scope else .ok (base, [])) with
  | .error x => .error x
  | .ok (s, ids) =>
    match make (holdJoin e s e.scope 0 ids) ids with
    | (p, s) =>
      if acq then .error (.start (s.modThr e.eid e.slot fun t => { t with phase := some (.begun p) })) else .ok s

/-- The thread with a result that its instruction writes after the marks of the same instruction: its slices live, none of it
killed (R76, R77). -/
def Thread.wrote (t : Thread) (id : Nat) : Thread :=
  match t.pend.find? (·.id == id) with
  | some p => { t.addPend { p with killed := 0 } true with
      pend := t.pend.map fun q => if q.id = id then { q with killed := 0 } else q }
  | none => t

/-- The second part of an `.acq` atomic: when everything before it is bound, its result is written after the marks, and the
acquire is made. -/
def finishAcq (e : Env) (k : Except Stop State) : Except Stop State :=
  match e.t.phase with
  | some (.begun p) =>
    if readsBound e.t then .ok (acquire (e.s.modThr e.eid e.slot (·.wrote p)) e.eid e.slot e.scope) else .error .block
  | _ => k

/-- `amo`. -/
def amoEff (e : Env) : Except Stop State :=
  let isX := bit e.f.md 5
  let t := e.f.etype.toNat
  let n := codeBits t / 8
  let lanes := if isX then e.lanes else if e.act 0 then [0] else []
  if lanes.isEmpty then .ok e.s
  else finishAcq e do
    e.noJoin
    match lanes.find? fun l => addrOf (e.a l) % n != 0 with
    | some l => e.trapLane 2 (Env.laneNo isX l) (addrOf (e.a l))
    | none =>
      let gs ← checkGlobal e isX true (lanes.map fun l => { lane := l, va := addrOf (e.a l), n := n })
        (each := fun g => hostAtomicOk e isX ((e.f.md % 8 == 0 || e.f.md % 8 == 6) && (n == 4 || n == 8)) g
          (ual := e.f.md % 8 != 7 && (n == 4 || n == 8)))
      let b (l : Nat) : Nat := if codeIsFloat t then e.b l % 2 ^ codeBits t
        else pat (codeBits t) (srcInt (codeSgn t) (codeBits t) e.ob.w (e.b l))
      atomics e e.od.target e.od.w (fun l => .amo (e.f.md % 8) t (b l)) gs

def execAmo (f : Fields) (s : State) : Host.Outcome State Fault Refusal := issue (formAmo f) true false amoEff f s

/-- `cas`. -/
def casEff (e : Env) : Except Stop State :=
  e.thread fun _ => finishAcq e do
    e.noJoin
    let pair := bit e.f.md 0
    let t := e.f.etype.toNat
    let n := if pair then 16 else codeBits t / 8
    let va := addrOf e.a0
    if va % n ≠ 0 then e.trapLane (if pair then 8 else 2) 255 va
    else do
      let gs ← checkGlobal e false true [{ lane := 0, va := va, n := n }]
        (each := hostAtomicOk e false (n == 4 || n == 8))
      let v (field : Nat) (o : Opnd) : Nat :=
        if pair then e.rd field (Env.wide o 2) 0
        else pat (codeBits t) (srcInt (codeSgn t) (codeBits t) o.w (e.rd field o 0))
      let d := if pair then Env.wide e.od 2 else e.od
      atomics e d.target d.w (fun _ => .cas (v 2 e.ob) (v 3 e.oc)) gs

def execCas (f : Fields) (s : State) : Host.Outcome State Fault Refusal := issue (formCas f) true false casEff f s

/-! ## `sta` (R229) -/

/-- The scope of a byte's home for a sender (R233). -/
def homeScope (eid key : Nat) : Nat :=
  if keyIsHost key then 5
  else if keyIsLm key then scopeTo eid (keyCore key)
  else if key / 2 ^ 39 ≠ eidDev eid then 4
  else if Config.homeHash (key / 256) % 4 = eidDie eid % 4 then 2 else 3

/-- The checks of a barrier object's offset (R229, R266). -/
def barrierOffOk (e : Env) (off : Nat) : Except Stop Unit := e.need (decide (off ≤ 0x7FFF0) && off % 16 == 0) 2

def barrierPermOk (e : Env) (off : Nat) : Except Stop Unit :=
  if e.c.granOk (off / 4096) then .ok () else e.trapLane 6 255 (windowVa e.eid off)

/-- `sta`: the stores, and the acknowledgement that is to come; the arrival is an effect of the thread (R98). -/
def staEff (e : Env) : Except Stop State :=
  let ws := e.gwants
  let arrive := e.act 0
  if ws.isEmpty ∧ ¬ arrive then .ok e.s
  else do
    e.noJoin
    if arrive then barrierOffOk e e.c0
    let gs ← checkGlobal e (e.mode != 2) true ws (if arrive then barrierPermOk e e.c0 else .ok ())
    if arrive then waitFill e 255 (windowVa e.eid e.c0) [lmKey e.eid e.c0] else .ok ()
    let scope := gs.foldl (fun m g => g.keys.foldl (fun m k => max m (homeScope e.eid k)) m) 0
    let first := e.s.nextId
    let (s, ids) ← if arrive then sendRelease e e.s (bit e.f.md 4) scope else .ok (e.s, [])
    let s := e.stores s e.og true (fun l => storeFit e (lsSize e.f) (e.a l)) gs
    if arrive then
      let own := (s.accs.filter fun a => decide (first ≤ a.id) && a.eid == e.eid && a.slot == e.slot).map (·.id)
      match s.fresh with
      | (n, s) =>
        .ok { s with acks := s.acks ++ [{ id := n, eid := e.eid, slot := e.slot, obj := e.c0, after := ids, scope := scope, own := own }] }
    else .ok s

def execSta (f : Fields) (s : State) : Host.Outcome State Fault Refusal := issue (formSta f) true false staEff f s

/-! ## `inv`, `tlbinv` (R230, R231) -/

/-- Drops the line that overlaps an address: that of the translation which loads use, and that of the page table as it stands;
with neither every line (R230). -/
def dropVa (s : State) (eid asid va : Nat) : State :=
  match lookup s (eidDev eid) asid va ((s.core eid).tlb ++ (s.tile (eidTile eid)).tlb) true false, xlDev s (eidDev eid) asid va false with
  | .ok k _, .ok k' _ => dropOwn (dropOwn s eid k) eid k'
  | .ok k _, _ | _, .ok k _ => dropOwn s eid k
  | _, _ => s.modCore eid fun c => { c with l1d := [] }

/-- `inv`: the lines of the range; a range of more lines than the L1D holds drops all of it. -/
def invEff (e : Env) : State :=
  if ¬ e.act 0 then e.s
  else
    let lo := addrOf (e.a 0)
    let n := e.b 0
    let lines := (lo + n + 63) / 64 - lo / 64
    if e.f.md = 1 ∨ 6144 < lines then e.s.modCore e.eid fun c => { c with l1d := [] }
    else if n = 0 then e.s
    else
      (List.range lines).foldl (fun s i =>
        dropVa s e.eid e.asid ((lo / 64 + i) * 64)) e.s

def execInv (f : Fields) (s : State) : Host.Outcome State Fault Refusal :=
  issue (formInv f) true false (fun e => .ok (invEff e)) f s

/-- Removes the translations of an ASID that a test names from the TLBs of a device, and restarts its walks. -/
def tlbDrop (s : State) (dev asid : Nat) (hit : Nat → Nat → Bool) : State :=
  let keep (t : TlbEntry) : Bool := !(t.asid == asid && hit t.vpn t.pages)
  { s with
    cores := s.cores.map fun (k, c) => (k, if eidDev k = dev then { c with tlb := c.tlb.filter keep } else c)
    tiles := s.tiles.map fun (k, t) => (k, if eidDev (8 * k) = dev then
      { t with tlb := t.tlb.filter keep, noWalk := t.noWalk.filter fun x => !(x.1 == asid && hit x.2.1 1) } else t)
    dies := s.dies.map fun (k, d) => (k, if k / 4 = dev then
      { d with walks := d.walks.map fun w => if w.asid = asid ∧ hit w.vpn 1 then { w with running := false } else w } else d) }

/-- `tlbinv`: the status is written when every earlier access has been performed. -/
def tlbinvEff (e : Env) : State :=
  if ¬ e.act 0 then e.s
  else
    let vpn := addrOf (e.a 0) / 4096
    let s := tlbDrop e.s e.dev e.asid fun b n => e.f.md == 1 || (decide (b ≤ vpn) && decide (vpn < b + n))
    match s.fresh with
    | (n, s) => s.modThr e.eid e.slot fun t => t.addPend { id := n, target := e.od.target, need := 1, tlb := true } true

def execTlbinv (f : Fields) (s : State) : Host.Outcome State Fault Refusal :=
  issue (formTlbinv f) true false (fun e => .ok (tlbinvEff e)) f s

end Sys2Proof.Machine
end

