-- ==== Sys2Proof/Machine/Order.lean ====
section
/-! DEFINITION. The ordering group (R251, R252). -/

namespace Sys2Proof.Machine

/-- Scope and group mask of the ordering group (R251). -/
def Env.oscope (e : Env) : Nat := e.f.md
def Env.mask (e : Env) : Nat := (simm14 e.f.b).toNat

/-- `rel`: its completion counts as a result of the run. -/
def relEff (e : Env) : Except Stop State :=
  e.thread fun _ =>
    match release e e.s e.mask e.oscope with
    | .error x => .error x
    | .ok (s, ids) =>
      match (e.upd s).pendL .none 1 with
      | (p, s) => .ok (holdJoin e s e.oscope p ids)

def execRel (f : Fields) (s : State) : Host.Outcome State Fault Refusal := issue (formRel f) true false relEff f s

/-- `acq`: it blocks until what precedes it is bound (R241). -/
def acqEff (e : Env) : Except Stop State :=
  e.thread fun _ => if readsBound e.t then .ok (acquire e.s e.eid e.slot e.oscope) else .error .block

def execAcq (f : Fields) (s : State) : Host.Outcome State Fault Refusal := issue (formAcq f) true false acqEff f s

/-- `fence`: a release, the wait for its join, an acquire. -/
def fenceEff (e : Env) : Except Stop State :=
  e.thread fun _ =>
    match e.t.phase with
    | some (.join ids) =>
      if outstanding e.s0 e.oscope ids || !readsBound e.t then .error .block
      else .ok (acquire e.s e.eid e.slot e.oscope)
    | _ =>
      match release e e.s0 e.mask e.oscope with
      | .error x => .error x
      | .ok (s, ids) =>
        if ids.isEmpty ∧ readsBound e.t then .ok (acquire e.s e.eid e.slot e.oscope)
        else .error (.start (s.modThr e.eid e.slot fun t => { t with phase := some (.join ids) }))

def execFence (f : Fields) (s : State) : Host.Outcome State Fault Refusal := issue (formRel f) true false fenceEff f s

/-- `ogq`: the groups with a write that is not performed at the scope. -/
def ogqVal (e : Env) : Nat :=
  ((List.range 4).map fun g =>
    if bit e.mask g ∧ ¬ ((ownWrites e.s0 e.eid e.slot (2 ^ g) e.oscope).isEmpty ∧
        (queuedStores e.s0 e.eid e.slot (2 ^ g)).isEmpty) then 2 ^ g else 0).sum

def execOgq (f : Fields) (s : State) : Host.Outcome State Fault Refusal :=
  issue (formOgq f) true false (fun e => e.thread fun _ => .ok (e.doneL [(0, fitRaw e.od.w (ogqVal e))] 0)) f s

end Sys2Proof.Machine
end

