-- ==== Sys2Proof/Machine/Control.lean ====
section
/-! DEFINITION. The control group (R104 to R119) but for `spawn`. -/

namespace Sys2Proof.Machine

/-! ## Transfers (R105, R106) -/

/-- `check_target` (R105). -/
def targetOk (t : Int) : Bool := decide (0 ≤ t) && decide (t ≤ 0x7FFF8) && t % 8 == 0

/-- The target of a direct transfer: the offset is B in MOD 0 and IMM in MOD 1 (R105). -/
def directTarget (e : Env) : Int := (e.pc : Int) + (if e.f.md = 0 then 8 * simm14 e.f.b else e.imm)

/-- Continues at a target, in a state to come (R106). -/
def goTo (e : Env) (t : Int) (s : State) : Except Stop State :=
  if targetOk t then .ok (s.modThr e.eid e.slot fun th => { th with pc := BitVec.ofNat 20 t.toNat }) else e.trap 2

def execBr (f : Fields) (s : State) : Host.Outcome State Fault Refusal :=
  issue (formBr f) true true (fun e => e.thread fun _ => goTo e (directTarget e) e.s) f s

def execBra (f : Fields) (s : State) : Host.Outcome State Fault Refusal :=
  issue (formBra f) true true (fun e => e.thread fun _ => goTo e e.a0 e.s) f s

/-- `ret` acts as `bra` (R106). -/
def execRet (f : Fields) (s : State) : Host.Outcome State Fault Refusal :=
  issue (formBra f) true true (fun e => e.thread fun _ => goTo e e.a0 e.s) f s

/-- Writes the offset of the next instruction to D, then goes to the target. -/
def callTo (e : Env) (t : Int) : Except Stop State :=
  e.thread fun _ => goTo e t (e.doneI [(0, fitRaw e.od.w (e.pc + e.len))] 0)

def execCall (f : Fields) (s : State) : Host.Outcome State Fault Refusal :=
  issue (formCall f) true true (fun e => callTo e (directTarget e)) f s

def execCalla (f : Fields) (s : State) : Host.Outcome State Fault Refusal :=
  issue (formCalla f) true true (fun e => callTo e e.a0) f s

/-- `loop` (R106). -/
def loopEff (e : Env) : Except Stop State :=
  e.thread fun _ =>
    let v := pat (4 * e.od.w) ((e.d 0 : Int) - 1)
    let s := e.doneI [(0, v)] 0
    if v = 0 then .ok s else goTo e (directTarget e) s

def execLoop (f : Fields) (s : State) : Host.Outcome State Fault Refusal := issue (formLoop f) true true loopEff f s

/-- The predicate that field A names. -/
def predA (e : Env) : BitVec 32 := e.t.pred e.f.a.toNat

def execBany (f : Fields) (s : State) : Host.Outcome State Fault Refusal :=
  issue (formBanyall f) true true (fun e => if predA e = 0 then .ok e.s else goTo e (directTarget e) e.s) f s

def execBall (f : Fields) (s : State) : Host.Outcome State Fault Refusal :=
  issue (formBanyall f) true true
    (fun e => if predA e = BitVec.allOnes 32 then goTo e (directTarget e) e.s else .ok e.s) f s

/-! ## Predicates (R107) -/

/-- Writes predicate D in the active lanes (R99). -/
def setPd (e : Env) (val : Nat → Bool) : State :=
  e.modT fun t => t.setPred e.f.d.toNat fun l => if e.act l then some (val l) else none

def plogI (op : Bool → Bool → Bool) (f : Fields) (s : State) : Host.Outcome State Fault Refusal :=
  issue (formPlog f) true true
    (fun e => .ok (setPd e fun l => op ((predA e).getLsbD l) ((e.t.pred e.f.b.toNat).getLsbD l))) f s

def execPand (f : Fields) (s : State) : Host.Outcome State Fault Refusal := plogI (· && ·) f s
def execPor (f : Fields) (s : State) : Host.Outcome State Fault Refusal := plogI (· || ·) f s
def execPxor (f : Fields) (s : State) : Host.Outcome State Fault Refusal := plogI (· != ·) f s

def execPnot (f : Fields) (s : State) : Host.Outcome State Fault Refusal :=
  issue (formPnot f) true true (fun e => .ok (setPd e fun l => !(predA e).getLsbD l)) f s

/-- `pmov` in its five forms (R107). -/
def pmovEff (e : Env) : State :=
  match e.f.md with
  | 0 => setPd e fun l => (predA e).getLsbD l
  | 1 => setPd e fun l => bit e.a0 l
  | 2 => e.doneI [(0, fitRaw e.od.w (predA e).toNat)] 0
  | 3 => setPd e fun _ => true
  | _ => setPd e fun _ => false

def execPmov (f : Fields) (s : State) : Host.Outcome State Fault Refusal :=
  issue (formPmov f) true true (fun e => .ok (pmovEff e)) f s

def execPcnt (f : Fields) (s : State) : Host.Outcome State Fault Refusal :=
  issue (formPcnt f) true true
    (fun e => .ok (e.doneI [(0, fitRaw e.od.w (popcount 32 (predA e).toNat))] 0)) f s

/-! ## Ending and yielding (R109, R110, R386) -/

/-- The engine-fault trap that an `exit` takes: a faulted slot of the core, or a faulted copy that the thread issued
(R162, R260), or a faulted collective read of a call of the thread (R371). -/
def exitFault (e : Env) : Option TrapInfo :=
  match e.c.accs.find? (·.fault.isSome) with
  | some a => a.fault.map fun (cause, va) => { e.info 12 with cause := cause, unit := 1, index := a.logical, va := va }
  | none =>
    let ch := (List.range e.c.chan.length).find? fun k =>
      match e.c.chan[k]? with
      | some h => h.fault.isSome && (match h.cmd with
          | some m => m.slot == e.slot && m.task == e.t.task
          | none => false)
      | none => false
    match ch with
    | some k => ((e.c.chan[k]?).bind (·.fault)).map fun (cause, va) =>
        { e.info 12 with cause := cause, unit := 2, index := 2 * eidPos e.eid + k, va := va }
    | none => e.t.collFault.head?.map fun (_, i) => { i with ipc := e.pc, rpc := e.pc, word := e.t.word }

/-- The refusals and memory errors of the run come before the end of its thread: the instruction that would end it issues
again after them (R219, R319).  DESIGN CHOICE (log entry 93). -/
def Env.deferredFirst (e : Env) : Except Stop Unit :=
  match e.t.deferred with
  | [] => .ok ()
  | (_, i) :: rest =>
    .error (.fail (e.s0.modThr e.eid e.slot fun t => { t with deferred := rest }) { i with rpc := e.pc, defer := true })

/-- The end of a thread by its own instruction: the wait of R71, the pending joins (R250), then the slot is free. -/
def endSelf (e : Env) (drained : Bool) : Except Stop State := do
  e.settled
  e.deferredFirst
  if e.t.joins.isEmpty then .ok (endThread e.s e.eid e.slot drained) else .error .block

/-- `exit` (R109); a thread whose task's `eread` on this core has returned a drain marker ends by drain (R386). -/
def exitEff (e : Env) : Except Stop State :=
  e.thread fun _ => do
    e.settled
    match exitFault e with
    | some i => .error (.trap i)
    | none =>
      endSelf e (match e.s.binding? e.eid e.t.task.toNat with | some b => b.sawDrain | none => false)

def execExit (f : Fields) (s : State) : Host.Outcome State Fault Refusal := issue (formPlain f) false true exitEff f s

/-- Whether the thread's core holds a bound in-port of its task (R386). -/
def hasInPort (e : Env) : Bool :=
  match e.s.binding? e.eid e.t.task.toNat with
  | some b => b.ins.any (·.isSome)
  | none => false

/-- `yield` (R110): with DRAINREQ and no bound in-port the thread ends by drain. -/
def yieldEff (e : Env) : Except Stop State :=
  e.thread fun _ => if e.t.drainReq ∧ ¬ hasInPort e then endSelf e true else .ok e.s

def execYield (f : Fields) (s : State) : Host.Outcome State Fault Refusal := issue (formPlain f) false true yieldEff f s

def execNop (f : Fields) (s : State) : Host.Outcome State Fault Refusal :=
  issue (formPlain f) true true (fun e => .ok e.s) f s

/-! ## Waiting (R111, R112) -/

/-- The events of a `wait` that hold now: mailboxes in bits 0 to 3, the doubleword in bit 4 (not while it lies in an empty stash
granule), a drain in bit 14, the limit in bit 15 when it has run out since the cycle of issue. -/
def waitHit (s : State) (eid : Nat) (t : Thread) (issued mask addr cmp lim : Nat) : Nat :=
  let c := s.core eid
  let ev := (List.range 4).foldl (fun n k => n + b2n (!(c.mboxes.getD k []).isEmpty) * 2 ^ k) 0 +
    b2n ((emptyGran s [lmKey eid addr]).isNone && s.rd (lmKey eid addr) 8 != cmp) * 16
  (ev &&& mask) + b2n t.drainReq * 2 ^ 14 + b2n (decide (0 < lim) && decide (issued + lim ≤ s.cycle eid)) * 2 ^ 15

/-- `wait`: the mask, the doubleword and its comparand, and the limit are taken at issue; an event that holds in that cycle
ends the wait at once. -/
def waitEff (e : Env) : Except Stop State :=
  e.thread fun _ => do
    e.settled
    let m := e.a0
    let lim := e.f.imm.toNat
    e.need (bits m 63 5 == 0 && !(m == 0 && lim == 0)) 2
    let w := if bit m 4 then e.b0 else 0
    e.need (decide (w ≤ 0x7FFF8) && w % 8 == 0) 2
    if bit m 4 then waitFill e 255 (windowVa e.eid w) [lmKey e.eid w] else .ok ()
    let now := e.s0.cycle e.eid
    let hit := waitHit e.s0 e.eid e.t now m w e.c0 lim
    if hit ≠ 0 then .ok (e.doneL [(0, fitRaw e.od.w hit)] 0)
    else .error (.wait { what := .event m w e.c0 lim, f := e.f, issued := now, depth := 1 })

def execWait (f : Fields) (s : State) : Host.Outcome State Fault Refusal := issue (formWait f) false false waitEff f s

/-- `sleep`: at least P(A) cycles from now. -/
def sleepEff (e : Env) : Except Stop State :=
  e.thread fun _ => do
    e.settled
    .error (.wait { what := .sleep (e.s.cycle e.eid + e.a0), f := e.f, issued := e.s.cycle e.eid,
                    depth := if e.f.md = 1 then 2 else 1 })

def execSleep (f : Fields) (s : State) : Host.Outcome State Fault Refusal := issue (formSleep f) false false sleepEff f s

def execTick (f : Fields) (s : State) : Host.Outcome State Fault Refusal :=
  issue (formTick f) true true
    (fun e => e.thread fun _ => .ok (e.doneI [(0, fitRaw e.od.w ((e.s.dev e.dev).tick % 2 ^ 64))] 0)) f s

def tickAtEff (e : Env) : Except Stop State :=
  e.thread fun _ => .error (.wait { what := .tick e.a0, f := e.f, issued := e.s.cycle e.eid, depth := 1 })

def execTickAt (f : Fields) (s : State) : Host.Outcome State Fault Refusal :=
  issue (formTickAt f) false true tickAtEff f s

/-! ## Code and special registers (R114 to R119) -/

/-- `isync` (R114): the fetch buffer is discarded, and later fetches of the blocks it covers read LM as it stands from
now on.  DESIGN CHOICE (log entry 121): a store of the thread itself that is not performed yet counts as after the `isync`. -/
def isyncEff (e : Env) : Except Stop State :=
  e.thread fun _ => do
    if e.f.md = 0 then e.need (e.b0 == 0 || decide (e.a0 + e.b0 ≤ 0x80000)) 2
    let (lo, n) := if e.f.md = 0 then (e.a0, e.b0) else (0, 0x80000)
    .ok (e.modT fun t => { t with
      fetch := [], isyncs := if n = 0 then t.isyncs else t.isyncs ++ [(lo, lo + n - 1, e.s0.steps)] })

def execIsync (f : Fields) (s : State) : Host.Outcome State Fault Refusal := issue (formIsync f) true true isyncEff f s

/-- The value of a special register for a lane (R115). -/
def readSr (e : Env) (n l : Nat) : Nat :=
  match n with
  | 0 => e.slot
  | 1 => e.eid
  | 2 => e.t.task.toNat
  | 3 | 4 | 5 | 6 => (e.t.targ.getD (n - 3) 0).toNat
  | 7 => readFpsr e.t
  | 8 => readTstat e.t
  | 9 => (e.s0.cycle e.eid - e.c.cycle0) % 2 ^ 64
  | 10 => (e.s0.dev e.dev).tick % 2 ^ 64
  | 11 => e.t.swinv
  | 12 => readCorepwr e.c
  | 13 => e.c.rlocks.length
  | 14 => e.c.mxw.toNat
  | _ => (e.t.seed.getD l 1).toNat

def execRdsr (f : Fields) (s : State) : Host.Outcome State Fault Refusal :=
  issue (formRdsr f) true true
    (fun e => .ok (e.doneI (e.dlanes.map fun l => (l, fitRaw e.od.w (readSr e (simm14 e.f.b).toNat l))) 0)) f s

/-- `wrsr` (R116 to R119). -/
def wrsrEff (e : Env) : State :=
  match (simm14 e.f.b).toNat with
  | 15 => e.modT fun t =>
      { t with seed := (List.range 32).map fun l => if e.act l then seedOf (e.a l) else t.seed.getD l 1 }
  | n =>
    if ¬ e.act 0 then e.s
    else match n with
      | 7 => e.modT fun t => { t with fpsr := BitVec.ofNat 6 e.a0 }
      | 8 => e.modT fun t => { t with deadRead := bit e.a0 0 }
      | _ => e.s.modCore e.eid fun c => { c with limit := limitOf e.a0 }

def execWrsr (f : Fields) (s : State) : Host.Outcome State Fault Refusal :=
  issue (formWrsr f) true true (fun e => .ok (wrsrEff e)) f s

/-- An unassigned opcode traps under every predicate (R51). -/
def execUnassignedOpcode (_ : BitVec 10) (f : Fields) (s : State) : Host.Outcome State Fault Refusal :=
  issue none true true (fun e => .ok e.s) f s

end Sys2Proof.Machine
end

