-- ==== Sys2Proof/Machine/Slice.lean ====
section
/-! DEFINITION. The slice group (R81 to R90) but for `sspill` and `sfill`, which move LM bytes. -/

namespace Sys2Proof.Machine

/-- A class I instruction of the slice group: a pattern for each lane that D is written in, under the raw rule. -/
def sliceI (form : Option Form) (val : Env → Nat → Nat) (f : Fields) (s : State) : Host.Outcome State Fault Refusal :=
  issue form true true (fun e => .ok (e.doneI (e.dlanes.map fun l => (l, fitRaw e.od.w (val e l))) 0)) f s

/-- A cross-lane instruction: class L, raw rule (R86). -/
def sliceL (form : Option Form) (val : Env → Nat → Nat) (f : Fields) (s : State) : Host.Outcome State Fault Refusal :=
  issue form true true (fun e => .ok (e.doneL (e.dlanes.map fun l => (l, fitRaw e.od.w (val e l))) 0)) f s

/-- `mov` (R82): the width rules of R69, raw for ETYPE 0. -/
def movVal (e : Env) (l : Nat) : Nat :=
  match Ty.ofCode e.f.etype.toNat with
  | none | some .raw => e.a l
  | some t => fitInt e.f.sat t.sgn t.width e.od.w (srcInt t.sgn t.width e.oa.w (e.a l))

def execMov (f : Fields) (s : State) : Host.Outcome State Fault Refusal := sliceI (formMov f) movVal f s

/-- `movi` (R83). -/
def moviVal (e : Env) (_ : Nat) : Nat :=
  match e.f.md with
  | 0 => pat 64 e.f.imm.toInt
  | 1 => e.f.imm.toNat
  | _ => pat 64 (simm14 e.f.b)

def execMovi (f : Fields) (s : State) : Host.Outcome State Fault Refusal := sliceI (formMovi f) moviVal f s

/-- `movhi` (R83): bits 31:0 of D are kept. -/
def movhiVal (e : Env) (l : Nat) : Nat := e.d l % 2 ^ 32 + e.f.imm.toNat * 2 ^ 32

def execMovhi (f : Fields) (s : State) : Host.Outcome State Fault Refusal := sliceI (formMovhi f) movhiVal f s

/-- The field width of `sext` and `zext` (R84). -/
def extBits (e : Env) : Nat := if e.f.md = 0 then 4 * e.oa.w else (simm14 e.f.b).toNat

def execSext (f : Fields) (s : State) : Host.Outcome State Fault Refusal :=
  sliceI (formExt f) (fun e l => pat 64 (signed (extBits e) (e.a l))) f s

def execZext (f : Fields) (s : State) : Host.Outcome State Fault Refusal :=
  sliceI (formExt f) (fun e l => e.a l % 2 ^ extBits e) f s

/-- `pack` (R85). -/
def packVal (e : Env) (l : Nat) : Nat :=
  e.a l + e.b l * 2 ^ (4 * e.oa.w) + (if e.f.md = 1 then e.c_ l * 2 ^ (4 * (e.oa.w + e.ob.w)) else 0)

def execPack (f : Fields) (s : State) : Host.Outcome State Fault Refusal := sliceI (formPack f) packVal f s

/-- The position operand of `xtr` and `ins`. -/
def fieldPos (e : Env) (l : Nat) : Nat := if e.f.md = 0 then e.b l else (simm14 e.f.b).toNat

/-- `xtr` (R85). -/
def xtrVal (e : Env) (l : Nat) : Nat := if 4 * e.oa.w ≤ fieldPos e l then 0 else e.a l / 2 ^ fieldPos e l

def execXtr (f : Fields) (s : State) : Host.Outcome State Fault Refusal := sliceI (formField f) xtrVal f s

/-- `ins` (R85): the bits of D outside the field are kept. -/
def insVal (e : Env) (l : Nat) : Nat :=
  let pos := fieldPos e l
  let old := e.d l
  if 4 * e.od.w ≤ pos then old
  else
    let n := min (4 * e.oa.w) (4 * e.od.w - pos)
    old ^^^ ((old / 2 ^ pos % 2 ^ n ^^^ e.a l % 2 ^ n) * 2 ^ pos)

def execIns (f : Fields) (s : State) : Host.Outcome State Fault Refusal := sliceI (formIns f) insVal f s

/-- A pattern of `n` bits repeated `k` times. -/
def repeatBits (n v : Nat) : Nat → Nat
  | 0 => 0
  | k + 1 => v + 2 ^ n * repeatBits n v k

/-- `bcast` (R85). -/
def bcastVal (e : Env) (l : Nat) : Nat := repeatBits (4 * e.oa.w) (e.a l) 16

def execBcast (f : Fields) (s : State) : Host.Outcome State Fault Refusal := sliceI (formBcast f) bcastVal f s

/-- The lane that `lane` reads (R86). -/
def laneOf (e : Env) : Nat := if e.f.md = 0 then e.b 0 % 32 else (simm14 e.f.b).toNat

def execLane (f : Fields) (s : State) : Host.Outcome State Fault Refusal :=
  sliceL (formLane f) (fun e _ => e.a (laneOf e)) f s

/-- The lane that `shfl` reads for lane `l`, with its operand `b` (R86). -/
def shflLane (mode l b : Nat) : Nat :=
  match mode with
  | 0 => b % 32
  | 1 => l ^^^ b % 32
  | 2 => if l < b then l else l - b
  | _ => if 31 < l + b then l else l + b

def execShfl (f : Fields) (s : State) : Host.Outcome State Fault Refusal :=
  sliceL (formShfl f) (fun e l =>
    e.a (shflLane (e.f.md % 4) l (if e.f.md < 4 then e.b l else (simm14 e.f.b).toNat))) f s

/-- The lane that `shfli` reads for lane `l` (R86). -/
def shfliLane (imm l : Nat) : Nat := 8 * (l / 8) + imm / 2 ^ (3 * (l % 8)) % 8

def execShfli (f : Fields) (s : State) : Host.Outcome State Fault Refusal :=
  sliceL (formShfli f) (fun e l => e.a (shfliLane e.f.imm.toNat l)) f s

/-- `dead` (R88): the slices of every operand that MOD names. -/
def deadEff (e : Env) : State :=
  e.modT fun t =>
    let t := t.kill e.oa 1
    let t := if 1 ≤ e.f.md then t.kill e.ob 1 else t
    if 2 ≤ e.f.md then t.kill e.oc 1 else t

def execDead (f : Fields) (s : State) : Host.Outcome State Fault Refusal :=
  issue (formDead f) true true (fun e => .ok (deadEff e)) f s

/-- The units of a core that no thread and no binding holds (R64). -/
def freeUnits (c : Core) : List Nat :=
  (List.range 62).filter fun u =>
    !(c.threads.any fun (_, t) => t.units.contains u) && !(c.bindings.any fun b => b.units.any (·.contains u))

/-- The places of those who ask a core for units, within one cycle (R64). -/
def rankBinding : Nat := 0
def rankSpawn (sender : Nat) : Nat := 1 + sender
def rankSwin : Nat := 2 ^ 23

/-- Whether a request for units may reach a core in this cycle: none that the order of R64 puts behind it has been
granted or has failed in the same cycle. -/
def unitsTurn (s : State) (eid rank : Nat) : Bool :=
  (s.core eid).unitsAt.1 != s.cycle eid || decide ((s.core eid).unitsAt.2 ≤ rank)

/-- A request for units has reached a core. -/
def unitsAsked (s : State) (eid rank : Nat) : State := s.modCore eid fun c => { c with unitsAt := (s.cycle eid, rank) }

/-- Changes the window of a thread to `n` slices, with the units given (R89): new slices are zero and live. -/
def Thread.resize (t : Thread) (n : Nat) (units : List Nat) : Thread :=
  { t with
    swinv := n, units := units
    vec := t.vec.map fun x => BitVec.ofNat 2048 (x.toNat % 2 ^ (4 * min n t.swinv))
    vlive := BitVec.ofNat 512 (t.vlive.toNat % 2 ^ min n t.swinv + (span t.swinv (n - t.swinv)))
    runV := t.runV.map (· &&& BitVec.ofNat 512 (2 ^ min n t.swinv - 1))
    pend := t.pend.map fun p => match p.target with
      | .vec _ _ => { p with killed := p.killed ||| BitVec.ofNat 512 (span n (512 - n)) }
      | _ => p }

/-- `swin` (R89), after the wait of R71: statuses 0 to 2.  The status is written whatever becomes of the window. -/
def swinEff (e : Env) : Except Stop State :=
  e.thread fun _ => do
    e.settled
    let n := if e.f.md = 0 then e.a0 else (simm14 e.f.b).toNat
    let status (v : Nat) (s : State) : State :=
      s.modThr e.eid e.slot fun t => t.write e.od fun l => if l = 0 then some (fitRaw e.od.w v) else none
    if n % 64 ≠ 0 ∨ n < 64 ∨ 512 < n then .ok (status 2 e.s)
    else
      let have_ := e.t.units
      let k := n / 64
      let asked := unitsAsked e.s e.eid rankSwin
      let resized (units : List Nat) : State := asked.modThr e.eid e.slot fun t => t.resize n units
      if k ≤ have_.length then .ok (status 0 (resized (have_.take k)))
      else
        let free := freeUnits (e.s.core e.eid)
        if free.length < k - have_.length then .ok (status 1 asked)
        else .ok (status 0 (resized (have_ ++ free.take (k - have_.length))))

def execSwin (f : Fields) (s : State) : Host.Outcome State Fault Refusal :=
  issue (formSwin f) false true swinEff f s

/-- The vector window zero and live (R90). -/
def Thread.clearVec (t : Thread) : Thread :=
  { t with
    vec := List.replicate 32 0
    vlive := BitVec.ofNat 512 (2 ^ t.swinv - 1)
    runV := List.replicate 32 (BitVec.ofNat 512 (2 ^ t.swinv - 1)), ecc := t.ecc.filter (512 ≤ ·)
    pend := t.pend.map fun p => match p.target with
      | .vec _ _ => { p with killed := BitVec.allOnes 512 }
      | _ => p }

/-- The scalar window zero and live (R90). -/
def Thread.clearScal (t : Thread) : Thread :=
  { t with
    scal := 0
    slive := BitVec.allOnes 256
    runS := BitVec.allOnes 256, ecc := t.ecc.filter fun k => decide (k < 512) || decide (768 ≤ k)
    pend := t.pend.map fun p => match p.target with
      | .scal _ _ => { p with killed := BitVec.allOnes 512 }
      | _ => p }

/-- `sclr` (R90): MOD 1 to 3 wait for the run's results first. -/
def sclrEff (e : Env) : Except Stop State :=
  if e.f.md = 0 then .ok (e.doneI (e.dlanes.map fun l => (l, 0)) 0)
  else do
    e.settled
    .ok (e.modT fun t =>
      let t := if e.f.md ≠ 2 then t.clearVec else t
      if e.f.md ≠ 1 then t.clearScal else t)

def execSclr (f : Fields) (s : State) : Host.Outcome State Fault Refusal :=
  issue (formSclr f) true true sclrEff f s

end Sys2Proof.Machine
end

