-- ==== Sys2Proof/Machine/Threads.lean ====
section
/-! DEFINITION. The creation of threads, and `spawn` (R62 to R65, R92, R93, R108). -/

namespace Sys2Proof.Machine

/-- The lowest-numbered thread slot that is free and that no binding holds (R93). -/
def freeSlot (c : Core) : Option Nat :=
  firstIdx 16 fun i => (Keyed.get? c.threads i).isNone && !c.bindings.any fun b => b.slots.contains i

/-- A thread at its creation (R16, R63, R92). -/
def newThread (pc swinv : Nat) (units : List Nat) (scal : Nat) (task : BitVec 32) (targ : List (BitVec 64)) : Thread :=
  { pc := BitVec.ofNat 20 pc, status := .fetching, vec := List.replicate 32 0, scal := BitVec.ofNat 1024 scal
    vlive := BitVec.ofNat 512 (2 ^ swinv - 1), slive := BitVec.allOnes 256
    runV := List.replicate 32 0, runS := 0, preds := List.replicate 7 0, swinv := swinv, units := units
    task := task, targ := targ, seed := (List.range 32).map fun l => BitVec.ofNat 16 (l + 1) }

/-- Puts a new thread into a slot.  A task whose instance drains has DRAINREQ set (R384); an arrival wakes a sleeping
core (R113). -/
def startThread (s : State) (eid slot : Nat) (t : Thread) : State :=
  let draining := match s.rec? t.task.toNat with
    | some r => s.insts.any fun (d, i) => d == State.hDev r.handle && i.asid == r.asid && i.gid == r.gid && i.draining
    | none => false
  let s := s.modRec t.task.toNat fun r =>
    if (State.berthCores r ++ r.ran).contains eid then r else { r with ran := r.ran ++ [eid] }
  enterReady s eid slot { t with drainReq := draining && decide (slot < 16), born := s.steps }

/-- `spawn` (R108): the 64 scalar slices are read under R72, and an uncorrectable error in one of them traps (R380). -/
def spawnEff (e : Env) : Except Stop State :=
  e.thread fun _ => do
    if e.t.ecc.any fun k => decide (512 ≤ k) && decide (k < 576) then .error (.trap { e.info 11 with cause := 1 }) else .ok ()
    e.noJoin
    let dst ← e.target
    e.need (targetOk e.b0) 2
    e.request false (scopeTo e.eid dst) dst 1
      (.spawn e.b0 e.t.swinv (e.rd 4 (.scal 0 64) 0) e.t.task e.t.targ)

def execSpawn (f : Fields) (s : State) : Host.Outcome State Fault Refusal :=
  issue (formSpawn f) true false spawnEff f s

/-- A spawn at its target core (R64, R108). -/
def spawnArrives (s : State) (p : Packet) : State :=
  match p.body with
  | .spawn off swinv scal task targ =>
    let c := s.core p.dst
    if ¬ s.hasCore p.dst ∨ c.ctx ≠ some p.asid then answerWord s p 3
    else
      let s := unitsAsked s p.dst (rankSpawn p.src)
      match freeSlot c with
      | none => answerWord s p 1
      | some slot =>
        let free := freeUnits c
        if free.length < swinv / 64 then answerWord s p 1
        else
          answerWord
            (startThread (acquire s p.dst slot (max 2 (scopeTo p.src p.dst))) p.dst slot
              (newThread off swinv (free.take (swinv / 64)) scal task targ)) p 0
  | _ => s

def execSpawnArrival (s : State) : Host.Outcome State Fault Refusal :=
  event (fun s => match readyPkt? s with
    | some p => if unitsTurn s p.dst (rankSpawn p.src) then spawnArrives s p else s
    | none => s) s

end Sys2Proof.Machine
end

