-- ==== Sys2Proof/Machine/MemEv.lean ====
section
/-! DEFINITION. The steps of memory: accesses at their homes, atomics, page walks, releases, stash fills and write-backs
(R187, R188, R206, R213, R214, R219, R231, R234, R240). -/

namespace Sys2Proof.Machine

/-! ## Homes -/

/-- The access that a step performs, when it may be performed. -/
def dueAccess (s : State) (atomic : Bool) : Option Access :=
  match s.who with
  | [id] =>
    (s.accs.find? (·.id == id)).bind fun a =>
      if a.atomic = atomic ∧ mayPerform s a ∧ ¬ (a.op = .load ∧ (s.core a.eid).frozen) then some a else none
  | _ => none

def execHomeAccess (s : State) : Host.Outcome State Fault Refusal :=
  event (fun s => match dueAccess s false with | some a => performPiece s a | none => s) s

/-- An atomic at its home; one on LM enters the owner's handler queue, or a frozen owner's spill ring (R206, R320,
R393). -/
def atomicAtHome (s : State) (a : Access) : State :=
  match a.keys with
  | k :: _ =>
    if keyIsLm k then
      let o := keyCore k
      let c := s.core o
      let queued := c.handlerQ.contains (.atomic a.id) || s.net.any fun p => p.body == .lmAtomic a.id
      if queued then s
      else if c.frozen then
        let p : Packet := { (default : Packet) with src := o, dst := o, cls := 6, body := .lmAtomic a.id }
        spillPkt (sendPacket s p) o { p with id := s.nextId }
      else if 64 ≤ c.handlerQ.length then s
      else s.setCore o { c with handlerQ := c.handlerQ ++ [.atomic a.id] }
    else performAtomic s a
  | [] => endAccess s a.id

def execAtomicAtHome (s : State) : Host.Outcome State Fault Refusal :=
  event (fun s => match dueAccess s true with | some a => atomicAtHome s a | none => s) s

/-- The lowest-numbered free handler slot (R93). -/
def freeHandler (c : Core) : Option Nat := [16, 17].find? fun i => (Keyed.get? c.threads i).isNone

/-- The atomic at the head of a core's handler queue, performed in a free handler slot (R206). -/
def lmAtomicMicrocode (s : State) : State :=
  match s.who with
  | [eid] =>
    let c := s.core eid
    match c.handlerQ, freeHandler c with
    | .atomic id :: rest, some _ =>
      if c.frozen then s
      else
        match s.accs.find? (·.id == id) with
        | some a => performAtomic (s.setCore eid { c with handlerQ := rest }) a
        | none => s.setCore eid { c with handlerQ := rest }
    | _, _ => s
  | _ => s

def execLmAtomicMicrocode (s : State) : Host.Outcome State Fault Refusal := event lmAtomicMicrocode s

/-- A byte of memory, or a slice, a predicate or a fetch block of a thread, now holds an uncorrectable error (R204, R219, R380): what
belongs to thread slot `i` of core `e` stands from key 2^70 + (32·e + i)·2^15 on, in the order of `Thread.ecc`. -/
def uncorrectable (s : State) (key : Nat) : State :=
  if key < 2 ^ 70 then (if s.bad.contains key then s else { s with bad := s.bad ++ [key] })
  else
    let x := key - 2 ^ 70
    s.modThr (x / 2 ^ 20) (x / 2 ^ 15 % 32) fun t => { t with ecc := x % 2 ^ 15 :: t.ecc.filter (· != x % 2 ^ 15) }

def execUncorrectableError (key : Nat) (s : State) : Host.Outcome State Fault Refusal := event (fun s => uncorrectable s key) s

/-! ## Page walks -/

/-- The first queued walk starts when one of the die's 64 walkers is free (R214). -/
def walkStart (s : State) : State :=
  match s.who with
  | [die] =>
    s.modDie die fun d =>
      match firstIdx d.walks.length fun i => (d.walks[i]?).any fun w => !w.running with
      | some i =>
        if (d.walks.filter (·.running)).length < 64 then
          { d with walks := d.walks.modify i fun w => { w with running := true } }
        else d
      | none => d
  | _ => s

def execWalkStart (s : State) : Host.Outcome State Fault Refusal := event walkStart s

/-- Puts an entry into a TLB of `n` entries; the oldest one leaves (R209). -/
def tlbPut (n : Nat) (l : List TlbEntry) (t : TlbEntry) : List TlbEntry :=
  if l.contains t then l else ((l ++ [t]).drop (l.length + 1 - n))

/-- A completed walk of an engine: the translation enters the tile TLB, or the tile notes how it failed (R209, R213). -/
def engineWalked (s : State) (e asid vpn : Nat) (r : Except Nat TlbEntry) : State :=
  s.modTile (eidTile e) fun x =>
    let rest := x.noWalk.filter fun y => !(y.1 == asid && y.2.1 == vpn)
    match r with
    | .ok t => { x with tlb := tlbPut 2048 x.tlb t, noWalk := rest }
    | .error c => { x with noWalk := rest ++ [(asid, vpn, c)] }

/-- A walk completes: a translation enters the TLBs of the cores and tiles that wait for it; a fault is told to the
threads (R213). -/
def pageWalk (s : State) : State :=
  match s.who with
  | [die, asid, vpn] =>
    match (s.die die).walks.find? fun w => w.asid == asid && w.vpn == vpn && w.running with
    | none => s
    | some w =>
      let s := s.modDie die fun d => { d with walks := d.walks.filter fun x => !(x.asid == asid && x.vpn == vpn) }
      match walk s (die / 4) asid vpn with
      | .ok t =>
        w.slots.foldl (fun s (e, i) =>
          let s := engineWalked s e asid vpn (.ok t)
          if i = engineSlot then s else s.modCore e fun c => { c with tlb := tlbPut 64 c.tlb t }) s
      | .error c => w.slots.foldl (fun s (e, i) =>
          if i = engineSlot then engineWalked s e asid vpn (.error c)
          else s.modThr e i fun t => { t with walkFault := some (asid, vpn, c) }) s
  | _ => s

def execPageWalk (s : State) : Host.Outcome State Fault Refusal := event pageWalk s

/-! ## Releases -/

/-- Whether a join is complete (R240). -/
def Join.complete (j : Join) (s : State) : Bool := !outstanding s j.scope j.ids

/-- The join of a release completes; that of a `rel` is a result of its run (R251). -/
def joinComplete (s : State) : State :=
  match s.who with
  | [eid, slot, id] =>
    match (s.thr? eid slot).bind fun t => t.joins.find? (·.id == id) with
    | some j =>
      if j.complete s then
        let s := tryFreeze (s.modThr eid slot fun t => { t with joins := t.joins.filter (·.id != id) }) eid
        if j.pend = 0 then s else finishPend s eid slot j.pend []
      else s
    | none => s
  | _ => s

def execJoinComplete (s : State) : Host.Outcome State Fault Refusal := event joinComplete s

/-- Every drain token has reached the memory edge (R231). -/
def tlbinvAck (s : State) : State :=
  match s.who with
  | [eid, slot, id] =>
    if s.accs.any fun a => decide (a.id < id) && eidDev a.eid == eidDev eid && (s.core a.eid).ctx == (s.core eid).ctx then s
    else
      match (s.thr? eid slot).bind fun t => t.pend.find? (·.id == id) with
      | some p => if p.tlb ∧ p.need ≠ 0 then reply s eid slot id [(0, 0)] else s
      | none => s
  | _ => s

def execTlbinvAck (s : State) : Host.Outcome State Fault Refusal := event tlbinvAck s

/-! ## Stash windows -/

/-- The slot number under which a granule's fill reads another device's memory. -/
def fillSlot (gran : Nat) : Nat := 2 ^ 16 + gran

/-- Fills the empty granule `g` of window `i` (R187).  One in which earlier accesses are still to be performed waits for them; when
one of them has made it dirty, it keeps its bytes (R190). -/
def fillGran (s : State) (eid i g : Nat) : State :=
  match (s.core eid).stash[i]?, granOf s eid i g with
  | some w, some x =>
    if (x.filled ∧ ¬ x.stale) ∨ ¬ x.want ∨ (x.stale ∧ granInUse s eid (w.lo / 4096 + g)) then s
    else if x.stale ∧ x.dirty ≠ 0 then modGran s eid i g fun x => { x with stale := false, want := false }
    else
      let fail (code : Nat) : State := modGran s eid i g fun x => { x with want := false, fault := some code }
      match xlCore s eid ((s.core eid).ctx.getD 0) (w.va + 4096 * g) false with
      | .ok k _ =>
        let slot := fillSlot (w.lo / 4096 + g)
        let ks := (List.range 4096).map (k + ·)
        if s.cutKey (eidDev eid) k then fail 10
        else
          match farRead s ((s.core eid).ctx.getD 0) eid slot 0 ks with
          | .error none => farDone (fail 10) eid slot 0
          | .error (some s) => s
          | .ok _ =>
            if ks.any fun k => (farSeen s eid slot s.nextId k).isNone then farDone (fail 11) eid slot 0
            else
              let lo := lmKey eid (w.lo + 4096 * g)
              let bs := ((List.range 4096).filter fun o => !x.dirty.getLsbD o).map fun o => (lo + o, (farSeen s eid slot s.nextId (k + o)).getD 0)
              modGran (farDone ((s.setBytes bs).mend lo 4096) eid slot 0) eid i g fun x =>
                { x with filled := true, stale := false, want := false, fault := none }
      | .fault c => fail c
      | .miss => fail 5
  | _, _ => s

def stashFill (s : State) : State :=
  match s.who with
  | [eid, gran] =>
    match (s.core eid).stashOf (4096 * gran) with
    | some (i, g) => fillGran s eid i g
    | none => s
  | _ => s

def execStashFill (s : State) : Host.Outcome State Fault Refusal := event stashFill s

/-- A write-back of a dirty granule by the device's own choice; a fault is not reported (R188, R189). -/
def stashWriteback (s : State) : State :=
  match s.who with
  | [eid, gran] =>
    match (s.core eid).stashOf (4096 * gran) with
    | some (i, g) =>
      match (s.core eid).stash[i]?, granOf s eid i g with
      | some w, some x =>
        (wbBytes eid ((s.core eid).ctx.getD 0) i g (w.lo + 4096 * g) (w.va + 4096 * g) (runsOf (dirtyOffs x)) s).1
      | _, _ => s
    | none => s
  | _ => s

def execStashWriteback (s : State) : Host.Outcome State Fault Refusal := event stashWriteback s

end Sys2Proof.Machine
end

