-- ==== Sys2Proof/Machine/Barrier.lean ====
section
/-! DEFINITION. Barrier objects and group barriers (R229, R266 to R273). -/

namespace Sys2Proof.Machine

/-- A barrier object (R266). -/
structure BarObj where
  expb : Nat
  rcvb : Nat
  exparr : Nat
  pendarr : Nat
  early : Nat
  phase : Bool
  surplus : Bool
  deriving DecidableEq, Repr

/-- Reads the object at a key. -/
def barAt (s : State) (k : Nat) : BarObj :=
  let a := s.rd k 8
  let b := s.rd (k + 8) 8
  { expb := bits a 31 0, rcvb := bits a 63 32, exparr := bits b 15 0, pendarr := bits b 31 16, early := bits b 47 32,
    phase := bit b 48, surplus := bit b 49 }

/-- Doubleword 1 of an object; its reserved bits read as zero (R2). -/
def BarObj.dw1 (o : BarObj) : Nat :=
  o.exparr + o.pendarr * 2 ^ 16 + o.early * 2 ^ 32 + b2n o.phase * 2 ^ 48 + b2n o.surplus * 2 ^ 49

/-- Writes the object at a key. -/
def putBar (s : State) (k : Nat) (o : BarObj) : State :=
  putNum (putNum s k 8 (o.expb + o.rcvb * 2 ^ 32)) (k + 8) 8 o.dw1

/-- `update_end` (R267): the object, and whether the phase completed. -/
def BarObj.updateEnd (o : BarObj) : BarObj × Bool :=
  if o.pendarr = 0 ∧ o.expb ≤ o.rcvb then
    ({ o with
       surplus := o.surplus || decide (o.expb < o.rcvb) || decide (0 < o.early)
       rcvb := o.rcvb - o.expb
       pendarr := o.exparr - o.early, early := o.early - o.exparr
       phase := !o.phase }, true)
  else (o, false)

/-- One arrival, before `update_end`. -/
def BarObj.arrive (o : BarObj) : BarObj :=
  if 0 < o.pendarr then { o with pendarr := o.pendarr - 1 } else { o with early := min (o.early + 1) 0xFFFF }

/-- A count of `n` in a 32-bit field that saturates: the value and whether it did. -/
def satAdd32 (a n : Nat) : Nat × Bool := if a + n < 2 ^ 32 then (a + n, false) else (2 ^ 32 - 1, true)

/-- An update (R267 to R270): bytes, arrival, `bexp`, `bexp.arv`, `binit`. -/
def BarObj.update (o : BarObj) (kind n : Nat) : BarObj × Bool :=
  let bexp (o : BarObj) : BarObj := match satAdd32 o.expb n with | (v, t) => { o with expb := v, surplus := o.surplus || t }
  match kind with
  | 0 => (match satAdd32 o.rcvb n with | (v, t) => { o with rcvb := v, surplus := o.surplus || t }).updateEnd
  | 1 => o.arrive.updateEnd
  | 2 => (bexp o).updateEnd
  | 3 => (bexp o).arrive.updateEnd
  | _ =>
    ({ o with expb := n / 65536, exparr := n % 65536, pendarr := n % 65536, rcvb := 0, early := 0, phase := false,
              surplus := false }, false)

/-- Ends the `bwait` of every thread of a core that waits for an object (R267, R271). -/
def wakeBarrier (s : State) (eid off : Nat) : State :=
  (s.core eid).threads.foldl (fun s (i, t) =>
    match t.status with
    | .waiting w =>
      (match w.what with
       | .barrier o _ => if o = off then endWait (acquire s eid i 2) eid i w (some 0) else s
       | _ => s)
    | _ => s) s

/-- Performs an update at its object: PHASE as it was, and the state. -/
def barUpdate (s : State) (key kind n : Nat) : Bool × State :=
  let o := barAt s key
  match o.update kind n with
  | (o', done) =>
    let s := putBar s key o'
    (o.phase, if done then wakeBarrier s (keyCore key) (keyOff key) else s)

/-- Whether an update must wait for earlier accesses and updates of its own sender to the same object (R236). -/
def barHeld (s : State) (p : Packet) (key : Nat) : Bool :=
  (s.accs.any fun a => decide (a.id < p.id) && a.eid == p.src && a.slot == p.slot &&
      a.keys.any fun k => decide (key ≤ k) && decide (k < key + 16)) ||
    s.net.any fun q => decide (q.id < p.id) && q.src == p.src && q.slot == p.slot &&
      match q.body with | .barrier k _ _ => k == key | _ => false

/-- An update reaches its object; an empty stash granule is filled first (R187). -/
def barrierArrives (s : State) (p : Packet) : State :=
  match p.body with
  | .barrier key kind n =>
    if barHeld s p key then s
    else
      match emptyGran s [key] with
      | some x => fillForPacket s p x
      | none =>
        match barUpdate s key kind n with
        | (ph, s) => if p.pend = 0 then answer s p .quiet else answerWord s p (b2n ph)
  | _ => s

def execBarrierUpdate (s : State) : Host.Outcome State Fault Refusal :=
  event (fun s => match readyPkt? s with | some p => barrierArrives s p | none => s) s

/-! ## The instructions -/

/-- The checks of an own-LM barrier object (R266); an instruction that writes it must not name a ring header (R177). -/
def ownBar (e : Env) (off : Nat) (writes : Bool := true) : Except Stop Nat := do
  barrierOffOk e off
  barrierPermOk e off
  if writes ∧ e.s0.inHeader e.eid off 16 then e.trapLane 6 255 (windowVa e.eid off)
  else
    waitFill e 255 (windowVa e.eid off) ((List.range 16).map (lmKey e.eid off + ·))
    .ok (lmKey e.eid off)

/-- Sends an update of the thread to an object. -/
def sendUpdate (e : Env) (s : State) (key kind n pend : Nat) (after : List Nat) : State :=
  e.send s (keyCore key) 0 after pend (.barrier key kind n)

/-- `binit` (R268); a byte count of more than 32 bits leaves EXPB without a stated value. -/
def binitEff (e : Env) : Except Stop State :=
  e.thread fun _ => do
    let key ← ownBar e e.a0
    e.need (!(e.b0 == 0 && e.c0 == 0) && decide (e.b0 ≤ 65535)) 2
    e.noJoin
    let expb := if e.c0 < 2 ^ 32 then e.c0 else (Config.freeWord e.s0.free 0).toNat % 2 ^ 32
    .ok (sendUpdate e e.s key 4 (expb * 65536 + e.b0) 0 [])

def execBinit (f : Fields) (s : State) : Host.Outcome State Fault Refusal := issue (formBinit f) true false binitEff f s

/-- The object of `barv`: own LM, or by window address with `.r` (R269). -/
def barvKey (e : Env) : Except Stop Nat :=
  if ¬ bit e.f.md 0 then ownBar e e.a0
  else
    let va := addrOf e.a0
    let off := va % 2 ^ 20
    if va < 0xF0 * 2 ^ 48 ∨ 0xF0 * 2 ^ 48 + 2 ^ 42 ≤ va ∨ 0x7FFF0 < off ∨ off % 16 ≠ 0 then e.trapLane 2 255 va
    else
      match windowKey e.s0 e.asid va true true with
      | .ok k _ => do
        waitFill e 255 va [k]
        .ok k
      | .fault c => e.trapLane c 255 va
      | .miss => e.trapLane 5 255 va

/-- `barv` (R269). -/
def barvEff (e : Env) : Except Stop State :=
  e.thread fun _ => do
    let key ← barvKey e
    e.noJoin
    let (s, ids) ← sendRelease e e.s (bit e.f.md 1) (scopeTo e.eid (keyCore key))
    if e.od.isZero then .ok (sendUpdate e s key 1 0 0 ids)
    else
      match (e.upd s).pendL e.od.target 1 with
      | (p, s) => .ok (sendUpdate e s key 1 0 p ids)

def execBarv (f : Fields) (s : State) : Host.Outcome State Fault Refusal := issue (formBarv f) true false barvEff f s

/-- `bexp` (R270). -/
def bexpEff (e : Env) : Except Stop State :=
  e.thread fun _ => do
    let key ← ownBar e e.a0
    if bit e.f.md 0 then
      e.noJoin
      let (s, ids) ← sendRelease e e.s (bit e.f.md 1) 0
      .ok (sendUpdate e s key 3 e.b0 0 ids)
    else do
      e.noJoin
      .ok (sendUpdate e e.s key 2 e.b0 0 [])

def execBexp (f : Fields) (s : State) : Host.Outcome State Fault Refusal := issue (formBexp f) true false bexpEff f s

/-- The object as the thread reads it: its own earlier stores and updates to it are performed first (R236). -/
def readBar (e : Env) (key : Nat) : Except Stop BarObj := do
  e.noPop
  let mine (id src slot : Nat) : Bool := decide (id < e.s0.nextId) && src == e.eid && slot == e.slot
  if (e.s0.accs.any fun a => mine a.id a.eid a.slot && a.keys.any fun k => decide (key ≤ k) && decide (k < key + 16)) ||
      (e.s0.net.any fun p => mine p.id p.src p.slot && match p.body with | .barrier k _ _ => k == key | _ => false) then .error .block
  else .ok (barAt e.s0 key)

/-- `bwait` (R271): it ends at once, or waits for a completion. -/
def bwaitEff (e : Env) : Except Stop State :=
  e.thread fun _ => do
    let key ← ownBar e e.a0 false
    let o ← readBar e key
    if ¬ readsBound e.t then .error .block
    else if o.phase ≠ bit e.b0 0 then .ok (acquire (e.doneL [(0, 0)] 0) e.eid e.slot 2)
    else .error (.wait { what := .barrier e.a0 e.f.imm.toNat, f := e.f, issued := e.s0.cycle e.eid })

def execBwait (f : Fields) (s : State) : Host.Outcome State Fault Refusal := issue (formBwait f) false false bwaitEff f s

/-- `bwait` ends with status 1 at its limit, or at a drain request (R271). -/
def bwaitTimeout (s : State) : State :=
  match s.who with
  | [eid, slot] =>
    match s.thr? eid slot with
    | some t =>
      (match t.status with
       | .waiting w =>
         (match w.what with
          | .barrier _ lim =>
            if t.drainReq ∨ (0 < lim ∧ w.issued + lim ≤ s.cycle eid) then endWait s eid slot w (some 1) else s
          | _ => s)
       | _ => s)
    | none => s
  | _ => s

def execBwaitTimeout (s : State) : Host.Outcome State Fault Refusal := event bwaitTimeout s

/-- `btest` (R272). -/
def btestEff (e : Env) : Except Stop State :=
  e.thread fun _ => do
    let key ← ownBar e e.a0 false
    let o ← readBar e key
    let v := if e.f.md = 1 then o.expb + o.rcvb * 2 ^ 32 else o.dw1
    .ok (e.doneL [(0, fitRaw e.od.w v)] 0)

def execBtest (f : Fields) (s : State) : Host.Outcome State Fault Refusal := issue (formBtest f) true false btestEff f s

/-- The acknowledgement of an `sta` returns: its arrival is made when its own bytes and those of its release are
performed (R229). -/
def staAck (s : State) : State :=
  match s.who with
  | [eid, slot, id] =>
    match s.acks.find? fun a => a.id == id && a.eid == eid && a.slot == slot with
    | some a =>
      if outstanding s a.scope a.after || outstanding s 2 a.own then s
      else (barUpdate { s with acks := s.acks.filter (·.id != id) } (lmKey eid a.obj) 1 0).2
    | none => s
  | _ => s

def execStaAck (s : State) : Host.Outcome State Fault Refusal := event staAck s

/-! ## Group barriers (R273) -/

/-- The key of a group in the group tables. -/
def groupKey (dev asid g : Nat) : Nat := dev * 2 ^ 24 + asid * 256 + g

/-- The narrowest scope that holds every core of a group. -/
def groupScope (eid : Nat) (eids : List Nat) : Nat := eids.foldl (fun m e => max m (scopeTo eid e)) 0

/-- An arrival of a core at a group's barrier: in this episode, or counted toward a later one. -/
def Group.arrive (g : Group) (eid slot : Nat) : Group :=
  if g.arrived.contains eid then { g with early := g.early ++ [(eid, slot)] } else { g with arrived := g.arrived ++ [eid] }

/-- `gbar`: a release, then the arrival, then the wait for the episode. -/
def gbarEff (e : Env) : Except Stop State :=
  e.thread fun _ => do
    let n := (simm14 e.f.b).toNat
    let key := groupKey e.dev e.asid n
    match Keyed.get? e.s0.groups key with
    | none => e.trap 2
    | some g =>
      e.need (g.eids.contains e.eid) 2
      let scope := groupScope e.eid g.eids
      let arrive (s : State) : Except Stop State :=
        .error (.hold { s with groups := Keyed.put s.groups key (g.arrive e.eid e.slot) }
          { what := .group e.asid n, f := e.f, issued := s.cycle e.eid })
      match e.t.phase with
      | some (.join ids) =>
        if outstanding e.s0 scope ids || !readsBound e.t then .error .block else arrive e.s0
      | _ =>
        e.noJoin
        match release e e.s0 15 scope with
        | .error x => .error x
        | .ok (s, ids) =>
          if ids.isEmpty ∧ readsBound e.t then arrive s
          else .error (.start (s.modThr e.eid e.slot fun t => { t with phase := some (.join ids) }))

def execGbar (f : Fields) (s : State) : Host.Outcome State Fault Refusal := issue (formGbar f) false false gbarEff f s

/-- Arrivals that were early come into the episode that begins, one for each core. -/
def Group.next (g : Group) : Group :=
  g.early.foldl (fun g (e, i) => g.arrive e i) { g with arrived := [], early := [] }

/-- The group's entry in the table of a member core's device. -/
def memberGroup (s : State) (key e : Nat) : Group :=
  (Keyed.get? s.groups (groupKey (eidDev e) (key / 256 % 65536) (key % 256))).getD { gid := 0, eids := [] }

/-- The threads of one member core that wait in the episode go on, each with an acquire. -/
def gbarWake (s : State) (key scope e : Nat) (early : List (Nat × Nat)) : State :=
  (s.core e).threads.foldl (fun s (i, t) =>
    match t.status with
    | .waiting w =>
      if w.what = .group (key / 256 % 65536) (key % 256) ∧ ¬ early.contains (e, i) then
        endWait (acquire s e i scope) e i w none
      else s
    | _ => s) s

/-- Whether routes join the devices of a group's members (R352). -/
def groupJoined (s : State) (g : Group) : Bool :=
  let ds := (g.eids.map eidDev).eraseDups
  decide (ds.length ≤ 1) || ds.all s.hasRoute

/-- Every member core has arrived, each in the table of its own device: the episode is complete. -/
def gbarComplete (s : State) : State :=
  match s.who with
  | [key] =>
    match Keyed.get? s.groups key with
    | some g =>
      if g.eids.isEmpty ∨ ¬ g.eids.all (fun e => (memberGroup s key e).arrived.contains e) ∨ ¬ groupJoined s g then s
      else
        let s' := (g.eids.map eidDev).eraseDups.foldl (fun x d =>
          let k := groupKey d (key / 256 % 65536) (key % 256)
          match Keyed.get? x.groups k with
          | some g => { x with groups := Keyed.put x.groups k g.next }
          | none => x) s
        g.eids.foldl (fun x e => gbarWake x key (groupScope e g.eids) e (memberGroup s key e).early) s'
    | none => s
  | _ => s

def execGbarEpisodeComplete (s : State) : Host.Outcome State Fault Refusal := event gbarComplete s

end Sys2Proof.Machine
end

