-- ==== Sys2Proof/Machine/Copy.lean ====
section
/-! DEFINITION. Copy engines (R253 to R265). -/

namespace Sys2Proof.Machine

/-! ## Shape of a command (R256, R257, R263) -/

/-- The block format of a conversion's source, or of its destination. -/
def CopyCmd.srcBx (m : CopyCmd) : Option Bx :=
  match m.kind with | .format .. => Bx.ofCode (FatPtr.of m.src).fmt | _ => none
def CopyCmd.dstBx (m : CopyCmd) : Option Bx :=
  match m.kind with | .format .. => Bx.ofCode (FatPtr.of m.dst).fmt | _ => none

/-- Bytes of an element of a non-block side. -/
def flatBytes (ptr : Nat) : Nat := if (FatPtr.of ptr).fmt = 5 then 2 else 4

/-- Bytes of a row of the sequence: destination bytes, logical ones for a block destination. -/
def CopyCmd.row (m : CopyCmd) : Nat :=
  match m.kind with
  | .format .. =>
    (match m.dstBx with
     | some bx => m.n0 * bx.ebits / 8
     | none => m.n0 * flatBytes m.dst)
  | _ => m.n0

/-- Bytes of the whole sequence. -/
def CopyCmd.total (m : CopyCmd) : Nat := m.row * m.n1 * m.n2

/-- Byte, row and plane of a position. -/
def CopyCmd.at_ (m : CopyCmd) (j : Nat) : Nat × Nat × Nat := (j % m.row, j / m.row % m.n1, j / m.row / m.n1)

/-- The addresses that the sequence counts from. -/
def CopyCmd.base (isFormat : Bool) (v : Nat) : Int := (if isFormat then (FatPtr.of v).addr else v : Nat)
def CopyCmd.isFormat (m : CopyCmd) : Bool := match m.kind with | .format .. => true | _ => false

/-- The start of a row at the source, of a gather with its index, and at the destination. -/
def CopyCmd.srcRow (m : CopyCmd) (q p : Nat) (index : Int) : Int :=
  match m.kind with
  | .gather => (m.src : Int) + index * m.ss1
  | _ => CopyCmd.base m.isFormat m.src + p * m.ss2 + q * m.ss1
def CopyCmd.dstRow (m : CopyCmd) (q p : Nat) : Int := CopyCmd.base m.isFormat m.dst + p * m.ds2 + q * m.ds1

/-! ## Engine accesses -/

/-- How a step of an engine ends. -/
inductive EngineStep where
  | go (s : State)
  /-- it waits for a stash fill or a page walk -/
  | wait (s : State)
  /-- an access faults: cause and address -/
  | fault (s : State) (cause va : Nat)
  deriving DecidableEq, Repr

/-- The translation of an address for an engine of a tile: the windows, then the tile TLB; a page that is in neither is walked
for, and a walk that has failed faults while the page still has no translation (R209, R213). -/
def tileXl (s : State) (eid asid va : Nat) (write : Bool) : Xl :=
  let vpn := va / 4096
  if 2 ^ 56 ≤ va then .fault 5
  else if 0xF0 * 2 ^ 48 ≤ va then windowKey s asid va false write
  else
    match tlbFind (s.tile (eidTile eid)).tlb asid vpn with
    | some (a, ppn) => leafKey s (eidDev eid) a ppn va write
    | none =>
      match (s.tile (eidTile eid)).noWalk.find? fun x => x.1 == asid && x.2.1 == vpn, walk s (eidDev eid) asid vpn with
      | some _, .error c => .fault c
      | _, _ => .miss

/-- The key of a byte that an engine accesses for a core: by own-LM offset, or by address.  A unit that belongs to no tile
translates for itself.  DESIGN CHOICE (log entry 124): an offset beyond LM that only the engine finds has cause 0x06, and one below
0 cause 0x05. -/
def engineXl (s : State) (eid asid : Nat) (lm : Bool) (a : Int) (write : Bool) : Xl :=
  match a with
  | .negSucc _ => .fault 5
  | .ofNat n =>
    if lm then
      if n < 0x80000 ∧ (s.core eid).granOk (n / 4096) then .ok (lmKey eid n) false else .fault 6
    else if eidEp eid < 576 then tileXl s eid asid n write
    else xlDev s (eidDev eid) asid n write

/-- The address that a fault of such an access reports. -/
def engineVa (eid : Nat) (lm : Bool) (a : Int) : Nat := if lm then windowVa eid a.toNat else a.toNat

/-- The key of a byte, with its stash granule filled.  A write to memory meets an uncorrectable error as a read does (R220, R260).
DESIGN CHOICE (log entry 103): an engine's access to a peer that counts as unreachable, which R219 has reported as a memory error
is, has cause 0x0B. -/
def engineKey (s : State) (eid asid : Nat) (lm : Bool) (a : Int) (write : Bool) : Except EngineStep Nat :=
  match engineXl s eid asid lm a write with
  | .ok k _ =>
    (match emptyGran s [k] with
     | some (c, i, g) =>
       (match granOf s c i g with
        | some { fault := some code, .. } =>
          .error (.fault (modGran s c i g fun x => { x with want := false, fault := none }) (if code = 10 then 11 else code) (engineVa eid lm a))
        | _ => .error (.wait (modGran s c i g fun x => { x with want := true })))
     | none =>
       if s.cutKey (eidDev eid) k ∨ (write ∧ ¬ keyIsLm k ∧ s.bad.contains k) then .error (.fault s 11 (engineVa eid lm a))
       else if s.noWay (eidDev eid) k then .error (.wait s)
       else .ok k)
  | .fault c => .error (.fault s c (engineVa eid lm a))
  | .miss => .error (.wait (askWalk s eid engineSlot asid (a.toNat / 4096)))

/-- Reads a byte for a command of a thread: what the thread's earlier stores leave (R245).  A byte of another device comes with the
reply of a request for its line (R348). -/
def engineRead (s : State) (eid slot id asid : Nat) (lm : Bool) (a : Int) : Except EngineStep Byte :=
  match engineKey s eid asid lm a false with
  | .error x => .error x
  | .ok k =>
    match farRead s asid eid slot id [k], farSeen s eid slot id k with
    | .ok _, some b => .ok b
    | .error (some s), _ => .error (.wait s)
    | _, _ => .error (.fault (farDone s eid slot (s.farId id)) 11 (engineVa eid lm a))

/-- Reads bytes until one fails; the failure counts when it is the first. -/
def engineReads (s : State) (eid slot id asid : Nat) (lm : Bool) (a : Int) : Nat → Except EngineStep (List Byte)
  | 0 => .ok []
  | n + 1 =>
    match engineRead s eid slot id asid lm a with
    | .error x => .error x
    | .ok b =>
      match engineReads s eid slot id asid lm (a + 1) n with
      | .ok bs => .ok (b :: bs)
      | .error _ => .ok [b]

/-- Reads all of `n` bytes or fails. -/
def engineAll (s : State) (eid slot id asid : Nat) (lm : Bool) (a : Int) : Nat → Except EngineStep (List Byte)
  | 0 => .ok []
  | n + 1 =>
    match engineRead s eid slot id asid lm a, engineAll s eid slot id asid lm (a + 1) n with
    | .ok b, .ok bs => .ok (b :: bs)
    | .error x, _ => .error x
    | _, .error x => .error x

/-- The writes of a command to other devices' memory: the bytes of each line travel in a request, and the command goes on once
every one has its reply (R254, R345, R348). -/
def farWrite (s : State) (asid eid slot id va : Nat) (kbs : List (Nat × Byte)) : Except EngineStep Unit :=
  let far := kbs.filter fun x => s.far (eidDev eid) x.1
  ((far.map (·.1 / 64)).eraseDups).forM fun l =>
    match farOf? s eid slot id l true with
    | none => .error (.wait (askFar asid eid slot id true (far.filter (·.1 / 64 == l)) s l))
    | some f => if f.st = 0 then .error (.wait s) else if f.st = 1 then .ok () else .error (.fault (farDone s eid slot id) 11 va)

/-- A global write of an engine of a tile leaves no line of it in the tile's L1Ds (R202); what goes to another device is written
there. -/
def enginePut (s : State) (eid : Nat) (kbs : List (Nat × Byte)) : State :=
  let s := kbs.foldl (fun s (k, _) => if keyIsLm k then s else dropLine s (eidTile eid) (2 ^ 40) k) s
  putBytes s (kbs.filter fun x => !s.far (eidDev eid) x.1)

/-- The destination cores of a multicast (R258); none otherwise. -/
def CopyCmd.dests (m : CopyCmd) (s : State) : List Nat :=
  match m.mc with
  | some g => ((Keyed.get? s.groups (groupKey (eidDev m.eid) m.asid g)).map (·.eids)).getD []
  | none => []

/-- The keys of one destination byte. -/
def CopyCmd.dstKeys (m : CopyCmd) (s : State) (a : Int) : Except EngineStep (List Nat) :=
  if m.mc.isSome then
    (m.dests s).mapM fun e => engineKey s m.eid m.asid false ((windowVa e a.toNat : Nat) : Int) true
  else
    match engineKey s m.eid m.asid m.ld a true with
    | .ok k => .ok [k]
    | .error x => .error x

/-- The keys of `n` destination bytes, as far as they go. -/
def CopyCmd.dstSome (m : CopyCmd) (s : State) (a : Int) : Nat → Except EngineStep (List (List Nat))
  | 0 => .ok []
  | n + 1 =>
    match m.dstKeys s a with
    | .error x => .error x
    | .ok ks =>
      match m.dstSome s (a + 1) n with
      | .ok r => .ok (ks :: r)
      | .error _ => .ok [ks]

/-- The barrier objects that count a byte written at some keys (R258); a fault where one is not allotted. -/
def CopyCmd.objects (m : CopyCmd) (s : State) (ks : List Nat) : Except EngineStep (List Nat) :=
  match m.bar with
  | none => .ok []
  | some b =>
    ks.mapM fun k =>
      let c := if keyIsLm k then keyCore k else m.eid
      if (s.core c).granOk (b / 4096) then .ok (lmKey c b) else .error (.fault s 6 (windowVa c b))

/-- Counts `n` delivered bytes on objects. -/
def CopyCmd.count (m : CopyCmd) (n : Nat) : State → List Nat → State
  | s, [] => s
  | s, k :: r =>
    m.count n
      (sendPacket s { (default : Packet) with
        asid := m.asid, src := m.eid, slot := 29, dst := keyCore k, cls := 0, body := .barrier k 0 n, ipc := m.id }) r

/-! ## Requests (R254, R257, R263) -/

/-- Changes a channel. -/
def modChan (s : State) (eid ch : Nat) (f : Chan → Chan) : State :=
  s.modCore eid fun c => { c with chan := c.chan.mapIdx fun i h => if i = ch then f h else h }

/-- The writes of a step of a command to its destination. -/
def CopyCmd.put (m : CopyCmd) (s : State) (va : Nat) (kbs : List (Nat × Byte)) : Except EngineStep State :=
  match farWrite s m.asid m.eid m.slot m.id va kbs with
  | .error x => .error x
  | .ok _ => .ok (enginePut s m.eid kbs)

/-- How many bytes a request to another device that a command has under way writes. -/
def CopyCmd.sent (m : CopyCmd) (s : State) : Option Nat :=
  (s.fars.find? fun f => f.eid == m.eid && f.slot == m.slot && f.id == m.id && f.write).map (·.bytes.length)

/-- Writes the first of the bytes at hand, within one destination line: how many is open. -/
def deliverBuf (s : State) (ch : Nat) (m : CopyCmd) (h : Chan) : EngineStep :=
  let (b, q, p) := m.at_ h.bytes
  let d := m.dstRow q p + b
  let room := min (min h.buf.length (m.row - b)) (64 - (d % 64).toNat)
  let n := (m.sent s).getD (1 + Config.choose s.free % room)
  match m.dstSome s d n with
  | .error x => x
  | .ok kss =>
    match m.objects s (kss.headD []) with
    | .error x => x
    | .ok objs =>
      let n := kss.length
      match m.put s (engineVa m.eid m.ld d) ((kss.zip h.buf).flatMap fun (ks, v) => ks.map (·, v)) with
      | .error x => x
      | .ok s => .go (m.count n (modChan s m.eid ch fun h => { h with bytes := h.bytes + n, buf := h.buf.drop n }) objs)

/-- FPSR flags as a channel keeps them (R265). -/
def chanFlags (f : Flags) : BitVec 4 :=
  BitVec.ofNat 4 (8 * b2n (f.getLsbD 0) + 4 * b2n (f.getLsbD 2) + 2 * b2n (f.getLsbD 3) + b2n (f.getLsbD 4))

/-- Reads the next index of a gather, once for each row (R262). -/
def gatherIndex (s : State) (m : CopyCmd) (h : Chan) (q : Nat) : Except EngineStep Int :=
  match h.index with
  | some (r, v) => if r = q then .ok v else readIdx
  | none => readIdx
where
  readIdx : Except EngineStep Int :=
    match engineAll s m.eid m.slot m.id m.asid true ((m.idx + 4 * q : Nat) : Int) 4 with
    | .ok bs => .ok (signed 32 (ofBytes bs))
    | .error x => .error x

/-- Reads the next source bytes of a plain or gathering copy: one aligned unit.  DESIGN CHOICE (log entry 123): no further unit is
read before this one is delivered. -/
def readPlain (s : State) (ch : Nat) (m : CopyCmd) (h : Chan) : EngineStep :=
  let (b, q, p) := m.at_ h.bytes
  match (match m.kind with | .gather => gatherIndex s m h q | _ => .ok 0) with
  | .error x => x
  | .ok ix =>
    let a := m.srcRow q p ix + b
    match engineReads s m.eid m.slot m.id m.asid m.ls a (unitAt (a % 8).toNat (m.row - b)) with
    | .error x => x
    | .ok bs =>
      let h := { h with buf := bs, index := match m.kind with | .gather => some (q, ix) | _ => h.index }
      deliverBuf (modChan s m.eid ch fun _ => h) ch m h

/-- The rounding mode and saturation of a conversion. -/
def CopyCmd.rm (m : CopyCmd) : RM := match m.kind with | .format r _ => (RM.ofCode r).getD .rne | _ => .rne
def CopyCmd.sat (m : CopyCmd) : Bool := match m.kind with | .format _ b => b | _ => false

/-- An element of a block, converted for delivery: its bytes, the channel's flags and generator after. -/
def CopyCmd.decodeElem (m : CopyCmd) (bx : Bx) (md : Nat) (h : Chan) (code : Nat) : Chan :=
  let v := bxValue bx md code
  match roundTo (if flatBytes m.dst = 2 then .bf16 else .fp32) m.rm m.sat h.srgen.toNat v.x with
  | (r, fl) =>
    { h with buf := h.buf ++ toBytes (flatBytes m.dst) r
             flags := h.flags ||| chanFlags (if v.isNan then fl ||| fNV else fl)
             srgen := if m.rm = .sr then srStep h.srgen else h.srgen }

/-- The metadata word of a block, read once: with the block's first element. -/
def blockWord (s : State) (m : CopyCmd) (h : Chan) (md : Nat) : Except EngineStep Nat :=
  match h.index with
  | some (a, v) => if a = md then .ok v.toNat else readIt
  | none => readIt
where
  readIt : Except EngineStep Nat :=
    match engineAll s m.eid m.slot m.id m.asid m.ls md 2 with
    | .ok mb => .ok (ofBytes mb)
    | .error x => .error x

/-- Decodes the elements of the next aligned unit of a block source, within one block (R257, R263). -/
def readDecode (s : State) (ch : Nat) (m : CopyCmd) (h : Chan) (bx : Bx) : EngineStep :=
  let (b, q, p) := m.at_ h.bytes
  let i := b / flatBytes m.dst
  let len := blenOf (FatPtr.of m.src).blen
  match panelMap bx len (m.srcRow q p 0 + (i * bx.ebits / 8 : Nat)) with
  | none => .fault s 7 0
  | some (d, md) =>
    let h := if i % len = 0 then { h with index := none } else h
    match blockWord s m h md, engineReads s m.eid m.slot m.id m.asid m.ls d (unitAt (d % 8) ((len - i % len) * bx.ebits / 8)) with
    | .ok w, .ok bs =>
      let codes := if bx.ebits = 4 then bs.flatMap fun b => [b.toNat % 16, b.toNat / 16] else bs.map (·.toNat)
      let h := codes.foldl (m.decodeElem bx w) { h with index := some (md, w) }
      deliverBuf (modChan s m.eid ch fun _ => h) ch m h
    | .error x, _ => x
    | _, .error x => x

/-- Quantises the block at the front of the bytes at hand: its element bytes and its metadata word take the place of its
elements.  DESIGN CHOICE (log entry 125): its flags are NV and NX, as R144 gives them for `bxq`. -/
def CopyCmd.encodeBlock (m : CopyCmd) (bx : Bx) (h : Chan) : Chan :=
  let len := blenOf (FatPtr.of m.dst).blen
  let esz := flatBytes m.src
  let xs := (List.range len).map fun i => ofBytes ((h.buf.drop (i * esz)).take esz) * (if esz = 2 then 65536 else 1)
  let us := (List.range len).map fun i => (m.rm, (Nat.repeat srStep i h.srgen).toNat)
  let (c, nv, nx) := bxQuantise bx xs us
  { h with buf := packCodes bx.ebits c.codes ++ toBytes 2 c.md ++ h.buf.drop (len * esz)
           index := some (0, 0)
           flags := h.flags ||| chanFlags ((if nv then fNV else 0) ||| (if nx then fNX else 0))
           srgen := if m.rm = .sr then Nat.repeat srStep len h.srgen else h.srgen }

/-- The next request of an encoding copy: it reads the source in aligned units until it has a block, writes the block's element
bytes, of one destination line in each request, then its metadata word, after which the block's bytes count as delivered
(R254, R257, R263).  `index` holds how many element bytes of a quantised block are written. -/
def stepEncode (s : State) (ch : Nat) (m : CopyCmd) (h : Chan) (bx : Bx) : EngineStep :=
  let len := blenOf (FatPtr.of m.dst).blen
  let esz := flatBytes m.src
  let bytes := len * bx.ebits / 8
  let (b, q, p) := m.at_ h.bytes
  match panelMap bx len (m.dstRow q p + b), h.index with
  | none, _ => .fault s 7 0
  | some (d, md), some (k, _) =>
    if k < bytes then
      (match m.dstSome s (d + k : Nat) (min (bytes - k) (64 - (d + k) % 64)) with
       | .error x => x
       | .ok kss =>
         match m.put s (engineVa m.eid m.ld (d + k : Nat)) ((kss.zip (h.buf.drop k)).flatMap fun (ks, v) => ks.map (·, v)) with
         | .error x => x
         | .ok s => .go (modChan s m.eid ch fun h => { h with index := some (k + kss.length, 0) }))
    else
      (match m.dstSome s md 2 with
       | .error x => x
       | .ok kss =>
         if kss.length < 2 then (match m.dstSome s (md + 1 : Nat) 1 with | .error x => x | .ok _ => .wait s)
         else
           match m.objects s (kss.headD []) with
           | .error x => x
           | .ok objs =>
             match m.put s (engineVa m.eid m.ld md) ((kss.zip (h.buf.drop bytes)).flatMap fun (ks, v) => ks.map (·, v)) with
             | .error x => x
             | .ok s =>
               .go (m.count bytes
                 (modChan s m.eid ch fun h => { h with bytes := h.bytes + bytes, buf := h.buf.drop (bytes + 2), index := none }) objs))
  | some _, none =>
    if len * esz ≤ h.buf.length then .go (modChan s m.eid ch (m.encodeBlock bx))
    else
      let o := b / bytes * len * esz + h.buf.length
      let a := m.srcRow q p 0 + (o : Nat)
      match engineReads s m.eid m.slot m.id m.asid m.ls a (unitAt (a % 8).toNat (m.n0 * esz - o)) with
      | .error x => x
      | .ok bs => .go (modChan s m.eid ch fun h => { h with buf := h.buf ++ bs })

/-- A step of a command that has been made leaves none of its accesses to other devices. -/
def EngineStep.done (eid slot id : Nat) : EngineStep → EngineStep
  | .go s => .go (farDone s eid slot id)
  | x => x

/-- The next request of a channel's command. -/
def copyStep (s : State) (eid ch : Nat) : EngineStep :=
  match (s.core eid).chan[ch]? with
  | none => .wait s
  | some h =>
    match h.cmd with
    | none => .wait s
    | some m =>
      if h.fault.isSome ∨ (s.core eid).frozen ∨ m.total ≤ h.bytes then .wait s
      else
        EngineStep.done m.eid m.slot m.id (match m.srcBx, m.dstBx with
          | _, some bx => stepEncode s ch m h bx
          | some bx, none => if h.buf.isEmpty then readDecode s ch m h bx else deliverBuf s ch m h
          | none, none => if h.buf.isEmpty then readPlain s ch m h else deliverBuf s ch m h)

/-- A request moves bytes. -/
def copyRequest (s : State) : State :=
  match s.who with
  | [eid, ch] => (match copyStep s eid ch with | .go s => s | .wait s => s | .fault .. => s)
  | _ => s

def execCopyRequest (s : State) : Host.Outcome State Fault Refusal := event copyRequest s

/-- A command stops before the byte whose access faults (R260). -/
def copyFault (s : State) : State :=
  match s.who with
  | [eid, ch] =>
    (match copyStep s eid ch with
     | .fault s c va => modChan s eid ch fun h => { h with fault := some (c, va) }
     | _ => s)
  | _ => s

def execCopyFault (s : State) : Host.Outcome State Fault Refusal := event copyFault s

/-! ## Start and completion (R255, R259) -/

/-- A command starts on a channel. -/
def Chan.start (h : Chan) (m : CopyCmd) : Chan :=
  { h with seq := h.seq + 1, bytes := 0, cmd := some m, buf := [], index := none,
           flags := if m.isFormat then 0 else h.flags }

/-- Whether the shadow holds a command for a channel. -/
def Core.shadowFor (c : Core) (ch : Nat) : Bool := c.shadow.any fun x => x.1 == ch

/-- A parked command swaps in from the shadow. -/
def copyStart (s : State) : State :=
  match s.who with
  | [eid, ch] =>
    let c := s.core eid
    (match c.shadow, c.chan[ch]? with
     | some (k, m), some h =>
       if k = ch ∧ h.cmd.isNone ∧ ¬ c.frozen then modChan (s.setCore eid { c with shadow := none }) eid ch (·.start m) else s
     | _, _ => s)
  | _ => s

def execCopyCommandStart (s : State) : Host.Outcome State Fault Refusal := event copyStart s

/-- Whether some of a command's byte counts are still on their way. -/
def countsOut (s : State) (id : Nat) : Bool :=
  s.net.any fun p => p.slot == 29 && p.ipc == id && match p.body with | .barrier .. => true | _ => false

/-- The last byte is performed and counted: the locks are released. -/
def copyComplete (s : State) : State :=
  match s.who with
  | [eid, ch] =>
    (match ((s.core eid).chan[ch]?).bind fun h => h.cmd.map fun m => (h, m) with
     | some (h, m) =>
       if h.bytes < m.total ∨ h.fault.isSome ∨ countsOut s m.id then s
       else
         (modChan s eid ch fun h => { h with cmd := none }).modCore eid fun c =>
           { c with rlocks := c.rlocks.filter (·.owner != m.id) }
     | none => s)
  | _ => s

def execCopyCommandComplete (s : State) : Host.Outcome State Fault Refusal := event copyComplete s

/-! ## Issue (R256, R259, R262, R263) -/

/-- The channel that SMOD names. -/
def Env.ch (e : Env) : Nat := e.f.smod.toNat % 2

/-- The engine-fault trap of a faulted channel (R260). -/
def chanTrap (e : Env) (ch : Nat) : Except Stop Unit :=
  match (e.c.chan[ch]?).bind (·.fault) with
  | some (cause, va) =>
    .error (.trap { e.info 12 with cause := cause, unit := 2, index := 2 * eidPos e.eid + ch, va := va })
  | none => .ok ()

/-- Reads `n` doublewords of own LM as the thread's program order gives them, with the checks of an own-LM block of an
instruction. -/
def ownWords (e : Env) (off align n : Nat) : Except Stop (List Nat) := do
  e.noPop
  e.need (off % align == 0 && decide (off + 8 * n ≤ 0x80000)) 2
  let va := windowVa e.eid off
  if ¬ e.c.lmOk off (8 * n) then e.trapLane 6 255 va
  else
    let ks := (List.range (8 * n)).map (lmKey e.eid off + ·)
    waitFill e 255 va ks
    if ks.any e.s0.bad.contains then e.trapLane 11 255 va
    else
      .ok ((List.range n).map fun i => seenNum e.s0 e.eid e.slot e.s0.nextId ((ks.drop (8 * i)).take 8))

/-- Lowest and highest byte of a side whose row starts at `a` and holds `r` bytes. -/
def spanOf (a : Int) (r n1 n2 : Nat) (s1 s2 : Int) : Int × Int :=
  let o1 := ((n1 : Int) - 1) * s1
  let o2 := ((n2 : Int) - 1) * s2
  (a + min 0 o1 + min 0 o2, a + max 0 o1 + max 0 o2 + r - 1)

/-- The bytes that a span of logical bytes of a block format takes, metadata included. -/
def blockSpan (bx : Bx) (blen : Nat) (x : Int × Int) : Int × Int :=
  match panelMap bx blen x.1, panelMap bx blen x.2 with
  | some (d, _), some (_, m) => (d, (m : Int) + 1)
  | _, _ => (0, 0)

/-- The span of a side. -/
def CopyCmd.srcSpan (m : CopyCmd) : Int × Int :=
  match m.srcBx with
  | some bx => blockSpan bx (blenOf (FatPtr.of m.src).blen)
      (spanOf (CopyCmd.base true m.src) (m.n0 * bx.ebits / 8) m.n1 m.n2 m.ss1 m.ss2)
  | none => spanOf (CopyCmd.base m.isFormat m.src) (if m.isFormat then m.n0 * flatBytes m.src else m.n0) m.n1 m.n2 m.ss1 m.ss2

def CopyCmd.dstSpan (m : CopyCmd) : Int × Int :=
  let x := spanOf (CopyCmd.base m.isFormat m.dst) m.row m.n1 m.n2 m.ds1 m.ds2
  match m.dstBx with
  | some bx => blockSpan bx (blenOf (FatPtr.of m.dst).blen) x
  | none => x

/-- The range-lock entry of a span (R217). -/
def lockOf (owner eid : Nat) (lm : Bool) (x : Int × Int) : RLock :=
  if lm then { owner := owner, lm := true, lo := x.1.toNat, hi := x.2.toNat }
  else
    match ownLm eid x.1.toNat, ownLm eid x.2.toNat with
    | some lo, some hi => { owner := owner, lm := true, lo := lo, hi := hi }
    | _, _ => { owner := owner, lm := false, lo := x.1.toNat, hi := x.2.toNat }

/-- The entries that a command registers (R259). -/
def CopyCmd.locks (m : CopyCmd) (s : State) : List RLock :=
  let dst := if m.mc.isSome ∧ ¬ (m.dests s).contains m.eid then [] else [lockOf m.id m.eid m.ld m.dstSpan]
  (match m.kind with
   | .gather => [lockOf m.id m.eid true (m.idx, m.idx + 4 * m.n1 - 1)]
   | _ => [lockOf m.id m.eid m.ls m.srcSpan]) ++ dst

/-- Whether a span by own-LM offset stays within LM.  DESIGN CHOICE (log entry 124): one that begins below offset 0 does not. -/
def spanOk (lm : Bool) (x : Int × Int) : Bool := !lm || (decide (0 ≤ x.1) && decide (x.2 ≤ 0x7FFFF))

/-- The checks of `cpyf` (R24, R263): the block side's logical addresses map as R24 asks. -/
def formatOk (e : Env) (m : CopyCmd) : Except Stop Unit := do
  let a := FatPtr.of m.src
  let b := FatPtr.of m.dst
  e.need (a.ok && b.ok) 7
  let isBx (p : FatPtr) : Bool := (Bx.ofCode p.fmt).isSome
  let flat (p : FatPtr) : Bool := p.fmt == 5 || p.fmt == 6
  e.need ((isBx a && flat b) || (flat a && isBx b)) 7
  let (p, s1, s2) := if isBx a then (a, m.ss1, m.ss2) else (b, m.ds1, m.ds2)
  match Bx.ofCode p.fmt with
  | none => .ok ()
  | some bx =>
    let hb : Int := (blenOf p.blen * bx.ebits / 8 : Nat)
    e.need (m.n0 % blenOf p.blen == 0 && (p.addr : Int) % hb == 0 && (m.n1 == 1 || s1 % hb == 0) &&
      (m.n2 == 1 || s2 % hb == 0)) 2
    let span := spanOf p.addr (m.n0 * bx.ebits / 8) m.n1 m.n2 s1 s2
    e.need ((panelMap bx (blenOf p.blen) span.1).isSome && (panelMap bx (blenOf p.blen) span.2).isSome) 7

/-- The command that an instruction describes, with the checks of R256. -/
def copyCmd (e : Env) (kind : CopyKind) : Except Stop CopyCmd := do
  let d ← ownWords e e.c0 8 8
  let dw i := d.getD i 0
  let ls := bit e.f.md 0
  let ld := bit e.f.md 1
  let fmt : Bool := match kind with | .format .. => true | _ => false
  let gather : Bool := match kind with | .gather => true | _ => false
  let m : CopyCmd :=
    { id := e.s0.nextId, kind := kind, eid := e.eid, slot := e.slot, task := e.t.task, asid := e.asid, ls := ls, ld := ld
      src := if fmt ∨ ls then e.a0 else addrOf e.a0, dst := if fmt ∨ ld then e.b0 else addrOf e.b0
      n0 := bits (dw 0) 31 0, n1 := bits (dw 0) 63 32, n2 := bits (dw 1) 31 0
      ss1 := signed 64 (dw 2), ss2 := signed 64 (dw 3), ds1 := signed 64 (dw 4), ds2 := signed 64 (dw 5)
      bar := if bit (dw 6) 20 then some (bits (dw 6) 19 0) else none
      mc := if bit (dw 6) 21 then some (bits (dw 6) 31 24) else none
      idx := bits (dw 7) 19 0, after := [] }
  e.need (m.n0 != 0 && m.n1 != 0 && m.n2 != 0 && decide (m.n0 * m.n1 * m.n2 < 2 ^ 48) && (!gather || m.n2 == 1)) 2
  e.need (!gather || (m.idx % 4 == 0 && decide (m.idx + 4 * m.n1 ≤ 0x80000))) 2
  e.need (bits (dw 6) 19 0 % 16 == 0 && decide (bits (dw 6) 19 0 ≤ 0x7FFF0)) 2
  e.need (m.mc.all fun g => ld && (Keyed.get? e.s0.groups (groupKey e.dev e.asid g)).isSome) 2
  if fmt then formatOk e m
  e.need (spanOk ld m.dstSpan && (gather && !ls || spanOk ls (if gather then (e.a0, e.a0) else m.srcSpan))) 2
  .ok m

/-- `cpy`, `cpyg`, `cpyf`: the command starts, or parks in the shadow; D is the SEQ that it will have. -/
def copyEff (kind : Env → CopyKind) (e : Env) : Except Stop State :=
  e.thread fun _ => do
    chanTrap e e.ch
    let m ← copyCmd e (kind e)
    e.noJoin
    e.noPop
    let locks := m.locks e.s0
    if 32 < e.c.rlocks.length + locks.length then .error .block
    else
      match e.c.chan[e.ch]? with
      | none => .ok e.s
      | some h =>
        let idle := h.cmd.isNone && !e.c.shadowFor e.ch
        if ¬ idle ∧ e.c.shadow.isSome then .error .block
        else
          match e.s.fresh with
          | (id, s) =>
            let m := { m with id := id }
            let s := s.modCore e.eid fun c => { c with rlocks := c.rlocks ++ locks.map fun l => { l with owner := id } }
            let s := if idle then modChan s e.eid e.ch (·.start m) else s.modCore e.eid fun c => { c with shadow := some (e.ch, m) }
            .ok ((e.upd s).doneL [(0, fitRaw e.od.w (h.seq + 1).toNat)] 0)

def execCpy (f : Fields) (s : State) : Host.Outcome State Fault Refusal :=
  issue (formCpy f) true false (copyEff fun _ => .plain) f s

def execCpyg (f : Fields) (s : State) : Host.Outcome State Fault Refusal :=
  issue (formCpy f) true false (copyEff fun _ => .gather) f s

def execCpyf (f : Fields) (s : State) : Host.Outcome State Fault Refusal :=
  issue (formCpyf f) true false (copyEff fun e => .format e.f.rnd.toNat e.f.sat) f s

/-- Whether a channel runs or has a command in the shadow. -/
def chanBusy (c : Core) (ch : Nat) : Bool :=
  (match c.chan[ch]? with | some h => h.cmd.isSome | none => false) || c.shadowFor ch

/-- `cpw` of some channels (R264). -/
def cpwWait (e : Env) (chs : List Nat) : Except Stop State := do
  for ch in chs do chanTrap e ch
  if chs.any (chanBusy e.c) || !readsBound e.t then .error .block else .ok (acquire e.s e.eid e.slot 2)

def execCpw (f : Fields) (s : State) : Host.Outcome State Fault Refusal :=
  issue (formCpw f) false false (fun e => e.thread fun _ => cpwWait e (if e.f.md = 1 then [0, 1] else [e.ch])) f s

/-- `cpw.drop`: it discards a faulted command and the shadow's for the channel (R264). -/
def cpwDropEff (e : Env) : Except Stop State :=
  e.thread fun _ =>
    match e.c.chan[e.ch]? with
    | some h =>
      if h.fault.isNone then cpwWait e [e.ch]
      else
        let gone := (h.cmd.map (·.id)).toList ++
          (match e.c.shadow with | some (k, m) => if k = e.ch then [m.id] else [] | none => [])
        let s := modChan e.s e.eid e.ch fun h => { h with cmd := none, fault := none, buf := [], index := none }
        .ok (s.modCore e.eid fun c =>
          { c with rlocks := c.rlocks.filter fun l => !gone.contains l.owner
                   shadow := if c.shadowFor e.ch then none else c.shadow })
    | none => .ok e.s

def execCpwDrop (f : Fields) (s : State) : Host.Outcome State Fault Refusal :=
  issue (formCpwDrop f) false false cpwDropEff f s

/-- `cpq` (R265). -/
def cpqVal (e : Env) : Nat :=
  match e.c.chan[e.ch]? with
  | none => 0
  | some h =>
    let st := if h.fault.isSome then 2 else if h.cmd.isSome then 1 else 0
    h.seq.toNat * 2 ^ 48 + st * 2 ^ 46 + b2n (e.c.shadowFor e.ch) * 2 ^ 45 + h.flags.toNat * 2 ^ 41 +
      (match h.fault with | some (c, _) => c % 16 * 2 ^ 36 | none => 0)

def execCpq (f : Fields) (s : State) : Host.Outcome State Fault Refusal :=
  issue (formCpq f) true false (fun e => e.thread fun _ => .ok (e.doneL [(0, fitRaw e.od.w (cpqVal e))] 0)) f s

end Sys2Proof.Machine
end

