-- ==== Sys2Proof/Machine/Matrix.lean ====
section
/-! DEFINITION. Matrix units and accumulator slots (R26 to R30, R151 to R174). -/

namespace Sys2Proof.Machine

/-! ## Formats (R26, R151) -/

/-- The k-step depth of a format on a tile, with a K that is its multiple; a block format's depth is its block length. -/
def mxDepth (w : Bool) (fmt blen : Nat) : Option Nat :=
  if w then (match fmt with | 7 => some 4 | 6 => some 8 | 5 => some 8 | _ => none)
  else
    match fmt with
    | 4 | 5 => some 16
    | 10 | 11 => some 32
    | 12 | 13 | 14 => some blen
    | _ => none

/-- The formats that a pair of operands may have (R159). -/
def mxPair (a b : Nat) : Bool :=
  a == b || ((a == 10 || a == 11) && (b == 10 || b == 11)) || ((a == 13 || a == 14) && (b == 13 || b == 14))

/-- The formats that `mst` and `msteer` write from a slot (R165, R169). -/
def mxOutOk (fp64 : Bool) (fmt : Nat) : Bool := (if fp64 then [6, 7] else [4, 5, 6, 10, 11]).contains fmt

/-- The float format of a type code. -/
def fmtOf (code : Nat) : Fmt := ((Ty.ofCode code).bind Ty.fmt).getD .fp32

/-- The accumulator's format, and its rows (R152). -/
def AccSlot.fmt (a : AccSlot) : Fmt := if a.fp64 then .fp64 else .fp32
def AccSlot.rows (a : AccSlot) : Nat := if a.fp64 then 16 else 32

/-- A slot with every element +0, in a mode, FLAGS clear. -/
def AccSlot.zero (a : AccSlot) (fp64 : Bool) : AccSlot :=
  { a with fp64 := fp64, val := List.replicate (if fp64 then 512 else 1024) 0, flags := 0 }

/-- FPSR flags as a slot's FLAGS: UF, NX, OF, NV from bit 3 down (R164). -/
def slotFlags (f : Flags) : BitVec 4 :=
  BitVec.ofNat 4 (8 * b2n (f.getLsbD 3) + 4 * b2n (f.getLsbD 4) + 2 * b2n (f.getLsbD 2) + b2n (f.getLsbD 0))

/-! ## One k-step or block (R27 to R29) -/

/-- The exact sum of products, rounded once. -/
def mxFlat (acc fa fb : Fmt) (ra rb : List Nat) : Nat × Flags :=
  let ps := (ra.zip rb).map fun (x, y) => (fprod (floatValue fa x) (floatValue fb y)).1
  deliver acc .rne false 0 ((fsum .rne ps).1, 0)

/-- The dot product of two blocks, each its codes and then its metadata word; a zero sum is +0.  The elements of a block with a zero
scale are +0 (R21), and times a NaN or an infinity give NaN (R29). -/
def mxBlock (fa fb : Bx) (ra rb : List Nat) : Nat × Flags :=
  let ma := ra.getLastD 0
  let mb := rb.getLastD 0
  if bits ma 11 4 = 255 ∨ bits mb 11 4 = 255 then (Fmt.fp32.nan, 0)
  else
    let ps := (ra.dropLast.zip rb.dropLast).map fun (x, y) => (fprod (bxValue fa ma x) (bxValue fb mb y)).1
    match (fsum .rne ps).1 with
    | .fin _ 0 _ _ => (0, 0)
    | x => deliver .fp32 .rne false 0 (x, 0)

/-- One element of the accumulator after a k-step or block: its pattern and FLAGS. -/
def mxElem (acc : Fmt) (fa fb : Nat) (ra rb : List Nat) (c : Nat) : Nat × BitVec 4 :=
  let (p, f) := match Bx.ofCode fa, Bx.ofCode fb with
    | some x, some y => mxBlock x y ra rb
    | _, _ => mxFlat acc (fmtOf fa) (fmtOf fb) ra rb
  let (q, g) := deliver acc .rne false 0 (fAdd .rne (floatValue acc c) (floatValue acc p))
  let nv := if (floatValue acc q).isNan then fNV else 0
  (q, slotFlags ((f ||| g) &&& ~~~ fNV ||| nv))

/-- Adds one k-step or block to a slot: rows of A, then the 32 rows of B (R167). -/
def mxStep (fa fb : Nat) (rows : List (List Nat)) (a : AccSlot) : AccSlot :=
  let r := (List.range a.rows).flatMap fun i => (List.range 32).map fun j =>
    mxElem a.fmt fa fb (rows.getD i []) (rows.getD (a.rows + j) []) (a.val.getD (32 * i + j) 0).toNat
  { a with val := r.map fun x => BitVec.ofNat 64 x.1, flags := r.foldl (fun f x => f ||| x.2) a.flags, pos := a.pos + 1 }

/-! ## Commands -/

/-- The formats of a compute command, its step depth and count of steps, its rows of A. -/
def MxCmd.fa (m : MxCmd) : Nat := (FatPtr.of m.pa).fmt
def MxCmd.fb (m : MxCmd) : Nat := (FatPtr.of m.pb).fmt
def MxCmd.depth (m : MxCmd) (w : Bool) : Nat := (mxDepth w m.fa (blenOf (FatPtr.of m.pa).blen)).getD 16
def MxCmd.steps (m : MxCmd) (w : Bool) : Nat := m.k / m.depth w
def MxCmd.rowsA (m : MxCmd) : Nat := if m.fa = 7 then 16 else 32
def MxCmd.isCompute (m : MxCmd) : Bool := m.kind == 1 || m.kind == 2

/-- The physical slot of a command. -/
def Core.acc (c : Core) (m : MxCmd) : AccSlot := c.accs.getD m.phys default

/-- Changes a physical slot. -/
def modAcc (s : State) (eid phys : Nat) (g : AccSlot → AccSlot) : State :=
  s.modCore eid fun c => { c with accs := c.accs.mapIdx fun i a => if i = phys then g a else a }

/-- Changes a queued command. -/
def modMx (s : State) (eid id : Nat) (g : MxCmd → MxCmd) : State :=
  s.modCore eid fun c => { c with mxq := c.mxq.map fun m => if m.id = id then g m else m }

/-- Takes a command out of the queue, with its range-lock entries (R156). -/
def dropMx (s : State) (eid id : Nat) : State :=
  s.modCore eid fun c =>
    { c with mxq := c.mxq.filter (·.id != id), rlocks := c.rlocks.filter (·.owner != id) }

/-- Whether the command at a place of the queue is held: the core is frozen, or a command at or before it has
faulted (R162). -/
def Core.mxHeld (c : Core) (i : Nat) : Bool := c.frozen || (c.mxq.take (i + 1)).any fun m => (c.acc m).fault.isSome

/-- The first steps done of a command: those that its slot counts, or none before it has started. -/
def Core.mxPos (c : Core) (m : MxCmd) : Nat := if m.started then (c.acc m).pos else 0

/-- What a command's start does to its slot (R164, R167, R168, R171).  DESIGN CHOICE (log entry 99): an `mld` that changes the
slot's mode leaves the rows that it has not loaded yet +0. -/
def MxCmd.start (m : MxCmd) (a : AccSlot) : AccSlot :=
  let a := { a with kind := m.kind, pos := 0 }
  match m.kind with
  | 2 => a.zero (m.fa == 7)
  | 3 => if a.fp64 == (m.fa == 7) then { a with flags := 0 } else a.zero (m.fa == 7)
  | 6 => a.zero (m.k == 1)
  | _ => a

/-- Starts a command that has not started. -/
def startMx (s : State) (eid : Nat) (m : MxCmd) : State :=
  if m.started then s else modMx (modAcc s eid m.phys m.start) eid m.id fun m => { m with started := true }

/-! ## The operand stager (R158, R161) -/

/-- Bytes of the elements of one step in a row. -/
def stepBytes (fmt depth : Nat) : Nat := depth * fmtBits fmt / 8

/-- The codes of some bytes. -/
def splitCodes (fmt : Nat) (bs : List Byte) : List Nat :=
  if isNibble fmt then bs.flatMap fun b => [b.toNat % 16, b.toNat / 16]
  else (List.range (bs.length / (fmtBits fmt / 8))).map fun i => ofBytes ((bs.drop (i * (fmtBits fmt / 8))).take (fmtBits fmt / 8))

/-- Reads the elements of one step of a row, with a block's metadata word. -/
def readStep (s : State) (eid : Nat) (m : MxCmd) (ptr : Nat) (lm : Bool) (stride depth row step : Nat) :
    Except EngineStep (List Nat) :=
  let p := FatPtr.of ptr
  let n := stepBytes p.fmt depth
  let l : Nat := p.addr + row * stride + step * n
  let asid := (s.core eid).ctx.getD 0
  match Bx.ofCode p.fmt with
  | none =>
    (match engineAll s eid m.thread m.id asid lm l n with
     | .ok bs => .ok (splitCodes p.fmt bs)
     | .error x => .error x)
  | some bx =>
    match panelMap bx (blenOf p.blen) l with
    | none => .error (.fault s 5 0)
    | some (d, md) =>
      match engineAll s eid m.thread m.id asid lm d n, engineAll s eid m.thread m.id asid lm md 2 with
      | .ok bs, .ok mb => .ok (splitCodes p.fmt bs ++ [ofBytes mb])
      | .error x, _ => .error x
      | _, .error x => .error x

/-- Reads the steps of a row until one fails: what was read, and how it failed. -/
def readSteps (s : State) (eid : Nat) (m : MxCmd) (ptr : Nat) (lm : Bool) (stride depth row : Nat) :
    Nat → Nat → List Nat × Option (Nat × EngineStep)
  | _, 0 => ([], none)
  | step, n + 1 =>
    match readStep s eid m ptr lm stride depth row step with
    | .error x => ([], some (step, x))
    | .ok cs => match readSteps s eid m ptr lm stride depth row (step + 1) n with | (r, x) => (cs ++ r, x)

/-- Steps of the next quantum: 128 values of k, or what is left (R151). -/
def Core.quantum (c : Core) (w : Bool) (m : MxCmd) : Nat := min (128 / m.depth w) (m.steps w - c.mxPos m)

/-- Whether the stager holds every row of the next quantum. -/
def MxCmd.staged (m : MxCmd) : Bool := m.stage.length == m.rowsA + 32

/-- Fetches the next row for the compute command at the head of a core's queue. -/
def stageRow (s : State) (eid : Nat) (m : MxCmd) : State :=
  let c := s.core eid
  let w := isWTile eid
  let r := m.stage.length
  let (ptr, lm, stride, row) := if r < m.rowsA then (m.pa, m.la, m.sa, r) else (m.pb, m.lb, m.sb, r - m.rowsA)
  match readSteps s eid m ptr lm stride (m.depth w) row (c.mxPos m) (c.quantum w m) with
  | (_, some (_, .wait s)) | (_, some (_, .go s)) => s
  | (cs, x) =>
    let s := match x with | some (_, .fault s _ _) => s | _ => s
    modMx (farDone s eid m.thread m.id) eid m.id fun m =>
      { m with stage := m.stage ++ [cs]
               lim := match x, m.lim with
                 | some (t, .fault _ c va), some (t', c', va') => some (if t < t' then (t, c, va) else (t', c', va'))
                 | some (t, .fault _ c va), none => some (t, c, va)
                 | _, l => l }

/-- The compute command that a core has at the head of its queue, not held, with steps left to do. -/
def mxHead (s : State) (eid : Nat) : Option MxCmd :=
  let c := s.core eid
  match c.mxq with
  | m :: _ => if m.isCompute ∧ ¬ c.mxHeld 0 ∧ c.mxPos m < m.steps (isWTile eid) then some m else none
  | [] => none

/-- The cores of a tile in rotation order, from the one after the pointer (R157). -/
def rotation (t ptr : Nat) : List Nat := (List.range 8).map fun i => t * 8 + (ptr + 1 + i) % 8

/-- The core that the stager serves next. -/
def stagerCore (s : State) (t : Nat) : Option Nat :=
  (rotation t (s.tile t).ptr).find? fun e => (mxHead s e).any fun m => !m.staged

def stagerFetch (s : State) : State :=
  match s.who with
  | [eid] =>
    if stagerCore s (eidTile eid) = some eid then
      match mxHead s eid with
      | some m => stageRow s eid m
      | none => s
    else s
  | _ => s

def execStagerFetch (s : State) : Host.Outcome State Fault Refusal := event stagerFetch s

/-! ## The MAC array (R157, R167) -/

/-- Whether a core is ready: the next quantum of its head command is staged and its first step has its operands. -/
def mxReady (s : State) (eid : Nat) : Bool :=
  (mxHead s eid).any fun m => m.staged && (m.lim.all fun x => decide ((s.core eid).mxPos m < x.1))

/-- Whether the first element that a pointer names lies in the LM windows; the address of a block format is logical (R24). -/
def inWindows (ptr : Nat) : Bool :=
  let p := FatPtr.of ptr
  match Bx.ofCode p.fmt with
  | none => decide (0xF0 * 2 ^ 48 ≤ p.addr)
  | some bx => (panelMap bx (blenOf p.blen) p.addr).any fun x => decide (((0xF0 * 2 ^ 48 : Nat) : Int) ≤ x.1)

/-- Whether both operands of a command lie in LM. -/
def MxCmd.resident (m : MxCmd) : Bool := (m.la || inWindows m.pa) && (m.lb || inWindows m.pb)

/-- Stages every row of the next quantum of a core whose operands lie in LM: its quantum is always ready (R158). -/
def stageResident (s : State) (eid : Nat) : State :=
  match mxHead s eid with
  | some m =>
    if m.resident then
      (List.range (m.rowsA + 32)).foldl (fun s _ =>
        match mxHead s eid with
        | some m => if m.staged then s else stageRow s eid m
        | none => s) s
    else s
  | none => s

/-- The steps of a granted quantum: up to its end or to the step whose access faulted. -/
def Core.grantSteps (c : Core) (w : Bool) (m : MxCmd) : Nat :=
  match m.lim with
  | some (t, _) => min (c.quantum w m) (t - c.mxPos m)
  | none => c.quantum w m

/-- Runs one k-step or block of a core's quantum, with `left` to do: the array is free after the last one. -/
def runStep (s : State) (eid left : Nat) (m : MxCmd) : State :=
  let per := m.depth (isWTile eid) + b2n (Bx.ofCode m.fa).isSome
  let s := modAcc (startMx s eid m) eid m.phys (mxStep m.fa m.fb (m.stage.map (·.take per)))
  let s := modMx s eid m.id fun m =>
    { m with stage := if left ≤ 1 ∧ m.lim.isNone then [] else m.stage.map (·.drop per) }
  s.modTile (eidTile eid) fun x => { x with run := if left ≤ 1 then none else some (eid, left - 1) }

/-- The core that rules 1 and 2 of R157 grant, with the pointer and the credit after the grant. -/
def mxGrant (s : State) (t : Nat) : Option (Nat × Nat × Nat) :=
  let x := s.tile t
  let cur := t * 8 + x.ptr
  if mxReady s cur ∧ 0 < x.credit then some (cur, x.ptr, x.credit - 1)
  else ((rotation t x.ptr).find? (mxReady s)).map fun e => (e, e % 8, (s.core e).mxw.toNat - 1)

/-- The array is free: what lies in LM is staged, and a core is granted its first step. -/
def mxArbiter (s : State) (t : Nat) : State :=
  let s := (rotation t (s.tile t).ptr).foldl stageResident s
  match mxGrant s t with
  | some (e, p, k) =>
    let s := s.modTile t fun x => { x with ptr := p, credit := k }
    (match mxHead s e with
     | some m => runStep s e ((s.core e).grantSteps (isWTile e) m) m
     | none => s)
  | none => s

/-- The next step of the MAC array: of the quantum in progress, which runs to its end, or of one that is granted now. -/
def mxuArbitrate (s : State) : State :=
  match s.who with
  | [t] =>
    (match (s.tile t).run with
     | some (e, left) =>
       (match mxHead s e with
        | some m => runStep s e left m
        | none => s.modTile t fun x => { x with run := none })
     | none => mxArbiter s t)
  | _ => s

def execMxuArbitrate (s : State) : Host.Outcome State Fault Refusal := event mxuArbitrate s

/-! ## The accumulator port (R155, R165, R168 to R171) -/

/-- The port command that may run: every earlier command of the core is a compute command on another slot. -/
def portCmd (s : State) (eid : Nat) : Option MxCmd :=
  let c := s.core eid
  (List.range c.mxq.length).findSome? fun i =>
    match c.mxq[i]? with
    | some m =>
      if ¬ m.isCompute ∧ ¬ c.mxHeld i ∧ (c.mxq.take i).all fun p => p.isCompute && p.phys != m.phys then some m else none
    | none => none

/-- Whether a command became eligible before another: by cycle, then by the core's position. -/
def portBefore (a b : Nat × Nat × Nat) : Bool := decide (a.1 < b.1) || (a.1 == b.1 && decide (a.2.1 < b.2.1))

/-- Puts a command in its place in the order of eligibility. -/
def portInsert (x : Nat × Nat × Nat) : List (Nat × Nat × Nat) → List (Nat × Nat × Nat)
  | [] => [x]
  | y :: r => if portBefore x y then x :: y :: r else y :: portInsert x r

/-- Notes the port command of a core that has become eligible (R155). -/
def notePort (s : State) (eid : Nat) : State :=
  let q := (s.tile (eidTile eid)).portQ
  let new : List (Nat × Nat × Nat) := match portCmd s eid with
    | none => q.filter fun x => x.2.1 != eidPos eid
    | some m =>
      let l := q.filter fun x => x.2.1 != eidPos eid || x.2.2 == m.id
      if l.any fun x => x.2.2 == m.id then l else portInsert (s.cycle eid, eidPos eid, m.id) l
  if new = q then s else s.modTile (eidTile eid) fun x => { x with portQ := new }

/-- The eligible port commands of a tile in their order, with the core of each and the cycle in which it became eligible. -/
def portList (s : State) (t : Nat) : List (Nat × Nat × MxCmd) :=
  (s.tile t).portQ.filterMap fun (n, pos, id) =>
    ((portCmd s (t * 8 + pos)).filter (·.id == id)).map fun m => (n, t * 8 + pos, m)

/-- The ring of a drain; a ring that is gone takes no token. -/
def MxCmd.ring (m : MxCmd) (s : State) : Option Edge := (s.edge? m.sb).bind fun g => if g.ntok = 0 then none else some g

/-- Whether a drain waits for room in its ring. -/
def drainWaits (s : State) (eid : Nat) (m : MxCmd) : Bool :=
  decide (((s.core eid).acc m).pos < ((s.core eid).acc m).rows) && (m.ring s).any fun g => g.full || !(g.waiting s).isEmpty

/-- The command that a tile's port performs: the one it has begun, a drain as long as it does not wait for room, or the first
of those that became eligible before this cycle (R155, R165). -/
def portRun (s : State) (t : Nat) : Option (Nat × MxCmd) :=
  let l := portList s t
  let pick (p : Nat → Nat → MxCmd → Bool) : Option (Nat × MxCmd) := (l.find? fun (n, e, m) => p n e m).map (·.2)
  match pick fun _ _ m => m.started && m.kind != 5 with
  | some x => some x
  | none =>
    match pick fun _ e m => m.started && !drainWaits s e m with
    | some x => some x
    | none => pick fun n e m => !m.started && decide (n < s.cycle e)

/-- Element bytes of a port command's memory side. -/
def MxCmd.esz (m : MxCmd) : Nat := fmtBits m.fa / 8

/-- Reads a row into a slot (R168). -/
def loadRow (s : State) (eid : Nat) (m : MxCmd) : EngineStep :=
  let a := (s.core eid).acc m
  let p := FatPtr.of m.pa
  match engineAll s eid m.thread m.id ((s.core eid).ctx.getD 0) m.la ((p.addr + a.pos * m.sa : Nat) : Int) (32 * m.esz) with
  | .error x => x
  | .ok bs =>
    let r := (splitCodes p.fmt bs).map fun c => match floatValue (fmtOf p.fmt) c with
      | v => ((roundTo a.fmt .rne false 0 v.x).1, v.snan)
    .go (modAcc (farDone s eid m.thread m.id) eid m.phys fun a =>
      { a with val := a.val.take (32 * a.pos) ++ (r.map fun x => BitVec.ofNat 64 x.1) ++ a.val.drop (32 * (a.pos + 1))
               flags := r.foldl (fun f x => f ||| slotFlags x.2) a.flags, pos := a.pos + 1 })

/-- The slot's next row converted: bytes, FLAGS, generator after (R169). -/
def convRow (a : AccSlot) (fmt : Nat) (m : MxCmd) : List Byte × BitVec 4 × BitVec 16 :=
  let rm := (RM.ofCode m.rnd).getD .rne
  ((a.val.drop (32 * a.pos)).take 32).foldl (fun (acc : List Byte × BitVec 4 × BitVec 16) v =>
    let (c, fl) := roundTo (fmtOf fmt) rm m.sat acc.2.2.toNat (floatValue a.fmt v.toNat).x
    (acc.1 ++ toBytes (fmtBits fmt / 8) c, acc.2.1 ||| slotFlags fl, srNext rm acc.2.2)) ([], a.flags, a.srgen)

/-- The keys of a row that `mst` writes. -/
def storeKeys (s : State) (eid : Nat) (lm : Bool) (a : Nat) : Nat → Except EngineStep (List Nat)
  | 0 => .ok []
  | n + 1 =>
    match engineKey s eid ((s.core eid).ctx.getD 0) lm a true with
    | .error x => .error x
    | .ok k =>
      match storeKeys s eid lm (a + 1) n with
      | .ok ks => .ok (k :: ks)
      | .error x => .error x

/-- Writes a row of a slot to memory as a store of the thread's order group, performed nowhere yet (R169). -/
def storeRow (s : State) (eid : Nat) (m : MxCmd) : EngineStep :=
  let a := (s.core eid).acc m
  let at_ := (FatPtr.of m.pa).addr + a.pos * m.sa
  let n := 32 * m.esz
  match storeKeys s eid m.la at_ n with
  | .error x => x
  | .ok ks =>
    match convRow a m.fa m with
    | (bs, fl, sr) =>
      let s := modAcc s eid m.phys fun a => { a with flags := fl, srgen := sr, pos := a.pos + 1 }
      .go (addAccess s { (default : Access) with
        eid := eid, slot := m.thread, op := .store (ofBytes bs), va := engineVa eid m.la at_, keys := ks,
        pieces := piecesOf at_ n 0 n, grp := m.grp, inst := m.id, regs := false })

/-- A step of the port for a command: its next row, or for `mclr` the whole of it. -/
def portStep (s : State) (eid : Nat) (m : MxCmd) : EngineStep :=
  let s := startMx s eid m
  let a := (s.core eid).acc m
  match m.kind with
  | 3 => if a.pos < a.rows then loadRow s eid m else .wait s
  | 4 => if a.pos < a.rows then storeRow s eid m else .wait s
  | _ => .go s

def accPortCommand (s : State) : State :=
  match s.who with
  | [eid] =>
    (match (portRun s (eidTile eid)).filter (·.1 == eid) with
     | some (_, m) => (match portStep s eid m with | .go s => s | .wait s => s | .fault .. => s)
     | none => s)
  | _ => s

def execAccPortCommand (s : State) : Host.Outcome State Fault Refusal := event accPortCommand s

/-- The conversion of a drain, and its CLR bit (R165). -/
def MxCmd.steerFmt (m : MxCmd) : Nat := bits m.pb 7 3
def MxCmd.steerClr (m : MxCmd) : Bool := bit m.pb 8

/-- The drain that the port runs, with its ring. -/
def drainCmd (s : State) (eid : Nat) : Option (MxCmd × Option Edge) :=
  match (portRun s (eidTile eid)).filter (·.1 == eid) with
  | some (_, m) =>
    if m.kind = 5 ∧ m.started ∧ ((s.core eid).acc m).pos < ((s.core eid).acc m).rows then some (m, m.ring s) else none
  | none => none

/-- Whether a token that the core placed on a port earlier has no slot yet (R195). -/
def asked (s : State) (eid id : Nat) : Bool := s.net.any fun p => p.src == eid && p.body == .edgeResv id

/-- Writes the next row of a drain: it reserves a slot of the ring and sends the token (R165, R195). -/
def msteerTokenWrite (s : State) : State :=
  match s.who with
  | [eid] =>
    (match drainCmd s eid with
     | some (m, g) =>
       let a := (s.core eid).acc m
       (match convRow a m.steerFmt m with
        | (bs, fl, sr) =>
          let next (s : State) := modAcc s eid m.phys fun a => { a with flags := fl, srgen := sr, pos := a.pos + 1 }
          (match g with
           | none => next s
           | some g =>
             if g.full ∨ ¬ (g.waiting s).isEmpty ∨ asked s eid g.id then s
             else
               sendPacket ((next s).setEdge { g with resv := g.resv + 1 }) { (default : Packet) with
                 asid := (s.core eid).ctx.getD 0, src := eid, slot := 28, dst := g.core, cls := 1,
                 body := .edgeToken g.id bs, ipc := m.id }))
     | none => s)
  | _ => s

def execMsteerTokenWrite (s : State) : Host.Outcome State Fault Refusal := event msteerTokenWrite s

/-! ## Faults and completion (R156, R162) -/

/-- The command of a core whose next access faults: cause, address. -/
def mxFaulting (s : State) (eid : Nat) : Option (MxCmd × Nat × Nat) :=
  match mxHead s eid with
  | some m =>
    (match m.lim with
     | some (t, c, va) => if m.staged ∧ (s.core eid).mxPos m = t then some (m, c, va) else port
     | none => port)
  | none => port
where
  port : Option (MxCmd × Nat × Nat) :=
    match (portRun s (eidTile eid)).filter (·.1 == eid) with
    | some (_, m) => (match portStep s eid m with | .fault _ c va => some (m, c, va) | _ => none)
    | none => none

def mxuFault (s : State) : State :=
  match s.who with
  | [eid] =>
    (match mxFaulting s eid with
     | some (m, c, va) =>
       modMx (modAcc (startMx s eid m) eid m.phys fun a => { a with fault := some (c, va), logical := m.logical }) eid m.id
         fun m => { m with stage := [], lim := none }
     | none => s)
  | _ => s

def execMxuFault (s : State) : Host.Outcome State Fault Refusal := event mxuFault s

/-- Whether a command's last effect is performed (R156). -/
def mxDone (s : State) (eid : Nat) (m : MxCmd) : Bool :=
  let a := (s.core eid).acc m
  m.started && a.fault.isNone &&
    (match m.kind with
     | 1 | 2 => a.pos == m.steps (isWTile eid)
     | 3 => a.pos == a.rows
     | 4 => a.pos == a.rows && !s.accs.any fun x => x.inst == m.id && (x.keys.any keyIsLm || x.near == 0)
     | 5 => a.pos == a.rows && !s.net.any fun p => p.slot == 28 && p.ipc == m.id && !p.replied
     | _ => true)

def mxuCommandComplete (s : State) : State :=
  match s.who with
  | [eid] =>
    (match (s.core eid).mxq.find? (mxDone s eid) with
     | some m =>
       let s := dropMx s eid m.id
       if m.kind = 5 ∧ m.steerClr then modAcc s eid m.phys fun a => { a.zero a.fp64 with flags := a.flags } else s
     | none => s)
  | _ => s

def execMxuCommandComplete (s : State) : Host.Outcome State Fault Refusal := event mxuCommandComplete s

/-! ## Issue (R152, R153, R155, R159, R160) -/

/-- The engine-fault trap of a slot. -/
def slotTrap (e : Env) (logical : Nat) (a : AccSlot) : Except Stop Unit :=
  match a.fault with
  | some (cause, va) => .error (.trap { e.info 12 with cause := cause, unit := 1, index := logical, va := va })
  | none => .ok ()

/-- The physical slot of a logical one (R153). -/
def physOf (e : Env) (logical : Nat) : Except Stop Nat :=
  match (e.s0.binding? e.eid e.t.task.toNat).bind fun b => b.accs[logical]? with
  | some p => .ok p
  | none => e.trap 2

/-- The mode that a command sets. -/
def MxCmd.sets (m : MxCmd) : Option Bool :=
  match m.kind with | 2 | 3 => some (m.fa == 7) | 6 => some (m.k == 1) | _ => none

/-- The mode that a slot will hold when the next command of the core runs (R152). -/
def Core.modeOf (c : Core) (phys : Nat) : Bool :=
  ((c.mxq.filter (·.phys == phys)).reverse.findSome? MxCmd.sets).getD (c.accs.getD phys default).fp64

/-- The span of an operand: its rows, from the first byte to the last, panel bytes included; none for an address that R24
traps on. -/
def mxSpan (ptr stride rows k : Nat) : Option (Int × Int) :=
  let p := FatPtr.of ptr
  let last := p.addr + (rows - 1) * stride + k * fmtBits p.fmt / 8 - 1
  match Bx.ofCode p.fmt with
  | none => some (p.addr, last)
  | some bx =>
    if (panelMap bx (blenOf p.blen) last).isSome then some (blockSpan bx (blenOf p.blen) ((p.addr : Int), (last : Int))) else none

/-- Whether every row of an operand starts at a multiple of its element size, or of the bytes of a block. -/
def mxAligned (ptr stride : Nat) : Bool :=
  let p := FatPtr.of ptr
  let u := if (Bx.ofCode p.fmt).isSome then blenOf p.blen * fmtBits p.fmt / 8 else fmtBits p.fmt / 8
  p.addr % u == 0 && stride % u == 0

/-- The bytes that an operand spans. -/
def mxOperand (e : Env) (ptr stride rows k : Nat) : Except Stop (Int × Int) :=
  match mxSpan ptr stride rows k with
  | none => e.trap 7
  | some x => .ok x

/-- Queues a command with its range locks: it blocks while a release of the thread is open or the acquire of a `pop` is to come, or
the lock table or the queue has no room. -/
def enqueue (e : Env) (m : MxCmd) (spans : List (Bool × Int × Int)) : Except Stop State := do
  e.need (spans.all fun x => spanOk x.1 x.2) 2
  e.noJoin
  e.noPop
  if 32 < e.c.rlocks.length + spans.length ∨ 8 ≤ e.c.mxq.length then .error .block
  else
    match e.s.fresh with
    | (id, s) =>
      .ok (s.modCore e.eid fun c =>
        { c with mxq := c.mxq ++ [{ m with id := id, task := e.t.task, thread := e.slot }]
                 rlocks := c.rlocks ++ spans.map fun x => lockOf id e.eid x.1 x.2 })

/-- The slot of an instruction: its physical number, checked for a fault. -/
def slotOf (e : Env) : Except Stop Nat := do
  let p ← physOf e e.f.d.toNat
  slotTrap e e.f.d.toNat (e.c.accs.getD p default)
  .ok p

/-- `mma` and `mmaz`. -/
def mmaEff (kind : Nat) (e : Env) : Except Stop State :=
  e.thread fun _ => do
    let p ← slotOf e
    let pa := e.a0
    let pb := e.b0
    let sa := e.c0 % 2 ^ 32
    let sb := bits e.c0 63 32
    let k := e.f.imm.toNat % 2 ^ 16
    let a := FatPtr.of pa
    let b := FatPtr.of pb
    e.need (a.ok && b.ok && mxPair a.fmt b.fmt && a.blen == b.blen) 7
    let w := isWTile e.eid
    match mxDepth w a.fmt (blenOf a.blen) with
    | none => e.trap 7
    | some d =>
      e.need (kind == 2 || (a.fmt == 7) == e.c.modeOf p) 2
      e.need (mxAligned pa sa && mxAligned pb sb) 2
      e.need (k != 0 && k % d == 0) 2
      let x ← mxOperand e pa sa (if a.fmt = 7 then 16 else 32) k
      let y ← mxOperand e pb sb 32 k
      enqueue e { (default : MxCmd) with
        kind := kind, phys := p, logical := e.f.d.toNat, pa := pa, pb := pb, sa := sa, sb := sb, k := k,
        la := bit e.f.md 0, lb := bit e.f.md 1 } [(bit e.f.md 0, x), (bit e.f.md 1, y)]

def execMma (f : Fields) (s : State) : Host.Outcome State Fault Refusal := issue (formMma f) false false (mmaEff 1) f s
def execMmaz (f : Fields) (s : State) : Host.Outcome State Fault Refusal := issue (formMma f) false false (mmaEff 2) f s

/-- `mld` and `mst` once their format is checked. -/
def moveEff (e : Env) (p : Nat) (m : MxCmd) (rows : Nat) : Except Stop State := do
  let x ← mxOperand e m.pa m.sa rows 32
  enqueue e { m with phys := p, logical := e.f.d.toNat, la := bit e.f.md 0 } [(bit e.f.md 0, x)]

/-- `mld` (R168). -/
def mldEff (e : Env) : Except Stop State :=
  e.thread fun _ => do
    let p ← slotOf e
    let a := FatPtr.of e.a0
    e.need (a.ok && ([4, 5, 6].contains a.fmt || (a.fmt == 7 && isWTile e.eid))) 7
    moveEff e p { (default : MxCmd) with kind := 3, pa := e.a0, sa := e.b0 } (if a.fmt = 7 then 16 else 32)

def execMld (f : Fields) (s : State) : Host.Outcome State Fault Refusal := issue (formMld f) false false mldEff f s

/-- `mst` (R169). -/
def mstEff (e : Env) : Except Stop State :=
  e.thread fun _ => do
    let p ← slotOf e
    let a := FatPtr.of e.a0
    e.need (a.ok && mxOutOk (e.c.modeOf p) a.fmt) 7
    moveEff e p
      { (default : MxCmd) with
        kind := 4, pa := e.a0, sa := e.b0, rnd := e.f.rnd.toNat, sat := e.f.sat, grp := e.f.smod.toNat % 4 }
      (if e.c.modeOf p then 16 else 32)

def execMst (f : Fields) (s : State) : Host.Outcome State Fault Refusal := issue (formMst f) false false mstEff f s

/-- `msteer` (R165, R170). -/
def msteerEff (e : Env) : Except Stop State :=
  e.thread fun _ => do
    let p ← slotOf e
    let v := e.a0
    let fmt := bits v 7 3
    e.need (bits v 63 9 == 0 && mxOutOk (e.c.modeOf p) fmt) 2
    match outPort? e.s0 e.eid e.t.task.toNat (v % 8) with
    | none => e.trap 2
    | some g =>
      e.need (g.tsize == 32 * fmtBits fmt / 8) 2
      enqueue e { (default : MxCmd) with
        kind := 5, phys := p, logical := e.f.d.toNat, pa := v % 8, pb := v, sb := g.id, rnd := e.f.rnd.toNat,
        sat := e.f.sat } []

def execMsteer (f : Fields) (s : State) : Host.Outcome State Fault Refusal :=
  issue (formMsteer f) false false msteerEff f s

/-- `mclr` (R163, R171): on a faulted slot it discards the faulted command and clears at once. -/
def mclrEff (e : Env) : Except Stop State :=
  if e.f.md = 1 ∧ ¬ isWTile e.eid then e.trap 1
  else
    e.thread fun _ => do
      let p ← physOf e e.f.d.toNat
      let m := { (default : MxCmd) with kind := 6, phys := p, logical := e.f.d.toNat, k := e.f.md }
      if (e.c.accs.getD p default).fault.isSome then
        let s := modAcc e.s e.eid p fun a => { m.start a with fault := none }
        .ok (match e.c.mxq.find? (·.phys == p) with
          | some x => dropMx s e.eid x.id
          | none => s)
      else enqueue e m []

def execMclr (f : Fields) (s : State) : Host.Outcome State Fault Refusal := issue (formMclr f) false false mclrEff f s

/-! ## `mwait`, `mprog`, `mweight` (R172 to R174) -/

/-- The logical slots of a mask with their physical numbers. -/
def maskSlots (e : Env) (mask : Nat) : Except Stop (List (Nat × Nat)) :=
  ((List.range 4).filter (bit mask)).mapM fun l =>
    match physOf e l with
    | .ok p => .ok (l, p)
    | .error x => .error x

/-- `mwait` (R172). -/
def mwaitEff (e : Env) : Except Stop State :=
  e.thread fun _ => do
    let ps ← maskSlots e (simm14 e.f.b).toNat
    for x in ps do slotTrap e x.1 (e.c.accs.getD x.2 default)
    if e.c.mxq.any fun m => ps.any fun x => x.2 == m.phys then .error .block else .ok e.s

def execMwait (f : Fields) (s : State) : Host.Outcome State Fault Refusal :=
  issue (formMwait f) false false mwaitEff f s

/-- The progress word of a slot (R164). -/
def progress (c : Core) (phys : Nat) : Nat :=
  let a := c.accs.getD phys default
  let st := if a.fault.isSome then 2 else if c.mxq.any (·.phys == phys) then 1 else 0
  st * 2 ^ 62 + a.kind * 2 ^ 58 + b2n a.fp64 * 2 ^ 57 + a.flags.toNat * 2 ^ 52 +
    (match a.fault with | some (x, _) => x % 16 * 2 ^ 48 | none => 0) + c.mxq.length * 2 ^ 32 +
    a.srgen.toNat * 2 ^ 16 + a.pos % 2 ^ 16

/-- `mprog` (R173). -/
def mprogEff (e : Env) : Except Stop State :=
  e.thread fun _ => do
    let p ← physOf e (simm14 e.f.b).toNat
    .ok (e.doneL [(0, fitRaw e.od.w (progress e.c p))] 0)

def execMprog (f : Fields) (s : State) : Host.Outcome State Fault Refusal :=
  issue (formMprog f) false false mprogEff f s

/-- `mweight` (R174). -/
def mweightEff (e : Env) : Except Stop State :=
  e.thread fun _ => do
    let w := if e.f.md = 0 then e.a0 else (simm14 e.f.b).toNat
    e.need (decide (1 ≤ w) && decide (w ≤ 15)) 2
    .ok (e.s.modCore e.eid fun c => { c with mxw := BitVec.ofNat 8 w })

def execMweight (f : Fields) (s : State) : Host.Outcome State Fault Refusal :=
  issue (formMweight f) false false mweightEff f s

end Sys2Proof.Machine
end

