-- ==== Sys2Proof/Machine/Dispatcher.lean ====
section
/-! DEFINITION. Graph memory and the dispatcher: record images, the ready table and selection, berths and bindings,
prefetches, decrements, completion (R274 to R296), context loading (R395), quiescence (R302), suspension (R387, R388). -/

namespace Sys2Proof.Machine

/-! ## Records (R274, R275) -/

/-- The least number from `n` on that is not in a rising list. -/
def lowFree : List Nat → Nat → Nat
  | [], n => n
  | k :: r, n => if k < n then lowFree r n else if k = n then lowFree r (n + 1) else n

/-- The indices of a die's records. -/
def dieRecs (s : State) (die : Nat) : List Nat :=
  (s.recs.filter fun x => x.1 / 65536 == die).map fun x => x.1 % 65536

/-- The handle that the next record of a die will have. -/
def nextHandle (s : State) (die : Nat) : Option Nat :=
  let i := lowFree (dieRecs s die) 0
  if i < 65536 then
    let k := die * 65536 + i
    some (((Keyed.get? s.gens k).getD 0) * 2 ^ 28 + k)
  else none

/-- A record of a context, by its handle; the records of another context are stale to it. -/
def recOf (s : State) (asid h : Nat) : Option Rec := (s.rec? h).filter (·.asid == asid)

/-- Frees a record: its generation advances, and an instance without records ends (R275, R301). -/
def freeRec (s : State) (h : Nat) : State :=
  match s.rec? h with
  | none => s
  | some r =>
    let k := h % 2 ^ 28
    let s := { s with recs := Keyed.del s.recs k, gens := Keyed.put s.gens k ((h / 2 ^ 28 + 1) % 15) }
    let dev := State.hDev h
    if s.recs.any fun (k, x) => x.asid == r.asid && x.gid == r.gid && k / 2 ^ 18 == dev then s
    else
      { s with
        insts := s.insts.filter fun (d, i) => !(d == dev && i.asid == r.asid && i.gid == r.gid && i.committed)
        groups := s.groups.filter fun (k, g) => !(k / 2 ^ 24 == dev && k / 256 % 65536 == r.asid && g.gid == r.gid) }

/-! ## Record images (R276 to R280) -/

/-- Granules of an edge ring (R193). -/
def ringGranules (ntok tsize : Nat) : Nat := (64 + ntok * ((tsize + 7) / 8 * 8) + 4095) / 4096

/-- An operand descriptor (R277). -/
def readOp (a b : Nat) : TaskOp :=
  { src := a, len := bits b 31 0, lmofs := bits b 50 32, sym := bit b 59, pw := bit b 60, all := bit b 61, rdy := false,
    v := bit b 63 }

/-- The record of an image of 32 doublewords (R276, R278); the read-only fields of the image are ignored. -/
def readImage (asid : Nat) (w : List Nat) : Rec :=
  let d i := w.getD i 0
  let some_ (l : List Nat) := l.filter fun x => bit x 63
  { handle := 0, asid := asid, state := .made, cls := bits (d 0) 5 4, cores := bits (d 0) 7 6
    threads := bits (d 0) 12 8, slices := bits (d 0) 15 13, slots := bits (d 0) 18 16, ra := bit (d 0) 19
    pin := bits (d 0) 26 20, pincore := bits (d 0) 29 27, count := signed 32 (d 1), gid := bits (d 1) 47 32
    lmgr := bits (d 1) 54 48, code := bits (d 2) 55 0, entry := bits (d 3) 18 0, codegr := bits (d 3) 25 19
    targ := (List.range 4).map fun i => BitVec.ofNat 64 (d (4 + i))
    ops := (List.range 4).map fun i => readOp (d (8 + 2 * i)) (d (9 + 2 * i))
    succ := (some_ ((w.drop 16).take 8)).map fun x => { handle := bits x 31 0, opmask := bits x 35 32 }
    edges := (some_ ((w.drop 24).take 8)).map fun x =>
      { peer := bits x 31 0, ntok := bits x 39 32 + 1, tsize := bits x 47 40 + 1, inEdge := bit x 48 } }

/-- DIEHINT of a node image (R297). -/
def dieHint (w : List Nat) : Nat := bits (w.getD 1 0) 58 55

/-- Valid entries stand contiguous from entry 0 (R278). -/
def contiguous : List Nat → Bool
  | [] => true
  | x :: r => if bit x 63 then contiguous r else r.all fun y => !bit y 63

/-- Whether an image is valid, as a record or as a node of a template (R280, R297). -/
def imageOk (template : Bool) (w : List Nat) : Bool :=
  let d i := w.getD i 0
  let r := readImage 0 w
  let succ := (w.drop 16).take 8
  let edges := (w.drop 24).take 8
  let opw i := d (9 + 2 * i)
  bits (d 0) 31 30 == 0 && bits (d 0) 63 47 == 0 && bits (d 1) 63 59 == 0 &&
    (if template then dieHint w < 4 || dieHint w == 15 else dieHint w == 0) &&
    bits (d 2) 63 56 == 0 && bits (d 3) 39 26 == 0 &&
    ((List.range 4).all fun i => bits (opw i) 58 51 == 0 && (template || !bit (opw i) 63 || !bit (opw i) 59)) &&
    (succ.all fun x => bits x 62 36 == 0) && (edges.all fun x => bits x 62 49 == 0) &&
    contiguous succ && contiguous edges &&
    decide (r.cls < 3) && decide (1 ≤ r.threads) && decide (r.threads ≤ 16) && decide (r.slots ≤ 4) &&
    (r.pin == 127 || (decide (r.pin < 72) && (r.cls == 2 || (r.cls == 1) == decide (64 ≤ r.pin)))) &&
    r.pincore % 2 ^ r.cores == 0 && r.code % 8 == 0 && r.entry % 8 == 0 && decide (r.entry < r.codegr * 4096) &&
    decide (r.codegr + r.lmgr +
      ((r.edges.filter (·.inEdge)).map fun e => ringGranules e.ntok e.tsize).sum ≤ 127) &&
    (r.ops.all fun o => !o.v || (decide (1 ≤ o.len) && decide (o.len ≤ 2 ^ 19) && decide (o.lmofs + o.len ≤ r.lmgr * 4096)))

/-- Allots a record on a die: its handle and the state; none without room. -/
def allot (s : State) (die : Nat) (r : Rec) : Option (Nat × State) :=
  (nextHandle s die).map fun h =>
    (h, s.setRec { r with handle := h, ops := r.ops.map fun o => { o with rdy := false } })

/-! ## The ready table (R281 to R284) -/

/-- Core cycles of a die. -/
def dieCycle (s : State) (die : Nat) : Nat := (s.die die).cycles

/-- The priority of a task queue. -/
def queuePrio (s : State) (dev asid q : Nat) : Nat :=
  match s.ctx? dev asid with
  | some c => match c.queues[q]? with | some (_, p) => p % 8 | none => 0
  | none => 0

/-- The priority of a record: that of its queue, one more for each 2^16 cycles in the ready table, up to 7 (R284). -/
def prioOf (s : State) (r : Rec) : Nat :=
  let base := queuePrio s (State.hDev r.handle) r.asid r.queue
  if r.tabled then min 7 (base + (dieCycle s (State.hDie r.handle) - r.since) / 65536) else base

/-- Every valid operand RDY. -/
def Rec.allReady (r : Rec) : Rec := { r with ops := r.ops.map fun o => if o.v then { o with rdy := true } else o }

/-- READY: the task enters the table, or waits for a place (R282). -/
def enterTable (s : State) (h : Nat) : State :=
  match s.rec? h with
  | none => s
  | some r =>
    let die := State.hDie h
    let r := { r.allReady with state := .ready }
    if (s.die die).ready.length < 4096 then
      (s.setRec { r with tabled := true, since := dieCycle s die }).modDie die fun d => { d with ready := d.ready ++ [h] }
    else (s.setRec { r with tabled := false }).modDie die fun d => { d with overflow := d.overflow ++ [h] }

/-- Leaves the table; the first task that waits for a place takes it. -/
def leaveTable (s : State) (h : Nat) : State :=
  let die := State.hDie h
  let s := s.modRec h fun r => { r with tabled := false }
  let had := (s.die die).ready.contains h
  let s := s.modDie die fun d => { d with ready := d.ready.filter (· != h), overflow := d.overflow.filter (· != h) }
  if ¬ had then s
  else
    match (s.die die).overflow with
    | [] => s
    | x :: _ =>
      ((s.modRec x fun r => { r with tabled := true, since := dieCycle s die }).modDie die fun d =>
        { d with ready := d.ready ++ [x], overflow := d.overflow.filter (· != x) })

/-- Arms a record that a queue or a graph instance submits, with a COUNT of 0 or more (R313). -/
def armRec (s : State) (h q qentry : Nat) : State :=
  match s.rec? h with
  | none => s
  | some r =>
    let s := s.setRec
      { r with state := .armed, queue := q, qentry := qentry % 2 ^ 24
               prio := queuePrio s (State.hDev h) r.asid q, since := dieCycle s (State.hDie h)
               ops := r.ops.map fun o => if o.v ∧ ¬ o.pw then { o with rdy := true } else o }
    if r.count = 0 then enterTable s h else s

/-- Posts a record of the dispatcher. -/
def postDispatch (s : State) (dev asid : Nat) (i : TrapInfo) (o : Origin) : State := postRecord s dev asid i o

/-- The origin of a record about a task. -/
def taskOrigin (r : Rec) (eid : Nat) : Origin :=
  { eid := eid, handle := r.handle, queue := r.queue, qentry := r.qentry, gid := r.gid }

/-- An endpoint that stands for a die in a record about no core. -/
def dieEid (die : Nat) : Nat := die * 1024

/-- BAD-SUBMISSION (R281, R296). -/
def badSubmission (s : State) (die asid h q qentry : Nat) : State :=
  let o : Origin := match s.rec? h with
    | some r => if r.asid = asid ∧ r.state = .made then taskOrigin r (dieEid die)
                else { eid := dieEid die, handle := h, queue := q, qentry := qentry % 2 ^ 24 }
    | none => { eid := dieEid die, handle := h, queue := q, qentry := qentry % 2 ^ 24 }
  freezeQueue (postDispatch s (die / 4) asid { code := 0x22, lane := 255 } o) die asid q

/-- A handle that a queue's ring gives is entered (R281, R313). -/
def submitTaken (s : State) (die asid q h qentry : Nat) : State :=
  match recOf s asid h with
  | some r =>
    if r.state = .made ∧ 0 ≤ r.count ∧ State.hDie h = die then armRec s h q qentry else badSubmission s die asid h q qentry
  | none => badSubmission s die asid h q qentry

/-- The ring of a queue whose entry may be taken: its key and its contents. -/
def takeable (s : State) (die asid q : Nat) : Option (Nat × Ring) :=
  if (s.die die).frozenQ.contains (asid * 256 + q) ∨ 4096 ≤ (s.die die).ready.length then none
  else
    match queueRing s die asid q with
    | none => none
    | some va =>
      match xlBlock s (die / 4) asid va 64 true with
      | .error _ => none
      | .ok k => if takeStatus (ringAt s k) = stOK then some (k, ringAt s k) else none

/-- Takes the next entry of a task queue (R281). -/
def queueRingTake (s : State) : State :=
  match s.who with
  | [die, asid, q] =>
    (match takeable s die asid q with
     | none => s
     | some (k, r) =>
       (match xlBlock s (die / 4) asid (r.entry r.take) 8 false with
        | .error c =>
          freezeQueue (postDispatch s (die / 4) asid
            { code := 12, cause := c, unit := 5, lane := 255, va := r.entry r.take }
            { eid := dieEid die, queue := q }) die asid q
        | .ok ek => submitTaken (takeDone s k) die asid q (s.rd ek 8 % 2 ^ 32) r.take))
  | _ => s

def execQueueRingTake (s : State) : Host.Outcome State Fault Refusal := event queueRingTake s

/-- An entry's priority rises (R284). -/
def priorityAging (s : State) : State :=
  match s.who with
  | [h] => s.modRec h fun r => if r.tabled then { r with prio := prioOf s r } else r
  | _ => s

def execPriorityAging (s : State) : Host.Outcome State Fault Refusal := event priorityAging s

/-! ## Loading a context onto a core (R395) -/

/-- The place of a core's save area in a context's. -/
def saveArea (c : Ctx) (eid : Nat) : Nat := c.csv + (eidDie eid % 4 * 576 + eidEp eid) * 2 ^ 20

/-- Reads `n` bytes by a device's own translation, or the fault. -/
def devRead (s : State) (dev asid va : Nat) : Nat → Except (Nat × Nat) (List Byte)
  | 0 => .ok []
  | n + 1 =>
    match xlBlock s dev asid va 1 false with
    | .error c => .error (c, va)
    | .ok k =>
      match devRead s dev asid (va + 1) n with
      | .ok r => .ok (s.byte k :: r)
      | .error x => .error x

/-- Writes bytes by a device's own translation, or the fault. -/
def devWrite (s : State) (dev asid va : Nat) : List Byte → Except (Nat × Nat) State
  | [] => .ok s
  | b :: r =>
    match xlBlock s dev asid va 1 true with
    | .error c => .error (c, va)
    | .ok k => devWrite (putBytes s [(k, b)]) dev asid (va + 1) r

/-- What a core save block holds of a core (R395): doubleword 0 says whether it holds anything; the layout of the rest is
the model's. -/
def saveBlock (c : Core) : List Nat :=
  let m (e : Option ArrMatch) : List Nat := match e with
    | some a => [1 + a.tag * 2 + a.handle * 2 ^ 17 + a.opmask * 2 ^ 49, a.target, a.count]
    | none => [0, 0, 0]
  [1, c.mxw.toNat + c.limit.toNat * 256, (c.mboxes.mapIdx fun k b => b.length * 2 ^ (8 * k)).sum] ++
    (c.mboxes.flatMap fun b => (List.range 64).map fun i => (b.getD i 0).toNat) ++
    (List.range 64).flatMap fun i => m (Keyed.get? c.match_ i)

/-- Loads a core save block. -/
def loadBlock (c : Core) (w : List Nat) : Core :=
  let d i := w.getD i 0
  if d 0 = 0 then { c with mboxes := [[], [], [], []], match_ := [], mxw := 1, limit := 2 }
  else
    { c with
      mxw := BitVec.ofNat 8 (d 1), limit := BitVec.ofNat 2 (d 1 / 256)
      mboxes := (List.range 4).map fun k =>
        (List.range (min 64 (bits (d 2) (8 * k + 7) (8 * k)))).map fun i => BitVec.ofNat 64 (d (3 + 64 * k + i))
      match_ := (List.range 64).filterMap fun i =>
        let b := 259 + 3 * i
        if d b % 2 = 0 then none
        else some (i, { tag := bits (d b) 16 1, handle := bits (d b) 48 17, opmask := bits (d b) 52 49
                        target := d (b + 1), count := d (b + 2) }) }

/-- Switches a core in to a context: the context region and the core save block are read back (R395). -/
def switchIn (s : State) (eid asid : Nat) : Except (Nat × Nat) State :=
  match s.ctx? (eidDev eid) asid with
  | none => .error (5, 0)
  | some x =>
    let a := saveArea x eid
    match devRead s (eidDev eid) asid a 4096, devRead s (eidDev eid) asid (a + 4096) (x.ctxgr * 4096) with
    | .ok blk, .ok img =>
      let w := (List.range 512).map fun i => ofBytes ((blk.drop (8 * i)).take 8)
      let s := s.setBytes (((List.range img.length).map fun i => lmKey eid i).zip img)
      .ok (s.modCore eid fun c =>
        { loadBlock c w with ctx := some asid, gran := (List.range x.ctxgr).map fun g => (g, Region.context)
                             stash := [], l1d := [], ptr := 0, last := 0, depth := 0, woke := none })
    | .error f, _ => .error f
    | _, .error f => .error f

/-! ## Berths (R285) -/

/-- A run of `n` free granules below the spill ring, the lowest. -/
def freeRun (gran : Keyed Region) (n : Nat) : Option Nat :=
  firstIdx (128 - n) fun g => (List.range n).all fun i => (Keyed.get? gran (g + i)).isNone && g + i != 127

/-- Allots a region of `n` granules: its first granule. -/
def place (gran : Keyed Region) (n : Nat) (reg : Nat → Region) : Option (Nat × Keyed Region) :=
  if n = 0 then some (0, gran)
  else (freeRun gran n).map fun g => (g, (List.range n).foldl (fun l i => Keyed.put l (g + i) (reg i)) gran)

/-- The first granule of a core's code region for a text. -/
def codeAt (c : Core) (code gr : Nat) : Option Nat :=
  (c.gran.find? fun (_, x) => x == Region.code code gr 0).map (·.1)

/-- The in-edges of a record in in-port order: entry and which of the edges from that producer it is (R278). -/
def portsOf (r : Rec) (inEdge : Bool) : List (EdgeEnt × Nat) :=
  let l := r.edges.filter (·.inEdge == inEdge)
  (List.range l.length).filterMap fun i => l[i]?.map fun e => (e, ((l.take i).filter (·.peer == e.peer)).length)

/-- The edge between two tasks, the k-th of them, while it lives. -/
def edgeOf (s : State) (prod cons k : Nat) : Option Edge :=
  s.edges.find? fun g => g.prod == prod && g.cons == cons && g.k == k && g.ntok != 0

/-- What a binding takes on one core: granules with the regions, data granule, ring granule by in-port. -/
structure Room where
  gran : Keyed Region
  code : Nat
  fresh : Bool
  data : Nat
  rings : List (Option Nat)
  deriving DecidableEq, Repr

/-- Places the rings of in-edges; one that an undo left in place keeps it. -/
def placeRings (s : State) (h : Nat) : List (EdgeEnt × Nat) → Nat → Keyed Region → Option (List (Option Nat) × Keyed Region)
  | [], _, gran => some ([], gran)
  | (e, k) :: r, port, gran =>
    if (edgeOf s e.peer h k).any (·.placed) then
      (placeRings s h r (port + 1) gran).map fun x => (none :: x.1, x.2)
    else
      match place gran (ringGranules e.ntok e.tsize) fun _ => .unborn port with
      | none => none
      | some (g, gran) => (placeRings s h r (port + 1) gran).map fun x => (some g :: x.1, x.2)

/-- Places the regions in a granule table: code, data, rings (R175, R414). -/
def placeAll (s : State) (r : Rec) (first : Bool) (c : Core) (gran : Keyed Region) : Option Room :=
  let code := (codeAt c r.code r.codegr).filter fun g => (Keyed.get? gran g).isSome
  match (match code with
    | some g => some (g, gran)
    | none => place gran r.codegr fun i => .code r.code r.codegr i) with
  | none => none
  | some (cg, gran) =>
    match place gran r.lmgr fun _ => .data r.handle with
    | none => none
    | some (dg, gran) =>
      match (if first then placeRings s r.handle (portsOf r true) 0 gran else some ([], gran)) with
      | none => none
      | some (rings, gran) => some { gran := gran, code := cg, fresh := code.isNone, data := dg, rings := rings }

/-- The granules that a core has for a context: a core without one gets the context region first. -/
def granFor (s : State) (eid asid : Nat) : Keyed Region :=
  let c := s.core eid
  if c.ctx = none then
    (List.range (((s.ctx? (eidDev eid) asid).map (·.ctxgr)).getD 0)).map fun g => (g, Region.context)
  else c.gran

/-- Whether and how a core takes its part of a task (R285): a code region that no bound task uses gives its granules up
when they are needed.  DESIGN CHOICE (log entry 126): a core that is frozen or freezing takes no part. -/
def roomOn (s : State) (r : Rec) (eid : Nat) (first : Bool) : Option Room :=
  let c := s.core eid
  let slots := (List.range 16).filter fun i =>
    (Keyed.get? c.threads i).isNone && !c.bindings.any fun b => b.slots.contains i
  if (c.ctx ≠ none ∧ c.ctx ≠ some r.asid) ∨ c.frozen ∨ c.freezing.isSome ∨ slots.length < r.threads ∨
      (freeUnits c).length < r.threads * (r.slices + 1) ∨ (c.accs.filter (·.owner.isNone)).length < r.slots then none
  else
    let gran := granFor s eid r.asid
    match placeAll s r first c gran with
    | some x => some x
    | none =>
      placeAll s r first c (gran.filter fun (_, x) =>
        match x with
        | .code a g _ => codeUsed s eid a g || (a == r.code && g == r.codegr)
        | _ => true)

/-- The berths of a task in the order of choice: lowest tile, then lowest position. -/
def berthsOf (r : Rec) : List Nat :=
  let n := 2 ^ r.cores
  let die := State.hDie r.handle
  let at_ (t k : Nat) : Nat := die * 1024 + t * 8 + k
  let all := if r.pin ≠ 127 then [at_ r.pin r.pincore]
    else
      (match r.cls with
       | 0 => List.range 64
       | 1 => (List.range 8).map (64 + ·)
       | _ => List.range 72).flatMap fun t => (List.range (8 / n)).map fun i => at_ t (n * i)
  match r.keepCore with
  | some e => all.filter (· == e)
  | none => all

/-- Whether every core of a berth has room, its contexts loadable. -/
def berthFits (s : State) (r : Rec) (b : Nat) : Bool :=
  (List.range (2 ^ r.cores)).all fun i => (roomOn s r (b + i) (i == 0)).isSome

/-- Whether some core of a die hosts a context: none of its tasks is bound there while none does (R275). -/
def hostedOn (s : State) (die asid : Nat) : Bool := s.cores.any fun (e, c) => eidDie e == die && c.ctx == some asid

/-- The berth that a task takes. -/
def berthFor (s : State) (r : Rec) : Option Nat :=
  if (s.ctx? (State.hDev r.handle) r.asid).isNone ∨ ¬ hostedOn s (State.hDie r.handle) r.asid then none
  else (berthsOf r).find? (berthFits s r)

/-! ## Binding (R286) -/

/-- Zeroes some granules (R176). -/
def zeroGranules (s : State) (eid g n : Nat) : State :=
  ({ s with mem := s.mem.filter fun x => !(decide (lmKey eid (4096 * g) ≤ x.1) && decide (x.1 < lmKey eid (4096 * (g + n)))) } : State).mend
    (lmKey eid (4096 * g)) (4096 * n)

/-- The first accumulator slots that are free, with the task's logical numbers (R153, R169). -/
def takeAccs (c : Core) (h n : Nat) : List Nat × List AccSlot :=
  let free := ((List.range c.accs.length).filter fun i => ((c.accs[i]?).any (·.owner.isNone))).take n
  (free, c.accs.mapIdx fun i a =>
    match firstIdx free.length fun j => free[j]? == some i with
    | some j => { AccSlot.reset with owner := some h, logical := j, srgen := BitVec.ofNat 16 (j + 1) }
    | none => a)

/-- Cuts a list into pieces of `k`. -/
def chunks (k : Nat) : Nat → List Nat → List (List Nat)
  | 0, _ => []
  | n + 1, l => l.take k :: chunks k n (l.drop k)

/-- Makes the edges of a producer that have no ring yet, and gives the numbers of all its out-ports (R165). -/
def outEdges (s : State) (r : Rec) : List (EdgeEnt × Nat) → List Nat × State
  | [] => ([], s)
  | (e, k) :: rest =>
    match edgeOf s r.handle e.peer k with
    | some g => match outEdges s r rest with | (l, s) => (g.id :: l, s)
    | none =>
      match s.fresh with
      | (n, s) =>
        let s := { s with edges := s.edges ++ [{ (default : Edge) with
          id := n, asid := r.asid, prod := r.handle, cons := e.peer, ntok := e.ntok, tsize := e.tsize, k := k }] }
        match outEdges s r rest with | (l, s) => (n :: l, s)

/-- A request or token that has waited for an edge's ring goes to the core that the ring is on (R195, R286). -/
def goToRing (s : State) (id core : Nat) (p : Packet) : State :=
  let send (st : PktState) : State :=
    let q := { p with dst := core, ascope := scopeTo p.src core, state := st, seq := seqOf s.seqs (p.src, p.cls, core) % 65536 }
    let s := if q.crosses then takeSeq s q.key else s
    { s with net := s.net.map fun x => if x.id = p.id then q else x }
  match p.body with
  | .edgeResv i => if i = id then send .flying else s
  | .edgeToken i _ => if i = id then send .recorded else s
  | _ => s

/-- Allots the ring of an in-edge (R193): N and S are the consumer's. -/
def placeRing (s : State) (r : Rec) (eid port : Nat) (e : EdgeEnt) (k : Nat) (gr : Option Nat) : Nat × State :=
  match edgeOf s e.peer r.handle k, gr with
  | some g, none => (g.id, s.setEdge { g with inPort := port })
  | old, _ =>
    let gran := gr.getD 0
    let nprod := match s.rec? e.peer with | some p => 2 ^ p.cores | none => 1
    let (id, s) := match old with | some g => (g.id, s) | none => s.fresh
    let g : Edge := { (default : Edge) with
      id := id, asid := r.asid, prod := e.peer, cons := r.handle, inPort := port, core := eid, off := 4096 * gran
      ntok := e.ntok, tsize := e.tsize, nprod := nprod, k := k, placed := true }
    let s := zeroGranules s eid gran (ringGranules e.ntok e.tsize)
    let s := s.wr (lmKey eid (4096 * gran + 8)) 5 (e.ntok % 65536 + 65536 * e.tsize + 2 ^ 32 * nprod)
    let s := s.net.foldl (fun s p => goToRing s id eid p) s
    let s := s.modCore eid fun c =>
      { c with gran := c.gran.map fun (k, x) => (k, if x = .unborn port then .ring id else x) }
    (id, if old.isSome then s.setEdge g else { s with edges := s.edges ++ [g] })

/-- Allots the rings of a consumer's first core: the in-ports. -/
def placeInRings (r : Rec) (eid : Nat) : List ((EdgeEnt × Nat) × Option Nat) → Nat → State → List (Option Nat) × State
  | [], _, s => ([], s)
  | ((e, k), g) :: rest, port, s =>
    match placeRing s r eid port e k g with
    | (id, s) => match placeInRings r eid rest (port + 1) s with | (l, s) => (some id :: l, s)

/-- Binds a task on one core: every resource at once. -/
def bindCore (s : State) (r : Rec) (b i : Nat) (outs : List Nat) : State :=
  let eid := b + i
  let s := if (s.core eid).ctx = none then
      (match switchIn s eid r.asid with | .ok s => s | .error _ => s.modCore eid fun c => { c with ctx := some r.asid }) else s
  match roomOn s r eid (i == 0) with
  | none => s
  | some x =>
    let c := s.core eid
    let slots := ((List.range 16).filter fun j =>
      (Keyed.get? c.threads j).isNone && !c.bindings.any fun b => b.slots.contains j).take r.threads
    match takeAccs c r.handle r.slots with
    | (phys, accs) =>
      let bd : Binding :=
        { handle := r.handle, slots := slots, units := chunks (r.slices + 1) r.threads (freeUnits c), accs := phys
          first := b, dataLo := 4096 * x.data, dataN := r.lmgr, outs := outs, ins := [] }
      let s := s.setCore eid { c with
        gran := x.gran, accs := accs, mxw := 1
        chan := c.chan.mapIdx fun k h => { h with srgen := BitVec.ofNat 16 (2 * eidPos eid + k + 1) } }
      let s := zeroGranules s eid x.data r.lmgr
      let (ins, s) := if i = 0 then placeInRings r eid ((portsOf r true).zip x.rings) 0 s else ([], s)
      let s := s.modCore eid fun c => { c with bindings := c.bindings ++ [{ bd with ins := ins }] }
      if x.fresh then s.modRec r.handle fun r => { r with loads := r.loads ++ [eid] } else s

/-- Whether another task is still loading a text that a core shares with it. -/
def loadingElse (s : State) (r : Rec) (eid : Nat) : Bool :=
  s.recs.any fun (_, x) => x.handle != r.handle && x.code == r.code && x.codegr == r.codegr && x.loads.contains eid && x.text != 2

/-- Starts one prefetch; it merges with those of the same source bytes that started within 512 cycles, unless all 64 entries are
taken (R290).  DEDUCED (log entry 114): only those of one context merge, as equal addresses of two contexts may be other bytes. -/
def startFetch (die : Nat) (s : State) (h j : Nat) : State :=
  match s.rec? h with
  | none => s
  | some r =>
    match r.ops[j]? with
    | none => s
    | some o =>
      if ¬ o.v ∨ ¬ o.rdy ∨ o.fetch ≠ 0 then s
      else
        let now := dieCycle s die
        let live := (s.die die).merges.filter fun m => decide (now - m.start ≤ 512)
        let same := if 64 ≤ live.length then [] else
          live.filter fun m => m.asid == r.asid && m.addr == addrOf o.src && m.len == o.len && m.tag == o.src / 2 ^ 56
        match s.fresh with
        | (n, s) =>
          let ms := if 64 ≤ live.length then live
            else live ++ [{ asid := r.asid, addr := addrOf o.src, len := o.len, tag := o.src / 2 ^ 56, start := now, no := n }]
          (s.setRec { r with ops := r.ops.set j { o.unfetched with fetch := 1, no := n, mates := same.map fun m => m.no } }).modDie die fun d =>
            { d with merges := ms }

/-- Starts the prefetches of R287. -/
def startFetches (s : State) (h : Nat) : State := (List.range 4).foldl (fun s j => startFetch (State.hDie h) s h j) s

/-- Binds a task to a berth. -/
def bindTask (s : State) (h b : Nat) (ahead : Bool) : State :=
  match s.rec? h with
  | none => s
  | some r =>
    match outEdges s r (portsOf r false) with
    | (outs, s) =>
      let s := s.modRec h fun r => { r with berth := some b, loads := [], textGot := 0, keepCore := none, drained := false }
      let s := (List.range (2 ^ r.cores)).foldl (fun s i => bindCore s r b i outs) s
      let s := s.modRec h fun x =>
        let more := ((List.range (2 ^ r.cores)).map (b + ·)).filter fun e => !x.loads.contains e && loadingElse s r e
        { x with state := if ahead then .ahead else .staging, loads := x.loads ++ more
                 text := if (x.loads ++ more).isEmpty then 2 else 1 }
      startFetches ((s.touchInst (State.hDev h) r.asid r.gid).record (State.hDev h) (State.hDie h % 4) 1 b (some h) none) h

/-! ## Selection (R283, R288) -/

/-- The order of lists of numbers, first place first. -/
def lexLt : List Nat → List Nat → Bool
  | [], [] => false
  | [], _ => true
  | _, [] => false
  | a :: r, b :: t => a < b || (a == b && lexLt r t)

/-- Whether the dispatcher may bind a task of the instance: it does not drain and its start is not to come (R354, R384). -/
def mayBind (s : State) (r : Rec) : Bool :=
  !(s.die (State.hDie r.handle)).frozenQ.contains (r.asid * 256 + r.queue) &&
    !s.insts.any fun (d, i) => d == State.hDev r.handle && i.asid == r.asid && i.gid == r.gid && i.draining

/-- The place of a candidate in the order of R283. -/
def candKey (s : State) (die : Nat) (r : Rec) : List Nat :=
  let p := prioOf s r
  [7 - p, (r.queue + 256 - ((s.die die).grants.getD p 0)) % 256, r.since, r.handle % 65536]

/-- The first of some candidates that a berth can take, with the berth. -/
def bestOf (s : State) (die : Nat) (l : List Rec) : Option (Rec × Nat) :=
  l.foldl (fun best r =>
    match berthFor s r with
    | none => best
    | some b =>
      match best with
      | some (x, _) => if lexLt (candKey s die r) (candKey s die x) then some (r, b) else best
      | none => some (r, b)) none

/-- The candidates of the ready table, and the run-ahead candidates (R288). -/
def readyCands (s : State) (die : Nat) : List Rec :=
  ((s.die die).ready.filterMap s.rec?).filter fun r => r.state == .ready && mayBind s r

def aheadCands (s : State) (die : Nat) : List Rec :=
  let mine := (s.recs.filter fun x => x.1 / 65536 == die).map (·.2)
  if 64 ≤ (mine.filter (·.state == .ahead)).length then []
  else mine.filter fun r => r.state == .armed && r.ra && decide (0 < r.count) && (r.ops.any fun o => o.v && o.pw && o.rdy) && mayBind s r

/-- One selection: the task bound, its berth, and whether it runs ahead. -/
def selection (s : State) (die : Nat) : Option (Rec × Nat × Bool) :=
  match bestOf s die (readyCands s die) with
  | some (r, b) => some (r, b, false)
  | none => (bestOf s die (aheadCands s die)).map fun (r, b) => (r, b, true)

/-- Makes one selection. -/
def selectOnce (s : State) (die : Nat) : State :=
  match selection s die with
  | some (r, b, ahead) =>
    let p := prioOf s r
    let s := s.modDie die fun d => { d with grants := d.grants.set p ((r.queue + 1) % 256) }
    bindTask (leaveTable s r.handle) r.handle b ahead
  | none => s

/-- The two selections of a cycle, the second in the state that the first leaves. -/
def dispatchSelection (s : State) : State :=
  match s.who with
  | [die] => selectOnce (selectOnce s die) die
  | _ => s

def execDispatchSelection (s : State) : Host.Outcome State Fault Refusal := event dispatchSelection s

/-! ## Prefetches and code loads (R287, R290, R295) -/

/-- The bytes of the line at a place of a transfer of `len` bytes from `va` on. -/
def lineLen (va len got : Nat) : Nat := min (64 - (va + got) % 64) (len - got)

/-- The slot number under which a transfer of a task reads a line of another device's memory. -/
def Rec.farSlot (r : Rec) (va got : Nat) : Nat := 2 ^ 100 * (r.handle + 1) + (va + got)

/-- The accesses to other devices of a task's transfers are over. -/
def fetchDone (s : State) (r : Rec) (va got : Nat) : State := farDone s (r.berth.getD 0) (r.farSlot va got) 0

/-- How the next line of a prefetch or code load ends: the bytes read, the fault, or what it waits for. -/
def fetchLine (s : State) (r : Rec) (va len got : Nat) : Except EngineStep (List Byte) :=
  engineReads s (r.berth.getD 0) (r.farSlot va got) 0 r.asid false ((va + got : Nat) : Int) (lineLen va len got)

/-- The state in which a step of an engine that does not fault leaves the machine. -/
def EngineStep.waits (s : State) : EngineStep → State
  | .go s | .wait s => s
  | .fault .. => s

/-- The cores that an operand is delivered to. -/
def opCores (r : Rec) (o : TaskOp) : List Nat := if o.all then State.berthCores r else (r.berth).toList

/-- The first place from `got` on whose line has not been read; the fuel is the lines that have. -/
def firstGap (va len : Nat) (ahead : List Nat) : Nat → Nat → Nat
  | 0, got => got
  | n + 1, got => if got < len ∧ ahead.contains got then firstGap va len ahead n (got + lineLen va len got) else got

/-- Whether the line at a place of an operand has not been read. -/
def TaskOp.misses (o : TaskOp) (q : Nat) : Bool := decide (o.got ≤ q) && !o.ahead.contains q

/-- The operand, landed when all of it has been read and written. -/
def TaskOp.settled (o : TaskOp) : TaskOp := { o with fetch := if o.len ≤ o.got ∧ o.buf = [] then 2 else 1 }

/-- The operand with the line at a place read. -/
def TaskOp.took (o : TaskOp) (q : Nat) (bs : List Byte) : TaskOp :=
  let l := o.ahead ++ [q]
  let n := firstGap (addrOf o.src) o.len l l.length o.got
  TaskOp.settled { o with got := n, ahead := l.filter fun x => decide (n ≤ x), buf := if bs = [] then o.buf else o.buf ++ [(q, bs)] }

/-- Gives an operand the line at a place. -/
def takeLine (s : State) (h j q : Nat) (bs : List Byte) : State :=
  s.modRec h fun r =>
    match r.ops[j]? with
    | none => r
    | some o => { r with ops := r.ops.set j (o.took q bs) }

/-- Writes the first part of what an operand has read to its destinations; a write lies in one line (R254). -/
def landOp (s : State) (r : Rec) (j : Nat) (o : TaskOp) : State :=
  match o.buf with
  | [] => s
  | (q, bs) :: rest =>
    let n := 64 - (o.lmofs + q) % 64
    let s := (opCores r o).foldl (fun s e =>
      match s.binding? e r.handle with
      | some b => putBytes s (((List.range (min n bs.length)).map fun i => lmKey e (b.dataLo + o.lmofs + q + i)).zip bs)
      | none => s) s
    let buf := if n < bs.length then (q + n, bs.drop n) :: rest else rest
    s.setRec { r with ops := r.ops.set j (TaskOp.settled { o with buf := buf }) }

/-- The next line of a code load, cut where its destination's line ends (R254). -/
def textLine (s : State) (r : Rec) : Except EngineStep (List Byte) :=
  fetchLine s r r.code (min (r.codegr * 4096) ((r.textGot / 64 + 1) * 64)) r.textGot

/-- The prefetches that take the line at a place together with one: those merged with it that still miss the line (R290). -/
def fellows (s : State) (h j q : Nat) (o : TaskOp) : List (Nat × Nat) :=
  s.recs.flatMap fun (k, x) =>
    if k / 65536 = State.hDie h then
      (List.range 4).filterMap fun i =>
        match x.ops[i]? with
        | some p =>
          if p.fetch = 1 ∧ (x.handle, i) ≠ (h, j) ∧ (p.mates.contains o.no ∨ o.mates.contains p.no) ∧ p.misses q then
            some (x.handle, i) else none
        | none => none
    else []

/-- A line of an operand, or with number 4 of the text, is read or written; the last write lands it. -/
def operandPrefetch (s : State) : State :=
  match s.who with
  | [h, j] =>
    (match s.rec? h with
     | none => s
     | some r =>
       if j = 4 then
         if r.text ≠ 1 then s
         else
           (match textLine s r with
            | .error x => x.waits s
            | .ok bs =>
              let s := r.loads.foldl (fun s e =>
                match codeAt (s.core e) r.code r.codegr with
                | some g => putBytes s (((List.range bs.length).map fun i => lmKey e (4096 * g + r.textGot + i)).zip bs)
                | none => s) s
              let n := r.textGot + bs.length
              (fetchDone s r r.code r.textGot).setRec { r with textGot := n, text := if r.codegr * 4096 ≤ n then 2 else 1 })
       else
         (match r.ops[j]? with
          | some o =>
            if o.fetch ≠ 1 then s
            else if o.buf ≠ [] then landOp s r j o
            else
              (match fetchLine s r (addrOf o.src) o.len o.got with
               | .error x => x.waits s
               | .ok bs =>
                 fetchDone (((h, j) :: fellows s h j o.got o).foldl (fun s x => takeLine s x.1 x.2 o.got bs) s) r (addrOf o.src) o.got)
          | none => s))
  | _ => s

def execOperandPrefetch (s : State) : Host.Outcome State Fault Refusal := event operandPrefetch s

/-- A prefetch or code load meets a fault: its task becomes FAULTED (R295, R296). -/
def prefetchFault (s : State) : State :=
  match s.who with
  | [h, j] =>
    (match s.rec? h with
     | none => s
     | some r =>
       let post (s : State) (c va unit index : Nat) : State :=
         taskFault (postDispatch s (State.hDev h) r.asid
           { code := 12, cause := c, unit := unit, index := index, lane := 255, va := va }
           (taskOrigin r (r.berth.getD 0))) h
       if j = 4 then
         if r.text ≠ 1 then s
         else
           (match textLine s r with
            | .error (.fault s c va) => post (s.setRec { r with text := 3 }) c va 6 0
            | _ => s)
       else
         (match r.ops[j]? with
          | some o =>
            if o.fetch ≠ 1 ∨ o.buf ≠ [] then s
            else
              (match fetchLine s r (addrOf o.src) o.len o.got with
               | .error (.fault s c va) => post (s.setRec { r with ops := r.ops.set j { o with fetch := 3 } }) c va 5 j
               | _ => s)
          | none => s))
  | _ => s

def execPrefetchFault (s : State) : Host.Outcome State Fault Refusal := event prefetchFault s

/-- Whether a bound task is runnable (R289). -/
def runnable (r : Rec) : Bool := r.state == .staging && r.count == 0 && r.text == 2 && r.ops.all fun o => !o.v || o.fetch == 2

/-- Creates the threads of a task on one core, in the slots and units held for it. -/
def createOn (r : Rec) (s : State) (eid : Nat) : State :=
  match s.binding? eid r.handle, codeAt (s.core eid) r.code r.codegr with
  | some b, some g =>
    let s := acquire s eid 31 4
    let s := s.modCore eid fun c =>
      { c with bindings := c.bindings.map fun x => if x.handle = r.handle then { x with slots := [], units := [] } else x }
    (b.slots.zip b.units).foldl (fun s (slot, us) =>
      startThread s eid slot
        (newThread (4096 * g + r.entry) (64 * (r.slices + 1)) us 0 (BitVec.ofNat 32 r.handle) r.targ)) s
  | _, _ => s

/-- A runnable task gets its threads. -/
def threadCreation (s : State) : State :=
  match s.who with
  | [h] =>
    (match s.rec? h with
     | some r => if runnable r then (State.berthCores r).foldl (createOn r) (s.setRec { r with state := .running }) else s
     | none => s)
  | _ => s

def execThreadCreation (s : State) : Host.Outcome State Fault Refusal := event threadCreation s

/-! ## Decrements (R293) -/

/-- STRAY-DECREMENT (R296). -/
def strayDecrement (s : State) (die asid h queue qentry : Nat) : State :=
  postDispatch s (die / 4) asid { code := 0x21, lane := 255 }
    { eid := dieEid die, handle := h, queue := queue, qentry := qentry }

/-- Applies a decrement at its record.  DESIGN CHOICE (log entries 127 and 128): the COUNT of a MADE record is kept whole, below
−2^31 too, and a stray decrement is recorded with QUEUE and QENTRY 0. -/
def applyDecr (s : State) (asid h n mask : Nat) : State :=
  match recOf s asid h with
  | none => strayDecrement s (State.hDie h) asid h 0 0
  | some r =>
    let made := r.state = .made
    if ¬ (made ∨ r.state = .armed ∨ r.state = .ahead) ∨ (¬ made ∧ r.count < n) then strayDecrement s (State.hDie h) asid h 0 0
    else
      let r := { r with count := r.count - n
                        ops := r.ops.mapIdx fun j o => if bit mask j ∧ o.v then { o with rdy := true } else o }
      let s := s.setRec r
      if ¬ made ∧ r.count = 0 then
        if r.state = .armed then enterTable s h
        else startFetches (s.setRec { r.allReady with state := .staging }) h
      else if r.state = .ahead then startFetches s h
      else s

/-- Sends a decrement of a dispatcher or of an arrival-match entry; one whose handle names no device is stray at its
sender's die (R293, R294). -/
def sendDecr (s : State) (src asid h n mask queue qentry : Nat) (after : List Nat) : State :=
  if ¬ s.hasDev (State.hDev h) then strayDecrement s (eidDie src) asid h queue qentry
  else
    sendPacket s { (default : Packet) with
      asid := asid, src := src, slot := 27, dst := dieUnit (State.hDie h), cls := 3, after := after,
      body := .decr h n mask queue qentry }

/-- The decrements that one completion sent to the die of one of them, that one first: those that are there arrive in one
cycle, as R417 needs.  DEDUCED (log entry 114). -/
def companions (s : State) (p : Packet) : List Packet :=
  p :: s.net.filter fun x =>
    x.id != p.id && x.src == p.src && x.dst == p.dst && x.slot == p.slot && x.asid == p.asid && x.after == p.after && x.ready s &&
      (match p.body, x.body with
       | .decr _ _ _ q k, .decr _ _ _ q' k' => q == q' && k == k'
       | _, _ => false)

/-- A decrement reaches its record. -/
def applyPkt (s : State) (p : Packet) : State :=
  match p.body with
  | .decr h n mask _ _ => answer (applyDecr s p.asid h n mask) p .quiet
  | _ => s

/-- Decrements reach their records. -/
def decrementApply (s : State) : State :=
  match readyPkt? s with
  | some p => (match p.body with | .decr .. => (companions s p).foldl applyPkt s | _ => s)
  | none => s

def execDecrementApply (s : State) : Host.Outcome State Fault Refusal := event decrementApply s

/-! ## Suspension (R388) -/

/-- The records of an instance on a device. -/
def instRecs (s : State) (dev asid gid : Nat) : List Rec :=
  (s.recs.filter fun (k, r) => k / 2 ^ 18 == dev && r.asid == asid && r.gid == gid).map (·.2)

/-- Whether a handler runs on a core of a device that hosts a context: a drain waits for it (R321). -/
def handlersRun (s : State) (dev asid : Nat) : Bool :=
  s.cores.any fun (e, c) => eidDev e == dev && c.ctx == some asid && c.threads.any fun (i, _) => decide (16 ≤ i)

/-- Reports a draining instance whose tasks are all unbound or FAULTED, once no handler runs. -/
def suspendCheck (s : State) (dev asid gid : Nat) : State :=
  let rs := instRecs s dev asid gid
  let bound (r : Rec) : Bool := r.berth.isSome && r.state != .faulted
  if handlersRun s dev asid then s
  else if (s.insts.any fun (d, i) => d == dev && i.asid == asid && i.gid == gid && i.draining && !i.suspended) && !rs.any bound then
    let susp := (rs.filter fun r => r.drained && r.state != .faulted).length
    let flt := (rs.filter fun r => r.state == .faulted).length
    let s := { s with insts := s.insts.map fun (d, i) =>
      (d, if d = dev ∧ i.asid = asid ∧ i.gid = gid then { i with suspended := true } else i) }
    let q := ((s.insts.find? fun (d, i) => d == dev && i.asid == asid && i.gid == gid).map fun x => x.2.queue).getD 0
    postDispatch s dev asid { code := 0x23, lane := 255 }
      { eid := dieEid (dev * 4), gid := gid, queue := q, aux := susp % 65536 + 65536 * flt }
  else s

/-! ## Completion (R292, R311, R387) -/

/-- Whether an engine command of a task's threads has not completed. -/
def commandsOf (s : State) (r : Rec) : Bool := engaged s r.handle

/-- The dirty windows of a core that a completion writes back: those in the task's data region, and every one when its release is
of device scope or wider (R188). -/
def dirtyIn (s : State) (eid h scope : Nat) : Stash → Bool := fun w =>
  (w.grs.any fun g => g.dirty != 0) && (decide (3 ≤ scope) ||
    match s.binding? eid h with
    | some b => decide (b.dataLo ≤ w.lo) && decide (w.lo < b.dataLo + 4096 * b.dataN)
    | none => false)

/-- Writes of the task's ended threads, on whatever core they ran, and write-backs on its berth that are not performed. -/
def leftWrites (s : State) (r : Rec) : Bool :=
  s.accs.any fun a => (a.slot == 30 && a.task == r.handle) || (a.slot == 31 && (State.ranOn r).contains a.eid)

/-- The writes that the release of a completion joins: those of the task's ended threads, and what the berth's cores see of other
agents at a narrower scope only (R240, R243). -/
def completionJoin (s : State) (r : Rec) (scope : Nat) : List Nat :=
  (s.accs.filter fun a => a.slot == 30 && a.task == r.handle && a.op.writes && a.short scope).map (·.id) ++
    (State.ranOn r).flatMap fun e => joinSet s e 31 63 scope

/-- Frees what a task holds on its berth; stash windows in its data region go with it. -/
def freeBerth (s : State) (r : Rec) : State :=
  (State.berthCores r).foldl (fun s e =>
    let s := match s.binding? e r.handle with
      | some b => s.modCore e fun c =>
          { c with stash := c.stash.filter fun w => !(decide (b.dataLo ≤ w.lo) && decide (w.lo < b.dataLo + 4096 * b.dataN)) }
      | none => s
    freeOnCore s r.handle e) s

/-- The widest scope of the successors that fire. -/
def fireScope (r : Rec) (l : List Succ) : Nat :=
  l.foldl (fun m x => max m (if State.hDev x.handle ≠ State.hDev r.handle then 4
    else if State.hDie x.handle ≠ State.hDie r.handle then 3 else 2)) 0

/-- The successors that fire (R292, R309). -/
def fired (r : Rec) : List Succ :=
  (List.range 8).filterMap fun i => if bit r.fire i then r.succ[i]? else none

/-- The last steps of a completion: decrements, freeing. -/
def finishTask (s : State) (r : Rec) : State :=
  let ids := completionJoin s r (fireScope r (fired r))
  let s := (fired r).foldl (fun s x =>
    sendDecr s (dieUnit (State.hDie r.handle)) r.asid x.handle 1 x.opmask r.queue r.qentry ids) s
  freeRec ((freeBerth s r).touchInst (State.hDev r.handle) r.asid r.gid) r.handle

/-- Takes the ring of a suspended task away.  An edge that a bound producer's out-port names stays, and acts as a full ring until the
task is bound again (R286, R387). -/
def suspendEdge (s : State) (g : Edge) : State :=
  if s.cores.any fun (_, c) => c.bindings.any fun b => b.handle == g.prod && b.outs.contains g.id then
    (freeRing s g).setEdge { g with placed := false, queue := [], held := none, resv := 0, waitq := [], marker := false }
  else dropEdge s g

/-- The last steps of a suspension (R387). -/
def suspendTask (s : State) (r : Rec) : State :=
  let s := freeBerth s r
  let s := (s.edges.filter fun g => g.cons == r.handle).foldl suspendEdge s
  let s := s.setRec { r with state := .armed, count := 0, berth := none, text := 0, textGot := 0, loads := []
                             ops := r.ops.map TaskOp.unfetched }
  enterTable s r.handle

/-- The last steps of a cancellation (R311). -/
def cancelDone (s : State) (r : Rec) : State :=
  let s := (s.edges.filter fun g => g.cons == r.handle && g.ntok != 0).foldl freeRing s
  freeRec (freeBerth s r) r.handle

/-- Whether a completion is that of a suspension: the task has drained and its instance lives. -/
def suspends (s : State) (r : Rec) : Bool :=
  r.drained && s.insts.any fun (d, i) => d == State.hDev r.handle && i.asid == r.asid && i.gid == r.gid

/-- The scope of a completion's release. -/
def doneScope (s : State) (r : Rec) : Nat := if suspends s r then 3 else fireScope r (fired r)

/-- A completion goes on when the task's threads have ended and its engine commands have completed. -/
def taskCompletion (s : State) : State :=
  match s.who with
  | [h] =>
    (match s.rec? h with
     | none => s
     | some r =>
       if (r.state ≠ .done ∧ r.state ≠ .cancelling) ∨ ¬ (s.taskThreads h).isEmpty ∨ commandsOf s r then s
       else if r.state = .cancelling then (if leftWrites s r then s else cancelDone s r)
       else
         (match (State.ranOn r).find? fun e => (s.core e).stash.any (dirtyIn s e h (doneScope s r)) with
          | some e =>
            (match writeBack s e r.asid (dirtyIn s e h (doneScope s r)) with
             | (s, none) => s
             | (s, some (c, va)) =>
               let s := taskFault (postDispatch s (State.hDev h) r.asid
                 { code := 12, cause := c, unit := 3, lane := 255, va := va } (taskOrigin r e)) h
               s.modRec h fun r => { r with wbFault := true })
          | none =>
            if leftWrites s r then s
            else if suspends s r then
              if outstanding s 3 (completionJoin s r 3) then s
              else suspendCheck (suspendTask s r) (State.hDev h) r.asid r.gid
            else finishTask s r))
  | _ => s

def execTaskCompletion (s : State) : Host.Outcome State Fault Refusal := event taskCompletion s

/-! ## Cancellation (R311) -/

/-- Takes back the mailbox entries for which a thread is blocked (R311); `takeBack` is made when the thread ends. -/
def withdraw (s : State) (eid slot : Nat) : State :=
  let mine := (s.net.filter fun p => p.src == eid && p.slot == slot && decide (17 ≤ p.tries) &&
    match p.body with | .mbox _ _ nb => !nb | _ => false).map (·.id)
  if mine.isEmpty then s
  else
    { s with
      net := s.net.filter fun p => !mine.contains p.id
      cores := s.cores.map fun (k, c) =>
        (k, { c with mbRec := c.mbRec.map fun l => l.filter fun x => !mine.contains x
                     mbResv := c.mbResv.filter fun x => !mine.contains x.pkt }) }

/-- Ends a held thread at once; one that may issue ends at its next issue opportunity. -/
def cancelThread (s : State) (eid slot : Nat) : State :=
  match s.thr? eid slot with
  | none => s
  | some t =>
    match t.status with
    | .ready | .fetching => s
    | _ => endThread (withdraw s eid slot) eid slot false

/-- Discards the faulted engine commands of a task, which would never complete. -/
def dropFaulted (s : State) (h : Nat) : State :=
  { s with cores := s.cores.map fun (e, c) =>
      let gone := (c.mxq.filter fun m => m.task.toNat == h && (c.acc m).fault.isSome).map (·.id) ++
        (c.chan.filterMap fun x => if x.fault.isSome then (x.cmd.filter fun m => m.task.toNat == h).map (·.id) else none)
      (e, if gone.isEmpty then c else
        { c with
          mxq := c.mxq.filter fun m => !gone.contains m.id
          rlocks := c.rlocks.filter fun l => !gone.contains l.owner
          accs := c.accs.map fun a => if a.owner = some h then { a with fault := none } else a
          chan := c.chan.map fun x =>
            if x.cmd.any fun m => gone.contains m.id then { x with cmd := none, fault := none, buf := [], index := none } else x }) }

/-- Cancels a record: the state, and whether it counts. -/
def cancelRec (s : State) (h : Nat) : State × Bool :=
  match s.rec? h with
  | none => (s, false)
  | some r =>
    match r.state with
    | .made | .armed | .ready =>
      -- a ring that an undo kept goes with the record
      (freeRec ((s.edges.filter fun g => g.cons == h && g.placed).foldl freeRing (leaveTable s h)) h, true)
    | .ahead | .staging => (freeRec (undoBinding s h true) h, true)
    | .running | .faulted =>
      if r.state = .faulted ∧ (s.taskThreads h).isEmpty ∧ (r.before = .ahead ∨ r.before = .staging) then
        (freeRec (undoBinding s h true) h, true)
      else
        let s := s.setRec { r with state := .cancelling, wbFault := false }
        ((s.taskThreads h).foldl (fun s (e, i) => cancelThread s e i) (dropFaulted s h), true)
    | _ => (s, false)

/-! ## Quiescence (R302) -/

/-- The state number of R279. -/
def TaskState.num : TaskState → Nat
  | .free => 0 | .made => 1 | .armed => 2 | .ready => 3 | .ahead => 4 | .staging => 5 | .running => 6 | .faulted => 7
  | .done => 8 | .cancelling => 9

/-- The RDY bits of a record. -/
def rdyBits (r : Rec) : Nat := (r.ops.mapIdx fun j o => b2n o.rdy * 2 ^ j).sum

/-- Inserts by handle. -/
def insertRec (r : Rec) : List Rec → List Rec
  | [] => [r]
  | x :: l => if r.handle < x.handle then r :: x :: l else x :: insertRec r l

/-- The snapshot entries of an instance: records that are not RUNNING, then full rings, in handle order.  DESIGN CHOICE
(log entry 130): a ring is full when all its slots hold tokens, and the full rings of one consumer stand in the order of their
allotment. -/
def snapshot (s : State) (dev asid gid : Nat) : List (Nat × Nat) :=
  let rs := (instRecs s dev asid gid).foldl (fun l r => insertRec r l) []
  (rs.filter (·.state != .running)).map
      (fun r => (r.handle + r.state.num * 2 ^ 32 + 2 ^ 63, pat 32 r.count + rdyBits r * 2 ^ 32)) ++
    rs.flatMap fun r =>
      (s.edges.filter fun g => g.cons == r.handle && g.placed && decide (g.ntok ≤ g.tokens)).map fun g =>
        (r.handle + g.inPort * 2 ^ 32, (g.wcount - g.rcount) % 2 ^ 32 + g.nprod * 2 ^ 32)

/-- Writes snapshot entries until one faults: how many, and the fault. -/
def writeSnap (dev asid : Nat) : List (Nat × Nat) → Nat → Nat → State → State × Nat × Option (Nat × Nat)
  | [], _, n, s => (s, n, none)
  | (a, b) :: r, va, n, s =>
    match devWrite s dev asid va (toBytes 8 a ++ toBytes 8 b) with
    | .ok s => writeSnap dev asid r (va + 16) (n + 1) s
    | .error f => (s, n, some f)

/-- An instance's window runs out. -/
def quiescenceExpiry (s : State) : State :=
  match s.who with
  | [dev, asid, gid] =>
    (match s.insts.find? fun (d, i) => d == dev && i.asid == asid && i.gid == gid with
     | some (_, i) =>
       if i.told ∨ i.armAt.isSome ∨ dieCycle s i.die - i.since < 2 ^ i.qexp then s
       else
         let es := if i.snap = 0 then [] else (snapshot s dev asid gid).take (i.snapLen / 16)
         (match writeSnap dev asid es i.snap 0 s with
          | (s, n, f) =>
            let s := { s with insts := s.insts.map fun (d, x) =>
              (d, if d = dev ∧ x.asid = asid ∧ x.gid = gid then { x with told := true } else x) }
            let t : TrapInfo := match f with
              | some (c, va) => { code := 0x20, cause := c, lane := 255, va := va }
              | none => { code := 0x20, lane := 255 }
            postDispatch s dev asid t { eid := dieEid i.die, queue := i.queue, gid := gid, aux := n })
     | none => s)
  | _ => s

def execQuiescenceExpiry (s : State) : Host.Outcome State Fault Refusal := event quiescenceExpiry s

end Sys2Proof.Machine
end

