-- ==== Sys2Proof/Machine/Tasks.lean ====
section
/-! DEFINITION. The task and ring group (R297 to R316). -/

namespace Sys2Proof.Machine

/-! ## Operands (R304) -/

/-- A handle operand. -/
def Env.handle (e : Env) (v : Nat) : Except Stop Nat :=
  if v < 15 * 2 ^ 28 ∧ e.s0.hasDev (State.hDev v) then .ok v else e.trap 2

/-- A queue operand, enabled or not. -/
def Env.queue (e : Env) (v : Nat) : Except Stop Nat := if v < 256 then .ok v else e.trap 2

/-- The scope of a record's die for a sender. -/
def dieScope (eid h : Nat) : Nat :=
  if State.hDev h ≠ eidDev eid then 4 else if State.hDie h ≠ eidDie eid then 3 else 2

/-- Sends a request of the group with a result. -/
def taskReq (e : Env) (nr : Bool) (scope dst op : Nat) (args : List Nat) : Except Stop State := do
  e.noJoin
  e.request nr scope dst 3 (.taskOp op args)

/-! ## Templates (R297 to R299, R310) -/

/-- A template as read from memory: header, node images, group sections with their EIDs. -/
structure Tmpl where
  hdr : List Nat
  nodes : List (List Nat)
  groups : List (Nat × List Nat)
  /-- every header and group field in range -/
  ok : Bool
  deriving DecidableEq, Repr

/-- Doublewords of bytes. -/
def words (bs : List Byte) (n : Nat) : List Nat := (List.range n).map fun i => ofBytes ((bs.drop (8 * i)).take 8)

/-- Whether a header's fields are in range and its reserved bytes zero (R297, R310).  DESIGN CHOICE (log entry 100): the bits of
doublewords 0 to 3 that R297 does not list are ignored. -/
def headerOk (w : List Nat) : Bool :=
  let qexp := bits (w.getD 0 0) 28 24
  ((w.drop 4).all (· == 0)) && decide (1 ≤ bits (w.getD 0 0) 12 0) && decide (bits (w.getD 0 0) 12 0 ≤ 4096) &&
    (qexp == 0 || (decide (16 ≤ qexp) && decide (qexp ≤ 30)))

/-- Reads things one after another. -/
def readEach {α : Type} (rd : Nat → Except EngineStep α) : Nat → Nat → Except EngineStep (List α)
  | _, 0 => .ok []
  | i, n + 1 =>
    match rd i with
    | .error x => .error x
    | .ok a => match readEach rd (i + 1) n with | .ok r => .ok (a :: r) | .error x => .error x

/-- A group section and its EIDs; `none` for one out of range. -/
def readGroup (rd : Nat → Nat → Except EngineStep (List Byte)) (a : Nat) : Except EngineStep (Option (Nat × List Nat)) :=
  match rd a 16 with
  | .error x => .error x
  | .ok bs =>
    let w := words bs 2
    let d0 := w.getD 0 0
    let d1 := w.getD 1 0
    let n := bits d0 27 16
    if n = 0 then .ok none
    else
      match rd (bits d1 55 0) (4 * n) with
      | .error x => .error x
      | .ok es => .ok (some (d0 % 256, (List.range n).map fun i => ofBytes ((es.drop (4 * i)).take 4)))

/-- Reads a template by the reads of a thread's engine. -/
def readTemplate (s : State) (eid slot asid va : Nat) : Except EngineStep Tmpl :=
  let rd (a n : Nat) := engineAll s eid slot s.nextId asid false (a : Int) n
  match rd va 64 with
  | .error x => .error x
  | .ok h =>
    let w := words h 8
    if ¬ headerOk w then .ok { hdr := w, nodes := [], groups := [], ok := false }
    else
      let d0 := w.getD 0 0
      match readEach (fun i => (rd (va + 64 + 256 * i) 256)) 0 (bits d0 12 0),
            readEach (fun i => readGroup rd (bits (w.getD 1 0) 55 0 + 16 * i)) 0 (bits d0 23 16) with
      | .ok ns, .ok gs =>
        .ok { hdr := w, nodes := ns.map fun b => words b 32, groups := gs.filterMap id, ok := gs.all (·.isSome) }
      | .error x, _ => .error x
      | _, .error x => .error x

/-- The die of a node (R297). -/
def nodeDie (die : Nat) (w : List Nat) : Nat := if dieHint w = 15 then die else die / 4 * 4 + dieHint w

/-- The GIDs that live instances of a context hold on a device. -/
def liveGids (s : State) (dev asid : Nat) : List Nat :=
  (s.insts.filter fun (d, i) => d == dev && i.asid == asid).map fun x => x.2.gid

/-- How many groups of the context a core belongs to on the whole pod, with some more: a group that stands in the tables of several
devices counts once (R299). -/
def groupsOf (s : State) (asid eid : Nat) (more : List (Nat × Nat × List Nat)) : Nat :=
  let here := (s.groups.filter fun x => x.1 / 256 % 65536 == asid).map fun x => (x.1 % 256, x.2.gid, x.2.eids)
  ((here ++ more).filter fun x => x.2.2.contains eid).eraseDups.length

/-- The checks of a template in the order of R310: the GID that the instance takes, or the status.  A GID given is that of
a gang (R354). -/
def checkTemplate (s : State) (dev asid die : Nat) (t : Tmpl) (gid : Option Nat) : Except Nat Nat :=
  if ¬ t.ok ∨ ¬ t.nodes.all (imageOk true) then .error stSTATE
  else
    let live := liveGids s dev asid
    match (match gid with
      | some g => if live.contains g then .error stGIDUSE else .ok g
      | none =>
        let g := lowFree ((List.range 61440).filter live.contains) 0
        if g < 61440 then .ok g else .error stNOMEM : Except Nat Nat) with
    | .error x => .error x
    | .ok g =>
      if (List.range 4).any fun i =>
          decide (65536 < (dieRecs s (dev * 4 + i)).length + (t.nodes.filter fun w => nodeDie die w == dev * 4 + i).length) then
        .error stNOMEM
      else
        let ns := t.groups.map (·.1)
        let all := (t.groups.flatMap (·.2)).eraseDups
        if (ns.any fun n => (Keyed.get? s.groups (groupKey dev asid n)).isSome) ∨ ns.eraseDups.length < ns.length ∨
            (all.any fun e => decide (4 < groupsOf s asid e (t.groups.map fun (n, es) => (n, g, es)))) then
          .error stGROUPS
        else .ok g

/-- Allots the records of a template's nodes: their handles in node order. -/
def allotNodes (asid die gid : Nat) : List (List Nat) → State → List Nat × State
  | [], s => ([], s)
  | w :: r, s =>
    match allot s (nodeDie die w) { readImage asid w with gid := gid } with
    | none => ([], s)
    | some (h, s) => match allotNodes asid die gid r s with | (l, s) => (h :: l, s)

/-- A HANDLE or PEER of a node, replaced by the handle of the node that it names (R297).  DESIGN CHOICE (log entry 129): one
that names a node the template does not have stays as it is. -/
def nodeHandle (hs : List Nat) (h : Nat) : Nat :=
  if h / 65536 = 0xFFFF then hs.getD (h % 65536) h else h

/-- Replaces the symbols of a node's record (R298, R310). -/
def renameRec (hs ren : List Nat) (r : Rec) : Rec :=
  { r with
    ops := r.ops.map fun o =>
      if o.sym then
        { o with src := o.src / 2 ^ 56 * 2 ^ 56 + (bits (ren.getD (bits o.src 55 52) 0) 55 0 + o.src % 2 ^ 52) % 2 ^ 56, sym := false }
      else o
    succ := r.succ.map fun x => { x with handle := nodeHandle hs x.handle }
    edges := r.edges.map fun e => { e with peer := nodeHandle hs e.peer } }

/-- Arms a record of an instance as a submission does, once its QUEUE and QENTRY are set (R310). -/
def armInst (q : Nat) (s : State) (h : Nat) : State :=
  match s.rec? h with
  | some r =>
    let s := s.setRec { r with queue := q, qentry := 0, prio := queuePrio s (State.hDev h) r.asid q }
    if r.count < 0 then badSubmission s (State.hDie h) r.asid h q 0 else armRec s h q 0
  | none => s

/-- Makes an instance of a checked template; `armAt` is the start tick of a gang. -/
def makeInst (s : State) (dev asid die gid q : Nat) (t : Tmpl) (ren : List Nat) (armAt : Option Nat) : State :=
  let d i := t.hdr.getD i 0
  match allotNodes asid die gid t.nodes s with
  | (hs, s) =>
    let s := hs.foldl (fun s h => s.modRec h (renameRec hs ren)) s
    let s := t.groups.foldl (fun s (n, es) =>
      { s with groups := Keyed.put s.groups (groupKey dev asid n) { gid := gid, eids := es } }) s
    let i : Inst :=
      { asid := asid, gid := gid, queue := q, qexp := if bits (d 0) 28 24 = 0 then 20 else bits (d 0) 28 24
        snap := bits (d 2) 55 0, snapLen := d 3 % 2 ^ 32, groups := t.groups.map (·.1), since := dieCycle s die, die := die
        armAt := armAt, committed := armAt.isNone }
    let s := { s with insts := s.insts ++ [(dev, i)] }
    if armAt.isSome then s else hs.foldl (armInst q) s

/-- `ginst` (R310). -/
def ginstEff (e : Env) : Except Stop State :=
  e.thread fun _ => do
    let ren ← ownWords e e.b0 8 16
    let q := e.f.imm.toNat % 256
    let die := eidDie e.eid
    e.need (queueRing e.s0 die e.asid q).isSome 2
    match readTemplate e.s0 e.eid e.slot e.asid (addrOf e.a0) with
    | .error (.fault s c va) => .error (.fail s { e.info 12 with cause := c, unit := 7, va := va })
    | .error (.wait s) | .error (.go s) => .error (.start s)
    | .ok t =>
      let e := e.upd (farDone e.s e.eid e.slot 0)
      match checkTemplate e.s0 e.dev e.asid die t none with
      | .error st => .ok (e.doneL [(0, fitRaw e.od.w (resWord st 0))] 0)
      | .ok g =>
        .ok ((e.upd (makeInst e.s e.dev e.asid die g q t ren none)).doneL [(0, fitRaw e.od.w (resWord stOK g))] 0)

def execGinst (f : Fields) (s : State) : Host.Outcome State Fault Refusal := issue (formGinst f) false false ginstEff f s

/-! ## Records (R306 to R309, R311, R312) -/

/-- The instance that a record made by this thread joins (R301). -/
def Env.gid (e : Env) : Nat :=
  if 16 ≤ e.slot then 0xFFFF else ((e.s0.rec? e.t.task.toNat).map (·.gid)).getD 0xFFFF

def tkmkEff (e : Env) : Except Stop State :=
  e.thread fun _ => do
    e.need (e.f.md == 0 || decide (e.b0 < 4)) 2
    let img ← ownWords e e.a0 8 32
    let die := if e.f.md = 0 then eidDie e.eid else e.dev * 4 + e.b0
    taskReq e true 0 (dieUnit die) 1 (e.gid :: img)

def execTkmk (f : Fields) (s : State) : Host.Outcome State Fault Refusal := issue (formTkmk f) true false tkmkEff f s

def tkarmEff (e : Env) : Except Stop State :=
  e.thread fun _ => do
    let h ← e.handle e.a0
    let b := if e.f.md = 1 then pat 32 (simm14 e.f.b) else e.b0 % 2 ^ 32
    taskReq e true 0 (dieUnit (State.hDie h)) 2 [h, b]

def execTkarm (f : Fields) (s : State) : Host.Outcome State Fault Refusal := issue (formTkarm f) true false tkarmEff f s

def tksuccEff (e : Env) : Except Stop State :=
  e.thread fun _ => do
    let h ← e.handle e.a0
    let x ← e.handle e.b0
    taskReq e true 0 (dieUnit (State.hDie h)) 3 [h, x, e.f.imm.toNat % 16]

def execTksucc (f : Fields) (s : State) : Host.Outcome State Fault Refusal :=
  issue (formTksucc f) true false tksuccEff f s

/-- `tkdec` (R308): a send without a result. -/
def tkdecEff (e : Env) : Except Stop State :=
  e.thread fun _ => do
    let h ← e.handle e.a0
    e.noJoin
    match sendRelease e e.s (bit e.f.md 1) (dieScope e.eid h) with
    | .error x => .error x
    | .ok (s, ids) =>
      .ok (e.send s (dieUnit (State.hDie h)) 3 ids 0
        (.decr h (simm14 e.f.b).toNat (if bit e.f.md 0 then e.f.imm.toNat % 16 else 0) 0 0))

def execTkdec (f : Fields) (s : State) : Host.Outcome State Fault Refusal := issue (formTkdec f) true false tkdecEff f s

/-- `tkdone` (R309): the fire mask, then the end of the thread. -/
def tkdoneEff (e : Env) : Except Stop State :=
  if e.f.md = 1 ∧ e.act 0 then
    exitEff (e.upd (e.s.modRec e.t.task.toNat fun r => { r with fire := r.fire &&& e.a0 % 256 }))
  else exitEff e

def execTkdone (f : Fields) (s : State) : Host.Outcome State Fault Refusal :=
  issue (formTkdone f) false false tkdoneEff f s

def tkcanEff (e : Env) : Except Stop State :=
  e.thread fun _ => do
    let h ← e.handle e.a0
    taskReq e true 0 (dieUnit (State.hDie h)) 4 [h]

def execTkcan (f : Fields) (s : State) : Host.Outcome State Fault Refusal :=
  issue (formResA f 0) false false tkcanEff f s

def execTkcanG (f : Fields) (s : State) : Host.Outcome State Fault Refusal :=
  issue (formResA f 1) false false (fun e => e.thread fun _ => taskReq e true 0 (dieUnit (eidDie e.eid)) 5 [e.a0]) f s

def tkstEff (e : Env) : Except Stop State :=
  e.thread fun _ => do
    let h ← e.handle e.a0
    taskReq e true 0 (dieUnit (State.hDie h)) 6 [h]

def execTkst (f : Fields) (s : State) : Host.Outcome State Fault Refusal := issue (formResA f 0) true false tkstEff f s

/-! ## Queues (R313, R315) -/

/-- The index that an earlier try of this `tksub` reserved. -/
def subIndex (t : Thread) : Option Nat := match t.phase with | some (.begun n) => some n | _ => none

/-- `tksub` (R313): it stays at its issue until the step at the ring is done, so that a fault of the entry's write is precise. -/
def tksubEff (e : Env) : Except Stop State :=
  e.thread fun _ => do
    let q ← e.queue e.a0
    let h ← e.handle e.b0
    let die := eidDie e.eid
    e.need (queueRing e.s0 die e.asid q).isSome 2
    e.answered (fun w _ => .ok (e.doneL [(0, fitRaw e.od.w w)] 0))
      (e.ask false 3 (dieUnit die) (.taskOp 7 [q, h, match subIndex e.t with | some i => i + 1 | none => 0]))

def execTksub (f : Fields) (s : State) : Host.Outcome State Fault Refusal := issue (formTksub f) true false tksubEff f s

def execTkres (f : Fields) (s : State) : Host.Outcome State Fault Refusal :=
  issue (formResA f 0) false false (fun e => e.thread fun _ => do
    let q ← e.queue e.a0
    taskReq e true 0 (dieUnit (eidDie e.eid)) 8 [q]) f s

/-- Whether the instance of a task drains. -/
def drains (s : State) (r : Rec) : Bool :=
  s.insts.any fun (d, i) => d == State.hDev r.handle && i.asid == r.asid && i.gid == r.gid && i.draining

/-- Undoes a run-ahead or STAGING task of a draining instance; one whose COUNT is 0 is READY again (R387). -/
def undoForDrain (s : State) (r : Rec) : State :=
  if r.state = .ahead ∨ r.state = .staging then
    let s := undoBinding s r.handle false
    if r.count = 0 then enterTable s r.handle else s
  else s

/-- Resumes the faulted tasks of a queue: how many (R315, R383). -/
def resumeQueue (s : State) (die asid q : Nat) : Nat × State :=
  let s := markFrozen (s.modDie die fun d => { d with frozenQ := d.frozenQ.filter (· != asid * 256 + q) }) die asid q false
  let hs := (s.recs.filter fun (k, r) => k / 65536 == die && r.asid == asid && r.queue == q && r.state == .faulted).map
    fun x => x.2.handle
  (hs.length, hs.foldl (fun s h =>
    let s := s.modRec h fun r =>
      { r with wbFault := false, text := if r.text = 3 then 1 else r.text
               ops := r.ops.map fun o => if o.fetch = 3 then { o with fetch := 1 } else o }
    let s := (s.taskThreads h).foldl (fun s (e, i) => (resume s e i 0 0).1) s
    let s := unfault s h
    match s.rec? h with
    | some r => if drains s r then undoForDrain s r else s
    | none => s) s)

/-! ## Arrival-match entries (R314) -/

def arrmEff (e : Env) : Except Stop State :=
  e.thread fun _ => do
    e.need (decide (e.a0 < 65536)) 2
    let h ← e.handle e.b0
    let out (s : State) (st v : Nat) : State := (e.upd s).doneL [(0, fitRaw e.od.w (resWord st v))] 0
    if e.c0 = 0 then .ok (out e.s stSTATE 0)
    else
      match firstIdx 64 fun i => (Keyed.get? e.c.match_ i).isNone with
      | none => .ok (out e.s stNOMEM 0)
      | some i =>
        let a : ArrMatch := { tag := e.a0, handle := h, target := e.c0, opmask := e.f.imm.toNat % 16, count := 0 }
        .ok (out (e.s.modCore e.eid fun c => { c with match_ := Keyed.put c.match_ i a }) stOK i)

def execArrm (f : Fields) (s : State) : Host.Outcome State Fault Refusal := issue (formArrm f) true false arrmEff f s

def arrmFreeEff (e : Env) : Except Stop State :=
  e.thread fun _ => do
    e.need (decide (e.a0 < 64)) 2
    let used := (Keyed.get? e.c.match_ e.a0).isSome
    let s := e.s.modCore e.eid fun c => { c with match_ := Keyed.del c.match_ e.a0 }
    .ok ((e.upd s).doneL [(0, fitRaw e.od.w (resWord stOK (b2n used)))] 0)

def execArrmFree (f : Fields) (s : State) : Host.Outcome State Fault Refusal :=
  issue (formResA f 1) true false arrmFreeEff f s

/-! ## Publication rings (R303, R316) -/

/-- The key of a descriptor operand, with the checks of an atomic on its bytes; range locks do not count (R217). -/
def ringKey (e : Env) : Except Stop Nat := do
  let va := addrOf e.a0
  e.need (va % 64 == 0) 2
  let g ← xlWant e false true { lane := 0, va := va, n := 64 }
  hostAtomicOk e false false g
  waitFill e 255 va g.keys
  .ok (g.keys.headD 0)

/-- The unit that performs an operation at a ring's home. -/
def ringUnit (key : Nat) : Nat := dieUnit (4 * (if keyIsLm key then eidDev (keyCore key) else key / 2 ^ 39))

def execRgres (f : Fields) (s : State) : Host.Outcome State Fault Refusal :=
  issue (formRgres f) true false (fun e => e.thread fun _ => do
    let k ← ringKey e
    taskReq e true 0 (ringUnit k) 9 [k]) f s

def execRgpub (f : Fields) (s : State) : Host.Outcome State Fault Refusal :=
  issue (formRgpub f) true false (fun e => e.thread fun _ => do
    let k ← ringKey e
    taskReq e false (min 5 (ringAt e.s0 k).scope) (ringUnit k) 10 [k, e.b0]) f s

/-- Whether a write of the thread to LM bytes is not yet performed. -/
def ownPending (e : Env) (off n : Nat) : Bool :=
  e.s0.accs.any fun a => a.eid == e.eid && a.slot == e.slot &&
    a.keys.any fun k => decide (lmKey e.eid off ≤ k) && decide (k < lmKey e.eid (off + n))

/-- `rgtake` (R316): it stays at its issue until the ring's home has taken the entry and copied it; then, with status OK, it
acquires. -/
def rgtakeEff (e : Env) : Except Stop State :=
  e.thread fun _ => do
    let off := e.b0
    e.need (off % 8 == 0 && decide (off + 256 ≤ 0x80000)) 2
    let va := windowVa e.eid off
    if ¬ e.c.lmOk off 256 ∨ e.s0.inHeader e.eid off 256 then e.trapLane 6 255 va else .ok ()
    waitFill e 255 va ((List.range 256).map (lmKey e.eid off + ·))
    let k ← ringKey e
    let out (s : State) (w : Nat) : State := (e.upd s).doneL [(0, fitRaw e.od.w w)] 0
    e.answered (fun w scope =>
        if w / 2 ^ 56 ≠ stOK then .ok (out e.s w)
        else if readsBound e.t then .ok (acquire (out e.s w) e.eid e.slot scope)
        else .error .block)
      (if ownPending e off 256 then .error .block else e.ask true 0 (ringUnit k) (.taskOp 13 [k, off, addrOf e.a0]))

def execRgtake (f : Fields) (s : State) : Host.Outcome State Fault Refusal :=
  issue (formRgpub f) true false rgtakeEff f s

/-! ## At the dispatcher and at a ring's home -/

/-- Answers a request for which its instruction waits: with a result word, or with a fault. -/
def answerTold (s : State) (p : Packet) (w scope : Nat) : State := answer s p (.result [(0, w), (0, scope)])
def answerFailed (s : State) (p : Packet) (code cause va index : Nat) : State :=
  answer s p (.result [(0, code), (0, cause), (0, va), (0, index)])

/-- A submission at its queue's ring: one step reserves, writes and publishes; a write that faults leaves the index reserved
(R313). -/
def submitAt (s : State) (p : Packet) (die q h idx : Nat) : State :=
  match queueRing s die p.asid q with
  | none => answerTold s p (resWord stSTATE 0) 0
  | some va =>
    match xlBlock s (die / 4) p.asid va 64 true with
    | .error _ => answerTold s p (resWord stSTATE 0) 0
    | .ok k =>
      let r := ringAt s k
      match (if idx = 0 then ringRes s k else (resWord stOK (idx - 1), s)) with
      | (w, s1) =>
        if w / 2 ^ 56 ≠ 0 then answerTold s p w 0
        else
          let i := if idx = 0 then r.res else idx - 1
          match xlBlock s1 (die / 4) p.asid (r.entry i) 8 true with
          | .error c => answerFailed s1 p 12 c (r.entry i) (i + 1)
          | .ok ek => answerTold (ringPub (putNum s1 ek 8 (h % 2 ^ 32)) k i).2 p (resWord stOK 0) 0

/-- The bytes of an entry as the taking core sees them, which is within the ring's scope (R242, R316). -/
def entryBytes (s : State) (p : Packet) (va n : Nat) : Except EngineStep (List Byte) :=
  (List.range n).mapM fun i =>
    match engineKey s (dieUnit (eidDie p.src)) p.asid false ((va + i : Nat) : Int) false with
    | .error x => .error x
    | .ok k => if s.bad.contains k then .error (.fault s 11 (va + i)) else .ok (seenByte s p.src 31 s.nextId k)

/-- A take at a ring's home: the copy to the issuing core's LM, then the advance of TAKE (R316). -/
def takeAt (s : State) (p : Packet) (k off va : Nat) : State :=
  let dst := (List.range 256).map (lmKey p.src off + ·)
  if s.badAt k 64 then answerFailed s p (if keyIsLm k then 11 else 128 + 11) 0 va 0
  else
    match emptyGran s (((List.range 64).map (k + ·)) ++ dst) with
    | some x => fillForPacket s p x
    | none =>
      let r := ringAt s k
      if takeStatus r ≠ stOK then answerTold s p (resWord (takeStatus r) 0) 0
      else
        match entryBytes s p (r.entry r.take) (2 ^ r.loge) with
        | .error (.fault s c _) => answerFailed s p 12 c (r.entry r.take) 0
        | .error (.wait s) | .error (.go s) => s
        | .ok bs => answerTold (takeDone (putBytes s (dst.zip bs)) k) p (resWord stOK r.take) (min 5 r.scope)

/-- Cancels every record of an instance (R311). -/
def cancelInst (s : State) (dev asid gid : Nat) : Nat × State :=
  (instRecs s dev asid gid).foldl (fun (n, s) r =>
    match cancelRec s r.handle with | (s, b) => (n + b2n b, s)) (0, s)

/-- The VALUE of `tkst` (R312). -/
def stValue (s : State) (r : Rec) : Nat :=
  pat 32 r.count + r.state.num * 2 ^ 32 + rdyBits r * 2 ^ 36 + prioOf s r * 2 ^ 40 + r.queue * 2 ^ 43

/-- `tkarm` on a record. -/
def armAdd (s : State) (r : Rec) (b : Nat) : Nat × State :=
  let c := r.count + signed 32 b
  if r.state ≠ .made ∨ c < -(2 ^ 31) ∨ (2 : Int) ^ 31 ≤ c then (resWord stSTATE 0, s)
  else (resWord stOK 0, s.setRec { r with count := c })

/-- `tksucc` on a record. -/
def succAdd (s : State) (r : Rec) (h mask : Nat) : Nat × State :=
  if r.state ≠ .made then (resWord stSTATE 0, s)
  else if 8 ≤ r.succ.length then (resWord stFULL 0, s)
  else (resWord stOK r.succ.length, s.setRec { r with succ := r.succ ++ [{ handle := h, opmask := mask }] })

/-- An operation on one record. -/
def onRec (s : State) (p : Packet) (h : Nat) (g : Rec → Nat × State) : State :=
  match recOf s p.asid h with
  | none => answerWord s p (resWord stSTALE 0)
  | some r => match g r with | (w, s) => answerWord s p w

/-- `tkmk` at the die (R306). -/
def makeRec (s : State) (asid die gid : Nat) (img : List Nat) : Nat × State :=
  if ¬ imageOk false img then (resWord stSTATE 0, s)
  else
    match allot s die { readImage asid img with gid := gid } with
    | none => (resWord stNOMEM 0, s)
    | some (h, s) => (resWord stOK h, s)

/-- A ring operation at its home; an empty stash granule is filled first (R187), and a descriptor with an uncorrectable error is
told at the marker. -/
def atRing (s : State) (p : Packet) (k : Nat) (g : State → Nat × State) : State :=
  if (List.range 64).any fun i => s.bad.contains (k + i) then
    deferTrap (answer s p .quiet) p.src p.slot p.pend
      { code := 11, lane := 255, ipc := p.ipc, rpc := p.ipc, word := p.word, defer := true }
  else
    match emptyGran s ((List.range 64).map (k + ·)) with
    | some x => fillForPacket s p x
    | none => match g s with | (w, s) => answerWord s p w

/-- Performs a task or ring instruction that has reached its unit. -/
def taskArrive (s : State) (p : Packet) : State :=
  let die := p.dst / 1024
  match p.body with
  | .taskOp 1 (gid :: img) => match makeRec s p.asid die gid img with | (w, s) => answerWord s p w
  | .taskOp 2 [h, b] => onRec s p h fun r => armAdd s r b
  | .taskOp 3 [h, x, m] => onRec s p h fun r => succAdd s r x m
  | .taskOp 4 [h] => onRec s p h fun _ => match cancelRec s h with | (s, b) => (resWord stOK (b2n b), s)
  | .taskOp 5 [g] =>
    if (liveGids s (die / 4) p.asid).contains g then
      match cancelInst s (die / 4) p.asid g with | (n, s) => answerWord s p (resWord stOK n)
    else answerWord s p (resWord stSTATE 0)
  | .taskOp 6 [h] => onRec s p h fun r => (resWord stOK (stValue s r), s)
  | .taskOp 7 [q, h, i] => submitAt s p die q h i
  | .taskOp 8 [q] => match resumeQueue s die p.asid q with | (n, s) => answerWord s p (resWord stOK n)
  | .taskOp 9 [k] => atRing s p k fun s => ringRes s k
  | .taskOp 10 [k, i] => atRing s p k fun s => ringPub s k i
  | .taskOp 13 [k, off, va] => takeAt s p k off va
  | _ => s

end Sys2Proof.Machine
end

