-- ==== Sys2Proof/Machine/Collect.lean ====
section
/-! DEFINITION. Deadline reductions and collective plans (R355 to R377). -/

namespace Sys2Proof.Machine

/-! ## Plans (R355 to R358) -/

namespace Plan

/-- Bytes of an element of a contribution and of a result (R359). -/
def inBytes (p : Plan) : Nat := if p.ls then 16 else if p.ty = 0 then 1 else codeBits p.ty / 8
def outBytes (p : Plan) : Nat := if p.ls then 32 else p.inBytes

/-- Bytes at DST for a call of LEN bytes (R362). -/
def resultLen (p : Plan) (len : Nat) : Nat :=
  if p.kind = 2 then p.members.length * len else if p.ls then 2 * len else len

/-- The devices of the plan's nodes. -/
def devs (p : Plan) : List Nat := (p.nodes.map (·.dev)).eraseDups

def node (p : Plan) (i : Nat) : PNode := p.nodes.getD i default

/-- The root node. -/
def root (p : Plan) : Nat := (firstIdx p.nodes.length fun i => (p.node i).parent.isNone).getD 0

/-- Depth of a node; none when its PARENT links reach no root. -/
def depthOf (nodes : List PNode) : Nat → Nat → Option Nat
  | 0, _ => none
  | n + 1, i =>
    match nodes[i]? with
    | none => none
    | some x => match x.parent with
      | none => some 0
      | some j => (depthOf nodes n j).map (· + 1)

/-- Whether a node stands on a lost device, or below one (R370). -/
def gone (p : Plan) : Nat → Nat → Bool
  | 0, _ => false
  | n + 1, i => p.lost.contains (p.node i).dev ||
      match (p.node i).parent with | some j => p.gone n j | none => false

def nodeGone (p : Plan) (i : Nat) : Bool := p.gone (p.nodes.length + 1) i

/-- The handler unit of a node among those of its Yard (R348). -/
def sub (p : Plan) (i : Nat) : Nat :=
  1 + p.entry * 16 + ((List.range i).filter fun j => (p.node j).dev == (p.node i).dev).length

/-- A node's live slots: its members' and those of child nodes that are not lost. -/
def liveSlots (p : Plan) (i : Nat) : List Nat :=
  (p.members.filter fun m => m.node == i).map (·.slot) ++
    ((List.range p.nodes.length).filter fun j => (p.node j).parent == some i && !p.nodeGone j).map fun j => (p.node j).pslot

/-- The live members. -/
def liveMembers (p : Plan) : List Nat :=
  (List.range p.members.length).filter fun k => !p.nodeGone ((p.members.getD k default).node)

def member (p : Plan) (k : Nat) : PMem := p.members.getD k default

def epochAt (p : Plan) (node epoch : Nat) : Option NEpoch := p.epochs.find? fun x => x.node == node && x.epoch == epoch

def setEpoch (p : Plan) (x : NEpoch) : Plan :=
  { p with epochs := x :: p.epochs.filter fun y => !(y.node == x.node && y.epoch == x.epoch) }

def setCall (p : Plan) (c : Call) : Plan := { p with calls := p.calls.map fun x => if x.id = c.id then c else x }

/-- OFF_e (R365): OFFSET for the first two epochs; none before the root has told it. -/
def offOf (p : Plan) (e : Nat) : Option Nat :=
  if p.dlmode = 3 then (if e < 2 then some p.offset else Keyed.get? p.offs e) else some p.offset

/-- The deadline of an epoch at a node; a broadcast has only that of FINAL (R364). -/
def deadline (p : Plan) (x : NEpoch) : Option Nat :=
  match (if p.kind = 1 then 0 else p.dlmode) with
  | 0 => none
  | 1 => x.deadline
  | _ => (p.offOf x.epoch).map fun o => p.pstart + x.epoch * p.period + o

/-- Whether a node's forward tick of an epoch has come. -/
def due (p : Plan) (x : NEpoch) (tick : Nat) : Bool :=
  match p.deadline x with
  | some d => decide ((d : Int) - ((p.node x.node).depth * p.hop : Nat) ≤ tick)
  | none => false

/-- Whether a node may allot a slot buffer for an epoch: it is one of the two lowest that it has not forwarded (R366). -/
def buffered (p : Plan) (node epoch : Nat) : Bool :=
  decide (((List.range epoch).filter fun e => !(p.epochAt node e).any (·.forwarded)).length < 2)

end Plan

/-- Changes a plan. -/
def modPlan (s : State) (k : Nat) (g : Plan → Plan) : State :=
  match Keyed.get? s.plans k with
  | some p => { s with plans := Keyed.put s.plans k (g p) }
  | none => s

/-- A plan that is freed keeps nothing but what tells a waiting `redfix` that it is over. -/
def Plan.discard (p : Plan) : Plan :=
  { p with freed := true, results := [], fixes := [], held := [], shakes := [], staged := [], epochs := []
           jobs := (p.jobs.filter (·.member.isSome)).map fun j => { j with rest := [], core := none } }

/-- What a reset of a device takes from a plan: all that its Yard held of it. -/
def Plan.cleared (p : Plan) (d : Nat) : Plan :=
  let on (i : Nat) : Bool := (p.node i).dev == d
  let at_ (m : Nat) : Bool := on (p.member m).node
  { p with
    jobs := p.jobs.filter fun j => !on j.node
    staged := p.staged.filter fun x => !on x.1
    calls := p.calls.filter fun c => !at_ c.member
    results := p.results.filter fun x => !at_ x.1
    fixes := p.fixes.filter fun x => !at_ x.1
    held := p.held.filter fun x => !at_ x.1
    half := p.half.filter fun x => !at_ x.1
    shakes := if on p.root then [] else p.shakes }

/-- Whether a plan still takes what arrives. -/
def planOpen (p : Plan) : Bool := !p.dead && !p.freed

/-- Whether a device's Yard holds a plan: the GEN that it records for the entry is the plan's (R358). -/
def State.holdsPlan (s : State) (p : Plan) (d : Nat) : Bool :=
  p.devs.contains d && Keyed.get? (s.dev d).planGen p.entry == some p.gen

/-- Whether a node still works for its plan. -/
def State.nodeOpen (s : State) (p : Plan) (i : Nat) : Bool :=
  planOpen p && !p.nodeGone i && !p.cutOff.contains (p.node i).dev && s.holdsPlan p (p.node i).dev

/-- Whether a core of a device hosts a context. -/
def State.hosts (s : State) (dev asid : Nat) : Bool :=
  s.cores.any fun (e, c) => eidDev e == dev && !isYard e && c.ctx == some asid

/-- The plans of a context that is unloaded from every device of theirs are freed (R355). -/
def reapPlans (s : State) : State :=
  { s with plans := s.plans.map fun (k, p) =>
      (k, if !p.freed && p.src.isNone && !p.devs.any (s.hosts · p.asid) then p.discard else p) }

/-- Sends a request of a plan from one node's Yard to another's. -/
def sendNode (s : State) (p : Plan) (i j : Nat) (b : Body) : State :=
  sendPacket s { (default : Packet) with
    asid := p.asid, src := yardUnit (p.node i).dev, slot := 26, dst := yardUnit (p.node j).dev, sub := p.sub j, cls := 5, body := b }

/-- A node sends something on to its child nodes (R367). -/
def sendDown (s : State) (p : Plan) (i : Nat) (b : Nat → Body) : State :=
  ((List.range p.nodes.length).filter fun j => (p.node j).parent == some i && !p.nodeGone j).foldl (fun s j => sendNode s p i j (b j)) s

/-- The root sends something down the tree.  DESIGN CHOICE (log entry 107): it comes to the root's own node as a request. -/
def sendTree (s : State) (p : Plan) (b : Nat → Body) : State := sendNode s p p.root p.root (b p.root)

/-- The tick by which a node goes. -/
def nodeTick (s : State) (p : Plan) (i : Nat) : Nat := (s.dev (p.node i).dev).tick

/-! ## Combining (R359, R360) -/

/-- A contribution's long sum as an accumulator (R360). -/
def Elem.acc : Elem → Elem
  | .one l => .ls (LsAcc.empty.add l.m l.e l.count l.flags)
  | x => x

/-- `comb(acc, v)`. -/
def Plan.comb (p : Plan) (a v : Elem) : Elem × Flags :=
  match a.acc, v with
  | .ls x, .ls y => (.ls (x.merge y), 0)
  | .ls x, .one l => (.ls (x.add l.m l.e l.count l.flags), 0)
  | .pat x, .pat y =>
    if p.ty = 6 then
      match p.op with
      | 1 => match deliver .fp32 .rne false 0 (fAdd .rne (floatValue .fp32 x) (floatValue .fp32 y)) with | (r, f) => (.pat r, f)
      | op => match fMinMax .fp32 (op == 3) x y with | (r, f) => (.pat r, f)
    else
      let n := codeBits p.ty
      let sg := codeSgn p.ty
      let less := decide (srcInt sg n 16 x ≤ srcInt sg n 16 y)
      (.pat (match p.op with
        | 1 => (x + y) % 2 ^ n
        | 2 => if less then x else y
        | 3 => if less then y else x
        | 4 => x &&& y
        | 5 => x ||| y
        | _ => x ^^^ y), 0)
  | a, _ => (a, 0)

/-- The value of an element for which no member is present. -/
def Plan.identity (p : Plan) : Elem :=
  if p.ls then .ls LsAcc.empty
  else if p.ty = 6 then .pat (match p.op with | 2 => 0x7F800000 | 3 => 0xFF800000 | _ => 0)
  else
    let n := codeBits p.ty
    .pat (match p.op with
      | 2 => pat n (intMax (codeSgn p.ty) n)
      | 3 => pat n (intMin (codeSgn p.ty) n)
      | 4 => 2 ^ n - 1
      | _ => 0)

/-- A share that holds no member. -/
def Plan.none (p : Plan) (len root deadline : Nat) : Share :=
  { bitmap := [], len := len, root := root, deadline := deadline
    elems := if p.kind ≠ 0 then [] else List.replicate (len / p.inBytes) (if p.op = 7 then .pat 0 else p.identity) }

/-- Combines a share into another, element by element; a gather keeps the blocks side by side, and a broadcast the one that
holds data. -/
def Plan.merge (p : Plan) (a b : Share) : Share :=
  let bm := a.bitmap ++ b.bitmap
  if a.bitmap.isEmpty then { b with elems := b.elems.map Elem.acc, flags := a.flags ||| b.flags }
  else if b.bitmap.isEmpty then { a with flags := a.flags ||| b.flags }
  else if p.kind ≠ 0 then { a with bitmap := bm, elems := a.elems ++ b.elems, flags := a.flags ||| b.flags }
  else
    let r := (a.elems.zip b.elems).map fun (x, y) => p.comb x y
    { a with bitmap := bm, elems := r.map (·.1), flags := r.foldl (fun f x => f ||| x.2) (a.flags ||| b.flags) }

/-- The present slots in ascending order (R359). -/
def sortSlots : List (Nat × Share) → List (Nat × Share)
  | [] => []
  | x :: r => insertSlot x (sortSlots r)
where
  insertSlot (x : Nat × Share) : List (Nat × Share) → List (Nat × Share)
    | [] => [x]
    | y :: r => if x.1 ≤ y.1 then x :: y :: r else y :: insertSlot x r

/-- The alignment before the root delivers (R360). -/
def Elem.anchor (x : Elem) : Elem :=
  match x.acc with
  | .ls ⟨some (a, l, em), n, fl⟩ =>
    let (a, l, ix) := lsAlign a l (em - 96)
    .ls ⟨some (a, l, em), n, { fl with inexact := fl.inexact || ix }⟩
  | x => x

/-- An element as it lies at DST. -/
def Plan.elemBytes (p : Plan) (x : Elem) : List Byte :=
  match x.acc with
  | .ls a => a.wide
  | .pat v => toBytes p.inBytes v
  | .one _ => []

/-- An element as a contribution brings it. -/
def Plan.elemOf (p : Plan) (bs : List Byte) : Elem :=
  if p.ls then .one (LongSum.of (ofBytes (bs.take 8)) (ofBytes (bs.drop 8))) else .pat (ofBytes bs)

/-- A delivered element, as `redfix` rebuilds it (R360). -/
def Plan.elemBack (p : Plan) (bs : List Byte) : Elem :=
  if p.ls then
    let a := signed 160 (ofBytes (bs.take 20))
    let l := signed 32 (ofBytes ((bs.drop 24).take 4))
    let fl := ofBytes ((bs.drop 30).take 1)
    .ls ⟨if l = -(2 ^ 31) then Option.none else some (a, l, l + 96), ofBytes ((bs.drop 28).take 2),
      ⟨bit fl 0, bit fl 1, bit fl 2, bit fl 3⟩⟩
  else .pat (ofBytes bs)

/-- Cuts bytes into pieces of `n`. -/
def piecesBy (n : Nat) (bs : List Byte) (k : Nat) : List (List Byte) := (List.range k).map fun i => (bs.drop (n * i)).take n

/-- The bytes that a result puts at DST, by offset (R362, R367): a gather's missing blocks are zero. -/
def Plan.resultBytes (p : Plan) (r : Share) : List Byte :=
  if p.kind = 2 then
    (List.range p.members.length).flatMap fun k =>
      match firstIdx r.bitmap.length fun i => r.bitmap.getD i 0 == k with
      | some i => ((r.elems.drop (i * r.len)).take r.len).flatMap p.elemBytes
      | Option.none => List.replicate r.len 0
  else r.elems.flatMap p.elemBytes

/-! ## The call block (R362) -/

/-- Writes a field of a call block through the LM window. -/
def blkPut (s : State) (eid block off n v : Nat) : State :=
  if (s.core eid).lmOk block 256 then putNum s (lmKey eid (block + off)) n v else s

def blkGet (s : State) (eid block off n : Nat) : Nat := s.rd (lmKey eid (block + off)) n

/-- Adds to a 16-bit or 32-bit counter of a call block. -/
def blkAdd (s : State) (eid block off n : Nat) (d : Int) : State :=
  blkPut s eid block off n (pat (8 * n) ((blkGet s eid block off n : Int) + d))

/-- FLAGS (R362). -/
def blkFlags (f : Flags) : Nat := b2n (f.getLsbD 0) + 2 * b2n (f.getLsbD 2) + 4 * b2n (f.getLsbD 3) + 8 * b2n (f.getLsbD 4)

/-- The BITMAP field. -/
def bitmapNum (l : List Nat) : Nat := l.eraseDups.foldl (fun a k => a + 2 ^ k) 0

/-- The empty stash granules that a call block lies in are filled first. -/
def blkOpen (s : State) (eid block : Nat) : Option State :=
  match emptyGran s ((List.range 256).map fun i => lmKey eid (block + i)) with
  | some (e, i, g) => some (modGran s e i g fun x => { x with want := true, fault := none })
  | none => none

/-- The lines of written bytes leave every L1D of the device (R248). -/
def collectPut (s : State) (dev : Nat) (kbs : List (Nat × Byte)) : State :=
  let lines := (kbs.map fun x => x.1 / 64).eraseDups
  let s : State := { s with cores := s.cores.map fun (e, c) =>
    (e, if eidDev e = dev then { c with l1d := c.l1d.filter fun x => !lines.contains x.1 } else c) }
  { s.setBytes kbs with bad := s.bad.filter fun k => !kbs.any fun x => x.1 == k }

/-- The keys of `n` bytes at DST, for the Yard: a fault is its cause and address. -/
def dstKeys (s : State) (dev asid va : Nat) (write : Bool) : Nat → Except (Nat × Nat) (List Nat)
  | 0 => .ok []
  | n + 1 =>
    match xlDev s dev asid va write with
    | .ok k _ =>
      if s.bad.contains k then .error (11, va)
      else match dstKeys s dev asid (va + 1) write n with | .ok r => .ok (k :: r) | .error x => .error x
    | .fault c => .error (c, va)
    | .miss => .error (5, va)

/-! ## Forwarding (R364 to R368) -/

/-- Takes a lock of a call away (R371). -/
def dropLock (s : State) (eid owner : Nat) : State :=
  s.modCore eid fun c => { c with rlocks := c.rlocks.filter fun l => l.owner != owner }

/-- An abort as a result. -/
def RResult.aborted (epoch code : Nat) : RResult :=
  { epoch := epoch, share := { bitmap := [], elems := [], len := 0, root := 0, deadline := 0 }, abort := code }

/-- Whether a member's device is reachable for its plan. -/
def Plan.reaches (p : Plan) (m : Nat) : Bool :=
  !p.lost.contains (p.node (p.member m).node).dev && !p.cutOff.contains (p.node (p.member m).node).dev

/-- Aborts an epoch: every reachable member that has no result of it gets the code (R370). -/
def abortEpoch (s : State) (k epoch code : Nat) : State :=
  modPlan s k fun p =>
    let p := { p with
      jobs := p.jobs.filter fun j => j.epoch != epoch || j.member.isSome
      staged := p.staged.filter fun x => x.2.1 != epoch
      shakes := p.shakes.filter fun x => x.1 != epoch
      results := p.results.filter fun x => x.2.epoch != epoch || !p.reaches x.1 }
    let p := (List.range p.nodes.length).foldl (fun (p : Plan) i => p.setEpoch { node := i, epoch := epoch, forwarded := true }) p
    let open_ := (List.range p.members.length).filter fun m => p.reaches m &&
      !p.calls.any fun c => c.member == m && c.epoch == epoch && c.st != 1
    { p with results := p.results ++ open_.map fun m => (m, RResult.aborted epoch code) }

/-- The root sends on what it has committed for an epoch, in commit order (R368). -/
def sendShakes (s : State) (k epoch : Nat) : State :=
  match Keyed.get? s.plans k with
  | none => s
  | some p =>
    modPlan ((p.shakes.filter (·.1 == epoch)).foldl (fun s x => sendTree s p fun i => .planFix k i epoch x.2) s) k fun p =>
      { p with shakes := p.shakes.filter (·.1 != epoch) }

/-- The root forwards: the result goes down to every member, then what it has committed of the epoch, and AUTO sets OFF_(e+2)
(R365, R367, R368). -/
def rootForward (s : State) (k epoch : Nat) (r : Share) : State :=
  match Keyed.get? s.plans k with
  | none => s
  | some p =>
    let r := { r with elems := r.elems.map Elem.anchor }
    let late := p.members.length - r.bitmap.length
    let off := (p.offOf epoch).getD p.offset
    let off' := if p.latefrac * p.members.length < 256 * late then off + max (off / 8) 1
      else if 512 * late < p.latefrac * p.members.length then off - off / 32 else off
    let maxd := p.nodes.foldl (fun m x => max m x.depth) 0
    let x := (p.epochAt p.root epoch).getD { node := p.root, epoch := epoch }
    let res : RResult :=
      { epoch := epoch, share := r, late := late, dlused := (p.deadline x).getD 0
        offused := if 2 ≤ p.dlmode then off else (Config.freeWord s.free 0).toNat % 2 ^ 32 }
    let p' := if p.dlmode = 3 then
        { p with offs := Keyed.put p.offs (epoch + 2) (min (max off' (p.hop * (maxd + 1))) (2 ^ 32 - 1)) } else p
    let p' := if p.kind = 1 then
        (List.range p.nodes.length).foldl (fun (p : Plan) i => p.setEpoch { node := i, epoch := epoch, forwarded := true }) p'
      else p'
    sendShakes (sendTree (modPlan s k fun _ => p') p fun i => .planResult k i res) k epoch

/-- A node's combination goes on: to its parent, or down from the root. -/
def sendUp (s : State) (k node epoch : Nat) (r : Share) : State :=
  match Keyed.get? s.plans k with
  | none => s
  | some p =>
    match (p.node node).parent with
    | none => rootForward s k epoch r
    | some j =>
      if p.nodeGone j then s
      else sendNode s p node j (.forward k node epoch r)

/-- Forwards an epoch at a node: its present slots are combined in ascending order; a user routine does so on a yard core
(R361). -/
def forwardNode (s : State) (k : Nat) (x : NEpoch) : State :=
  match Keyed.get? s.plans k with
  | none => s
  | some p =>
    let (len, root) := ((p.opened.find? fun o => o.1 == x.epoch).map (·.2)).getD (0, 0)
    let s := modPlan s k fun p => p.setEpoch { x with slots := [], forwarded := true }
    let slots := sortSlots x.slots
    let empty := p.none len root ((p.deadline x).getD 0)
    let slots' := slots.filter fun y => !y.2.bitmap.isEmpty
    if p.op = 7 ∧ 1 < slots'.length then
      match slots' with
      | (_, a) :: rest =>
        modPlan s k fun p => { p with jobs := p.jobs ++ [{ node := x.node, epoch := x.epoch, member := none,
                                                           acc := { a with deadline := empty.deadline }, rest := rest }] }
      | [] => s
    else sendUp s k x.node x.epoch { slots.foldl (fun a y => p.merge a y.2) empty with deadline := empty.deadline }

/-- Whether every live slot of a node is present; for a broadcast, whether the root member's data is. -/
def Plan.complete (p : Plan) (x : NEpoch) : Bool :=
  if p.kind = 1 then x.slots.any fun y => !y.2.bitmap.isEmpty
  else (p.liveSlots x.node).all fun i => x.slots.any fun y => y.1 == i

/-- Forwards an epoch at a node when it is complete or its forward tick has come. -/
def pokeNode (s : State) (k node epoch : Nat) : State :=
  match Keyed.get? s.plans k with
  | none => s
  | some p =>
    match p.epochAt node epoch with
    | none => s
    | some x =>
      if ¬ x.forwarded ∧ s.nodeOpen p node ∧ (p.complete x ∨ p.due x (nodeTick s p node)) then
        forwardNode s k x
      else s

/-- A node learns that an epoch is open. -/
def learn (s : State) (k node epoch : Nat) : State :=
  match Keyed.get? s.plans k with
  | none => s
  | some p =>
    if (p.epochAt node epoch).isSome then s
    else pokeNode (modPlan s k fun p => p.setEpoch { node := node, epoch := epoch }) k node epoch

/-- A share that reaches a slot of a node: it opens the epoch, is placed, waits in staging, or is late. -/
def placeShare (s : State) (k node slot epoch : Nat) (r : Share) : State :=
  match Keyed.get? s.plans k with
  | none => s
  | some p =>
    let s := if p.opened.any (·.1 == epoch) then s else
      modPlan s k fun p => { p with opened := p.opened ++ [(epoch, r.len, r.root)] }
    let s := modPlan s k fun p =>
      match p.epochAt node epoch with
      | some x => if x.deadline.isSome then p else p.setEpoch { x with deadline := some r.deadline }
      | none => p.setEpoch { node := node, epoch := epoch, deadline := some r.deadline }
    match Keyed.get? s.plans k with
    | none => s
    | some p =>
      let s := match p.epochAt node epoch with
        | some x => if ¬ x.forwarded ∧ p.due x (nodeTick s p node) then forwardNode s k x else s
        | none => s
      match Keyed.get? s.plans k with
      | none => s
      | some p =>
        match p.epochAt node epoch with
        | none => s
        | some x =>
          if p.opened.any fun o => o.1 == epoch && (o.2.1 != r.len || (p.kind == 1 && o.2.2 != r.root)) then
            abortEpoch s k epoch 5
          else if x.forwarded then
            if p.mode = 2 ∧ p.kind ≠ 1 then sendNode s p node p.root (.shake k node epoch r) else s
          else if ¬ p.buffered node epoch then
            modPlan s k fun p => { p with staged := p.staged ++ [(node, epoch, slot, r)] }
          else
            pokeNode (modPlan s k fun p =>
              p.setEpoch { x with slots := x.slots.filter (fun y => y.1 != slot) ++ [(slot, r)] }) k node epoch

/-- What waited in staging for a slot buffer moves into its slot, in the order of its arrival. -/
def admitStaged (k : Nat) : Nat → State → State
  | 0, s => s
  | n + 1, s =>
    match Keyed.get? s.plans k with
    | none => s
    | some p =>
      match firstIdx p.staged.length fun i => (p.staged[i]?).any fun x =>
          p.buffered x.1 x.2.1 || (p.epochAt x.1 x.2.1).any (·.forwarded) with
      | none => s
      | some i =>
        match p.staged[i]? with
        | none => s
        | some (node, epoch, slot, r) =>
          admitStaged k n (placeShare (modPlan s k fun p => { p with staged := p.staged.eraseIdx i }) k node slot epoch r)

def admitAll (s : State) (k : Nat) : State :=
  match Keyed.get? s.plans k with
  | some p => admitStaged k p.staged.length s
  | none => s

/-- Bytes that a share takes. -/
def Plan.shareLen (p : Plan) (r : Share) : Nat :=
  if r.bitmap.isEmpty then 0 else if p.kind = 2 then r.bitmap.length * r.len else p.resultLen r.len

/-- Whether a member has posted its call of an epoch. -/
def Plan.posted (p : Plan) (m epoch : Nat) : Bool := p.calls.any fun c => c.member == m && c.epoch == epoch

/-- Bytes of staging that a Yard's plans hold: slot buffers, what waits for one, results that wait for their call and corrections
that `redfix` has not taken (R366). -/
def stagingUsed (s : State) (dev : Nat) : Nat :=
  (s.plans.map fun (_, p) =>
    let on (i : Nat) : Bool := (p.node i).dev == dev
    let at_ (m : Nat) : Bool := on (p.member m).node
    (((p.epochs.filter fun x => on x.node).flatMap fun x => x.slots.map fun y => p.shareLen y.2) ++
      ((p.staged.filter fun x => on x.1).map fun x => p.shareLen x.2.2.2) ++
      ((p.results.filter fun x => at_ x.1 && !p.posted x.1 x.2.epoch).map fun x => p.shareLen x.2.share) ++
      (((p.fixes ++ p.held).filter fun x => at_ x.1).map fun x => p.shareLen x.2.2)).sum).sum

/-- Whether a share of so many bytes does not fit into a device's staging. -/
def stagingShort (s : State) (dev n : Nat) : Bool := decide (2 ^ 24 < stagingUsed s dev + n)

/-- Refuses an arrival for lack of staging; a member's contribution counts its refusals (R366). -/
def stagingFull (s : State) (p : Packet) (c : Option (Nat × Nat)) : State :=
  let s := retryLater s p p.dst
  match c with
  | some (eid, block) => if (s.core eid).ctx = some p.asid then blkAdd s eid block 88 4 1 else s
  | none => s

/-- A contribution leaves its member: its bytes are read, and it reaches the member's node.  A read that faults stops it,
and the thread is told later (R371). -/
def contribArrives (s : State) (pk : Packet) (k id : Nat) : State :=
  match (Keyed.get? s.plans k).bind fun p => (p.calls.find? (·.id == id)).map fun c => (p, c) with
  | none => s.dropPkt pk.id
  | some (p, c) =>
    let m := p.member c.member
    let data := p.kind ≠ 1 ∨ c.root = c.member
    if ¬ s.nodeOpen p m.node ∨ (c.st = 4 ∧ c.abort ≠ 4) then (dropLock s pk.src c.id).dropPkt pk.id
    else if stagingShort s (eidDev pk.src) (if p.kind = 0 then p.resultLen c.len else if data then c.len else 0) then
      stagingFull s pk (some (pk.src, c.block))
    else
      match engineAll s pk.src (unitSlot pk.id) s.nextId pk.asid false (c.src : Int) (if data then c.len else 0) with
      | .error (.fault s cause va) =>
        (s.setPkt { pk with state := .refused }).modThr pk.src pk.slot fun t =>
          { t with collFault := t.collFault.filter (·.1 != c.block) ++
              [(c.block, { code := 12, cause := cause, unit := 4, va := va, lane := 255, blk := some c.block })] }
      | .error (.wait s) | .error (.go s) => s
      | .ok bs =>
        let share : Share :=
          { bitmap := if data then [c.member] else [], len := c.len, root := c.root, deadline := c.deadline
            elems := (piecesBy p.inBytes bs (bs.length / p.inBytes)).map p.elemOf }
        let s := answer (dropLock (farDone s pk.src (unitSlot pk.id) 0) pk.src c.id) pk .quiet
        admitAll (placeShare s k m.node m.slot c.epoch share) k

/-- A child node's forward arrives (R364). -/
def forwardArrives (s : State) (pk : Packet) (k node epoch : Nat) (r : Share) : State :=
  match Keyed.get? s.plans k with
  | none => answer s pk .quiet
  | some p =>
    match (p.node node).parent with
    | none => answer s pk .quiet
    | some j =>
      if ¬ s.nodeOpen p j ∨ p.nodeGone node then answer s pk .quiet
      else if stagingShort s (p.node j).dev (p.shareLen r) then stagingFull s pk none
      else admitAll (placeShare (answer s pk .quiet) k j (p.node node).pslot epoch r) k

def contributionArrival (s : State) : State :=
  match readyPkt? s with
  | some pk =>
    (match pk.body with
     | .contrib k id => contribArrives s pk k id
     | .forward k node epoch r => forwardArrives s pk k node epoch r
     | _ => s)
  | none => s

def execContributionArrival (s : State) : Host.Outcome State Fault Refusal := event contributionArrival s

/-- The notice that an epoch is open reaches a Yard: its nodes that learn it together forward deepest first (R364). -/
def epochOpen (s : State) : State :=
  match s.who with
  | [k, node, epoch] =>
    (match Keyed.get? s.plans k with
     | some p =>
       if s.nodeOpen p node ∧ p.opened.any (·.1 == epoch) ∧ (p.epochAt node epoch).isNone then
         let mine := (List.range p.nodes.length).filter fun i => (p.node i).dev == (p.node node).dev
         let maxd := p.nodes.foldl (fun m x => max m x.depth) 0
         let deepest := (List.range (maxd + 1)).flatMap fun d => mine.filter fun i => (p.node i).depth + d == maxd
         admitAll (deepest.foldl (fun s i => learn s k i epoch) s) k
       else s
     | none => s)
  | _ => s

def execEpochOpen (s : State) : Host.Outcome State Fault Refusal := event epochOpen s

def forwardTick (s : State) : State :=
  match s.who with
  | [k, node, epoch] => admitAll (pokeNode s k node epoch) k
  | _ => s

def execForwardTickExpiry (s : State) : Host.Outcome State Fault Refusal := event forwardTick s

/-! ## User routines (R361) -/

/-- A yard core of a device that runs no routine: a trap has ended the one of a job that is gone. -/
def freeYard (s : State) (dev : Nat) : Option Nat :=
  ((List.range 32).map (dev * 4096 + 768 + ·)).find? fun e =>
    (s.core e).threads.all (fun (_, t) => match t.status with | .trapped _ => true | _ => false) &&
      !s.plans.any fun (_, p) => p.jobs.any fun j => j.core == some e

/-- The bytes of a share of a user plan. -/
def shareBytes (r : Share) : List Byte := r.elems.map fun x => match x with | .pat v => BitVec.ofNat 8 v | _ => 0

/-- Starts the routine of a job on a yard core. -/
def startRoutine (s : State) (k : Nat) (p : Plan) (j : Job) (slot : Nat) (v : Share) (y : Nat) : State :=
  let put (s : State) (o : Nat) (bs : List Byte) : State := s.setBytes (((List.range bs.length).map fun i => lmKey y (o + i)).zip bs)
  let s := put (put s 0x10000 (shareBytes j.acc)) 0x20000 (shareBytes v)
  let s := s.modCore y fun c => { c with threads := [], ctx := some p.asid, gran := (List.range 128).map fun g => (g, Region.context) }
  let t := newThread 0 256 [0, 1, 2, 3] 0 0xFFFFFFFF ([0x10000, 0x20000, j.acc.len, slot].map (BitVec.ofNat 64))
  let s := startThread s y 0 { t with routine := some (k, j.node) }
  modPlan s k fun p => { p with jobs := p.jobs.map fun x => if x = j then { j with core := some y } else x }

/-- Which of a plan's combinations by a user routine is meant. -/
def Job.num (j : Job) : Nat := j.member.elim 0 (· + 1)
def Job.named (j : Job) (node epoch w : Nat) : Bool := j.node == node && j.epoch == epoch && j.num == w

/-- A combination by a user routine goes on: a routine starts on a free yard core, its result is taken when it has ended, and
a trap aborts the epoch. -/
def stepJob (s : State) (k : Nat) (p : Plan) (j : Job) : State :=
  match j.core, j.rest with
  | none, (slot, v) :: _ =>
    (match freeYard s (p.node j.node).dev with
     | some y => startRoutine s k p j slot v y
     | none => s)
  | none, [] => s
  | some y, rest =>
    match s.thr? y 0 with
    | some t =>
      (match t.status with
       | .trapped _ =>
         let s := s.modCore y fun c => { c with threads := [] }
         let s := modPlan s k fun p => { p with jobs := p.jobs.filter fun x => x != j }
         let s := abortEpoch s k j.epoch 6
         (match j.member with
          | some m =>
            (match p.calls.find? fun c => c.member == m && c.epoch == j.epoch with
             | some c =>
               blkPut (modPlan (dropLock s (p.member m).eid j.lock) k fun p => p.setCall { c with st := 4, abort := 6 })
                 (p.member m).eid c.block 64 8 (4 + 6 * 256)
             | none => s)
          | none => s)
       | _ => s)
    | none =>
      let bs := (List.range j.acc.len).map fun i => s.byte (lmKey y (0x10000 + i))
      let bm := match rest with | (_, v) :: _ => j.acc.bitmap ++ v.bitmap | [] => j.acc.bitmap
      let acc := { j.acc with bitmap := bm, elems := bs.map fun b => .pat b.toNat }
      let j' : Job := { j with acc := acc, rest := rest.drop 1, core := none }
      if rest.length ≤ 1 ∧ j.member.isNone then
        admitAll (sendUp (modPlan s k fun p => { p with jobs := p.jobs.filter fun x => x != j }) k j.node j.epoch acc) k
      else modPlan s k fun p => { p with jobs := p.jobs.map fun x => if x = j then j' else x }

/-- A combination by a user routine goes on: one of a node's forward, with number 0, or one for member `w - 1`. -/
def userRoutineRun (s : State) : State :=
  match s.who with
  | [k, node, epoch, w] =>
    (match (Keyed.get? s.plans k).bind fun p => (p.jobs.find? fun j => j.named node epoch w).map fun j => (p, j) with
     | some (p, j) => stepJob s k p j
     | none => s)
  | _ => s

def execUserRoutineRun (s : State) : Host.Outcome State Fault Refusal := event userRoutineRun s

/-- The watchdog of a routine: its 65,537th instruction traps. -/
def routineWatchdog (s : State) : State :=
  match s.who with
  | [eid] =>
    (match s.thr? eid 0 with
     | some t =>
       if isYard eid ∧ 65536 ≤ t.issued ∧ t.status = .ready then
         takeTrap s eid 0 { code := 9, ipc := t.pc.toNat, rpc := t.pc.toNat, word := t.word }
       else s
     | none => s)
  | _ => s

def execYardRoutineWatchdog (s : State) : Host.Outcome State Fault Refusal := event routineWatchdog s

/-! ## Results (R367, R370) -/

/-- The VALUE of a `redw` that ends with a result. -/
def redwVal (s : State) (eid block : Nat) : Nat :=
  resWord stOK (blkGet s eid block 64 1 % 16 + blkGet s eid block 72 2 % 2048 * 2 ^ 16)

/-- Ends the `redw` of a core on a call block. -/
def redwWake (s : State) (eid block : Nat) : State :=
  (s.core eid).threads.foldl (fun s (i, t) =>
    match t.status with
    | .waiting w =>
      (match w.what with
       | .call b _ => if b = block then endWait (acquire s eid i 4) eid i w (some (redwVal s eid block)) else s
       | _ => s)
    | _ => s) s

/-- The status of a delivered call, then the wake (R367): an abort changes doubleword 8 alone. -/
def putStatus (s : State) (k : Nat) (p : Plan) (c : Call) (r : RResult) (code : Nat) : State :=
  let eid := (p.member c.member).eid
  let st := if code ≠ 0 then 4 else if p.liveMembers.all r.share.bitmap.contains then 2 else 3
  let s := if code ≠ 0 then blkPut s eid c.block 64 8 (4 + code * 256)
    else
      let s := blkPut s eid c.block 128 128 (bitmapNum r.share.bitmap)
      let s := blkPut s eid c.block 72 8 (r.share.bitmap.eraseDups.length + p.members.length * 2 ^ 16 + r.late * 2 ^ 32)
      let s := blkPut s eid c.block 96 8 r.dlused
      let s := blkPut s eid c.block 104 8 r.offused
      blkPut s eid c.block 64 8 (st + blkFlags r.share.flags * 2 ^ 16)
  let s := modPlan (dropLock s eid (c.id + 1)) k fun p =>
    { p.setCall { c with st := st, abort := code, bitmap := r.share.bitmap } with
      results := p.results.filter fun x => !(x.1 == c.member && x.2.epoch == c.epoch) }
  redwWake s eid c.block

/-- The result at DST: a write that faults ends this member's call alone, with a record (R370). -/
def putResult (s : State) (p : Plan) (c : Call) (r : RResult) : State × Nat :=
  let eid := (p.member c.member).eid
  let bs := p.resultBytes r.share
  match dstKeys s (eidDev eid) p.asid c.dst true bs.length with
  | .ok ks => (collectPut s (eidDev eid) (ks.zip bs), 0)
  | .error (cause, va) =>
    (postRecord s (eidDev eid) p.asid { code := 12, cause := cause, unit := 4, lane := 255, va := va } { eid := eid }, 4)

/-- Delivers a result to a member whose call is posted.  While its core does not host the context, the status waits. -/
def deliverResult (s : State) (k : Nat) (p : Plan) (m : Nat) (r : RResult) : State :=
  match p.calls.find? fun c => c.member == m && c.epoch == r.epoch && c.st == 1 with
  | none => s
  | some c =>
    let eid := (p.member m).eid
    let hosts := (s.core eid).ctx = some p.asid
    match (if hosts then blkOpen s eid c.block else none) with
    | some s => s
    | none =>
      let (s, code) := if r.abort ≠ 0 then (s, r.abort) else if c.wrote then (s, 0) else putResult s p c r
      if hosts then putStatus s k p c r code
      else
        modPlan s k fun p => { p.setCall { c with wrote := true } with
          results := p.results.map fun x => if x.1 = m ∧ x.2.epoch = r.epoch then (m, { r with abort := code }) else x }

/-- The members of a node. -/
def Plan.membersOf (p : Plan) (i : Nat) : List Nat := (List.range p.members.length).filter fun m => (p.member m).node == i

/-- The members of a node that have nothing of an epoch yet. -/
def Plan.awaiting (p : Plan) (i epoch : Nat) : List Nat :=
  (p.membersOf i).filter fun m => !(p.results.any fun x => x.1 == m && x.2.epoch == epoch) &&
    !p.calls.any fun c => c.member == m && c.epoch == epoch && c.st != 1

/-- A result reaches a node: it waits there for the calls of the node's members and goes on to the child nodes (R366, R367). -/
def resultArrives (s : State) (pk : Packet) (k i : Nat) (r : RResult) : State :=
  match Keyed.get? s.plans k with
  | none => answer s pk .quiet
  | some p =>
    let ms := p.awaiting i r.epoch
    let n := ((ms.filter fun m => !p.posted m r.epoch).map fun _ => p.shareLen r.share).sum
    if ¬ s.nodeOpen p i then answer s pk .quiet
    else if 0 < n ∧ stagingShort s (eidDev pk.dst) n then stagingFull s pk none
    else
      sendDown (modPlan (answer s pk .quiet) k fun p => { p with results := p.results ++ ms.map fun m => (m, r) }) p i fun j =>
        .planResult k j r

def resultDelivery (s : State) : State :=
  match s.who with
  | [_] =>
    (match readyBody? s with
     | some (pk, .planResult k i r) => resultArrives s pk k i r
     | _ => s)
  | [k, m, epoch] =>
    (match Keyed.get? s.plans k with
     | some p =>
       (match p.results.find? fun x => x.1 == m && x.2.epoch == epoch with
        | some (_, r) => if p.freed ∨ ¬ (p.reaches m ∨ p.cutOff.contains (p.node (p.member m).node).dev) then s else deliverResult s k p m r
        | none => s)
     | none => s)
  | _ => s

def execResultDelivery (s : State) : Host.Outcome State Fault Refusal := event resultDelivery s

/-! ## Corrections (R368) -/

/-- Whether the root has sent an epoch's result. -/
def Plan.sent (p : Plan) (epoch : Nat) : Bool :=
  (p.epochAt p.root epoch).any (·.forwarded) && !p.jobs.any fun j => j.node == p.root && j.epoch == epoch && j.member.isNone

/-- A shake-out reaches the root, which commits it and sends it on after the epoch's result (R368). -/
def shakeOutCommit (s : State) : State :=
  match readyBody? s with
  | some (pk, .shake k node epoch r) =>
    let s := answer s pk .quiet
    (match Keyed.get? s.plans k with
     | some p =>
       if ¬ s.nodeOpen p p.root ∨ p.nodeGone node then s
       else
         let s := modPlan s k fun p => { p with shakes := p.shakes ++ [(epoch, r)] }
         if p.sent epoch then sendShakes s k epoch else s
     | none => s)
  | _ => s

def execShakeOutCommit (s : State) : Host.Outcome State Fault Refusal := event shakeOutCommit s

/-- A correction reaches a node: it waits in staging for each of the node's members and goes on to the child nodes (R366, R368). -/
def fixArrives (s : State) (pk : Packet) (k i epoch : Nat) (r : Share) : State :=
  match Keyed.get? s.plans k with
  | none => answer s pk .quiet
  | some p =>
    let ms := p.membersOf i
    if ¬ s.nodeOpen p i then answer s pk .quiet
    else if ms ≠ [] ∧ stagingShort s (eidDev pk.dst) (ms.length * p.shareLen r) then stagingFull s pk none
    else
      sendDown (modPlan (answer s pk .quiet) k fun p => { p with fixes := p.fixes ++ ms.map fun m => (m, epoch, r) }) p i fun j =>
        .planFix k j epoch r

/-- The oldest correction at a member's node that can be dealt with: its epoch's corrections are discarded, or its result has been
delivered and the core hosts the context.  What tells its place, epoch, share and call. -/
def dueFix (s : State) (p : Plan) (m : Nat) : Option (Nat × Nat × Share × Call) :=
  if planOpen p then
    p.fixes.zipIdx.findSome? fun ((m', e, r), i) =>
      if m' = m then
        (p.calls.find? fun c => c.member == m && c.epoch == e &&
          (c.discard || (c.st != 1 && (s.core (p.member m).eid).ctx == some p.asid))).map fun c => (i, e, r, c)
      else none
  else none

/-- A correction waits for `redfix`, or is discarded (R363).  DEDUCED (log entry 108): one that comes after the call of epoch e + 2
is not added to DROPS, since the program need not keep the block any longer. -/
def settleFix (s : State) (k : Nat) (p : Plan) (m i e : Nat) (r : Share) (c : Call) : State :=
  let eid := (p.member m).eid
  let gone := modPlan s k fun p => { p with fixes := p.fixes.eraseIdx i }
  if c.discard ∨ (c.st = 4 ∧ c.abort ≠ 4) then gone
  else
    match blkOpen s eid c.block with
    | some s => s
    | none => blkAdd (modPlan gone k fun p => { p with held := p.held ++ [(m, e, r)] }) eid c.block 80 2 1

def correctionArrival (s : State) : State :=
  match s.who with
  | [_] =>
    (match readyBody? s with
     | some (pk, .planFix k i epoch r) => fixArrives s pk k i epoch r
     | _ => s)
  | [k, m] =>
    (match (Keyed.get? s.plans k).bind fun p => (dueFix s p m).map fun x => (p, x) with
     | some (p, i, e, r, c) => settleFix s k p m i e r c
     | none => s)
  | _ => s

def execCorrectionArrival (s : State) : Host.Outcome State Fault Refusal := event correctionArrival s

/-! ## Lost devices (R370) -/

/-- A device is lost for a plan. -/
def loseDevice (s : State) (k d : Nat) : State :=
  match Keyed.get? s.plans k with
  | none => s
  | some p =>
    if p.lost.contains d ∨ p.freed ∨ ¬ p.devs.contains d then s
    else
      let s := modPlan s k fun p => { p with lost := d :: p.lost }
      let rootLost := (p.node p.root).dev = d
      if rootLost ∨ p.mode = 0 then
        let open_ := ((p.calls.filter fun c => c.st == 1).map (·.epoch)).eraseDups
        let s := open_.foldl (fun s e => abortEpoch s k e (if rootLost then 2 else 1)) s
        modPlan s k fun p => { p with dead := true }
      else
        let s := p.epochs.foldl (fun s x => pokeNode s k x.node x.epoch) s
        admitAll s k

/-- A device has lost a plan's root: the plan is dead there, and the pending epochs of its members end with ABORTCODE 2.
DEDUCED (log entry 118): what the other devices see is not touched. -/
def loseRoot (s : State) (k x : Nat) : State :=
  modPlan s k fun p =>
    if p.cutOff.contains x ∨ p.freed ∨ ¬ p.devs.contains x then p
    else
      let open_ := p.calls.filter fun c => c.st == 1 && (p.node (p.member c.member).node).dev == x &&
        !p.results.any fun r => r.1 == c.member && r.2.epoch == c.epoch
      { p with
        cutOff := x :: p.cutOff
        jobs := p.jobs.filter fun j => (p.node j.node).dev != x || j.member.isSome
        results := p.results ++ open_.map fun c => (c.member, RResult.aborted c.epoch 2) }

/-- A device's Yard has lost sight of another node's device, to which it sent up or down the tree (R349, R370).  DEDUCED (log
entry 118): one that cannot reach the root has lost the root, and one that cannot reach its parent node is lost itself. -/
def loseSight (s : State) (k x d : Nat) (up : Bool) : State :=
  match Keyed.get? s.plans k with
  | none => s
  | some p => if (p.node p.root).dev = d then loseRoot s k x else loseDevice s k (if up then x else d)

/-- Whether a device's declaration that another is unreachable counts for a plan: one about the root, or one of the root's device
(log entry 118). -/
def Plan.sees (p : Plan) (s : State) (x d : Nat) : Bool :=
  let r := (p.node p.root).dev
  !p.freed && p.devs.contains x && p.devs.contains d && (s.dev x).unreachable.contains d &&
    ((d == r && !p.cutOff.contains x) || (x == r && d != r && !p.lost.contains d))

/-- A device of a plan has declared another one unreachable (R352, R370). -/
def planDeviceLost (s : State) : State :=
  match s.who with
  | [k, x, d] =>
    (match Keyed.get? s.plans k with
     | some p => if p.sees s x d then loseSight s k x d false else s
     | none => s)
  | _ => s

def execPlanDeviceLost (s : State) : Host.Outcome State Fault Refusal := event planDeviceLost s

/-! ## `cplan` (R356, R357, R373) -/

/-- The members of a descriptor, with the EIDs that a group gives. -/
def readMembers (grp : Option (List Nat)) (ws : List Nat) : Option (List PMem) :=
  (ws.zipIdx).mapM fun (w, k) =>
    let eid := match grp with | some l => l.getD k (2 ^ 22) | none => bits w 21 0
    if bits w 31 22 ≠ 0 ∨ bits w 47 42 ≠ 0 ∨ bits w 63 54 ≠ 0 ∨ (grp.isSome ∧ bits w 21 0 ≠ 0) then none
    else some { eid := eid, node := bits w 41 32, slot := bits w 53 48 }

/-- The nodes of a descriptor; none when a field is out of range or the links form no tree. -/
def readNodes (ws : List Nat) : Option (List PNode) :=
  let raw : List PNode := ws.map fun w =>
    { dev := bits w 9 0, parent := if bits w 26 16 = 0x7FF then none else some (bits w 26 16), pslot := bits w 37 32, depth := 0 }
  if ws.any fun w => bits w 15 10 != 0 || bits w 31 27 != 0 || bits w 63 38 != 0 then none
  else
    (List.range raw.length).mapM fun i =>
      match raw[i]?, Plan.depthOf raw (raw.length + 1) i with
      | some x, some d => some { x with depth := d }
      | _, _ => none

/-- Whether a combination of KIND, OP, LS and ETYPE stands in the table of R359. -/
def combOk (kind op : Nat) (ls : Bool) (ty : Nat) : Bool :=
  let ints := [1, 2, 3, 8, 9, 17, 18, 19]
  match kind, ls with
  | 0, true => op == 1 && ty == 0
  | 0, false =>
    ((op == 1 || op == 2 || op == 3) && (ints.contains ty || ty == 6)) || ((op == 4 || op == 5 || op == 6) && ints.contains ty) ||
      (op == 7 && ty == 0)
  | _, false => (kind == 1 || kind == 2) && op == 0 && ty == 0
  | _, true => false

/-- Whether a plan is valid (R357), its header apart. -/
def planOk (s : State) (p : Plan) : Bool :=
  let slots := p.members.map (fun m => (m.node, m.slot)) ++
    p.nodes.filterMap fun x => x.parent.map fun j => (j, x.pslot)
  let eids := p.members.map (·.eid)
  (p.nodes.filter fun x => x.parent.isNone).length == 1 &&
    p.nodes.all (fun x => s.hasDev x.dev && decide ((p.nodes.filter fun y => y.dev == x.dev).length ≤ 16)) &&
    slots.eraseDups.length == slots.length && eids.eraseDups.length == eids.length &&
    p.members.all fun m => s.hasCore m.eid && match p.nodes[m.node]? with | some x => x.dev == eidDev m.eid | none => false

/-- A descriptor's header and tables as a plan; `none` for one that is not valid. -/
def planOf (s : State) (dev asid : Nat) (h : List Nat) (tab : List Nat) (routine : List Byte) : Option Plan :=
  let d i := h.getD i 0
  let nmem := bits (d 1) 10 0
  let nnode := bits (d 1) 26 16
  let kind := bits (d 0) 1 0
  let mode := bits (d 0) 3 2
  let op := bits (d 0) 6 4
  let dl := bits (d 0) 17 16
  let rl := bits (d 6) 13 0
  let resv := bits (d 0) 15 13 == 0 && bits (d 0) 63 18 == 0 && bits (d 1) 15 11 == 0 && bits (d 1) 31 27 == 0 &&
    bits (d 1) 63 49 == 0 && bits (d 4) 63 32 == 0 && bits (d 5) 63 56 == 0 && bits (d 6) 63 14 == 0 && d 7 == 0
  let grp := if bit (d 1) 48 then (Keyed.get? s.groups (groupKey dev asid (bits (d 1) 47 40))).map (·.eids) else some []
  if ¬ resv ∨ ¬ combOk kind op (bit (d 0) 7) (bits (d 0) 12 8) ∨ mode = 3 ∨ decide (mode = 0) ≠ decide (dl = 0) ∨
      decide (op = 7) ≠ decide (0 < rl) ∨ rl % 8 ≠ 0 ∨ (dl = 3 ∧ bits (d 1) 39 32 = 0) then none
  else
    match grp, readNodes (tab.take nnode) with
    | some g, some ns =>
      (match readMembers (if bit (d 1) 48 then some g else none) (tab.drop nnode) with
       | some ms =>
         let p : Plan :=
           { entry := 64, gen := 0, asid := asid, kind := kind, mode := mode, op := op, ls := bit (d 0) 7
             ty := bits (d 0) 12 8, dlmode := dl, latefrac := bits (d 1) 39 32, pstart := d 2, period := bits (d 3) 31 0
             offset := bits (d 3) 63 32, hop := if bits (d 4) 31 0 = 0 then 2000 else bits (d 4) 31 0
             routine := routine, nodes := ns, members := ms }
         if (bit (d 1) 48 ∧ g.length < nmem) ∨ ¬ planOk s p then none else some p
       | none => none)
    | _, _ => none

/-- Reads a descriptor: the header, the tables and a routine's text. -/
def readPlan (e : Env) (va : Nat) : Except EngineStep (Option Plan) :=
  let rd (a n : Nat) := engineAll e.s0 e.eid e.slot e.s0.nextId e.asid false (a : Int) n
  if va % 8 ≠ 0 then .ok none
  else
    match rd va 64 with
    | .error x => .error x
    | .ok hb =>
      let h := words hb 8
      let nmem := bits (h.getD 1 0) 10 0
      let nnode := bits (h.getD 1 0) 26 16
      if nmem = 0 ∨ 1024 < nmem ∨ nnode = 0 ∨ 1024 < nnode then .ok none
      else
        match rd (va + 64) (8 * (nmem + nnode)), rd (bits (h.getD 5 0) 55 0) (bits (h.getD 6 0) 13 0) with
        | .ok tb, .ok rt => .ok (planOf e.s0 e.dev e.asid h (words tb (nmem + nnode)) rt)
        | .error x, _ => .error x
        | _, .error x => .error x

/-- `cplan`: the descriptor is read and checked, then every node device is asked to prepare.  DEDUCED (log
entry 119): the requests are of class 3. -/
def cplanEff (e : Env) : Except Stop State :=
  e.thread fun _ => do
    match readPlan e (addrOf e.a0) with
    | .error (.fault s c va) => .error (.fail s { e.info c with lane := 255, va := va })
    | .error (.wait s) | .error (.go s) => .error (.start s)
    | .ok none => .ok ((e.upd (farDone e.s e.eid e.slot 0)).doneL [(0, fitRaw e.od.w (resWord stSTATE 0))] 0)
    | .ok (some p) =>
      e.noJoin
      let e := e.upd (farDone e.s e.eid e.slot 0)
      match e.pendL e.od.target 1 with
      | (id, s) =>
        match s.fresh with
        | (k, s) =>
          let p := { p with prep := p.devs, src := some { eid := e.eid, slot := e.slot, pend := id, ipc := e.pc, word := e.t.word } }
          .ok (p.devs.foldl (fun s d => e.send s (yardUnit d) 3 [] 0 (.planPrep k))
            { s with plans := Keyed.put s.plans k p })

def execCplan (f : Fields) (s : State) : Host.Outcome State Fault Refusal := issue (formCplan f) false false cplanEff f s

/-- Whether an entry number is free on a device's Yard. -/
def entryFree (s : State) (d n : Nat) : Bool := !s.plans.any fun (_, p) => p.entry == n && !p.freed && s.holdsPlan p d

/-- Gives the answer of a `cplan`. -/
def planAnswer (s : State) (p : Plan) (v : Nat) : State :=
  match p.src with
  | some r =>
    let w := match (s.thr? r.eid r.slot).bind fun t => t.pend.find? (·.id == r.pend) with
      | some { target := .scal _ w, .. } => w
      | _ => 16
    reply s r.eid r.slot r.pend [(0, fitRaw w v)]
  | none => s

/-- Every node device has prepared: the entry number and GEN are taken and the routine is loaded (R358, R361). -/
def planCommit (s : State) (k : Nat) (p : Plan) : State :=
  match firstIdx 64 fun n => p.devs.all fun d => entryFree s d n with
  | none => planAnswer { s with plans := Keyed.del s.plans k } p (resWord stNOMEM 0)
  | some n =>
    let gen := (p.devs.foldl (fun m d => max m ((Keyed.get? (s.dev d).planGen n).getD 0)) 0 + 1) % 256
    let s := p.devs.foldl (fun s d =>
      let s := s.modDev d fun x => { x with planGen := Keyed.put x.planGen n gen }
      (List.range 32).foldl (fun s y =>
        s.setBytes (((List.range p.routine.length).map fun i => lmKey (d * 4096 + 768 + y) i).zip p.routine)) s) s
    let s := modPlan s k fun p => { p with entry := n, gen := gen, src := none }
    planAnswer s p (resWord stOK (n + gen * 2 ^ 16))

/-- A prepare request reaches a Yard (R373). -/
def planPrepares (s : State) : State :=
  match readyPkt? s with
  | some pk =>
    (match pk.body with
     | .planPrep k =>
       let s := answer s pk .quiet
       (match Keyed.get? s.plans k with
        | some p =>
          let p := { p with prep := p.prep.filter (· != eidDev pk.dst) }
          let s := { s with plans := Keyed.put s.plans k p }
          if p.prep.isEmpty ∧ p.src.isSome then planCommit s k p else s
        | none => s)
     | _ => s)
  | none => s

def execPlanPrepare (s : State) : Host.Outcome State Fault Refusal := event planPrepares s

/-- The plan that a handle names on a device: its Yard holds the entry with that GEN (R358). -/
def planFind (s : State) (asid h dev : Nat) : Option (Nat × Plan) :=
  s.plans.find? fun (_, p) =>
    p.entry == h % 64 && p.gen == bits h 23 16 && p.asid == asid && !p.freed && p.src.isNone && s.holdsPlan p dev

/-- The plan that a handle names anywhere in the pod. -/
def planAny (s : State) (asid h : Nat) : Option (Nat × Plan) :=
  (s.devs.findSome? fun (d, _) => planFind s asid h d)

/-- The check of a plan handle operand (R372). -/
def Env.planHandle (e : Env) (h : Nat) : Except Stop Unit :=
  e.need (bits h 15 6 == 0 && h / 2 ^ 24 == 0) 2

/-- `cplan.free`. -/
def cplanFreeEff (e : Env) : Except Stop State :=
  e.thread fun _ => do
    e.planHandle e.a0
    let out (s : State) (st : Nat) : Except Stop State := .ok ((e.upd s).doneL [(0, fitRaw e.od.w (resWord st 0))] 0)
    match planFind e.s0 e.asid e.a0 e.dev, planAny e.s0 e.asid e.a0 with
    | none, none => out e.s stSTALE
    | some (k, p), _ | none, some (k, p) =>
      if p.calls.any (·.st == 1) then out e.s stSTATE
      else out (modPlan e.s k Plan.discard) stOK

def execCplanFree (f : Fields) (s : State) : Host.Outcome State Fault Refusal :=
  issue (formCplanFree f) false false cplanFreeEff f s

/-! ## `red`, `cbcast`, `cgath` (R371, R372, R374) -/

/-- The start of each page that a range of bytes touches. -/
def pageStarts (va n : Nat) : List Nat :=
  if n = 0 then [] else va :: ((List.range ((va + n - 1) / 4096 - va / 4096)).map fun i => (va / 4096 + 1 + i) * 4096)

/-- The checks of a call's SRC and DST. -/
def callSpan (e : Env) (eb : Nat) (useSrc : Bool) (src srcLen dst dstLen : Nat) : Except Stop Unit := do
  e.need ((!useSrc || src % eb == 0) && dst % eb == 0) 2
  if useSrc then
    for a in pageStarts src srcLen do
      let _ ← xlThread e 255 a 1 false
  for a in pageStarts dst dstLen do
    let (ks, _) ← xlThread e 255 a 1 true
    e.need (ks.all fun k => !keyIsLm k && !keyIsHost k && k / 2 ^ 39 == e.dev) 2

/-- Why a call is turned away before anything is sent. -/
def callStatus (p : Plan) (kind : Nat) (m : Option Nat) (c : Call) (epoch : Nat) : Nat :=
  match m with
  | none => stSTATE
  | some k =>
    if p.kind ≠ kind ∨ p.dead ∨ p.cutOff.contains (eidDev (p.member k).eid) ∨ (p.member k).next % 65536 ≠ epoch ∨ c.len = 0 ∨ 65536 < c.len ∨ c.len % p.inBytes ≠ 0 ∨
        (p.dlmode = 1 ∧ c.deadline = 0) then stSTATE
    else if 2 ≤ (p.calls.filter fun x => x.member == k && x.st == 1).length then stFULL
    else stOK

/-- Corrections of the epoch before the last are discarded when a member calls again (R363). -/
def discardOld (s : State) (k eid m epoch : Nat) : State :=
  match Keyed.get? s.plans k with
  | none => s
  | some p =>
    match p.calls.find? fun c => c.member == m && c.epoch + 2 == epoch with
    | none => s
    | some c =>
      let n := (p.held.filter fun x => x.1 == m && x.2.1 == c.epoch).length
      let s := blkAdd (blkPut s eid c.block 80 2 0) eid c.block 84 2 n
      modPlan s k fun p => { p.setCall { c with discard := true } with
        held := p.held.filter fun x => !(x.1 == m && x.2.1 == c.epoch) }

/-- Posts a call that is accepted: the block's device fields, the locks, the contribution. -/
def postCall (e : Env) (k : Nat) (p : Plan) (m : Nat) (c : Call) (useSrc : Bool) (s : State) (ids : List Nat) : State :=
  let c := { c with id := s.nextId }
  let s := { s with nextId := s.nextId + 2 }
  let span (a n : Nat) : Int × Int := ((a : Int), (a : Int) + n - 1)
  let s := s.modCore e.eid fun x => { x with rlocks := x.rlocks ++
    (if useSrc then [lockOf c.id e.eid false (span c.src c.len)] else []) ++
    [lockOf (c.id + 1) e.eid false (span c.dst (p.resultLen c.len))] }
  let s := discardOld s k e.eid m c.epoch
  let s := modPlan s k fun p => { p with
    calls := p.calls ++ [c]
    members := p.members.mapIdx fun i x => if i = m then { x with next := x.next + 1 } else x }
  let s := blkPut (blkPut s e.eid c.block 64 192 0) e.eid c.block 72 8 (p.members.length * 2 ^ 16)
  let s := blkPut s e.eid c.block 64 8 1
  e.send s (yardUnit e.dev) 5 ids 0 (.contrib k c.id) (sub := p.sub (p.member m).node)

/-- A call of the collectives group. -/
def callEff (kind : Nat) (e : Env) : Except Stop State :=
  e.thread fun _ => do
    let blk := e.b0
    let w ← ownWords e blk 64 32
    let d i := w.getD i 0
    e.planHandle e.a0
    let pk := planFind e.s0 e.asid e.a0 e.dev
    let p := (pk.map (·.2)).getD { (default : Plan) with op := 7 }
    let m := firstIdx p.members.length fun i => (p.member i).eid == e.eid
    let c : Call := { (default : Call) with
      member := m.getD 0, epoch := m.elim 0 fun i => (p.member i).next, block := blk, src := bits (d 0) 55 0, dst := bits (d 1) 55 0
      len := bits (d 2) 31 0, root := bits (d 2) 57 48, deadline := d 3, st := 1 }
    let useSrc : Bool := kind != 1 || m == some c.root
    callSpan e p.inBytes useSrc c.src (min c.len 65536) c.dst (p.resultLen (min c.len 65536))
    match pk with
    | none => .ok (e.doneL [(0, fitRaw e.od.w (resWord stSTALE 0))] 0)
    | some (k, _) =>
      let st := callStatus p kind m c (bits (d 2) 47 32)
      if st ≠ stOK then .ok (e.doneL [(0, fitRaw e.od.w (resWord st 0))] 0)
      else
        e.noJoin
        if 32 < e.c.rlocks.length + 1 + b2n useSrc then .error .block
        else
          let scope := p.members.foldl (fun a x => max a (scopeTo e.eid x.eid)) 2
          match sendRelease e e.s (bit e.f.md 1) scope with
          | .error x => .error x
          | .ok (s, ids) =>
            .ok ((e.upd (postCall e k p c.member c useSrc s ids)).doneL [(0, fitRaw e.od.w (resWord stOK 0))] 0)

def execRed (f : Fields) (s : State) : Host.Outcome State Fault Refusal := issue (formRed f) false false (callEff 0) f s
def execCbcast (f : Fields) (s : State) : Host.Outcome State Fault Refusal := issue (formRed f) false false (callEff 1) f s
def execCgath (f : Fields) (s : State) : Host.Outcome State Fault Refusal := issue (formRed f) false false (callEff 2) f s

/-! ## `redw`, `redr` (R375, R376) -/

def redwEff (e : Env) : Except Stop State :=
  e.thread fun _ => do
    let w ← ownWords e e.a0 64 32
    match e.t.collFault.find? (·.1 == e.a0) with
    | some (_, i) => .error (.trap { i with ipc := e.pc, rpc := e.pc, word := e.t.word })
    | none => .ok ()
    let st := w.getD 8 0 % 16
    if st = 0 then .ok (e.doneL [(0, fitRaw e.od.w (resWord stSTATE 0))] 0)
    else if ¬ readsBound e.t then .error .block
    else if st = 1 then .error (.wait { what := .call e.a0 e.f.imm.toNat, f := e.f, issued := e.s0.cycle e.eid })
    else
      .ok (acquire (e.doneL [(0, fitRaw e.od.w (resWord stOK (st + bits (w.getD 9 0) 10 0 * 2 ^ 16)))] 0) e.eid e.slot 4)

def execRedw (f : Fields) (s : State) : Host.Outcome State Fault Refusal := issue (formRedw f) false false redwEff f s

/-- `redw` ends with EMPTY at its limit, or at a drain request; a faulted contribution makes it issue again (R371, R375). -/
def redwTimeout (s : State) : State :=
  match s.who with
  | [eid, slot] =>
    (match s.thr? eid slot with
     | some t =>
       (match t.status with
        | .waiting w =>
          (match w.what with
           | .call b lim =>
             if t.collFault.any fun x => x.1 == b then enterReady s eid slot t
             else if t.drainReq ∨ (0 < lim ∧ w.issued + lim ≤ s.cycle eid) then
               endWait s eid slot w (some (resWord stEMPTY 0))
             else s
           | _ => s)
        | _ => s)
     | none => s)
  | _ => s

def execRedwTimeout (s : State) : Host.Outcome State Fault Refusal := event redwTimeout s

/-- A rational result of R376. -/
def scaledX (v : FVal) (nm pop : Nat) : XVal :=
  match v with
  | .fin n m e => .fin n (m * nm) pop e
  | v => v.x

/-- One lane of `redr`.  DESIGN CHOICE (log entry 97): an inexact rounding to an integer type sets NX, as in R15, though R8 gives
integer operations no flag. -/
def redrLane (e : Env) (t : Ty) (code pop nm u a : Nat) : Nat × Flags :=
  match t.fmt with
  | some g =>
    if pop = 0 ∨ nm < pop then (fitRaw e.od.w g.nan, fNV)
    else
      let v := floatValue g (a % 2 ^ g.w)
      match roundTo g e.f.rm e.f.sat u (scaledX v nm pop) with
      | (r, fl) => (fitRaw e.od.w r, fl ||| v.snan)
  | none =>
    if pop = 0 ∨ nm < pop then (0, fIDZ)
    else
      let x := srcInt (codeSgn code) (codeBits code) e.oa.w a * nm
      match roundGrid e.f.rm u (decide (x < 0)) x.natAbs pop 0 0 with
      | (k, ex) => (fitInt e.f.sat (codeSgn code) (codeBits code) e.od.w (if x < 0 then -(k : Int) else k), if ex then 0 else fNX)

/-- `redr`. -/
def redrEff (e : Env) : Except Stop State :=
  let code := if e.f.etype.toNat = 0 then 6 else e.f.etype.toNat
  match Ty.ofCode code with
  | none => .ok e.s
  | some t =>
    let pop := bits e.b0 10 0
    let nm := bits e.b0 26 16
    let r := e.dlanes.map fun l => (l, redrLane e t code pop nm (e.t.seed.getD l 1).toNat (e.a l))
    .ok (stepSeeds e 1 (e.doneL (r.map fun x => (x.1, x.2.1)) (r.foldl (fun fl x => fl ||| x.2.2) 0)))

/-- `redr` (R376).  DEDUCED (log entry 120): it is legal on a yard core, as R361 lists it. -/
def execRedr (f : Fields) (s : State) : Host.Outcome State Fault Refusal := issue (formRedr f) true true redrEff f s

/-! ## `redfix` (R377) -/

/-- The latest call of a core that named a call block. -/
def callAt (s : State) (asid eid block : Nat) : Option (Nat × Plan × Call) :=
  (s.plans.flatMap fun (k, p) =>
    if p.asid = asid then
      (p.calls.filter fun c => c.block == block && (p.member c.member).eid == eid).map fun c => (k, p, c)
    else []).foldl (fun b x => match b with | some y => if y.2.2.id < x.2.2.id then some x else b | none => some x) none

/-- Where element `i` of a correction lies, from DST on. -/
def Plan.fixOff (p : Plan) (r : Share) (i : Nat) : Nat :=
  if p.kind = 2 then r.bitmap.getD (i / r.len) 0 * r.len + i % r.len else p.outBytes * i

/-- Applies the elements of a correction from one on; a fault tells the element, its cause and address. -/
def fixElems (p : Plan) (dev dst : Nat) (r : Share) : Nat → Nat → State → Flags → State × Flags × Option (Nat × Nat × Nat)
  | 0, _, s, fl => (s, fl, none)
  | n + 1, i, s, fl =>
    let va := dst + p.fixOff r i
    match dstKeys s dev p.asid va false p.outBytes, dstKeys s dev p.asid va true p.outBytes with
    | .ok ks, .ok _ =>
      let c := r.elems.getD i (.pat 0)
      let (v, f) := if p.kind = 2 then (c, 0) else p.comb (p.elemBack (ks.map s.byte)) c
      fixElems p dev dst r n (i + 1) (collectPut s dev (ks.zip (p.elemBytes v.anchor))) (fl ||| f)
    | .error (c, a), _ | _, .error (c, a) => (s, fl, some (i, c, a))

/-- The block's fields after a correction (R377). -/
def fixStatus (s : State) (k : Nat) (p : Plan) (c : Call) (r : Share) (fl : Flags) : State :=
  let eid := (p.member c.member).eid
  let bm := (c.bitmap ++ r.bitmap).eraseDups
  let st := if p.liveMembers.all bm.contains then 2 else c.st
  let s := blkPut s eid c.block 128 128 (bitmapNum bm)
  let s := blkPut s eid c.block 72 2 bm.length
  let s := blkAdd (blkAdd s eid c.block 80 2 (-1)) eid c.block 82 2 1
  let old := blkGet s eid c.block 64 8
  let s := blkPut s eid c.block 64 8 (st + old / 16 % 2 ^ 12 * 16 + ((old / 2 ^ 16 % 16) ||| blkFlags (fl ||| r.flags)) * 2 ^ 16)
  modPlan s k fun p =>
    let i := (firstIdx p.held.length fun i => (p.held[i]?).any fun x => x.1 == c.member && x.2.1 == c.epoch).getD 0
    { p.setCall { c with st := st, bitmap := bm } with
      held := p.held.eraseIdx i
      half := p.half.filter fun x => !(x.1 == c.member && x.2.1 == c.epoch) }

/-- Applies `n` waiting corrections in commit order; a fault leaves the one at hand waiting, its element recorded. -/
def applyFixes (k id : Nat) : Nat → State → State × Option (Nat × Nat)
  | 0, s => (s, none)
  | n + 1, s =>
    match (Keyed.get? s.plans k).bind fun p => (p.calls.find? (·.id == id)).map fun c => (p, c) with
    | none => (s, none)
    | some (p, c) =>
      match p.held.find? fun x => x.1 == c.member && x.2.1 == c.epoch with
      | none => (s, none)
      | some (_, _, r) =>
        let (i, fl) := ((p.half.find? fun x => x.1 == c.member && x.2.1 == c.epoch).map (·.2.2)).getD (0, 0)
        match fixElems p (eidDev (p.member c.member).eid) c.dst r (r.elems.length - i) i s fl with
        | (s, fl, some (i, cause, va)) =>
          (modPlan s k fun p => { p with
            half := (c.member, c.epoch, i, fl) :: p.half.filter fun x => !(x.1 == c.member && x.2.1 == c.epoch) }, some (cause, va))
        | (s, fl, none) => applyFixes k id n (fixStatus s k p c r fl)

/-- Corrections that wait for a call. -/
def heldFor (p : Plan) (c : Call) : List Share := (p.held.filter fun x => x.1 == c.member && x.2.1 == c.epoch).map (·.2.2)

/-- The engine-fault trap of `redfix`. -/
def fixTrap {α : Type} (e : Env) (s : State) (cause va : Nat) : Except Stop α :=
  .error (.fail s { e.info 12 with cause := cause, unit := 4, va := va })

/-- `redfix` of a user plan: its routine combines on a yard core, while the thread waits. -/
def redfixUser (e : Env) (k : Nat) (p : Plan) (c : Call) (n : Nat) : Except Stop State :=
  let dev := eidDev e.eid
  match p.jobs.find? fun j => j.member == some c.member && j.epoch == c.epoch with
  | some j =>
    if ¬ j.isFor e.eid e.slot ∨ ¬ j.rest.isEmpty ∨ j.core.isSome then .error .block
    else
      let m := j.fixes
      match dstKeys e.s dev p.asid c.dst true c.len with
      | .error (cause, va) => fixTrap e (dropFix e.s0 e.eid e.slot) cause va
      | .ok ks =>
        let s := collectPut (dropFix e.s e.eid e.slot) dev (ks.zip (shareBytes j.acc))
        let s := ((heldFor p c).take m).foldl (fun s r =>
          match (Keyed.get? s.plans k).bind fun p => (p.calls.find? (·.id == c.id)).map fun c => (p, c) with
          | some (p, c) => fixStatus s k p c r 0
          | none => s) s
        .ok ((e.upd (acquire s e.eid e.slot 4)).doneL [(0, fitRaw e.od.w (resWord stOK ((heldFor p c).length - m)))] 0)
  | none =>
    if 32 ≤ e.c.rlocks.length then .error .block
    else
      match dstKeys e.s0 dev p.asid c.dst false c.len with
      | .error (cause, va) => fixTrap e e.s0 cause va
      | .ok ks =>
        let acc : Share := { bitmap := c.bitmap, elems := (ks.map e.s0.byte).map fun b => .pat b.toNat, len := c.len, root := 0, deadline := 0 }
        match e.s0.fresh with
        | (id, s) =>
          let s := modPlan s k fun p => { p with jobs := p.jobs ++ [{
            node := (p.member c.member).node, epoch := c.epoch, member := some c.member
            eid := e.eid, tslot := e.slot, lock := id, fixes := n, acc := acc
            rest := ((heldFor p c).take n).map fun r => (64, r) }] }
          let s := s.modCore e.eid fun x => { x with
            rlocks := x.rlocks ++ [lockOf id e.eid false ((c.dst : Int), (c.dst : Int) + c.len - 1)] }
          .error (.start s)

/-- `redfix`, and `redfix.all` with bit 0 of MOD. -/
def redfixEff (e : Env) : Except Stop State :=
  e.thread fun _ => do
    let _ ← ownWords e e.a0 64 32
    let out (s : State) (st v : Nat) : Except Stop State := .ok ((e.upd s).doneL [(0, fitRaw e.od.w (resWord st v))] 0)
    let end_ (st : Nat) : Except Stop State := out (dropFix e.s e.eid e.slot) st 0
    match callAt e.s0 e.asid e.eid e.a0 with
    | none => end_ stSTATE
    | some (k, p, c) =>
      if p.freed ∨ ¬ e.s0.holdsPlan p e.dev then end_ stSTALE
      else if p.kind = 1 ∨ p.mode ≠ 2 ∨ (c.st ≠ 2 ∧ c.st ≠ 3) then end_ stSTATE
      else if (heldFor p c).isEmpty then end_ stEMPTY
      else if ¬ readsBound e.t then .error .block
      else
        let n := if bit e.f.md 0 then (heldFor p c).length else 1
        if p.op = 7 then redfixUser e k p c n
        else if 32 ≤ e.c.rlocks.length then .error .block
        else
          match applyFixes k c.id n e.s0 with
          | (s, some (cause, va)) => fixTrap e s cause va
          | _ => out (acquire (applyFixes k c.id n e.s).1 e.eid e.slot 4) stOK ((heldFor p c).length - n)

def execRedfix (f : Fields) (s : State) : Host.Outcome State Fault Refusal := issue (formRedfix f) false false redfixEff f s

end Sys2Proof.Machine
end

