-- ==== Sys2Proof/Machine/Conv.lean ====
section
/-! DEFINITION. Conversions, block formats and long sums (R143 to R150). -/

namespace Sys2Proof.Machine

/-! ## `cvt` (R143) -/

/-- The elements of a lane converted in order. -/
def cvtLane (e : Env) (src dst : Ty) (l : Nat) : Nat × Flags :=
  let k := 2 ^ e.f.pk
  let one (j : Nat) : Int × Flags :=
    let p := if k = 1 then
        (if src.fmt.isSome then e.a l % 2 ^ src.width
         else pat src.width (srcInt src.sgn src.width e.oa.w (e.a l)))
      else e.a l / 2 ^ (src.width * j) % 2 ^ src.width
    cvtElem src dst e.f.rm e.f.sat (e.draw l j) p
  if k = 1 then
    let (v, fl) := one 0
    (if dst.fmt.isSome then fitRaw e.od.w v.toNat else fitInt e.f.sat dst.sgn dst.width e.od.w v, fl)
  else
    (List.range k).foldl (fun acc j =>
      let (v, fl) := one j
      (acc.1 + pat dst.width v * 2 ^ (dst.width * j), acc.2 ||| fl)) (0, 0)

def cvtEff (e : Env) : State :=
  match Ty.ofCode e.f.smod.toNat, Ty.ofCode e.f.etype.toNat with
  | some src, some dst =>
    let r := e.dlanes.map fun l => (l, cvtLane e src dst l)
    let vals := r.map fun x => (x.1, x.2.1)
    let fl := r.foldl (fun fl x => fl ||| x.2.2) 0
    let slow := slowType e e.f.smod.toNat || slowType e e.f.etype.toNat
    stepSeeds e (2 ^ e.f.pk) (if slow then e.doneL vals fl else e.doneI vals fl)
  | _, _ => e.s

def execCvt (f : Fields) (s : State) : Host.Outcome State Fault Refusal :=
  issue (formCvt f) true true (fun e => .ok (cvtEff e)) f s

/-! ## Block formats (R144, R145) -/

/-- Lanes of block `b`, and elements per lane, of a `.b16`, `.b32` or `.b64` form. -/
def blockLanes (md b : Nat) : List Nat := if md = 1 then (List.range 16).map (16 * b + ·) else List.range 32
def perLane (md : Nat) : Nat := if md = 3 then 2 else 1

/-- The quantised block: its candidate and flags.  Elements of inactive lanes round in RNE. -/
def quantBlock (e : Env) (fmt : Bx) (b : Nat) : BxCand × Bool × Bool :=
  let n := perLane e.f.md
  let ls := blockLanes e.f.md b
  bxQuantise fmt (ls.flatMap fun l => (List.range n).map fun j => e.a l / 2 ^ (32 * j) % 2 ^ 32)
    (ls.flatMap fun l => (List.range n).map fun j => if e.act l then (e.f.rm, e.draw l j) else (.rne, 0))

def bxqEff (e : Env) : State :=
  match Bx.ofCode e.f.etype.toNat with
  | none => e.s
  | some fmt =>
    let n := perLane e.f.md
    let blocks := (List.range (if e.f.md = 1 then 2 else 1)).map (quantBlock e fmt)
    let vals := e.lanes.map fun l =>
      let b := if e.f.md = 1 then l / 16 else 0
      let i := if e.f.md = 1 then l % 16 else l
      let c := (blocks.getD b (⟨0, []⟩, false, false)).1
      (l, c.md * 2 ^ 16 + (List.range n).foldl (fun acc j => acc + c.codes.getD (n * i + j) 0 * 2 ^ (fmt.ebits * j)) 0)
    let fl := blocks.zipIdx.foldl (fun (fl : Flags) (q, b) =>
      if (blockLanes e.f.md b).any e.act then
        fl ||| (if q.2.1 then fNV else 0) ||| (if q.2.2 then fNX else 0)
      else fl) 0
    stepSeeds e n (e.doneL vals fl)

def execBxq (f : Fields) (s : State) : Host.Outcome State Fault Refusal :=
  issue (formBxq f) true true (fun e => .ok (bxqEff e)) f s

/-- A lane of `bxd`: its own codes with its own metadata; a signalling code sets NV (R11). -/
def bxdLane (e : Env) (fmt : Bx) (l : Nat) : Nat × Flags :=
  let v := e.a l
  (List.range (perLane e.f.md)).foldl (fun acc j =>
    let x := bxValue fmt (bits v 31 16) (v / 2 ^ (fmt.ebits * j) % 2 ^ fmt.ebits)
    let r := roundTo .fp32 e.f.rm e.f.sat (e.draw l j) x.x
    (acc.1 + r.1 * 2 ^ (32 * j), acc.2 ||| r.2 ||| x.snan)) (0, 0)

def bxdEff (e : Env) : State :=
  match Bx.ofCode e.f.etype.toNat with
  | none => e.s
  | some fmt =>
    let r := e.lanes.map fun l => (l, bxdLane e fmt l)
    stepSeeds e (perLane e.f.md)
      (e.doneL (r.map fun x => (x.1, x.2.1)) (r.foldl (fun fl x => fl ||| x.2.2) 0))

def execBxd (f : Fields) (s : State) : Host.Outcome State Fault Refusal :=
  issue (formBxd f) true true (fun e => .ok (bxdEff e)) f s

/-! ## Long sums (R146 to R150) -/

/-- The pattern of a long sum as a pair. -/
def LongSum.pair (x : LongSum) : Nat := x.word0 + 2 ^ 64 * x.word1

/-- The long sum of a pair's pattern. -/
def LongSum.ofPair (v : Nat) : LongSum := LongSum.of (v % 2 ^ 64) (v / 2 ^ 64)

/-- `lsmk` of a lane (R148): ETYPE 0 selects FP64. -/
def lsmkVal (e : Env) (l : Nat) : LongSum :=
  match Ty.ofCode (if e.f.etype = 0 then 7 else e.f.etype.toNat) with
  | none => lsOfInt 0
  | some t =>
    match t.fmt with
    | some f => lsOfFloat (floatValue f (e.a l % 2 ^ f.w))
    | none => lsOfInt (srcInt t.sgn t.width e.oa.w (e.a l))

/-- The flags of `lsmk` in a lane: a signalling NaN is an invalid operand (R11). -/
def lsmkFlags (e : Env) (l : Nat) : Flags :=
  match (Ty.ofCode (if e.f.etype = 0 then 7 else e.f.etype.toNat)).bind Ty.fmt with
  | some f => (floatValue f (e.a l % 2 ^ f.w)).snan
  | none => 0

/-- `lsmk`: a NaN sets the sum's INVALID, and NV of FPSR when it is signalling (R11, R31, R148). -/
def execLsmk (f : Fields) (s : State) : Host.Outcome State Fault Refusal :=
  issue (formLsmk f) true true
    (fun e => .ok (e.wideI 2 (e.dlanes.map fun l => (l, (lsmkVal e l).pair)) (e.dlanes.foldl (fun fl l => fl ||| lsmkFlags e l) 0))) f s

def lsaddVal (e : Env) (l : Nat) : LongSum :=
  lsAdd2 (LongSum.ofPair (e.rd 1 (Env.wide e.oa 2) l)) (LongSum.ofPair (e.rd 2 (Env.wide e.ob 2) l))

def execLsadd (f : Fields) (s : State) : Host.Outcome State Fault Refusal :=
  issue (formLsadd f) true true
    (fun e => .ok (e.wideL 2 (e.dlanes.map fun l => (l, (lsaddVal e l).pair)) 0)) f s

/-- Exponents from ±40000 on overflow or underflow alike in every format. -/
def clampExp (l : Int) : Int := max (-40000) (min 40000 l)

/-- `lscvt` of a lane: the destination's format, ETYPE 0 selecting FP64. -/
def lscvtVal (e : Env) (l : Nat) : Nat × Flags :=
  let t := ((Ty.ofCode (if e.f.etype = 0 then 7 else e.f.etype.toNat)).bind Ty.fmt).getD .fp64
  if e.f.md = 0 then
    let x := LongSum.ofPair (e.rd 1 (Env.wide e.oa 2) l)
    lsToFloat t e.f.rm e.f.sat (e.draw l 0) x.m x.e x.flags
  else
    let v := e.rd 1 (Env.wide e.oa 4) l
    let b := bits v 247 240
    lsToFloat t e.f.rm e.f.sat (e.draw l 0) (signed 160 v) (clampExp (signed 32 (bits v 223 192)))
      ⟨bit b 0, bit b 1, bit b 2, bit b 3⟩

/-- `lscvt` (R150); a wide long sum with a reserved bit of bytes 30 and 31 set traps. -/
def lscvtEff (e : Env) : Except Stop State :=
  match e.dlanes.find? fun l => e.f.md == 1 && bits (e.rd 1 (Env.wide e.oa 4) l) 255 244 != 0 with
  | some l => e.trapLane 2 (if e.od.isVec then l else 255) 0
  | none =>
    let r := e.dlanes.map fun l => (l, lscvtVal e l)
    .ok (stepSeeds e 1
      (e.doneL (r.map fun x => (x.1, fitRaw e.od.w x.2.1)) (r.foldl (fun fl x => fl ||| x.2.2) 0)))

def execLscvt (f : Fields) (s : State) : Host.Outcome State Fault Refusal :=
  issue (formLscvt f) true true lscvtEff f s

end Sys2Proof.Machine
end

