-- ==== Sys2Proof/Machine/EdgeEv.lean ====
section
/-! DEFINITION. Edge rings: reservations, tokens, end-of-stream marks and drain markers (R193 to R197, R385). -/

namespace Sys2Proof.Machine

/-! ## Reservations (R195) -/

/-- The reservation request that a step acts on: one that stands at the ring, or the one that has waited there longest. -/
def reservation? (s : State) : Option (Packet × Nat) :=
  match s.who with
  | [id] => (s.pkt? id).bind fun p =>
      match p.body with
      | .edgeResv g => if p.ready s ∨ p.state = .recorded then some (p, g) else none
      | _ => none
  | _ => none

/-- A request reaches the ring, which grants requests in the order in which they reach it; a ring that is gone answers, and
the `ewrite` finds its port unbound. -/
def reserve (s : State) : State :=
  match reservation? s with
  | none => s
  | some (p, id) =>
    match s.edge? id with
    | none => answer s p (.result [])
    | some g =>
      if g.ntok = 0 then answer s p (.result [])
      else if ¬ g.placed then s
      else
        let q := g.waiting s
        if q.headD p.id = p.id ∧ ¬ g.full then
          answer (s.setEdge { g with resv := g.resv + 1, waitq := q.filter (· != p.id) }) p .quiet
        else if q.contains p.id then s
        else (s.setPkt { p with state := .recorded }).setEdge { g with waitq := q ++ [p.id] }

def execEdgeReservation (s : State) : Host.Outcome State Fault Refusal := event reserve s

/-! ## Tokens and marks -/

/-- Restarts the quiet window of the instance of an edge's consumer (R302). -/
def touchEdge (s : State) (g : Edge) : State :=
  match s.rec? g.cons with
  | some r => s.touchInst (State.hDev g.cons) r.asid r.gid
  | none => s

/-- A token's bytes reach its slot, and the token joins the ring's queue. -/
def putToken (s : State) (g : Edge) (bs : List Byte) : State :=
  let k := g.wcount % g.ntok
  let keys := (List.range bs.length).map fun i => lmKey g.core (g.off + 64 + k * g.stride + i)
  let s := putBytes s (keys.zip bs)
  let g := { g with wcount := g.wcount + 1, resv := g.resv - 1, queue := g.queue ++ [.data k] }
  touchEdge (putCounts (s.setEdge g) g) g

def tokenArrives (s : State) : State :=
  match readyPkt? s with
  | some p =>
    (match p.body with
     | .edgeToken id bs =>
       (match s.edge? id with
        | some g => answer (if g.ntok = 0 then s else putToken s g bs) p .quiet
        | none => answer s p .quiet)
     | _ => s)
  | none => s

def execEdgeTokenArrival (s : State) : Host.Outcome State Fault Refusal := event tokenArrives s

/-- A core's end-of-stream mark: NPROD falls, and the last mark joins the queue (R197). -/
def putEos (s : State) (g : Edge) : State :=
  let n := g.nprod - 1
  let g := { g with nprod := n, queue := if n = 0 then g.queue ++ [.eos] else g.queue }
  ((s.setEdge g).wr (lmKey g.core (g.off + 12)) 1 n).mend (lmKey g.core (g.off + 12)) 1

def eosArrives (s : State) : State :=
  match readyPkt? s with
  | some p =>
    (match p.body with
     | .eosMark id _ =>
       (match s.edge? id with
        | some g => answer (if g.ntok = 0 ∨ g.nprod = 0 then s else putEos s g) p .quiet
        | none => answer s p .quiet)
     | _ => s)
  | none => s

def execEosMarkArrival (s : State) : Host.Outcome State Fault Refusal := event eosArrives s

/-! ## Drain markers (R385) -/

/-- Whether anything of an edge's producer is still on its way to the ring. -/
def edgeBusy (s : State) (g : Edge) : Bool :=
  (s.net.any fun p => match p.body with
    | .edgeToken id _ | .edgeResv id | .eosMark id _ => id == g.id
    | _ => false) ||
  s.cores.any fun (_, c) => c.mxq.any fun m => m.kind == 5 && m.sb == g.id

/-- Whether a draining ring gets its marker now: its producer's threads have ended, and not all of its producers have
written end-of-stream. -/
def markerDue (s : State) (g : Edge) : Bool :=
  g.placed && g.ntok != 0 && g.nprod != 0 && !g.marker && (s.taskThreads g.prod).isEmpty && !edgeBusy s g &&
    match s.rec? g.cons with
    | some r => s.insts.any fun (d, i) => d == State.hDev g.cons && i.asid == r.asid && i.gid == r.gid && i.draining
    | none => false

def drainMarker (s : State) : State :=
  match s.who with
  | [id] =>
    (match s.edge? id with
     | some g => if markerDue s g then s.setEdge { g with queue := g.queue ++ [.drain], marker := true } else s
     | none => s)
  | _ => s

def execDrainMarkerInject (s : State) : Host.Outcome State Fault Refusal := event drainMarker s

end Sys2Proof.Machine
end

