-- ==== Sys2Proof/Machine/Msg.lean ====
section
/-! DEFINITION. Active messages, mailboxes, queue objects and splicing (R317 to R342). -/

namespace Sys2Proof.Machine

/-! ## Sends (R324, R325, R329) -/

/-- The four words of an argument quad. -/
def quad (e : Env) : List Nat :=
  let v := e.rd 3 (Env.wide e.oc 4) 0
  (List.range 4).map fun i => v / 2 ^ (64 * i) % 2 ^ 64

/-- Sends a message whose acceptance, and for `amr` the reply, are awaited as one result. -/
def sendMsg (e : Env) (dst need : Nat) (nr : Bool) (tg : Target) (body : Body) : Except Stop State := do
  e.noJoin
  match sendRelease e e.s nr (scopeTo e.eid dst) with
  | .error x => .error x
  | .ok (s, ids) =>
    match (e.upd s).pendL tg need with
    | (p, s) => .ok (e.send s dst 1 ids p body)

def amEff (e : Env) : Except Stop State :=
  e.thread fun _ => do
    let dst ← e.target
    if bit e.f.md 0 then
      e.need (e.b0 % 8 == 0 && decide (e.b0 + 31 ≤ 0x7FFFF)) 2
      sendMsg e dst 1 (bit e.f.md 1) .none (.deposit e.b0 (quad e) (e.f.imm.toNat % 65536))
    else sendMsg e dst 1 (bit e.f.md 1) .none (.am e.b0 (quad e) false)

def execAm (f : Fields) (s : State) : Host.Outcome State Fault Refusal := issue (formAm f false) true false amEff f s

def execAmD (f : Fields) (s : State) : Host.Outcome State Fault Refusal := issue (formAm f true) true false amEff f s

/-- `amr`: its result waits for the acceptance and for the reply. -/
def amrEff (e : Env) : Except Stop State :=
  e.thread fun _ => do
    let dst ← e.target
    sendMsg e dst 2 (bit e.f.md 1) e.od.target (.am e.b0 (quad e) true)

def execAmr (f : Fields) (s : State) : Host.Outcome State Fault Refusal := issue (formAmr f) false false amrEff f s

/-- `hend` (R326): the handler's writes are performed at core scope, the reply goes back, the slot is free. -/
def hendEff (e : Env) : Except Stop State :=
  e.thread fun _ => do
    e.settled
    e.deferredFirst
    if ¬ (ownWrites e.s0 e.eid e.slot 15 0).isEmpty then .error .block
    else
      let s := tryFreeze ((orphan e.s e.eid e.slot).modCore e.eid fun c => { c with threads := Keyed.del c.threads e.slot }) e.eid
      match e.t.replyTo with
      | none => .ok s
      | some r =>
        .ok (sendPacket s { (default : Packet) with
          asid := e.asid, src := e.eid, dst := r.eid, slot := r.slot, pend := r.pend, cls := 6
          body := .amrReply (if e.f.md = 1 then e.a0 else 0), ipc := r.ipc, word := r.word })

def execHend (f : Fields) (s : State) : Host.Outcome State Fault Refusal := issue (formHend f) true false hendEff f s

/-- `mbsend` (R329); in a handler slot it acts as `.nb` (R331). -/
def mbsendEff (e : Env) : Except Stop State :=
  e.thread fun _ => do
    let dst ← e.target
    e.noJoin
    e.request (bit e.f.md 1) (scopeTo e.eid dst) dst 2
      (.mbox (e.f.imm.toNat % 4) e.b0 (bit e.f.md 0 || decide (16 ≤ e.slot)))

def execMbsend (f : Fields) (s : State) : Host.Outcome State Fault Refusal :=
  issue (formMbsend f) true false mbsendEff f s

/-- `mbcnt` (R332). -/
def mbcntVal (e : Env) : Nat :=
  let n k := (e.c.mboxes.getD k []).length
  if e.f.md = 0 then n (simm14 e.f.b).toNat else ((List.range 4).map fun k => n k * 2 ^ (8 * k)).sum

def execMbcnt (f : Fields) (s : State) : Host.Outcome State Fault Refusal :=
  issue (formMbcnt f) true false
    (fun e => e.thread fun _ => .ok (e.doneL [(0, fitRaw e.od.w (mbcntVal e))] 0)) f s

/-! ## At the target core (R318, R320, R324) -/

/-- Whether an address lies in a handler range of a context (R317). -/
def handlerOk (s : State) (dev asid addr : Nat) : Bool :=
  addr % 8 == 0 && match s.ctx? dev asid with
    | some c => c.handlers.any fun (a, b) => decide (a ≤ addr) && decide (addr < b)
    | none => false

/-- The reason to refuse a message, from the checks of every form. -/
def refusalOf (s : State) (p : Packet) : Option Nat :=
  if ¬ s.hasCore p.dst then some 1 else if (s.core p.dst).ctx ≠ some p.asid then some 2 else none

/-- An active message arrives; a full handler queue delays it. -/
def activeMessageArrives (s : State) (p : Packet) : State :=
  match p.body with
  | .am addr args rep =>
    (match refusalOf s p with
     | some r => answer s p (.refuse r)
     | none =>
       if ¬ handlerOk s (eidDev p.dst) p.asid addr then answer s p (.refuse 3)
       else if 64 ≤ (s.core p.dst).handlerQ.length then s
       else
         let r : Option ReplyTo :=
           if rep then some { eid := p.src, slot := p.slot, pend := p.pend, ipc := p.ipc, word := p.word } else none
         answer (s.modCore p.dst fun c => { c with handlerQ := c.handlerQ ++ [.am addr args r] }) p .quiet)
  | _ => s

def execActiveMessageArrival (s : State) : Host.Outcome State Fault Refusal :=
  event (fun s => match readyPkt? s with | some p => activeMessageArrives s p | none => s) s

/-- The head of the handler queue takes the lowest-numbered free handler slot (R92, R320). -/
def handlerStart (s : State) : State :=
  match s.who with
  | [eid] =>
    let c := s.core eid
    (match c.handlerQ, freeHandler c with
     | .am addr args r :: rest, some slot =>
       if c.frozen ∨ c.freezing.isSome then s
       else
         let s := (acquire s eid slot 4).modCore eid fun c => { c with handlerQ := rest, startNo := c.startNo + 1 }
         let t := newThread addr 64 [] 0 0xFFFFFFFF (args.map (BitVec.ofNat 64))
         startThread s eid slot { t with hslot := true, startNo := c.startNo, replyTo := r }
     | _, _ => s)
  | _ => s

def execHandlerStart (s : State) : Host.Outcome State Fault Refusal := event handlerStart s

/-- Counts bytes under a tag: the lowest-numbered entry that holds it; a complete one sends its decrement and is free
(R294). -/
def countTag (s : State) (eid tag n : Nat) : State :=
  let c := s.core eid
  match c.match_.find? fun x => x.2.tag == tag with
  | none => s
  | some (i, m) =>
    if m.count + n < m.target then
      s.setCore eid { c with match_ := Keyed.put c.match_ i { m with count := m.count + n } }
    else
      sendDecr (s.setCore eid { c with match_ := Keyed.del c.match_ i }) eid (c.ctx.getD 0) m.handle 1 m.opmask 0 0 []

/-- One of the four 8-byte stores of a deposit, word 0 first; after the last its bytes are counted (R324). -/
def depositWord (s : State) (p : Packet) (off : Nat) (args : List Nat) (tag : Nat) : State :=
  let s := putNum s (lmKey p.dst off) 8 (args.headD 0)
  if args.length ≤ 1 then answer (countTag s p.dst tag 32) p .quiet
  else s.setPkt { p with body := .deposit (off + 8) (args.drop 1) tag }

/-- A deposit arrives (R318, R324), or goes on with its next store. -/
def depositArrives (s : State) (p : Packet) : State :=
  match p.body with
  | .deposit off args tag =>
    if args.length < 4 then depositWord s p off args tag
    else
    (match refusalOf s p with
     | some r => answer s p (.refuse r)
     | none =>
       let c := s.core p.dst
       if ¬ c.lmOk off 32 ∨ s.inHeader p.dst off 32 then answer s p (.refuse 4)
       else
         let ks := (List.range 32).map (lmKey p.dst off + ·)
         (match emptyGran s ks with
          | some x => fillForPacket s p x
          | none => depositWord s p off args tag))
  | _ => s

def execDepositArrival (s : State) : Host.Outcome State Fault Refusal :=
  event (fun s => match readyPkt? s with | some p => depositArrives s p | none => s) s

/-- A refusal reaches its sender, which is told at the marker (R319). -/
def refusalArrives (s : State) (p : Packet) : State :=
  match p.body with
  | .refusal r ipc => takeRefusal (s.dropPkt p.id) p.dst p.slot p.pend r ipc p.word p.src
  | _ => s

def execMessageRefused (s : State) : Host.Outcome State Fault Refusal :=
  event (fun s => match readyPkt? s with | some p => refusalArrives s p | none => s) s

/-- A pattern fitted to a scalar result. -/
def fitPend (s : State) (eid slot id v : Nat) : Nat :=
  match (s.thr? eid slot).bind fun t => t.pend.find? (·.id == id) with
  | some { target := .scal _ w, .. } => fitRaw w v
  | _ => fitRaw 16 v

/-- The reply of a handler reaches the sender of its `amr`. -/
def amrReplyArrives (s : State) (p : Packet) : State :=
  match p.body with
  | .amrReply v => reply (s.dropPkt p.id) p.dst p.slot p.pend [(0, fitPend s p.dst p.slot p.pend v)]
  | _ => s

def execAmrReply (s : State) : Host.Outcome State Fault Refusal :=
  event (fun s => match readyPkt? s with | some p => amrReplyArrives s p | none => s) s

/-! ## Mailboxes at the target (R328 to R331) -/

/-- A mailbox has room for an entry: a place of its own, or one that is not reserved. -/
def mbRoom (c : Core) (k pkt : Nat) : Bool :=
  c.mbResv.any (fun r => r.box == k && r.pkt == pkt) ||
    decide ((c.mboxes.getD k []).length + (c.mbResv.filter (·.box == k)).length < 64)

/-- Entries that reach a core in one cycle are accepted in descending mailbox number (R328). -/
def boxTurn (s : State) (p : Packet) : Bool :=
  match p.body with
  | .mbox k .. => let m := (s.core p.dst).mbAt; m.1 != s.cycle p.dst || decide (k ≤ m.2)
  | _ => true

/-- A recorded sender, and one that holds a reservation, of a mailbox: at most 16 (R330). -/
def recordedAt (c : Core) (k : Nat) : Nat := (c.mbRec.getD k []).length + (c.mbResv.filter (·.box == k)).length

/-- A reserved place lapses: its sender goes to the end of the record, and the place is offered again (R330). -/
def lapse (s : State) (eid : Nat) (r : MbResv) : State :=
  let s := s.modCore eid fun c =>
    { c with mbResv := c.mbResv.filter (·.pkt != r.pkt)
             mbRec := c.mbRec.set r.box (c.mbRec.getD r.box [] ++ [r.pkt]) }
  offerPlace { s with net := s.net.map fun q => if q.id = r.pkt then { q with state := .recorded } else q } eid r.box

/-- The places of a core whose 512 cycles have passed lapse before an entry is looked at. -/
def lapseDue (s : State) (eid : Nat) : State :=
  ((s.core eid).mbResv.filter fun r => decide (r.until_ ≤ s.cycle eid)).foldl (fun s r => lapse s eid r) s

/-- An entry is refused as full; the refusal of one from another device travels back (R329, R351). -/
def refuseFull (s : State) (p : Packet) : State := if p.crosses then s.setPkt (p.withReply .full) else fullTaken s p

/-- A mailbox entry arrives; one whose own place has lapsed waits for another offer. -/
def mailboxArrives (s : State) (p : Packet) : State :=
  if (s.core p.dst).mbResv.any fun r => r.pkt == p.id && decide (r.until_ ≤ s.cycle p.dst) then lapseDue s p.dst
  else
  let s := lapseDue s p.dst
  match p.body with
  | .mbox k v nb =>
    let c := s.core p.dst
    if ¬ s.hasCore p.dst ∨ c.ctx ≠ some p.asid then answerWord s p (resWord stSTATE 0)
    else if mbRoom c k p.id then
      let s := s.setCore p.dst { c with
        mboxes := c.mboxes.set k (c.mboxes.getD k [] ++ [BitVec.ofNat 64 v])
        mbAt := (s.cycle p.dst, k)
        mbResv := c.mbResv.filter (·.pkt != p.id) }
      answerWord s p (resWord stOK 0)
    else
      let n := p.tries + 1
      if n < 17 then refuseFull s { p with tries := n }
      else if nb then answerWord s p (resWord stFULL 0)
      else if recordedAt c k < 16 then
        (s.setPkt { p with state := .recorded, tries := n }).setCore p.dst
          { c with mbRec := c.mbRec.set k (c.mbRec.getD k [] ++ [p.id]) }
      else refuseFull s { p with tries := n }
  | _ => s

def execMailboxEntryArrival (s : State) : Host.Outcome State Fault Refusal :=
  event (fun s => match readyPkt? s with | some p => if boxTurn s p then mailboxArrives s p else s | none => s) s

/-- A refused entry is sent again when its time has come: within the budget, or past it when the record was full. -/
def resendMbox (spent : Bool) (s : State) : State :=
  match s.who with
  | [id] =>
    (match s.pkt? id with
     | some p =>
       if p.state = .refused ∧ p.body.box.isSome ∧ decide (17 ≤ p.tries) = spent ∧ p.due ≤ s.cycle p.src then renewPkt s p.id
       else s
     | none => s)
  | _ => s

def execMbsendRetry (s : State) : Host.Outcome State Fault Refusal := event (resendMbox false) s
def execMbsendRecordRetry (s : State) : Host.Outcome State Fault Refusal := event (resendMbox true) s

def reservationExpires (s : State) : State :=
  match s.who with
  | [eid, id] =>
    (match (s.core eid).mbResv.find? (·.pkt == id) with
     | some r => if s.cycle eid < r.until_ then s else lapse s eid r
     | none => s)
  | _ => s

def execMailboxReservationExpiry (s : State) : Host.Outcome State Fault Refusal := event reservationExpires s

/-! ## Queue objects (R333 to R341) -/

/-- The home device and physical address that a queue address routes to; an address in no Kwezia device's DRAM matches no queue
entry (R334, R335). -/
def queueHome (e : Env) : Except Stop (Nat × Nat) :=
  let va := addrOf e.a0
  if 0xF0 * 2 ^ 48 ≤ va then .ok (e.dev, 2 ^ 40)
  else
    match xlThread e 255 va 1 false with
    | .error x => .error x
    | .ok (ks, _) =>
      let k := ks.headD 0
      .ok (if keyIsHost k ∨ keyIsLm k ∨ ¬ e.s0.hasDev (k / 2 ^ 39) then (e.dev, 2 ^ 40) else (k / 2 ^ 39, k % 2 ^ 39))

/-- Sends an operation on a queue object, with a result of `w` slices. -/
def queueReq (e : Env) (nr acq : Bool) (dev : Nat) (body : Body) : Except Stop State := do
  e.noJoin
  match sendRelease e e.s nr (scopeYard e.eid dev) with
  | .error x => .error x
  | .ok (s, ids) =>
    match (e.upd s).pendL (if acq then (Env.wide e.od 2).target else e.od.target) 1 with
    | (p, s) =>
      let s := s.modThr e.eid e.slot fun t => { t with pend := t.pend.map fun x => if x.id = p then { x with acq := acq } else x }
      .ok (e.send s (yardUnit dev) 4 ids p body)

def pushEff (e : Env) : Except Stop State :=
  e.thread fun _ => do
    let (d, pa) ← queueHome e
    queueReq e (bit e.f.md 1) false d (.push pa e.b0)

def execPush (f : Fields) (s : State) : Host.Outcome State Fault Refusal := issue (formPush f) true false pushEff f s

def execPop (f : Fields) (s : State) : Host.Outcome State Fault Refusal :=
  issue (formPop f) true false (fun e => e.thread fun _ => do
    let (d, pa) ← queueHome e
    queueReq e true true d (.pop pa none)) f s

def popWEff (e : Env) : Except Stop State :=
  e.thread fun _ => do
    e.need (decide (e.b0 < 2 ^ 32)) 2
    let (d, pa) ← queueHome e
    queueReq e true true d (.pop pa (some e.b0))

def execPopW (f : Fields) (s : State) : Host.Outcome State Fault Refusal := issue (formPopW f) false false popWEff f s

/-- The page of an address: a range entry maps pages of 4 KiB (R210), else it is that of the TLB entry that translates it. -/
def pageSpan (e : Env) (va : Nat) : Nat × Nat :=
  let vpn := va / 4096
  match rangeFind (((e.s0.ctx? e.dev e.asid).map (·.ranges)).getD []) vpn with
  | some _ => (vpn * 4096, (vpn + 1) * 4096)
  | none =>
    match (e.c.tlb ++ (e.s0.tile (eidTile e.eid)).tlb).find? fun t =>
        t.asid == e.asid && decide (t.vpn ≤ vpn) && decide (vpn < t.vpn + t.pages) with
    | some t => (t.vpn * 4096, (t.vpn + t.pages) * 4096)
    | none => (vpn * 4096, (vpn + 1) * 4096)

/-- `qmk` (R335). -/
def qmkEff (e : Env) : Except Stop State :=
  e.thread fun _ => do
    let va := addrOf e.a0
    let v := e.b0
    let logn := bits v 12 8
    e.need (va % 64 == 0 && bits v 7 1 == 0 && bits v 15 13 == 0 && bits v 63 29 == 0 && decide (logn ≤ 20)) 2
    let w ← xlThread e 255 va 1 true
    let k := w.1.headD 0
    let inPage := decide (va + 64 + 8 * 2 ^ logn ≤ (pageSpan e va).2)
    if keyIsHost k ∨ keyIsLm k ∨ ¬ e.s0.hasDev (k / 2 ^ 39) ∨ ¬ inPage then .ok (e.doneL [(0, fitRaw e.od.w (resWord stSTATE 0))] 0)
    else
      e.noJoin
      e.request true 0 (yardUnit (k / 2 ^ 39)) 4 (.taskOp 11 [k % 2 ^ 39, v])

def execQmk (f : Fields) (s : State) : Host.Outcome State Fault Refusal := issue (formQmk f) true false qmkEff f s

def execQmkFree (f : Fields) (s : State) : Host.Outcome State Fault Refusal :=
  issue (formQmkFree f) true false (fun e => e.thread fun _ => do
    let (d, pa) ← queueHome e
    e.noJoin
    e.request true 0 (yardUnit d) 4 (.taskOp 12 [pa])) f s

/-! ## The splice table (R334, R337 to R339) -/

/-- The queue entry at a physical address. -/
def queueAt (s : State) (dev pa : Nat) : Option QEntry := (s.dev dev).queues.find? (·.pa == pa)

def setQueue (s : State) (dev : Nat) (q : QEntry) : State :=
  s.modDev dev fun d => { d with queues := d.queues.map fun x => if x.pa = q.pa then q else x }

/-- Entries of the table that are taken. -/
def tableUsed (s : State) (dev : Nat) : Nat := (s.dev dev).queues.length + (s.dev dev).qops.length

/-- Answers a waiting operation, and takes it out of the table. -/
def answerOp (s : State) (dev pkt : Nat) (vs : List (Nat × Nat)) : State :=
  let s := s.modDev dev fun d => { d with qops := d.qops.filter (·.pkt != pkt) }
  match s.pkt? pkt with
  | some p => answer s p (.result vs)
  | none => s

/-- The answers of a push and of a pop. -/
def pushVal (st : Nat) : List (Nat × Nat) := [(0, resWord st 0)]
def popVal (st v : Nat) : List (Nat × Nat) := [(0, v % 2 ^ 64 + resWord st 0 * 2 ^ 64)]

/-- An operation whose entry holds an uncorrectable error: it is told at the marker of its thread (R204, R219). -/
def failOp (s : State) (dev pkt : Nat) : State :=
  let s := s.modDev dev fun d => { d with qops := d.qops.filter (·.pkt != pkt) }
  match s.pkt? pkt with
  | some p => deferTrap (answer s p .quiet) p.src p.slot p.pend
      { code := 11, lane := 255, ipc := p.ipc, rpc := p.ipc, word := p.word, defer := true }
  | none => s

/-- The waiting operations of a queue in the order of their arrival. -/
def waiting (s : State) (dev pa : Nat) (push : Bool) : List QOp :=
  (s.dev dev).qops.filter fun o => o.pa == pa && o.push.isSome == push

/-- Takes an entry from memory for a pop; one that holds an uncorrectable error is gone with it (DEDUCED, log entry 110). -/
def fromMemory (s : State) (dev : Nat) (q : QEntry) (pkt : Nat) : State :=
  let i := if q.fifo then q.head else q.tail - 1
  let at_ := dramKey dev (q.pa + 64 + 8 * (i % 2 ^ q.logn))
  let v := s.rd at_ 8
  let q := { q with head := if q.fifo then q.head + 1 else q.head, tail := if q.fifo then q.tail else q.tail - 1,
                    shadow := q.shadow - 1 }
  let s := if q.fifo then s.wr (dramKey dev (q.pa + 16)) 8 q.head else s.wr (dramKey dev (q.pa + 8)) 8 q.tail
  let s := s.mend (dramKey dev (q.pa + 8)) 16
  if s.badAt at_ 8 then failOp (setQueue s dev q) dev pkt else answerOp (setQueue s dev q) dev pkt (popVal stOK v)

/-- Serves waiting pops while entries are stored. -/
def serve (dev pa : Nat) : Nat → State → State
  | 0, s => s
  | n + 1, s =>
    match queueAt s dev pa, waiting s dev pa false with
    | some q, o :: _ => if 0 < q.shadow then serve dev pa n (fromMemory s dev q o.pkt) else s
    | _, _ => s

/-- Stores one push, or answers FULL. -/
def storePush (dev pa : Nat) (s : State) (pkt v : Nat) : State :=
  match queueAt s dev pa with
  | none => s
  | some q =>
    if q.shadow = 2 ^ q.logn then answerOp s dev pkt (pushVal stFULL)
    else
      let s := s.wr (dramKey dev (q.pa + 64 + 8 * (q.tail % 2 ^ q.logn))) 8 v
      let s := s.wr (dramKey dev (q.pa + 8)) 8 (q.tail + 1)
      let s := (s.mend (dramKey dev (q.pa + 64 + 8 * (q.tail % 2 ^ q.logn))) 8).mend (dramKey dev (q.pa + 8)) 8
      let s := answerOp (setQueue s dev { q with tail := q.tail + 1, shadow := q.shadow + 1 }) dev pkt (pushVal stOK)
      serve dev pa ((s.dev dev).qops.length) s

/-- `to_memory`: for a FIFO every waiting push goes with it, oldest first; one that waits itself goes in its place among them. -/
def toMemory (s : State) (dev pa pkt v : Nat) : State :=
  let ops : List (Nat × Nat) := match queueAt s dev pa with
    | some q => if q.fifo then (waiting s dev pa true).map fun (o : QOp) => (o.pkt, o.push.getD 0) else []
    | none => []
  let all := if ops.any fun x => x.1 == pkt then ops else ops ++ [(pkt, v)]
  all.foldl (fun s x => storePush dev pa s x.1 x.2) s

/-- A waiting operation falls through (R338). -/
def fallThrough (s : State) (dev : Nat) (o : QOp) : State :=
  match o.push with
  | some v => toMemory s dev o.pa o.pkt v
  | none => answerOp s dev o.pkt (popVal stEMPTY 0)

/-- The waiting operation that falls through next: of those whose time has come the one whose cycle is the earliest, in one cycle
the one that arrived first (R337). -/
def firstDue (s : State) (dev : Nat) : Option QOp :=
  ((s.dev dev).qops.filter fun o => decide (o.until_ ≤ (s.dev dev).yard)).foldl (fun best o =>
    match best with
    | some b => if o.until_ < b.until_ then some o else best
    | none => some o) none

/-- The waiting operations whose time has come fall through. -/
def expireDue (dev : Nat) : Nat → State → State
  | 0, s => s
  | n + 1, s =>
    match firstDue s dev with
    | some o => expireDue dev n (fallThrough s dev o)
    | none => s

/-- An operation waits in the table. -/
def waitOp (s : State) (dev : Nat) (p : Packet) (pa : Nat) (push : Option Nat) (t : Nat) : State :=
  (s.setPkt { p with state := .recorded }).modDev dev fun d =>
    { d with qops := d.qops ++ [{
        pkt := p.id, pa := pa, push := push, until_ := d.yard + t
        src := { eid := p.src, slot := p.slot, pend := p.pend } }] }

/-- A push arrives (R337). -/
def pushArrives (s : State) (p : Packet) : State :=
  match p.body with
  | .push pa v =>
    let dev := eidDev p.dst
    let s := expireDue dev (s.dev dev).qops.length s
    (match queueAt s dev pa with
     | none => answer s p (.result (pushVal stSTATE))
     | some q =>
       (match (if q.nosplice then none else (waiting s dev pa false).head?) with
        | some o => answer (answerOp s dev o.pkt (popVal stOK v)) p (.result (pushVal stOK))
        | none =>
          if q.nosplice ∨ (q.fifo ∧ 0 < q.shadow) ∨ 8192 ≤ tableUsed s dev then toMemory s dev pa p.id v
          else waitOp s dev p pa (some v) q.window))
  | _ => s

def execPushArrival (s : State) : Host.Outcome State Fault Refusal :=
  event (fun s => match readyPkt? s with | some p => pushArrives s p | none => s) s

/-- A pop arrives (R337). -/
def popArrives (s : State) (p : Packet) : State :=
  match p.body with
  | .pop pa timeout =>
    let dev := eidDev p.dst
    let s := expireDue dev (s.dev dev).qops.length s
    (match queueAt s dev pa with
     | none => answer s p (.result (popVal stSTATE 0))
     | some q =>
       (match waiting s dev pa true with
        | o :: _ =>
          answer (answerOp s dev o.pkt (pushVal stOK)) p (.result (popVal stOK (o.push.getD 0)))
        | [] =>
          if 0 < q.shadow then fromMemory s dev q p.id
          else
            let free := decide (tableUsed s dev < 8192)
            (match timeout with
             | some t => if free then waitOp s dev p pa none (if t = 0 then q.window else t) else answer s p (.result (popVal stEMPTY 0))
             | none => if ¬ q.nosplice ∧ free then waitOp s dev p pa none q.window else answer s p (.result (popVal stEMPTY 0)))))
  | _ => s

def execPopArrival (s : State) : Host.Outcome State Fault Refusal :=
  event (fun s => match readyPkt? s with | some p => popArrives s p | none => s) s

/-- A waiting operation's window or timeout expires. -/
def windowExpires (push : Bool) (s : State) : State :=
  match s.who with
  | [dev, id] =>
    (match firstDue s dev with
     | some o => if o.pkt = id ∧ o.push.isSome = push then fallThrough s dev o else s
     | none => s)
  | _ => s

def execPushWindowExpiry (s : State) : Host.Outcome State Fault Refusal := event (windowExpires true) s
def execPopWindowExpiry (s : State) : Host.Outcome State Fault Refusal := event (windowExpires false) s

/-- Whether the pop that a cancel names has not reached the Yard. -/
def popUnderWay (s : State) (p : Packet) (pend : Nat) : Bool :=
  s.net.any fun q => q.src == p.src && q.pend == pend && q.underWay && match q.body with | .pop .. => true | _ => false

/-- The cancel of a `pop.w` is committed, once the pop has reached the Yard: it is answered EMPTY if it still waits (R342). -/
def popCancelArrives (s : State) (p : Packet) : State :=
  match p.body with
  | .popCancel _ pend =>
    if popUnderWay s p pend then s else
    let dev := eidDev p.dst
    let s := match (s.dev dev).qops.find? fun o => o.push.isNone && o.src.eid == p.src && o.src.pend == pend with
      | some o => answerOp s dev o.pkt (popVal stEMPTY 0)
      | none => s
    answer s { p with pend := 0 } .quiet
  | _ => s

def execPopWCancel (s : State) : Host.Outcome State Fault Refusal :=
  event (fun s => match readyPkt? s with | some p => popCancelArrives s p | none => s) s

/-- `qmk` at the home Yard (R335). -/
def makeQueue (s : State) (dev pa v : Nat) : Nat × State :=
  if (queueAt s dev pa).isSome then (resWord stSTATE 0, s)
  else if 8192 ≤ tableUsed s dev then (resWord stNOMEM 0, s)
  else
    let win := if bits v 27 16 = 0 then 512 else bits v 27 16
    let q : QEntry := { pa := pa, fifo := bit v 0, logn := bits v 12 8, window := win, nosplice := bit v 28 }
    let w := b2n (bit v 0) + bits v 12 8 * 2 ^ 8 + win * 2 ^ 16 + b2n (bit v 28) * 2 ^ 28
    (resWord stOK 0, ((s.wr (dramKey dev pa) 64 w).mend (dramKey dev pa) 64).modDev dev fun d => { d with queues := d.queues ++ [q] })

/-- `qmk.free` at the home Yard (R336). -/
def freeQueue (s : State) (dev pa : Nat) : Nat × State :=
  if (queueAt s dev pa).isNone then (resWord stSTATE 0, s)
  else
    let ops := (s.dev dev).qops.filter (·.pa == pa)
    let s := ops.foldl (fun (s : State) (o : QOp) => if (s.dev dev).qops.any (fun x : QOp => x.pkt == o.pkt) then fallThrough s dev o else s) s
    let n := ((queueAt s dev pa).map (·.shadow)).getD 0
    (resWord stOK n, s.modDev dev fun d => { d with queues := d.queues.filter (·.pa != pa) })

/-- A request of the task, ring or queue group performed at its unit. -/
def unitArrive (s : State) (p : Packet) : State :=
  match p.body with
  | .taskOp 11 [pa, v] => match makeQueue s (eidDev p.dst) pa v with | (w, s) => answerWord s p w
  | .taskOp 12 [pa] => match freeQueue s (eidDev p.dst) pa with | (w, s) => answerWord s p w
  | _ => taskArrive s p

end Sys2Proof.Machine
end

