-- ==== Sys2Proof/Machine/System.lean ====
section
/-! DEFINITION. The system group (R384, R389 to R394, R397 to R401) and gang launch (R354). -/

namespace Sys2Proof.Machine

/-! ## `trap`, `brk`, `eret` (R398, R400) -/

/-- An explicit trap: the thread goes on at the next instruction. -/
def trapEff (code : Nat) (e : Env) : Except Stop State :=
  if e.act 0 then
    .error (.trap { e.info code with rpc := e.pc + e.len, tcode := (simm14 e.f.b).toNat, lane := 255 })
  else .ok e.s

def execTrap (f : Fields) (s : State) : Host.Outcome State Fault Refusal := issue (formTrap f) true false (trapEff 14) f s
def execBrk (f : Fields) (s : State) : Host.Outcome State Fault Refusal := issue (formTrap f) true false (trapEff 13) f s

/-- `eret`: a request to the core of a trapped thread. -/
def eretEff (e : Env) : Except Stop State :=
  e.thread fun _ => do
    e.need (bits e.a0 31 22 == 0 && bits e.a0 63 37 == 0 && bits e.b0 31 2 == 0 && bits e.b0 63 51 == 0) 2
    e.noJoin
    e.request true 0 (bits e.a0 21 0) 3 (.eret (bits e.a0 36 32) (bits e.b0 1 0) (bits e.b0 50 32))

def execEret (f : Fields) (s : State) : Host.Outcome State Fault Refusal := issue (formEret f) false false eretEff f s

/-- Whether an `eret` that ends a thread waits for the thread's pending joins, as `exit` does (R250, R400). -/
def endWaits (s : State) (eid slot act : Nat) : Bool :=
  act == 2 && (s.thr? eid slot).any fun t => match t.status with | .trapped _ => t.releasing s | _ => false

/-- An `eret` request acts at the trapped thread's core. -/
def eretArrives (s : State) (p : Packet) : State :=
  match p.body with
  | .eret slot act target =>
    if ¬ s.hasCore p.dst ∨ isYard p.dst ∨ (s.core p.dst).ctx ≠ some p.asid ∨ 16 ≤ slot then answerWord s p (resWord stSTATE 0)
    else if endWaits s p.dst slot act then s
    else
      match resume s p.dst slot act target with
      | (s', true) => answerWord s' p (resWord stOK 0)
      | (_, false) => answerWord s p (resWord stSTATE 0)
  | _ => s

def execEretRequestArrival (s : State) : Host.Outcome State Fault Refusal :=
  event (fun s => match readyPkt? s with | some p => eretArrives s p | none => s) s

/-! ## `drain` (R384, R399) -/

/-- Sets or clears DRAINREQ in every thread of an instance's tasks. -/
def setDrainReq (s : State) (dev asid gid : Nat) (on : Bool) : State :=
  (instRecs s dev asid gid).foldl (fun s r =>
    (s.taskThreads r.handle).foldl (fun s (e, i) => s.modThr e i fun t => { t with drainReq := on }) s) s

/-- Cancels the waiting `pop.w` of a thread (R342). -/
def cancelPops (s : State) (eid slot : Nat) : State :=
  s.net.foldl (fun s p =>
    match p.body with
    | .pop pa (some _) =>
      if p.src = eid ∧ p.slot = slot then
        sendPacket s { (default : Packet) with
          asid := p.asid, src := eid, slot := slot, dst := p.dst, cls := 4, body := .popCancel pa p.pend }
      else s
    | _ => s) s

/-- Marks an instance as draining. -/
def drainInst (s : State) (dev asid gid : Nat) : State :=
  let s := { s with insts := s.insts.map fun (d, i) =>
    (d, if d = dev ∧ i.asid = asid ∧ i.gid = gid then { i with draining := true, suspended := false } else i) }
  let s := setDrainReq s dev asid gid true
  let rs := instRecs s dev asid gid
  let s := rs.foldl undoForDrain s
  let s := (rs.flatMap fun r => s.taskThreads r.handle).foldl (fun s (e, i) => cancelPops s e i) s
  suspendCheck s dev asid gid

/-- The instances of a context on a device that satisfy a test. -/
def instsOf (s : State) (dev asid : Nat) (p : Inst → Bool) : List Nat :=
  (s.insts.filter fun (d, i) => d == dev && i.asid == asid && p i).map fun x => x.2.gid

def drainEff (e : Env) : Except Stop State :=
  e.thread fun _ => do
    let out (s : State) (st v : Nat) : Except Stop State := .ok ((e.upd s).doneL [(0, fitRaw e.od.w (resWord st v))] 0)
    if e.f.md = 1 then e.need (decide (e.a0 < 2 ^ 16)) 2
    let live := instsOf e.s0 e.dev e.asid fun i => i.committed && (e.f.md == 0 || i.gid == e.a0)
    if e.f.md = 1 ∧ live.isEmpty then out e.s stSTATE 0
    else
      let new := instsOf e.s0 e.dev e.asid fun i => i.committed && !i.draining && (e.f.md == 0 || i.gid == e.a0)
      out (new.foldl (fun s g => drainInst s e.dev e.asid g) e.s) stOK new.length

def execDrain (f : Fields) (s : State) : Host.Outcome State Fault Refusal := issue (formDrain f) false false drainEff f s

/-- The rings of an instance are ready for the markers of another drain (R385). -/
def unmark (s : State) (dev asid gid : Nat) : State :=
  let hs := (instRecs s dev asid gid).map (·.handle)
  { s with edges := s.edges.map fun g => if hs.contains g.cons then { g with marker := false } else g }

/-- `drain.res` (R388). -/
def drainResEff (e : Env) : Except Stop State :=
  e.thread fun _ =>
    let gs := instsOf e.s0 e.dev e.asid fun i => i.draining
    let s := gs.foldl (fun s g => unmark (setDrainReq s e.dev e.asid g false) e.dev e.asid g) e.s
    let s := { s with insts := s.insts.map fun (d, i) =>
      (d, if d = e.dev ∧ i.asid = e.asid then { i with draining := false, suspended := false } else i) }
    .ok ((e.upd s).doneL [(0, fitRaw e.od.w (resWord stOK gs.length))] 0)

def execDrainRes (f : Fields) (s : State) : Host.Outcome State Fault Refusal :=
  issue (formDrainRes f) false false drainResEff f s

/-! ## `frz` (R392 to R394, R401) -/

/-- Whether the core that `frz` or `frz.res` names may not be frozen or thawed. -/
def frzBad (e : Env) : Bool :=
  e.a0 == e.eid || !e.s0.hasCore e.a0 || (e.s0.core e.a0).ctx != some e.asid

/-- An order to a core of another device: it waits while no route leads there, and is abandoned when that device counts as
unreachable (R349, R352). -/
def Env.reach (e : Env) (k : Except Stop State) : Except Stop State :=
  let d := eidDev e.a0
  if d = e.dev ∨ ¬ e.s0.hasDev d then k
  else if (e.s0.dev e.dev).unreachable.contains d then
    .ok (deferTrap { e.s with nextId := e.s.nextId + 1 } e.eid e.slot e.s.nextId { e.info 10 with cause := 6, lane := 255, defer := true })
  else if e.s0.reaches e.dev d then k
  else .error .block

/-- `frz`: each thread of the core stops where it stands; the freeze is complete when the handlers have ended and the
threads' joins are. -/
def frzEff (e : Env) : Except Stop State :=
  e.thread fun _ => do
    e.need (decide (e.a0 < 2 ^ 22)) 2
    e.reach do
    let c := e.s0.core e.a0
    if frzBad e ∨ c.frozen ∨ c.freezing.isSome then .ok (e.doneL [(0, fitRaw e.od.w (resWord stSTATE 0))] 0)
    else
      match e.pendL e.od.target 1 with
      | (p, s) =>
        .ok (tryFreeze (s.modCore e.a0 fun c => { c with freezing := some { eid := e.eid, slot := e.slot, pend := p } }) e.a0)

def execFrz (f : Fields) (s : State) : Host.Outcome State Fault Refusal := issue (formResA f 0) false false frzEff f s

/-- An arrival that a frozen core has caught, replayed when it thaws. -/
def replay (s : State) (id : Nat) : State :=
  match s.pkt? id with
  | none => s
  | some p =>
    let p := { p with state := if p.crosses then .arrived else .flying }
    let s := s.setPkt p
    match p.body with
    | .spawn .. => spawnArrives s p
    | .am .. => activeMessageArrives s p
    | .deposit .. => depositArrives s p
    | .eret .. => eretArrives s p
    | .reply (.result vs) =>
      if p.pend = 0 then tellAnswer (s.dropPkt id) p.dst p.slot vs else finishPend (s.dropPkt id) p.dst p.slot p.pend vs
    | .lmAtomic acc =>
      let s := s.dropPkt id
      if 64 ≤ (s.core p.dst).handlerQ.length then s
      else s.modCore p.dst fun c => { c with handlerQ := c.handlerQ ++ [.atomic acc] }
    | _ => s.dropPkt id

/-- A waiting instruction that the freeze caught is issued again; a group barrier's arrival has been made and stands. -/
def thawThread (s : State) (eid slot : Nat) (t : Thread) : State :=
  match t.status with
  | .waiting w => (match w.what with | .group .. => s | _ => enterReady s eid slot t)
  | .ready => enterReady s eid slot t
  | _ => s

/-- `frz.res` (R394). -/
def frzResEff (e : Env) : Except Stop State :=
  e.thread fun _ => do
    e.need (decide (e.a0 < 2 ^ 22)) 2
    e.reach do
    let c := e.s0.core e.a0
    let out (s : State) (st v : Nat) : Except Stop State := .ok ((e.upd s).doneL [(0, fitRaw e.od.w (resWord st v))] 0)
    if frzBad e ∨ ¬ c.frozen then out e.s stSTATE 0
    else
      let s := reloadImage (e.s.modCore e.a0 fun c => { c with frozen := false, spill := [] }) e.a0
      let s := c.spill.foldl replay s
      out (c.threads.foldl (fun s (i, _) => match s.thr? e.a0 i with | some t => thawThread s e.a0 i t | none => s) s) stOK c.spill.length

def execFrzRes (f : Fields) (s : State) : Host.Outcome State Fault Refusal := issue (formResA f 1) false false frzResEff f s

/-- An arrival at a frozen core is caught; a reply or an LM atomic that the full spill ring has refused before is delivered once the
core has thawed (R393). -/
def spillCatch (s : State) : State :=
  match s.who with
  | [id] =>
    (match s.pkt? id with
     | some p =>
       if ¬ (p.here s ∧ p.body.caught) then s
       else if (s.core p.dst).frozen then spillPkt s p.dst p
       else if p.body.own then replay s id
       else s
     | none => s)
  | _ => s

def execSpillRingCatch (s : State) : Host.Outcome State Fault Refusal := event spillCatch s

/-! ## `ctxsv`, `ctxld` (R389 to R391) -/

/-- The banks of a window that hold a live slice. -/
def liveBanks (t : Thread) : List Nat := (List.range 32).filter fun b => bits t.vlive.toNat (16 * b + 15) (16 * b) != 0

/-- The physical slots of a mask of logical slots, with their logical numbers. -/
def imageSlots (e : Env) (mask : Nat) : List (Nat × Nat) :=
  (List.range 4).filterMap fun j =>
    if bit mask j then ((e.s0.binding? e.eid e.t.task.toNat).bind fun b => b.accs[j]?).map fun p => (j, p) else none

/-- The accumulator slots of the thread's task. -/
def Env.slots (e : Env) : Nat := ((e.s0.rec? e.t.task.toNat).map (·.slots)).getD 0

/-- The bytes of a slot in an image. -/
def slotBytes (c : Core) (phys : Nat) : List Byte :=
  let a := c.accs.getD phys default
  toBytes 8 (progress c phys) ++
    (if a.fp64 then (a.val.take 512).flatMap fun v => toBytes 8 v.toNat else a.val.flatMap fun v => toBytes 4 v.toNat)

/-- An uncorrectable error in what `ctxsv` reads: the first live slice, or else the first predicate, that has one, by its CAUSE
(R380, R390). -/
def Thread.imageEcc (t : Thread) : Option Nat :=
  let live (k : Nat) : Bool := if k < 512 then t.vlive.getLsbD k else t.slive.getLsbD (k - 512)
  if t.ecc.any fun k => decide (k < 768) && live k then some 1
  else if t.ecc.any fun k => decide (768 ≤ k) && decide (k < 1024) then some 2
  else none

/-- The image of a thread (R389) as its next instruction finds it. -/
def imageOf (c : Core) (t : Thread) (rpc mask : Nat) (slots : List (Nat × Nat)) : List Byte :=
  let banks := liveBanks t
  let size := 384 + 256 * banks.length + 4104 * slots.length
  let amode := (slots.map fun (j, p) => b2n (c.accs.getD p default).fp64 * 2 ^ j).sum
  toBytes 8 (size + t.swinv * 2 ^ 32 + mask % 16 * 2 ^ 48 + amode * 2 ^ 52) ++
    toBytes 8 (rpc % 2 ^ 19 + t.fpsr.toNat * 2 ^ 32 + b2n t.deadRead * 2 ^ 40) ++
    (t.preds.flatMap fun p => toBytes 4 p.toNat) ++ toBytes 20 0 ++ (t.seed.flatMap fun u => toBytes 2 u.toNat) ++
    toBytes 32 t.slive.toNat ++ toBytes 64 t.vlive.toNat ++ toBytes 32 0 ++ toBytes 128 t.scal.toNat ++
    (banks.flatMap fun b => (List.range 32).flatMap fun l => toBytes 8 (slices (t.lane l) (16 * b) 16)) ++
    slots.flatMap fun (_, p) => slotBytes c p

/-- The checks of an access of `n` bytes at a save area, as a `st` or a load of them is checked: its keys. -/
def areaKeys (e : Env) (va n : Nat) (write : Bool) : Except Stop (List Nat) :=
  if lockedVa e.c e.eid va n then e.trapLane 4 255 va
  else
    match xlThread e 255 va n write with
    | .error x => .error x
    | .ok (ks, _) => match waitFill e 255 va ks with | .ok _ => .ok ks | .error x => .error x

/-- Issues the stores of an image as og0 stores, as many bytes to a store as may cross to another device (R345). -/
def issueImage (e : Env) (inst va : Nat) (ks : List Nat) (img : List Byte) (s : State) : State :=
  (List.range ((img.length + 255) / 256)).foldl (fun s i =>
    let bs := (img.drop (256 * i)).take 256
    addAccess s { (default : Access) with
      eid := e.eid, slot := e.slot, op := .store (ofBytes bs), va := va + 256 * i, keys := (ks.drop (256 * i)).take 256
      pieces := piecesOf (va + 256 * i) bs.length 0 bs.length, grp := 0, ipc := e.pc, word := e.t.word, inst := inst, regs := false }) s

/-- `ctxsv` (R390). -/
def ctxsvEff (e : Env) : Except Stop State :=
  e.thread fun _ => do
    e.settled
    if ¬ e.t.joins.isEmpty then .error .block else .ok ()
    let mask := (simm14 e.f.b).toNat
    let va := addrOf e.a0
    match e.t.imageEcc with
    | some c => .error (.trap { e.info 11 with cause := c })
    | none =>
    e.need (va % 64 == 0 && mask / 2 ^ min e.slots 4 == 0) 2
    let sl := imageSlots e mask
    let ph := sl.map (·.2)
    -- the thread as the image holds it, the run's results written (R71): D says OK with VALUE 0
    let t0 := (((e.s.thr? e.eid e.slot).getD e.t).flush e.s0.free).write e.od fun l => if l = 0 then some 0 else none
    let img := imageOf e.c t0 (e.pc + e.len) mask sl
    let ks ← areaKeys e va img.length true
    if e.c.mxq.any fun m => ph.contains m.phys && (e.c.accs.getD m.phys default).fault.isNone then .error .block
    else if ph.any fun p => (e.c.accs.getD p default).fault.isSome then
      .ok (e.doneL [(0, fitRaw e.od.w (resWord stSTATE 0))] 0)
    else
      match e.pendL e.od.target 1 with
      | (pid, s) =>
        let s := s.modThr e.eid e.slot fun t => { t with pend := t.pend.map fun (x : Pend) =>
          if x.id = pid then { x with vals := [(0, fitRaw e.od.w (resWord stOK img.length))] } else x }
        let id := s.nextId
        let s := issueImage e id va ks img s
        .ok (holdJoin e s 3 pid [id])

def execCtxsv (f : Fields) (s : State) : Host.Outcome State Fault Refusal := issue (formCtxsv f) false false ctxsvEff f s

/-- A slot as an image restores it. -/
def restoreSlot (a : AccSlot) (fp64 : Bool) (bs : List Byte) : AccSlot :=
  let w := ofBytes (bs.take 8)
  let v := bs.drop 8
  { a with
    fp64 := fp64, fault := none, kind := bits w 61 58, flags := BitVec.ofNat 4 (bits w 55 52)
    srgen := BitVec.ofNat 16 (bits w 31 16), pos := bits w 15 0
    val := (List.range 1024).map fun i =>
      if fp64 then (if i < 512 then BitVec.ofNat 64 (ofBytes ((v.drop (8 * i)).take 8)) else 0)
      else BitVec.ofNat 64 (ofBytes ((v.drop (4 * i)).take 4)) }

/-- The thread as an image restores it, its window set already. -/
def restoreThread (t : Thread) (bs : List Byte) : Thread :=
  let num o n := ofBytes ((bs.drop o).take n)
  let vlive := num 160 64 % 2 ^ t.swinv
  let banks := (List.range 32).filter fun b => bits vlive (16 * b + 15) (16 * b) != 0
  { t with
    pc := BitVec.ofNat 20 (num 8 8 % 2 ^ 19), fpsr := BitVec.ofNat 6 (bits (num 8 8) 37 32), deadRead := bit (num 8 8) 40
    preds := (List.range 7).map fun k => BitVec.ofNat 32 (num (16 + 4 * k) 4)
    seed := (List.range 32).map fun l => seedOf (num (64 + 2 * l) 2)
    slive := BitVec.ofNat 256 (num 128 32), vlive := BitVec.ofNat 512 vlive, scal := BitVec.ofNat 1024 (num 256 128)
    vec := (List.range 32).map fun l => BitVec.ofNat 2048 ((banks.mapIdx fun k b =>
      num (384 + 256 * k + 8 * l) 8 * 2 ^ (64 * b)).sum)
    runV := List.replicate 32 (BitVec.ofNat 512 (2 ^ t.swinv - 1)), runS := BitVec.allOnes 256
    runP := List.replicate 7 0xFFFFFFFF, pend := [], ecc := t.ecc.filter (1024 ≤ ·) }

/-- Goes on with the bytes of a save area that a thread reads: an uncorrectable error in its own LM traps (R179), one at a home,
and a home that the device counts as unreachable, are told at the marker of the run and nothing is restored (R219). -/
def areaRead (e : Env) (va : Nat) (ks : List Nat) (k : Unit → Except Stop State) : Except Stop State :=
  let later (code cause : Nat) : Except Stop State :=
    .ok (deferTrap (farDone e.s e.eid e.slot 0).fresh.2 e.eid e.slot e.s.nextId
      { e.info code with cause := cause, va := va, defer := true })
  if ks.any fun x => e.s0.bad.contains x && keyIsLm x && !e.s0.far e.dev x then e.trapLane 11 255 va
  else if ks.any (e.s0.cutKey e.dev) then later 10 7
  else
    match farRead e.s0 e.asid e.eid e.slot e.s0.nextId ks with
    | .error (some s) => .error (.start s)
    | .error none => later 10 6
    | .ok _ => if ks.any fun k => (farSeen e.s0 e.eid e.slot e.s0.nextId k).isNone then later 11 0 else k ()

/-- `ctxld` (R391). -/
def ctxldEff (e : Env) : Except Stop State :=
  e.thread fun _ => do
    e.settled
    e.noJoin
    let mask := (simm14 e.f.b).toNat
    let va := addrOf e.a0
    e.need (va % 64 == 0) 2
    let hk ← areaKeys e va 8 false
    let seen (ks : List Nat) : List Byte := ks.map fun k => (farSeen e.s0 e.eid e.slot e.s0.nextId k).getD 0
    let e : Env := { e with s := farDone e.s e.eid e.slot 0 }
    let out (st : Nat) : Except Stop State := .ok (e.doneL [(0, fitRaw e.od.w (resWord st 0))] 0)
    areaRead e va hk fun _ => do
    let h := ofBytes (seen hk)
    let size := h % 2 ^ 32
    let amask := bits h 51 48
    let amode := bits h 55 52
    let swinv := bits h 47 32
    if size = 0 then out stEMPTY
    else if amask / 2 ^ min e.slots 4 ≠ 0 ∨ (amask ||| mask) ≠ mask ∨ (amode ≠ 0 ∧ ¬ isWTile (eidEp e.eid)) ∨
        swinv % 64 ≠ 0 ∨ swinv = 0 ∨ 512 < swinv then out stSTATE
    else
      let free := freeUnits e.c
      let have_ := e.t.units
      let k := swinv / 64
      let asked := unitsAsked e.s e.eid rankSwin
      if have_.length + free.length < k then .ok ((e.upd asked).doneL [(0, fitRaw e.od.w (resWord stNOMEM 0))] 0)
      else
        let ks ← areaKeys e va size false
        let wk ← areaKeys e va 8 true
        areaRead e va ks fun _ => do
        let sl := imageSlots e amask
        if e.c.mxq.any fun m => sl.any (·.2 == m.phys) then .error .block
        else
          let bs := seen ks
          let units := if k ≤ have_.length then have_.take k else have_ ++ free.take (k - have_.length)
          let s := asked.modThr e.eid e.slot fun t => restoreThread (t.resize (64 * k) units) bs
          let nb := (size - 384 - 4104 * sl.length) / 256
          let s := (sl.zipIdx).foldl (fun s ((j, p), i) =>
            modAcc s e.eid p fun a => restoreSlot a (bit amode j) (bs.drop (384 + 256 * nb + 4104 * i))) s
          .ok (issueStore e s.nextId 0 true s { lane := 0, va := va, keys := wk, cache := false } 0)

def execCtxld (f : Fields) (s : State) : Host.Outcome State Fault Refusal := issue (formCtx f) false false ctxldEff f s

/-! ## Gang launch (R354) -/

def modGang (s : State) (id : Nat) (g : Gang → Gang) : State :=
  { s with gangs := s.gangs.map fun x => if x.id = id then g x else x }

/-- Gives the answer of a `gang`, which is then at its end. -/
def gangAnswer (s : State) (g : Gang) (v : Nat) : State :=
  let s := { s with gangs := s.gangs.filter (·.id != g.id) }
  reply s g.src.eid g.src.slot g.src.pend [(0, fitPend s g.src.eid g.src.slot g.src.pend v)]

/-- The lowest GID of the gang range that is free on the issuing device and was not refused before. -/
def gangGid (s : State) (dev asid : Nat) (refused : List Nat) : Option Nat :=
  let live := liveGids s dev asid
  (firstIdx 4095 fun i => !live.contains (61440 + i) && !refused.contains (61440 + i)).map (61440 + ·)

/-- Sends a step of a gang to some devices. -/
def gangSend (s : State) (g : Gang) (ids : List Nat) (devs : List Nat) (body : Body) : State :=
  devs.foldl (fun s d =>
    sendPacket s { (default : Packet) with
      asid := g.asid, src := g.src.eid, slot := 25, dst := dieUnit (4 * d), cls := 3, body := body, after := ids
      ipc := g.src.ipc, word := g.src.word }) s

/-- Asks every named device to prepare; a device that the pod does not hold refuses with STATE. -/
def gangRound (s : State) (g : Gang) (ids : List Nat) : State :=
  let (known, unknown) := g.devs.partition s.hasDev
  let g := { g with phase := 0, prepared := [], waits := known, refusals := unknown.map fun d => (d, stSTATE) }
  gangSend { s with gangs := s.gangs.filter (·.id != g.id) ++ [g] } g ids known (.gangPrep g.id)

/-- The outcome of the last round when no instance is to be armed: GID-IN-USE when each of four rounds met it. -/
def gangFail (g : Gang) : Nat :=
  match g.refusals with
  | [] => resWord stLATE 0
  | r :: _ => resWord (if g.round = 4 ∧ g.refusals.any (·.2 == stGIDUSE) then stGIDUSE else r.2) ((g.refusals.foldl (fun m x => min m x.1) r.1) * 2 ^ 16)

/-- What follows when every abort of a round has been acknowledged: another round, or the end. -/
def gangNext (s : State) (g : Gang) : State :=
  let again : Bool := decide (g.round < 4) && g.refusals.any fun x => x.2 == stGIDUSE
  let used := g.refusedG ++ [g.gid]
  match (if again then gangGid s (eidDev g.src.eid) g.asid used else none) with
  | some n => gangRound s { g with gid := n, refusedG := used, round := g.round + 1 } []
  | none => gangAnswer s g (gangFail g)

/-- Every device has answered: all commit when each commit can still arrive in time, else what was prepared is aborted. -/
def gangDecide (s : State) (g : Gang) : State :=
  let tick := s.tickOf g.src.eid
  if g.refusals.isEmpty ∧ tick + Config.passed s.free 60 + 2000 ≤ g.tstart then
    gangSend (modGang s g.id fun x => { x with phase := 2, waits := g.prepared }) g [] g.prepared (.gangCommit g.id)
  else if g.prepared.isEmpty then gangNext s g
  else gangSend (modGang s g.id fun x => { x with phase := 1, waits := g.prepared }) g [] g.prepared (.gangCommit g.id)

/-- The checks of a prepare, and its instance: a status when it is refused, or the state in which it waits for a fill. -/
def gangPrepareOn (s : State) (dev : Nat) (g : Gang) : Except (State ⊕ Nat) State :=
  let die := dev * 4 + g.die
  let d := s.dev dev
  if (s.ctx? dev g.asid).isNone ∨ ¬ d.locked ∨ (queueRing s die g.asid g.queue).isNone then .error (.inr stSTATE)
  else
    match readTemplate s (dieUnit die) (unitSlot g.id) g.asid g.template,
          engineAll s (dieUnit die) (unitSlot g.id) s.nextId g.asid false (g.rename : Int) 128 with
    | .ok t, .ok rb =>
      let s := farDone s (dieUnit die) (unitSlot g.id) 0
      (match checkTemplate s dev g.asid die t (some g.gid) with
       | .error st => .error (.inr st)
       | .ok _ => .ok (makeInst s dev g.asid die g.gid g.queue t (words rb 16) (some g.tstart)))
    | .error (.wait s), _ | .error (.go s), _ | _, .error (.wait s) | _, .error (.go s) => .error (.inl s)
    | _, _ => .error (.inr stSTATE)

/-- A prepare request reaches a named device. -/
def gangPrepares (s : State) : State :=
  match readyPkt? s with
  | some p =>
    (match p.body with
     | .gangPrep id =>
       (match s.gangs.find? (·.id == id) with
        | none => answer s p .quiet
        | some g =>
          let dev := eidDev p.dst
          let told (s : State) (g : Gang) : State :=
            let g := { g with waits := g.waits.filter (· != dev) }
            let s := answer (modGang s id fun _ => g) p .quiet
            if g.waits.isEmpty then gangDecide s g else s
          match gangPrepareOn s dev g with
          | .ok s => told s { g with prepared := g.prepared ++ [dev] }
          | .error (.inr st) => told (farDone s (dieUnit (dev * 4 + g.die)) (unitSlot g.id) 0) { g with refusals := g.refusals ++ [(dev, st)] }
          | .error (.inl s) => s)
     | _ => s)
  | none => s

def execGangPrepare (s : State) : Host.Outcome State Fault Refusal := event gangPrepares s

/-- Takes a prepared instance away. -/
def gangAbort (s : State) (dev asid gid : Nat) : State :=
  let hs := (instRecs s dev asid gid).map (·.handle)
  let s := hs.foldl freeRec s
  { s with
    insts := s.insts.filter fun (d, i) => !(d == dev && i.asid == asid && i.gid == gid)
    groups := s.groups.filter fun (k, g) => !(k / 256 == dev * 65536 + asid && g.gid == gid) }

/-- A commit or an abort reaches a named device. -/
def gangCommits (s : State) : State :=
  match readyPkt? s with
  | some p =>
    (match p.body with
     | .gangCommit id =>
       (match s.gangs.find? (·.id == id) with
        | none => answer s p .quiet
        | some g =>
          let dev := eidDev p.dst
          let s := if g.phase = 2 then
              { s with insts := s.insts.map fun (d, i) =>
                  (d, if d = dev ∧ i.asid = g.asid ∧ i.gid = g.gid then { i with committed := true } else i) }
            else gangAbort s dev g.asid g.gid
          let g := { g with waits := g.waits.filter (· != dev) }
          let s := answer (modGang s id fun _ => g) p .quiet
          if ¬ g.waits.isEmpty then s
          else if g.phase = 2 then gangAnswer s g (resWord stOK (g.gid + 2 ^ 16 * g.devs.length))
          else gangNext s g)
     | _ => s)
  | none => s

def execGangCommit (s : State) : Host.Outcome State Fault Refusal := event gangCommits s

/-- At its start tick a committed instance is armed, every record in one step. -/
def gangArms (s : State) : State :=
  match s.who with
  | [dev, asid, gid] =>
    (match s.insts.find? fun (d, i) => d == dev && i.asid == asid && i.gid == gid with
     | some (_, i) =>
       (match i.armAt with
        | some t =>
          if ¬ i.committed ∨ (s.dev dev).tick < t then s
          else
            let s := { s with insts := s.insts.map fun (d, x) =>
              (d, if d = dev ∧ x.asid = asid ∧ x.gid = gid then { x with armAt := none, since := dieCycle s x.die } else x) }
            ((instRecs s dev asid gid).map (·.handle)).foldl (armInst i.queue) s
        | none => s)
     | none => s)
  | _ => s

def execGangArm (s : State) : Host.Outcome State Fault Refusal := event gangArms s

/-- The devices that a descriptor names. -/
def gangDevs (w : List Nat) : List Nat := (List.range 1024).filter fun j => bit (w.getD (4 + j / 64) 0) (j % 64)

/-- `gang`. -/
def gangEff (e : Env) : Except Stop State :=
  e.thread fun _ => do
    let w ← ownWords e e.a0 64 20
    let d i := w.getD i 0
    let out (e : Env) (st : Nat) : Except Stop State := .ok (e.doneL [(0, fitRaw e.od.w (resWord st 0))] 0)
    let devs := gangDevs w
    if bits (d 0) 63 56 ≠ 0 ∨ bits (d 1) 63 56 ≠ 0 ∨ bits (d 2) 63 8 ≠ 0 ∨ devs.isEmpty then out e stSTATE
    else
      e.noJoin
      match sendRelease e e.s false 4 with
      | .error x => .error x
      | .ok (s, ids) =>
        match gangGid e.s0 e.dev e.asid [] with
        | none => out (e.upd s) stNOMEM
        | some gid =>
          match (e.upd s).pendL e.od.target 1 with
          | (pid, s) =>
            match s.fresh with
            | (id, s) =>
              let tick := (e.s0.dev e.dev).tick
              let g : Gang :=
                { id := id, asid := e.asid, src := { eid := e.eid, slot := e.slot, pend := pid, ipc := e.pc, word := e.t.word }
                  template := d 0, rename := d 1, queue := d 2, tstart := if d 3 = 0 then tick + 100000 else d 3
                  devs := devs, gid := gid, die := eidDie e.eid % 4, refusedG := [], round := 1, prepared := []
                  refusals := [], waits := [] }
              let s := gangRound s g ids
              .ok (match s.gangs.find? (·.id == id) with
                | some g => if g.waits.isEmpty then gangDecide s g else s
                | none => s)

def execGang (f : Fields) (s : State) : Host.Outcome State Fault Refusal := issue (formGang f) false false gangEff f s

end Sys2Proof.Machine
end

