-- ==== Sys2Proof/Machine/Fabric.lean ====
section
/-! DEFINITION. The fabric: exactly-once delivery, escape routing, links, reachability and the tick (R344 to R353). -/

namespace Sys2Proof.Machine

/-! ## Ports (R351) -/

def modPort (s : State) (dev port : Nat) (g : Port → Port) : State :=
  s.modDev dev fun d => { d with ports := d.ports.mapIdx fun i p => if i = port then g p else p }

def portOf (s : State) (dev port : Nat) : Port := (s.dev dev).ports.getD port default

def Port.vc (p : Port) (cls : Nat) : Vc := p.vcs.getD cls {}

/-- The endpoint from which a packet travels now: its reply goes back from its destination. -/
def Packet.tail (p : Packet) : Nat := if p.state = .answered then p.dst else p.src

/-- The virtual channel in which it travels: replies have class 6 (R348, R351). -/
def Packet.vc (p : Packet) : Nat := if p.state = .answered then 6 else p.cls

/-- Whether a packet, or its reply, is on its way between two devices. -/
def Packet.abroad (p : Packet) : Bool := p.travels && (p.state == .flying || p.state == .answered)

/-- The port at which a packet waits, one in use by the routes that firmware has laid. -/
def waitPort (s : State) (p : Packet) : Option Nat :=
  let l := (List.range 24).filter fun i => (portOf s (eidDev p.tail) i).routed
  l[(Config.freeWord p.id (2 ^ 76)).toNat % l.length]?

/-- How long a packet has waited at its port. -/
def Packet.wait (p : Packet) (s : State) : Nat := (p.queued.map fun t => s.tickOf p.tail - t).getD 0

/-- Whether a packet has waited at its port for the threshold of its virtual channel. -/
def escapeDue (s : State) (p : Packet) (port : Nat) : Bool :=
  p.abroad && !p.out && p.queued.isSome && !p.escape &&
    decide (((portOf s (eidDev p.tail) port).vc p.vc).threshold ≤ p.wait s)

/-- Notes the wait of a packet that leaves a port. -/
def noteWait (s : State) (p : Packet) (port : Nat) : State :=
  modPort s (eidDev p.tail) port fun x =>
    { x with vcs := x.vcs.mapIdx fun i v =>
        if i = p.vc then { v with waits := (v.waits ++ [p.wait s]).drop (v.waits.length + 1 - 65536) } else v }

def escapes (s : State) : State :=
  match s.who with
  | [id] =>
    (match (s.pkt? id).bind fun p => (waitPort s p).map fun i => (p, i) with
     | some (p, i) =>
       if escapeDue s p i then
         let n := (portOf s (eidDev p.tail) i).moved + 1
         ((modPort s (eidDev p.tail) i fun x => { x with moved := n }).setPkt { p with escape := true }).record
           (eidDev p.tail) 4 10 0 (some i) (some n)
       else s
     | none => s)
  | _ => s

def execEscapeMove (s : State) : Host.Outcome State Fault Refusal := event escapes s

def thresholdDue (s : State) (dev port : Nat) : Bool :=
  decide ((portOf s dev port).computed + 2 ^ 20 ≤ (s.dev dev).yard)

/-- Inserts a number into a rising list. -/
def insertNat (a : Nat) : List Nat → List Nat
  | [] => [a]
  | b :: r => if a ≤ b then a :: b :: r else b :: insertNat a r

/-- The 99th percentile of some waits: the least wait that at least 99 in 100 of them do not exceed (log entry 104). -/
def wait99 (l : List Nat) : Nat := (l.foldl (fun r a => insertNat a r) []).getD ((99 * l.length + 99) / 100 - 1) 0

/-- The threshold of each virtual channel is four times its 99th-percentile wait, within 2 µs and 200 µs. -/
def thresholdNew (s : State) : State :=
  match s.who with
  | [dev, port] =>
    if thresholdDue s dev port then
      modPort s dev port fun p =>
        { p with vcs := p.vcs.map fun v => { v with threshold := max 2000 (min 200000 (4 * wait99 v.waits)) }
                 computed := (s.dev dev).yard }
    else s
  | _ => s

def execThresholdRecompute (s : State) : Host.Outcome State Fault Refusal := event thresholdNew s

/-! ## Departure and arrival (R348, R350, R352) -/

/-- Whether a device counts another as unreachable. -/
def cutOff (s : State) (src dst : Nat) : Bool := (s.dev (eidDev src)).unreachable.contains (eidDev dst)

/-- Whether a route leads from a packet's device to its destination's. -/
def Packet.routed (p : Packet) (s : State) : Bool := s.hasRoute (eidDev p.src) && s.hasRoute (eidDev p.dst)

/-- Whether a stream's number may be used: 4·T_RT + 2 µs have passed since the first transmission of the request that used it
last. -/
def seqFree (s : State) (p : Packet) : Bool :=
  !s.used.any fun x => x.1 == p.key && x.2.1 == p.seq && decide (s.tickOf p.src < x.2.2 + 4 * s.trt + 2000)

/-- What a request waits for at its source: a release that is performed, an access that the order lets be performed. -/
def Packet.permitted (p : Packet) (s : State) : Bool :=
  p.released s && match p.body with
    | .access id => s.accs.any fun a => a.id == id && !a.isNear && mayGo s a
    | _ => true

/-- Whether a packet's source and destination are devices of the pod: a request to any other number is refused without crossing a
port (R318, R344, R400). -/
def Packet.known (p : Packet) (s : State) : Bool := s.hasDev (eidDev p.src) && s.hasDev (eidDev p.dst)

/-- Whether an access has lost its home: no device of the pod has its number any more. -/
def Packet.nowhere (p : Packet) (s : State) : Bool :=
  !p.known s && match p.body with
    | .access _ | .engine => true
    | _ => false

/-- Whether a packet may go to its port: of a request, fewer than 64 earlier ones of its stream are unanswered, and its number is
free. -/
def Packet.mayQueue (p : Packet) (s : State) : Bool :=
  p.abroad && p.known s && !p.out && p.queued.isNone && (p.state == .answered || p.cls == 6 ||
    (p.permitted s && !cutOff s p.src p.dst &&
      (p.tick0.isSome || (decide ((s.net.filter fun q => decide (q.id < p.id) && q.stream p).length < 64) && seqFree s p))))

/-- Whether a packet may leave its port; one that has waited for the threshold moves to the escape channel first. -/
def Packet.mayLeave (p : Packet) (s : State) : Bool :=
  p.abroad && !p.out && p.queued.isSome && p.routed s &&
    match waitPort s p with
    | some i => !escapeDue s p i
    | none => false

/-- Whether a copy of a packet that is on its way may reach its unit, or a reply the sender. -/
def Packet.mayArrive (p : Packet) (s : State) : Bool :=
  p.abroad && (if p.known s then p.out && p.routed s else !p.nowhere s && (p.state == .answered || p.permitted s))

/-- A packet leaves its port: of a request, the first time its number is taken, the tick of its first transmission noted, and what
its sender has abandoned in the stream reported with it (R348). -/
def leavesPort (s : State) (p : Packet) : State :=
  let now := s.tickOf p.src
  let s := match waitPort s p with | some i => noteWait s p i | none => s
  if ¬ p.crosses ∨ p.state = .answered then s.setPkt { p with out := true } else
  let p := if p.tick0.isSome then p else { p with tells := (s.gaps.filter fun g => g.2 == p.key).map (·.1) }
  let s := if p.tick0.isSome then s else
    { s with used := (p.key, p.seq, now) :: s.used.filter fun x => !(x.1.1 / 4096 == eidDev p.src && decide (x.2.2 + 4 * s.trt + 2000 ≤ now)) }
  s.setPkt { p with tick0 := some (p.tick0.getD now), out := true }

/-- The message-refused trap of a request with no packet of its own in the thread's name. -/
def unknownTo (s : State) (r : ReplyTo) : State :=
  deferTrap (finishPend s r.eid r.slot r.pend []) r.eid r.slot r.pend
    { code := 10, cause := 6, ipc := r.ipc, rpc := r.ipc, word := r.word, defer := true }

/-- A gang's request is given up: its issuer is told, and what was prepared elsewhere is aborted (R354). -/
def loseGang (s : State) (id dev : Nat) (commit : Bool) : State :=
  match s.gangs.find? (·.id == id) with
  | none => s
  | some g =>
    let s := if g.src.pend = 0 then s else unknownTo s g.src
    let g := { g with src := { g.src with pend := 0 }, waits := g.waits.filter (· != dev), round := 4
                      refusals := if commit then g.refusals else g.refusals ++ [(dev, stSTATE)] }
    let s := modGang s id fun _ => g
    if ¬ g.waits.isEmpty then s
    else if commit then gangNext s { g with refusals := [], round := 4 }
    else gangDecide s g

/-- What a unit of another device has not had when its sender abandons it leaves a gap in its stream, until that is reported
(R348). -/
def noteGap (s : State) (p : Packet) : State :=
  if p.crosses ∧ (p.cls = 1 ∨ p.cls = 2) ∧ p.state ≠ .arrived ∧ ¬ p.replied then { s with gaps := s.gaps ++ [(p.id, p.key)] } else s

/-- The slot of a drain whose token is given up stops with a fault (R162, R349).  DEDUCED (log entry 103): cause 0x0B. -/
def steerFails (s : State) (eid id : Nat) : State :=
  match (s.core eid).mxq.find? (·.id == id) with
  | some m => modAcc s eid m.phys fun a => { a with fault := some (11, 0), logical := m.logical }
  | none => s

/-- Gives a request up, as its agent's chapter says (R349). -/
def giveUp (s : State) (p : Packet) : State :=
  let s := noteGap s p
  match p.body with
  | .engine => setFar (s.dropPkt p.id) p.id 2
  | .decr h _ _ q qe =>
    if p.slot ≠ 27 then abandon s p 6 else strayDecrement (s.dropPkt p.id) (eidDie p.src) p.asid h q qe
  | .forward k _ _ _ | .shake k _ _ _ => loseSight (s.dropPkt p.id) k (eidDev p.src) (eidDev p.dst) true
  | .planResult k _ _ | .planFix k _ _ _ => loseSight (s.dropPkt p.id) k (eidDev p.src) (eidDev p.dst) false
  | .planPrep k =>
    (match Keyed.get? s.plans k with
     | some pl =>
       let s := { s.dropPkt p.id with plans := Keyed.del s.plans k }
       match pl.src with
       | some r => unknownTo s { r with ipc := p.ipc, word := p.word }
       | none => s
     | none => s.dropPkt p.id)
  | .gangPrep g => loseGang (s.dropPkt p.id) g (eidDev p.dst) false
  | .gangCommit g => loseGang (s.dropPkt p.id) g (eidDev p.dst) true
  | .access id =>
    (match s.accs.find? (·.id == id) with
     | some a => loseAccess s a (if cutOff s p.src p.dst ∨ ¬ p.known s then 7 else 6)
     | none => s.dropPkt p.id)
  | .edgeToken .. => if p.slot = 28 then steerFails (s.dropPkt p.id) p.src p.ipc else abandon s p 6
  | .barrier .. => if p.slot = 29 then chanFails (s.dropPkt p.id) p.src p.ipc 11 0 else abandon s p 6
  | _ => abandon s p 6

/-- Entries of a unit's reply cache that are taken: replies, and one for each request that it has begun to perform (R350). -/
def cacheUsed (s : State) (unit : Nat) : Nat :=
  (s.cache.filter fun c => c.unit == unit).length +
    (s.net.filter fun q => q.unit == unit && q.crosses && !q.reads s && (q.state == .arrived || (q.state == .recorded && q.tick0.isSome))).length

/-- STALE-RETRY: a request is too old to be performed (R350); it is logged (R411). -/
def sayStale (s : State) (p : Packet) : State := (nackNote s p.dst p.src).setPkt (p.withReply .stale)

/-- A request that crosses a Yard port reaches its handler unit, which hears what its sender has abandoned (R348, R350); a packet
that asks for no answer has no number. -/
def unitServes (s : State) (p : Packet) : State :=
  let s : State := { s with gaps := s.gaps.filter fun g => !p.tells.contains g.1 }
  if p.reads s ∨ ¬ p.crosses ∨ ¬ p.known s then s.setPkt { p with state := .arrived }
  else
    match s.cache.find? fun c => c.unit == p.unit && c.src == p.src && c.cls == p.cls && c.seq == p.seq with
    | some c => s.setPkt (p.withReply c.reply)
    | none =>
      if p.stale s then sayStale s p
      else if 64 ≤ cacheUsed s p.unit then retryLater s p p.dst
      else s.setPkt { p with state := .arrived }

/-- Whether a request's reply does not reach the sender: it is lost on its way, or it is that of a plain load of a frozen core
(R349, R393). -/
def replyLost (s : State) (p : Packet) : Bool :=
  p.known s && Config.happens s.free p.id || ((s.core p.src).frozen && match p.body with | .access _ => p.reads s | _ => false)

/-- A load whose reply does not arrive is to be performed again (R350). -/
def Access.again (a : Access) : Access :=
  { a with done := false, got := 0, pieces := if a.ty = 99 then [(0, a.keys.length)] else piecesOf a.va a.keys.length 0 a.keys.length }

/-- The reply of a request reaches its sender. -/
def replyArrives (s : State) (p : Packet) : State :=
  if replyLost s p then
    { s.setPkt { p with state := .done } with
      accs := s.accs.map fun a => if p.body = .access a.id ∧ a.op = .load then a.again else a }
  else
    match p.ans with
    | .later => retryTaken s p p.dst
    | .stale => giveUp (nackNote s p.src p.dst) p
    | .full => fullTaken s p
    | a => takeAnswer (s.dropPkt p.id) p a

/-- An engine's access to a line is performed at its home: a read brings the bytes that hold no error, a write of which one would
meet one is not made (R219, R260, R348). -/
def engineAtHome (s : State) (p : Packet) : State :=
  match s.fars.find? (·.pkt == p.id) with
  | none => answer s p .quiet
  | some f =>
    let ks := if f.write then f.bytes.map (·.1) else (List.range 64).map (64 * f.line + ·)
    match emptyGran s ks with
    | some x => fillForPacket s p x
    | none =>
      if f.write then
        if ks.any fun k => s.bad.contains k && !keyIsLm k then answer s p (.result []) else answer (putBytes s f.bytes) p .quiet
      else
        let bs := (ks.filter fun k => !s.bad.contains k).map fun k =>
          (k, seenByte s f.eid (min f.slot 31) (if f.id = 0 then s.nextId else f.id) k)
        answer { s with fars := s.fars.map fun x => if x.pkt = p.id then { x with bytes := bs } else x } p .quiet

/-- A packet goes to its port, leaves it, or reaches its unit, and a reply the sender; a request that has grown too old at its unit
is refused, and one of the task group or of an engine is performed there. -/
def requestArrives (s : State) : State :=
  match s.who with
  | [id] =>
    (match s.pkt? id with
     | some p =>
       if p.mayQueue s then s.setPkt { p with queued := some (s.tickOf p.tail) }
       else if p.mayLeave s then leavesPort s p
       else if p.mayArrive s then (if p.state = .answered then replyArrives s p else unitServes s p)
       else if p.state = .arrived ∧ p.stale s then sayStale s p
       else match p.body with
         | .taskOp .. => if p.ready s then unitArrive s p else s
         | .engine => if p.ready s then engineAtHome s p else s
         | _ => s
     | none => s)
  | _ => s

def execFabricRequestArrival (s : State) : Host.Outcome State Fault Refusal := event requestArrives s

/-! ## Retransmission and abandonment (R349) -/

/-- Whether a request has been sent and its sender has had no reply: a mailbox entry that was refused or recorded has had one. -/
def Packet.unanswered (p : Packet) : Bool :=
  p.crosses && p.tick0.isSome && !(p.body.box.isSome && (p.state == .refused || p.state == .recorded))

/-- Whether a request is due to be sent again. -/
def resendDue (s : State) (p : Packet) : Bool :=
  p.unanswered && decide (p.resent < 3) && decide (p.tick0.getD 0 + (p.resent + 1) * (s.trt / 2) ≤ s.tickOf p.src)

/-- The next copy of a request goes out, when what came before it has been lost: on its way, or with its reply. -/
def retransmit (s : State) : State :=
  match s.who with
  | [id] =>
    (match s.pkt? id with
     | some p =>
       if resendDue s p then
         s.setPkt (if p.state = .done then
             { p with resent := p.resent + 1, state := .flying, out := false, queued := none, escape := false }
           else { p with resent := p.resent + 1 })
       else s
     | none => s)
  | _ => s

def execRetransmitTimer (s : State) : Host.Outcome State Fault Refusal := event retransmit s

/-- Whether a sender gives a request up. -/
def giveUpDue (s : State) (p : Packet) : Bool :=
  p.crosses && ((p.unanswered && decide (p.tick0.getD 0 + 2 * s.trt ≤ s.tickOf p.src)) ||
    p.nowhere s || (cutOff s p.src p.dst && !(p.state == .recorded && p.tick0.isNone) && p.permitted s))

/-- Whether an access to an accelerator that is no Kwezia device, which no request stands for, is abandoned: it counts as
unreachable (R219, R347, R352). -/
def accessDue (s : State) (a : Access) : Bool :=
  !a.isNear && mayGo s a && (a.pkt? s).isNone && a.keys.any (s.cutKey (eidDev a.eid))

def abandonment (s : State) : State :=
  match s.who with
  | [id] =>
    (match s.pkt? id with
     | some p => if giveUpDue s p then giveUp s p else s
     | none =>
       match s.accs.find? (·.id == id) with
       | some a => if accessDue s a then loseAccess s a 7 else s
       | none => s)
  | _ => s

def execRequestAbandon (s : State) : Host.Outcome State Fault Refusal := event abandonment s

/-- A cached reply whose time is over. -/
def cacheExpires (s : State) : State :=
  match s.who with
  | [unit, seq] =>
    { s with cache := s.cache.filter fun c => !(c.unit == unit && c.seq == seq && decide (c.freeAt ≤ s.tickOf (unit % 2 ^ 22))) }
  | _ => s

def execReplyCacheExpiry (s : State) : Host.Outcome State Fault Refusal := event cacheExpires s

def laterResend (s : State) : State :=
  match s.who with
  | [id] =>
    (match s.pkt? id with
     | some p => if p.state = .later ∧ p.due ≤ s.tickOf p.src then
         s.setPkt { p with state := .flying, out := false, queued := none, escape := false } else s
     | none => s)
  | _ => s

def execRetryLaterResend (s : State) : Host.Outcome State Fault Refusal := event laterResend s

/-! ## Links and reachability (R352) -/

/-- Notes for every device since when no route has led to each other one, and to each accelerator. -/
def noteRoutes (s : State) : State :=
  { s with devs := s.devs.map fun (d, v) =>
      (d, { v with noRoute := ((s.devs.map (·.1) ++ s.accels).filter fun o => o != d && decide (o < 1024) && !s.reaches d o).map fun o =>
              (o, (Keyed.get? v.noRoute o).getD v.tick) }) }

/-- A link goes down; what it carried is sent again under R349. -/
def execLinkFailure (dev port : Nat) (s : State) : Host.Outcome State Fault Refusal :=
  event (fun s => modPort s dev port fun p => { p with up := false }) s

def removeRoute (s : State) : State :=
  match s.who with
  | [dev, port] =>
    let p := portOf s dev port
    if p.routed ∧ ¬ p.up then
      (noteRoutes (modPort s dev port fun p => { p with routed := false })).record dev 4 5 0 (some port) none
    else s
  | _ => s

def execRouteRemoval (s : State) : Host.Outcome State Fault Refusal := event removeRoute s

/-- Whether a device declares another unreachable: no route for T_RT. -/
def lostDue (s : State) (dev other : Nat) : Bool :=
  let d := s.dev dev
  !d.unreachable.contains other && match Keyed.get? d.noRoute other with
    | some t => decide (t + s.trt ≤ d.tick)
    | none => false

def declareLost (s : State) : State :=
  match s.who with
  | [dev, other] =>
    if lostDue s dev other then
      (s.modDev dev fun d => { d with unreachable := d.unreachable ++ [other], adrift := d.adrift || (s.dev other).master }).record dev 4 5 (other * 4096) none none
    else s
  | _ => s

def execDeviceUnreachable (s : State) : Host.Outcome State Fault Refusal := event declareLost s

def foundDue (s : State) (dev other : Nat) : Bool :=
  (s.dev dev).unreachable.contains other && s.reaches dev other

def routeFound (s : State) : State :=
  match s.who with
  | [dev, other] =>
    if foundDue s dev other then
      s.modDev dev fun d =>
        { d with unreachable := d.unreachable.filter (· != other), noRoute := Keyed.del d.noRoute other }
    else s
  | _ => s

def execRouteFound (s : State) : Host.Outcome State Fault Refusal := event routeFound s

/-- A port of a device trains again at its full width. -/
def retrain (s : State) (dev port : Nat) : State :=
  (noteRoutes (modPort s dev port fun p => { p with up := true, routed := true })).record dev 4 4 0 (some port) none

def execLinkRetrain (dev port : Nat) (s : State) : Host.Outcome State Fault Refusal :=
  event (fun s => if port < 24 then retrain s dev port else s) s

/-- A write into the aperture from an accelerator that is no Kwezia device (R347). -/
def apertureDiscard (s : State) : State :=
  match s.who with
  | [dev] =>
    if s.accels.isEmpty then s else
    let n := (s.dev dev).discarded + 1
    (s.modDev dev fun d => { d with discarded := n }).record dev 4 11 0 none (some n)
  | _ => s

def execApertureWriteDiscard (s : State) : Host.Outcome State Fault Refusal := event apertureDiscard s

/-! ## The tick (R353) -/

/-- The estimated error of a device's tick now, in ns: once the master has failed or been lost it grows by 10 parts per million
of the time since the last measurement, until the new master is measured. -/
def tickError (d : Device) : Nat := d.err + (if d.adrift then (d.tick - d.measured) / 100000 else 0)

/-- Sets whether a device is locked; a loss and a relock are logged under a TYPE that the spec does not give. -/
def setLock (s : State) (dev : Nat) (on : Bool) : State :=
  if (s.dev dev).locked = on then s
  else (s.modDev dev fun d => { d with locked := on }).record dev 4
    ((Config.freeWord s.free (2 ^ 71)).toNat % 256) 0 none none

/-- Whether a device's links carry what a measurement takes. -/
def Device.linked (d : Device) : Bool := d.stage == 4 || d.stage == 5

/-- Whether a device can measure its tick against the master's.  The master's own tick, which a warm reset has unlocked, is
measured against itself once the links are up (R413). -/
def measureDue (s : State) (dev : Nat) : Bool :=
  (s.dev dev).linked && (if (s.dev dev).master then !(s.dev dev).locked
    else s.devs.any fun (m, v) => v.master && v.linked && !(s.dev dev).unreachable.contains m)

/-- The rate at which a device slews its tick from a measurement on: at most 200 parts per million, and toward the master's tick
when the two differ by more than the error found. -/
def slewFor (own master err rate : Nat) (ahead : Bool) : Int :=
  let r : Nat := rate % 201
  if own + err < master then r else if master + err < own then -(r : Int) else if ahead then r else -(r : Int)

/-- A measurement: the error and the rate of slew that come of it are free. -/
def measureTick (s : State) : State :=
  match s.who with
  | [dev] =>
    (match s.devs.find? fun x => x.2.master && x.2.linked && !(s.dev dev).unreachable.contains x.1 with
     | some (_, m) =>
       if measureDue s dev ∧ (s.dev dev).master then setLock s dev true
       else if measureDue s dev then
         let n := Config.passed s.free 62
         setLock (s.modDev dev fun d =>
           { d with err := n, measured := d.tick, adrift := false
                    slew := slewFor d.tick m.tick n (Config.passed s.free 63) (Config.happens s.free 1) }) dev (decide (n ≤ 15))
       else s
     | none => s)
  | _ => s

def execTickMeasurement (s : State) : Host.Outcome State Fault Refusal := event measureTick s

def lockLossDue (s : State) (dev : Nat) : Bool :=
  let d := s.dev dev
  d.locked && !d.master && decide (15 < tickError d)

def loseLock (s : State) : State :=
  match s.who with
  | [dev] => if lockLossDue s dev then setLock s dev false else s
  | _ => s

def execLossOfLock (s : State) : Host.Outcome State Fault Refusal := event loseLock s

/-- A device is the tick master no longer: when it was, every other one counts on by itself. -/
def loseMaster (s : State) (dev : Nat) : State :=
  if (s.dev dev).master then
    { s with devs := s.devs.map fun (d, v) =>
        (d, if d = dev then { v with master := false, measured := v.tick, err := 0, slew := 0 } else { v with adrift := true }) }
  else s

/-- The master fails, or can no longer be reached. -/
def execTickMasterFailure (dev : Nat) (s : State) : Host.Outcome State Fault Refusal := event (fun s => loseMaster s dev) s

/-- Whether firmware may name a device as master: no device is it, or the one that is counts as unreachable. -/
def masterDue (s : State) (dev : Nat) : Bool :=
  s.hasDev dev && (s.dev dev).linked && !(s.dev dev).master &&
    s.devs.all fun (m, v) => !v.master || s.devs.any fun (d, w) => d != m && w.unreachable.contains m

/-- A new master is named, and the event is logged on every device. -/
def nameMaster (s : State) : State :=
  match s.who with
  | [dev] =>
    if masterDue s dev then
      let s : State := { s with devs := s.devs.map fun (d, v) =>
        (d, if d = dev then { v with master := true, slew := 0, adrift := false, err := 0 } else { v with master := false }) }
      let s := s.devs.foldl (fun s (d, _) => s.record d 4 ((Config.freeWord s.free (2 ^ 72)).toNat % 256) (dev * 4096) none none) s
      setLock s dev true
    else s
  | _ => s

def execNewTickMaster (s : State) : Host.Outcome State Fault Refusal := event nameMaster s

/-- A device joins the pod: its tick steps forward once, before any context is loaded.  With 1 in what the event acts on it is an
accelerator that is no Kwezia device (R347), which joins under a number that no device holds. -/
def joins (s : State) (dev ticks : Nat) : State :=
  if s.who = [1] then
    if s.hasDev dev ∨ s.accels.contains dev ∨ 1024 ≤ dev then s else { s with accels := s.accels ++ [dev] }
  else if (s.dev dev).joined ∨ 1024 ≤ dev ∨ s.accels.contains dev ∨ s.ctxs.any fun (k, _) => k / 65536 == dev then s
  else s.modDev dev fun d => { d with tick := d.tick + ticks, joined := true }

def execDeviceJoin (dev ticks : Nat) (s : State) : Host.Outcome State Fault Refusal := event (fun s => joins s dev ticks) s

/-- The key of a byte once device `a` has number `b`. -/
def rekey (a b k : Nat) : Nat :=
  if keyIsHost k then (if (k - 2 ^ 56) / 2 ^ 52 = a then hostKey b ((k - 2 ^ 56) % 2 ^ 52) else k)
  else if keyIsLm k then (if eidDev (keyCore k) = a then lmKey (b * 4096 + keyCore k % 4096) (keyOff k) else k)
  else if k / 2 ^ 39 = a then dramKey b (k % 2 ^ 39) else k

/-- Moves what stands under one device's number to another's. -/
def renumber (s : State) (a b : Nat) : State :=
  let mv (s : State) (c : Host.Cell) : State :=
    if rekey a b c.1 = c.1 then s else (s.setByte c.1 Memory.blank).setByte (rekey a b c.1) c.2
  let s := s.mem.foldl mv s
  let rk (n : Nat) (k : Nat) : Nat := if k / n = a then b * n + k % n else k
  { s with
    devs := (Keyed.put (Keyed.del s.devs a) b (s.dev a)).map fun (d, v) =>
      (d, { v with unreachable := v.unreachable.filter (· != a), noRoute := Keyed.del v.noRoute a })
    cores := s.cores.foldl (fun l (k, c) => Keyed.put l (rk 4096 k) c) []
    tiles := s.tiles.foldl (fun l (k, c) => Keyed.put l (rk 512 k) c) []
    dies := s.dies.foldl (fun l (k, c) => Keyed.put l (rk 4 k) c) []
    recorders := s.recorders.foldl (fun l (k, c) => Keyed.put l (rk 8 k) c) []
    bad := s.bad.map (rekey a b) }

/-- The key under which a device stands that has no number: it is none that the fabric or a page table can name (R344). -/
def limboOf (s : State) (dev : Nat) : Nat :=
  if ¬ s.hasDev (1024 + dev) then 1024 + dev else 1024 + (firstIdx 1024 fun i => !s.hasDev (1024 + i)).getD 0

/-- A device has no number until the next time one is set (R344). -/
def unnumber (s : State) (dev : Nat) : State :=
  let s := s.modDev dev fun d => { d with numbered := false, joined := false }
  if 1024 ≤ dev then s else renumber s dev (limboOf s dev)

/-- The next step of a device's bring-up: step dies and masts, die links, UALink ports (R413). -/
def Device.bringUp (d : Device) : Device :=
  if d.stage = 3 then { d with stage := 4, ports := List.replicate 24 {} } else { d with stage := d.stage + 1 }

/-- Whether a device is between the acceptance of its firmware and the training of its ports. -/
def Device.rising (d : Device) : Bool := decide (1 ≤ d.stage) && decide (d.stage ≤ 3)

/-- Devices that come up go on: how long each step takes is open (log entry 4). -/
def bringUp (s : State) : State :=
  if s.devs.any fun (_, d) => d.rising then
    noteRoutes { s with devs := s.devs.map fun (k, d) => (k, if d.rising ∧ Config.happens s.steps (2 ^ 82 + k) then d.bringUp else d) }
  else s

/-- Management firmware configures the pod: the number of a device, once between cold resets (R344), and with it the retransmit
time of the whole pod in ns, 256 µs to 16 ms (R349), when the event brings one in that range. -/
def setNumber (s : State) (dev num : Nat) : State :=
  let d := s.dev dev
  if ¬ s.hasDev dev ∨ ¬ d.linked ∨ 1024 ≤ num ∨ (num ≠ dev ∧ (s.hasDev num ∨ s.accels.contains num)) ∨ d.numbered ∨
      (s.ctxs.any fun (k, _) => k / 65536 == dev) then s
  else
    let s := s.modDev dev fun d => { d with numbered := true }
    let s := match s.who with
      | [t] => if 256000 ≤ t ∧ t ≤ 16000000 then { s with trt := t } else s
      | _ => s
    if num = dev then s else noteRoutes (renumber s dev num)

def execDeviceNumberSet (dev num : Nat) (s : State) : Host.Outcome State Fault Refusal := event (fun s => setNumber s dev num) s

end Sys2Proof.Machine
end

