-- ==== Sys2Proof/Machine/Int.lean ====
section
/-! DEFINITION. The integer and pointer group (R120 to R133). -/

namespace Sys2Proof.Machine

/-! ## Elements (R121, R122) -/

/-- Signedness and width of the type in force. -/
def Env.isgn (e : Env) : Bool := codeSgn (intType e.f)
def Env.ibits (e : Env) : Nat := codeBits (intType e.f)

/-- Operand B of a lane as a pattern of `4·w` bits with its `w`: the operand, or the immediate sign-extended. -/
def Env.bOrImm (e : Env) (l : Nat) : Nat × Nat :=
  if e.f.isI then (pat 64 (simm14 e.f.b), 16) else (e.b l, e.ob.w)

/-- Elements per lane. -/
def Env.elems (e : Env) : Nat := 2 ^ e.f.pk

/-- Element `j` of a source, extended to the type (R69, R121).  In a packed form the elements are 32/k bits each, and an
immediate serves every element. -/
def Env.elem (e : Env) (w v j : Nat) : Int :=
  if e.f.pk = 0 then srcInt e.isgn e.ibits w v else srcInt e.isgn e.ibits 16 (v / 2 ^ (e.ibits * j))

def Env.elemA (e : Env) (l j : Nat) : Int := e.elem e.oa.w (e.a l) j
def Env.elemB (e : Env) (l j : Nat) : Int :=
  if e.f.isI then srcInt e.isgn e.ibits 16 (pat 64 (simm14 e.f.b)) else e.elem e.ob.w (e.b l) j
def Env.elemC (e : Env) (l j : Nat) : Int := e.elem e.oc.w (e.c_ l) j

/-- The pattern of a lane of D from the exact results of its elements. -/
def Env.fitElems (e : Env) (r : Nat → Int) : Nat :=
  if e.f.pk = 0 then fitInt e.f.sat e.isgn e.ibits e.od.w (r 0)
  else (List.range e.elems).foldl (fun acc j =>
    acc + pat e.ibits (reduceInt e.f.sat e.isgn e.ibits (r j)) * 2 ^ (e.ibits * j)) 0

/-- A class I instruction whose elements do not look at each other. -/
def intI (form : Option Form) (r : Env → Nat → Nat → Int) (f : Fields) (s : State) :
    Host.Outcome State Fault Refusal :=
  issue form true true (fun e => .ok (e.doneI (e.dlanes.map fun l => (l, e.fitElems (r e l))) 0)) f s

/-- An instruction of elements `a` and `b`, from their exact values. -/
def intAB (form : Option Form) (g : Int → Int → Int) (f : Fields) (s : State) : Host.Outcome State Fault Refusal :=
  intI form (fun e l j => g (e.elemA l j) (e.elemB l j)) f s

/-- An instruction of elements `a` and `b`, from their patterns: a pattern. -/
def intBits (form : Option Form) (g : Nat → Nat → Nat → Nat) (f : Fields) (s : State) :
    Host.Outcome State Fault Refusal :=
  intI form (fun e l j => (g e.ibits (pat e.ibits (e.elemA l j)) (pat e.ibits (e.elemB l j)) : Nat)) f s

/-- An instruction of one element, from its pattern. -/
def intBits1 (form : Option Form) (g : Nat → Nat → Nat) (f : Fields) (s : State) :
    Host.Outcome State Fault Refusal :=
  intI form (fun e l j => (g e.ibits (pat e.ibits (e.elemA l j)) : Nat)) f s

/-! ## Arithmetic and logic (R125, R126) -/

def execAdd (f : Fields) (s : State) : Host.Outcome State Fault Refusal := intAB (formArith f) (· + ·) f s
def execSub (f : Fields) (s : State) : Host.Outcome State Fault Refusal := intAB (formArith f) (· - ·) f s
def execMul (f : Fields) (s : State) : Host.Outcome State Fault Refusal := intAB (formArith f) (· * ·) f s

def execMulh (f : Fields) (s : State) : Host.Outcome State Fault Refusal :=
  intI (formMulh f) (fun e l j => e.elemA l j * e.elemB l j / (2 : Int) ^ e.ibits) f s

def execMad (f : Fields) (s : State) : Host.Outcome State Fault Refusal :=
  intI (formMad f) (fun e l j => e.elemA l j * e.elemB l j + e.elemC l j) f s

def execMin (f : Fields) (s : State) : Host.Outcome State Fault Refusal := intAB (formArith f) min f s
def execMax (f : Fields) (s : State) : Host.Outcome State Fault Refusal := intAB (formArith f) max f s

def execAbs (f : Fields) (s : State) : Host.Outcome State Fault Refusal :=
  intI (formUnary f) (fun e l j => ((e.elemA l j).natAbs : Int)) f s

def execNeg (f : Fields) (s : State) : Host.Outcome State Fault Refusal :=
  intI (formUnary f) (fun e l j => -e.elemA l j) f s

def execAnd (f : Fields) (s : State) : Host.Outcome State Fault Refusal :=
  intBits (formLogic f) (fun _ a b => a &&& b) f s
def execOr (f : Fields) (s : State) : Host.Outcome State Fault Refusal :=
  intBits (formLogic f) (fun _ a b => a ||| b) f s
def execXor (f : Fields) (s : State) : Host.Outcome State Fault Refusal :=
  intBits (formLogic f) (fun _ a b => a ^^^ b) f s
def execAndn (f : Fields) (s : State) : Host.Outcome State Fault Refusal :=
  intBits (formLogic f) (fun n a b => a &&& (b ^^^ (2 ^ n - 1))) f s
def execNot (f : Fields) (s : State) : Host.Outcome State Fault Refusal :=
  intBits1 (formBitUn f) (fun n a => a ^^^ (2 ^ n - 1)) f s

/-- `shl` (R126): the count is the low N bits of b's pattern. -/
def shlBits (n a c : Nat) : Nat := if n ≤ c then 0 else a * 2 ^ c % 2 ^ n
def shrBits (n a c : Nat) : Nat := if n ≤ c then 0 else a / 2 ^ c
def sarBits (n a c : Nat) : Nat := pat n (signed n a / (2 : Int) ^ min c n)
def rotBits (n a c : Nat) : Nat := a * 2 ^ (c % n) % 2 ^ n + a / 2 ^ (n - c % n)

def execShl (f : Fields) (s : State) : Host.Outcome State Fault Refusal := intBits (formLogic f) shlBits f s
def execShr (f : Fields) (s : State) : Host.Outcome State Fault Refusal := intBits (formLogic f) shrBits f s
def execSar (f : Fields) (s : State) : Host.Outcome State Fault Refusal := intBits (formLogic f) sarBits f s
def execRot (f : Fields) (s : State) : Host.Outcome State Fault Refusal := intBits (formLogic f) rotBits f s

/-- The count of 0 bits above the highest 1 bit. -/
def clzBits (n a : Nat) : Nat := if a = 0 then n else n - 1 - Nat.log2 a

def execPopc (f : Fields) (s : State) : Host.Outcome State Fault Refusal := intBits1 (formBitUn f) popcount f s
def execClz (f : Fields) (s : State) : Host.Outcome State Fault Refusal := intBits1 (formBitUn f) clzBits f s
def execBrev (f : Fields) (s : State) : Host.Outcome State Fault Refusal := intBits1 (formBitUn f) bitrev f s

/-! ## Carry, selection, comparison (R127, R128) -/

/-- `addc` and `subb`: `op` gives the exact result of the unsigned patterns and the carry in. -/
def carryEff (op : Int → Int → Int → Int) (e : Env) : State :=
  let pk := e.t.pred e.f.c.toNat
  let n := e.ibits
  let r (l : Nat) : Int := op (pat n (e.elemA l 0) : Nat) (pat n (e.elemB l 0) : Nat) (b2n (pk.getLsbD l))
  let cout (l : Nat) : Bool := r l < 0 || (2 : Int) ^ n ≤ r l
  let s := e.doneI (e.dlanes.map fun l => (l, fitInt false e.isgn n e.od.w (r l))) 0
  s.modThr e.eid e.slot fun t => t.setPred e.f.c.toNat fun l =>
    if e.act l then some (cout (if e.od.isVec then l else 0)) else none

def execAddc (f : Fields) (s : State) : Host.Outcome State Fault Refusal :=
  issue (formCarry f) true true (fun e => .ok (carryEff (fun a b c => a + b + c) e)) f s
def execSubb (f : Fields) (s : State) : Host.Outcome State Fault Refusal :=
  issue (formCarry f) true true (fun e => .ok (carryEff (fun a b c => a - b - c) e)) f s

def execSel (f : Fields) (s : State) : Host.Outcome State Fault Refusal :=
  intI (formSel f) (fun e l j =>
    if (e.t.pred e.f.c.toNat).getLsbD l then e.elemA l j else e.elemB l j) f s

/-- The conditions of `cmp` (R124). -/
def cmpCond (op : Nat) (a b : Int) : Bool :=
  match op with
  | 0 => a == b | 1 => a != b | 2 => decide (a < b) | 3 => decide (a ≤ b) | 4 => decide (b < a) | _ => decide (b ≤ a)

def execCmp (f : Fields) (s : State) : Host.Outcome State Fault Refusal :=
  issue (formCmp f) true true (fun e => .ok (e.modT fun t => t.setPred e.f.d.toNat fun l =>
    if e.act l then some (cmpCond e.f.op (e.elemA l 0) (e.elemB l 0)) else none)) f s

/-! ## Sums of products (R130) -/

/-- `sad`: C and D are n32. -/
def sadVal (e : Env) (l : Nat) : Nat :=
  let n := if e.f.pk = 0 then 1 else e.elems
  let v := srcInt false 32 e.oc.w (e.c_ l) +
    sumInt ((List.range n).map fun j => ((e.elemA l j - e.elemB l j).natAbs : Int))
  fitInt e.f.sat false 32 e.od.w v

def execSad (f : Fields) (s : State) : Host.Outcome State Fault Refusal :=
  issue (formSad f) true true (fun e => .ok (e.doneI (e.dlanes.map fun l => (l, sadVal e l)) 0)) f s

/-- `dp4` and `dp8`: elements of `n` bits; `.mx` gives B's the opposite signedness. -/
def dpVal (n : Nat) (e : Env) (l : Nat) : Nat :=
  let sg := codeSgn e.f.etype.toNat
  let sgB := sg != (e.f.op == 1)
  let el (sg : Bool) (v j : Nat) : Int := srcInt sg n 16 (v / 2 ^ (n * j))
  let v := srcInt true 32 e.oc.w (e.c_ l) +
    sumInt ((List.range (32 / n)).map fun j => el sg (e.a l) j * el sgB (e.b l) j)
  fitInt e.f.sat true 32 e.od.w v

def execDp4 (f : Fields) (s : State) : Host.Outcome State Fault Refusal :=
  issue (formDp f [1, 2]) true true (fun e => .ok (e.doneI (e.dlanes.map fun l => (l, dpVal 8 e l)) 0)) f s
def execDp8 (f : Fields) (s : State) : Host.Outcome State Fault Refusal :=
  issue (formDp f [15, 16]) true true (fun e => .ok (e.doneI (e.dlanes.map fun l => (l, dpVal 4 e l)) 0)) f s

/-! ## Division (R129) -/

/-- The exact quotient, and all ones for a division by zero. -/
def divVal (sgn : Bool) (n : Nat) (a b : Int) : Int := if b = 0 then wrapInt sgn n (2 ^ n - 1) else a.tdiv b
def remVal (a b : Int) : Int := if b = 0 then a else a.tmod b

/-- `div` and `rem`: class L; any division by zero sets IDZ. -/
def divL (form : Option Form) (g : Bool → Nat → Int → Int → Int) (f : Fields) (s : State) :
    Host.Outcome State Fault Refusal :=
  issue form true true (fun e =>
    let z := e.dlanes.any fun l => (List.range e.elems).any fun j => e.elemB l j == 0
    .ok (e.doneL (e.dlanes.map fun l =>
      (l, e.fitElems fun j => g e.isgn e.ibits (e.elemA l j) (e.elemB l j))) (if z then fIDZ else 0))) f s

def execDiv (f : Fields) (s : State) : Host.Outcome State Fault Refusal := divL (formDiv f) divVal f s
def execRem (f : Fields) (s : State) : Host.Outcome State Fault Refusal :=
  divL (formLogic f) (fun _ _ a b => remVal a b) f s

/-! ## Across lanes (R131) -/

/-- The combination of exact values under an operation of `ired`; the identity when there is none. -/
def combine (op : Nat) (sgn : Bool) (n : Nat) (l : List Int) : Int :=
  match op with
  | 0 => sumInt l
  | 1 => l.foldl min (intMax sgn n)
  | 2 => l.foldl max (intMin sgn n)
  | 3 => wrapInt sgn n (l.foldl (fun acc v => acc &&& pat n v) (2 ^ n - 1) : Nat)
  | 4 => wrapInt sgn n (l.foldl (fun acc v => acc ||| pat n v) 0 : Nat)
  | _ => wrapInt sgn n (l.foldl (fun acc v => acc ^^^ pat n v) 0 : Nat)

/-- The combination of the active lanes that satisfy a test. -/
def combineLanes (e : Env) (p : Nat → Bool) : Nat :=
  fitInt e.f.sat e.isgn e.ibits e.od.w
    (combine e.f.op e.isgn e.ibits ((e.lanes.filter p).map fun l => e.elemA l 0))

def execIred (f : Fields) (s : State) : Host.Outcome State Fault Refusal :=
  issue (formIred f) true true (fun e => .ok (e.doneL (e.dlanes.map fun l => (l, combineLanes e fun _ => true)) 0)) f s

def execIscan (f : Fields) (s : State) : Host.Outcome State Fault Refusal :=
  issue (formIscan f) true true (fun e =>
    let ex := e.f.smod == 1
    .ok (e.doneL (e.dlanes.map fun l => (l, combineLanes e fun k => if ex then decide (k < l) else decide (k ≤ l))) 0)) f s

/-! ## Pointers (R132, R133) -/

/-- The byte offset that `padd` adds; none when two elements share a byte and the count is odd. -/
def paddOff (e : Env) (l : Nat) : Option Int :=
  let b : Int := if e.f.isI then simm14 e.f.b else signed (4 * e.ob.w) (e.b l)
  if e.f.op = 0 then some b
  else
    let fm := bits (e.a l) 63 59
    if codeBits fm = 4 then (if b % 2 = 0 then some (b / 2) else none) else some (b * (codeBits fm / 8 : Nat))

/-- Whether a lane's pointer raises the format trap. -/
def paddBad (e : Env) (l : Nat) : Bool :=
  (e.f.op == 1 && decide (17 ≤ bits (e.a l) 63 59)) ||
    (match paddOff e l with
     | some o => decide ((bits (e.a l) 55 0 : Int) + o < 0) || decide ((2 : Int) ^ 56 ≤ (bits (e.a l) 55 0 : Int) + o)
     | none => false)

def paddVal (e : Env) (l : Nat) : Nat :=
  bits (e.a l) 63 56 * 2 ^ 56 + ((bits (e.a l) 55 0 : Int) + (paddOff e l).getD 0).toNat

/-- `padd` (R132): the format trap first, then the illegal-operand trap. -/
def paddEff (e : Env) : Except Stop State :=
  match e.dlanes.find? (paddBad e) with
  | some l => e.trapLane 7 (if e.od.isVec then l else 255) 0
  | none =>
    match e.dlanes.find? fun l => (paddOff e l).isNone with
    | some l => e.trapLane 2 (if e.od.isVec then l else 255) 0
    | none => .ok (e.doneI (e.dlanes.map fun l => (l, paddVal e l)) 0)

def execPadd (f : Fields) (s : State) : Host.Outcome State Fault Refusal := issue (formPadd f) true true paddEff f s

def execPmk (f : Fields) (s : State) : Host.Outcome State Fault Refusal :=
  issue (formPmk f) true true (fun e => .ok (e.doneI (e.dlanes.map fun l =>
    (l, e.f.imm.toNat % 32 * 2 ^ 59 + e.f.imm.toNat / 32 % 8 * 2 ^ 56 + e.a l % 2 ^ 56)) 0)) f s

/-- `pfmt` (R133). -/
def pfmtVal (e : Env) (l : Nat) : Nat :=
  let p := e.a l
  match e.f.op with
  | 0 => bits p 63 59
  | 1 => bits p 58 56
  | 2 => bits p 55 0
  | _ => fmtBits (bits p 63 59)

def execPfmt (f : Fields) (s : State) : Host.Outcome State Fault Refusal :=
  issue (formPfmt f) true true
    (fun e => .ok (e.doneI (e.dlanes.map fun l => (l, fitRaw e.od.w (pfmtVal e l))) 0)) f s

end Sys2Proof.Machine
end

