-- ==== Sys2Proof/Machine/Platform.lean ====
section
/-! DEFINITION. The host port, power, security, soft errors, the event recorder and bring-up (R402 to R413). -/

namespace Sys2Proof.Machine

/-! ## Functions and registers (R402, R403) -/

/-- Whether the host reaches the device: the PCIe link is up. -/
def hostUp (s : State) (dev : Nat) : Bool := (s.dev dev).stage == 5 && !(s.dev dev).cutoff

def fnOf (s : State) (dev fn : Nat) : HostFn := (s.dev dev).fns.getD fn default

/-- Changes a function's registers while the host reaches the device. -/
def modFn (s : State) (dev fn : Nat) (g : HostFn → HostFn) : State :=
  if hostUp s dev then
    s.modDev dev fun d => { d with fns := d.fns.mapIdx fun i h => if i = fn then g h else h }
  else s

/-- The endpoint of a function (R343). -/
def hostEid (dev fn : Nat) : Nat := dev * 4096 + 896 + fn

/-- The key of the ring descriptor that RDESC names, if it is a host ring of the function's context. -/
def fnRing (s : State) (dev fn : Nat) : Option Nat :=
  let h := fnOf s dev fn
  h.asid.bind fun a =>
    match xlBlock s dev a h.rdesc.toNat 64 true with
    | .ok k => if h.rdesc.toNat % 64 = 0 ∧ (ringAt s k).scope = 5 then some k else none
    | .error _ => none

/-- Performs a ring operation for a function: its result word and the state. -/
def fnRingOp (s : State) (dev fn : Nat) (g : State → Nat → Nat × State) : Nat × State :=
  match fnRing s dev fn with
  | some k => g s k
  | none => (resWord stSTATE 0, s)

def rres (s : State) (dev fn : Nat) : State :=
  if ¬ hostUp s dev then s
  else match fnRingOp s dev fn ringRes with
    | (w, s) => modFn s dev fn fun h => { h with read := BitVec.ofNat 64 w }

def execRres (dev fn : Nat) (s : State) : Host.Outcome State Fault Refusal := event (fun s => rres s dev fn) s

/-- `rgpub`: a later read of RPUB returns its result. -/
def rpub (s : State) (dev fn val : Nat) : State :=
  if ¬ hostUp s dev then s
  else match fnRingOp s dev fn fun s k => ringPub s k (val % 2 ^ 64) with
    | (w, s) => modFn s dev fn fun h => { h with rpubRes := BitVec.ofNat 64 w }

def execRpub (dev fn val : Nat) (s : State) : Host.Outcome State Fault Refusal := event (fun s => rpub s dev fn val) s

/-- The index to take. -/
def rtake (s : State) (dev fn : Nat) : State :=
  match fnRingOp s dev fn fun s k =>
      (match takeStatus (ringAt s k) with
       | 0 => (resWord stOK (ringAt s k).take, s)
       | st => (resWord st 0, s)) with
  | (w, s) => modFn s dev fn fun h => { h with read := BitVec.ofNat 64 w }

def execRtake (dev fn : Nat) (s : State) : Host.Outcome State Fault Refusal := event (fun s => rtake s dev fn) s

def rdone (s : State) (dev fn val : Nat) : State :=
  if ¬ hostUp s dev then s
  else match fnRing s dev fn with
    | some k => if (ringAt s k).ok ∧ (ringAt s k).take = val then takeDone s k else s
    | none => s

def execRdone (dev fn val : Nat) (s : State) : Host.Outcome State Fault Refusal := event (fun s => rdone s dev fn val) s

/-- The nearer limit for a value outside 800 to 2,600 W. -/
def capOf (v : Nat) : Nat := max 800 (min 2600 (v % 4096))

def setCap (s : State) (dev val : Nat) : State := modFn s dev 0 fun h => { h with pwrcap := BitVec.ofNat 64 (capOf val) }

def execPwrcap (dev val : Nat) (s : State) : Host.Outcome State Fault Refusal := event (fun s => setCap s dev val) s

/-- The die, 4 for a written 5 to 7, and the page. -/
def recselOf (v : Nat) : Nat := min 4 (bits v 2 0) + bits v 13 8 * 256

def setRecsel (s : State) (dev val : Nat) : State :=
  modFn s dev 0 fun h => { h with recsel := BitVec.ofNat 64 (recselOf val) }

def execRecsel (dev val : Nat) (s : State) : Host.Outcome State Fault Refusal := event (fun s => setRecsel s dev val) s

/-- A write of a register with no operation: RDESC and the WATCH registers in every function, CTXDESC and PFBASE in the
physical one; read-only and unlisted offsets ignore it. -/
def writeReg (fn off : Nat) (v : BitVec 64) (h : HostFn) : HostFn :=
  let a := BitVec.ofNat 64 (bits v.toNat 55 0)
  if off = 0x008 then { h with rdesc := a }
  else if 0x040 ≤ off ∧ off ≤ 0x0B8 ∧ off % 8 = 0 then
    { h with watch := h.watch.set ((off - 0x040) / 8) (a ||| (v &&& BitVec.ofNat 64 (2 ^ 63))) }
  else if fn ≠ 0 then h
  else if off = 0x100 then { h with ctxdesc := v }
  else if off = 0x120 then { h with pfbase := BitVec.ofNat 64 (bits v.toNat 2 0) }
  else h

def execHostRegisterWrite (dev fn off val : Nat) (s : State) : Host.Outcome State Fault Refusal :=
  event (fun s => modFn s dev fn (writeReg fn off (BitVec.ofNat 64 val))) s

/-- Whether a register answers a read: the PCIe link is up, or in recovery the register is FNID of the physical function (R408). -/
def regAnswers (s : State) (dev fn off : Nat) : Bool := hostUp s dev || ((s.dev dev).stage == 9 && fn == 0 && off == 0)

/-- The value that a register without an operation reads as, when it answers (R403). -/
def readReg (s : State) (dev fn off : Nat) : BitVec 64 :=
  let h := fnOf s dev fn
  if off = 0 then BitVec.ofNat 64 (fn + dev % 1024 * 2 ^ 16)
  else if off = 0x008 then h.rdesc
  else if off = 0x018 then h.rpubRes
  else if 0x040 ≤ off ∧ off ≤ 0x0B8 ∧ off % 8 = 0 then h.watch.getD ((off - 0x040) / 8) 0
  else if fn ≠ 0 then 0
  else if off = 0x100 then h.ctxdesc
  else if off = 0x110 then h.ctxstat
  else if off = 0x118 then h.pwrcap
  else if off = 0x120 then h.pfbase
  else if off = 0x128 then h.recsel
  else 0

/-- A doubleword of the recorder window (R411, R412). -/
def readWindow (s : State) (dev off : Nat) : Nat :=
  let sel := (fnOf s dev 0).recsel.toNat
  let r := s.recorder (dev * 8 + bits sel 2 0)
  let slot := 1024 * bits sel 13 8 + (off - 0x8000) / 32
  match r.events.find? fun x => (x.seq - 1) % 65536 == slot with
  | some x => [x.seq, x.tick, x.type + x.eid * 2 ^ 8 + x.arg0 * 2 ^ 32, x.arg1].getD (off / 8 % 4) 0
  | none => 0

/-! ## BAR2 (R402, R249) -/

/-- The translation of an address of a virtual function as a copy engine translates it: by a walk, and no range entry (R209). -/
def barXl (s : State) (dev asid va : Nat) (write : Bool) : Xl :=
  match walk s dev asid (va / 4096) with
  | .ok t => leafKey s dev t.leaf (ptPpn t.leaf + (va / 4096 - t.vpn)) va write
  | .error c => .fault c

/-- The keys of the bytes of a BAR2 access, if every one of them translates and may be accessed. -/
def barKeys (s : State) (dev fn off n : Nat) (write : Bool) : Option (List Nat) :=
  let h := fnOf s dev fn
  (List.range n).mapM fun i =>
    if 2 ^ 36 ≤ off + i then none
    else if fn = 0 then some (dramKey dev (2 ^ 36 * bits h.pfbase.toNat 2 0 + off + i))
    else h.asid.bind fun a => match barXl s dev a (off + i) write with
      | .ok k _ => some k
      | _ => none

/-- A host access: refused whole, or performed at the home.  A read of bytes with an uncorrectable error returns no stated
value. -/
def barAccess (s : State) (dev fn off n : Nat) (val : Option Nat) : State :=
  if ¬ hostUp s dev ∨ 17 ≤ fn then s
  else
    match barKeys s dev fn off n val.isSome with
    | none => (s.modDev dev fun d => { d with refusedBar := d.refusedBar + 1 }).record dev 4 12 (hostEid dev fn) none (some off)
    | some ks =>
      match val with
      | some v =>
        { putBytes s (ks.zip (toBytes n v)) with bad := s.bad.filter fun k => !ks.contains k }
      | none =>
        let v := if ks.any s.bad.contains then (Config.freeWord s.free (2 ^ 73)).toNat else s.numAt ks
        modFn s dev fn fun h => { h with read := BitVec.ofNat 64 v }

def execBar2Access (dev fn off n : Nat) (val : Option Nat) (s : State) : Host.Outcome State Fault Refusal :=
  event (fun s => barAccess s dev fn off n val) s

/-! ## The context switch (R395, R396, R404) -/

/-- Whether a core holds something that keeps it in its context. -/
def Core.holds (c : Core) : Bool :=
  !c.threads.isEmpty || c.accs.any (·.owner.isSome) || !c.mxq.isEmpty || c.chan.any (·.cmd.isSome) || c.shadow.isSome ||
    !c.rlocks.isEmpty || !c.bindings.isEmpty ||
    c.gran.any fun (_, r) => match r with | .data _ | .ring _ => true | _ => false

/-- The EID of a core index. -/
def coreIndexEid (dev c : Nat) : Nat := dev * 4096 + c / 576 * 1024 + c % 576

/-- Sets CTXSTAT. -/
def ctxAnswer (s : State) (dev st v : Nat) : State :=
  modFn s dev 0 fun h => { h with ctxstat := BitVec.ofNat 64 (resWord st v) }

/-- Whether the physical function may switch a core: it holds nothing, and lies within the function's cores. -/
def mayCtxsw (s : State) (dev core : Nat) : Bool :=
  decide (core < 2304) && !(s.core (coreIndexEid dev core)).holds &&
    match (fnOf s dev 0).cores with
    | some l => l.contains (coreIndexEid dev core)
    | none => true

/-- Performs so many pieces of an access. -/
def performPieces (id : Nat) : Nat → State → State
  | 0, s => s
  | n + 1, s => match s.accs.find? (·.id == id) with | some a => performPieces id n (performPiece s a) | none => s

/-- The queued write-back stores of a core are performed at once. -/
def drainWb (s : State) (eid : Nat) : State :=
  (s.accs.filter fun a => a.eid == eid && a.slot == 31).foldl (fun s a => performPieces a.id (a.pieces.length + 2) s) s

/-- Writes a core's save block and its context region: a fault stops it. -/
def saveCore (s : State) (eid asid : Nat) (x : Ctx) : Except (Nat × Nat) State :=
  let dev := eidDev eid
  let a := saveArea x eid
  let blk := (saveBlock (s.core eid)).flatMap (toBytes 8)
  let img := (List.range (x.ctxgr * 4096)).map fun i => s.byte (lmKey eid i)
  match devWrite s dev asid a blk with
  | .ok s => devWrite s dev asid (a + 4096) img
  | .error f => .error f

/-- The core hosts no context. -/
def Core.unload (c : Core) : Core :=
  { c with ctx := none, gran := [], stash := [], l1d := [], mboxes := [[], [], [], []], mbRec := [[], [], [], []],
           mbResv := [], match_ := [], handlerQ := [] }

/-- The end of a switch-out: a core that has been saved hosts no context. -/
def afterSave (s : State) (dev eid : Nat) : Except (Nat × Nat) State → State
  | .ok s => ctxAnswer (reapPlans (s.modCore eid Core.unload)) dev stOK 0
  | .error _ => ctxAnswer s dev stSTATE 0

/-- Switch-out of a core: its stash windows are written back, then the save block and the context region. -/
def switchOut (s : State) (dev core : Nat) : State :=
  let eid := coreIndexEid dev core
  match (s.core eid).ctx.bind fun a => (s.ctx? dev a).map fun x => (a, x) with
  | none => ctxAnswer s dev stSTATE 0
  | some (asid, x) =>
    match writeBack s eid asid fun _ => true with
    | (s, some (cause, va)) =>
      ctxAnswer (postRecord (drainWb s eid) dev asid { code := 12, cause := cause, unit := 3, lane := 255, va := va }
        { eid := eid }) dev stSTATE 1
    | (s, none) => afterSave s dev eid (saveCore (drainWb s eid) eid asid x)

/-- A CTXSW on a core: it starts, `run` is what it will do, or is answered at once (R404). -/
def startSwitch (s : State) (dev core : Nat) (may : Bool) (run : Option Nat) : State :=
  let eid := coreIndexEid dev core
  if ¬ hostUp s dev then s
  else if (s.core eid).switching.isSome then ctxAnswer s dev stRETRY 0
  else if may ∧ mayCtxsw s dev core then s.modCore eid fun c => { c with switching := some run }
  else ctxAnswer s dev stSTATE 0

/-- The end of a CTXSW that runs on a core: with 1 in what the event acts on (log entry 79). -/
def endSwitch (s : State) (dev core : Nat) (go : State → State) : State :=
  let s := s.modCore (coreIndexEid dev core) fun c => { c with switching := none }
  if mayCtxsw s dev core then go s else ctxAnswer s dev stSTATE 0

/-- A switch-out starts, or ends. -/
def ctxswOut (s : State) (dev core : Nat) : State :=
  if s.who = [1] then
    if (s.core (coreIndexEid dev core)).switching = some none then endSwitch s dev core fun s => switchOut s dev core else s
  else startSwitch s dev core true none

def execCtxswSwitchOut (dev core : Nat) (s : State) : Host.Outcome State Fault Refusal :=
  event (fun s => ctxswOut s dev core) s

/-- A context descriptor at a physical address of the device's DRAM (R396): ASID and context.  Reserved bits are ignored
(R2), the low six bits of a queue's address among them; a descriptor that is not at a multiple of 4,096 or whose CTXGR is not 1
to 126 is none (log entry 92). -/
def readCtx (s : State) (dev pa : Nat) : Option (Nat × Ctx) :=
  let d i := s.rd (dramKey dev (pa + 8 * i)) 8
  let range i := let b := 8 + 3 * i; (d b, d (b + 1), d (b + 2))
  let ok := pa % 4096 == 0 && decide (pa + 5120 ≤ 2 ^ 39) && decide (1 ≤ bits (d 0) 22 16) && decide (bits (d 0) 22 16 ≤ 126)
  if ok then
    some (bits (d 0) 15 0,
      { ctxgr := bits (d 0) 22 16, root := bits (d 1) 51 12, fring := bits (d 2) 55 0, csv := bits (d 3) 55 0, frz := bits (d 4) 55 0
        ranges := (List.range 32).map fun i =>
          let r := range i
          (bits r.1 55 12, bits r.2.1 55 12, r.2.2, bit r.1 0)
        handlers := (List.range 16).map fun i => (bits (d (104 + i)) 18 0, bits (d (104 + i)) 50 32)
        queues := (List.range 256).map fun i => (bits (d (128 + 2 * i)) 55 6 * 64, bits (d (129 + 2 * i)) 2 0) })
  else none

/-- Loads a context, keeping the count of records that it has lost. -/
def loadCtx (s : State) (dev asid : Nat) (x : Ctx) : State :=
  let dropped := ((s.ctx? dev asid).map (·.dropped)).getD 0
  { s with ctxs := Keyed.put s.ctxs (dev * 65536 + asid) { x with dropped := dropped } }

/-- The cores of a new binding of function `i`: of no stated value. -/
def boundCores (s : State) (dev i : Nat) : List Nat :=
  ((List.range 2304).filter fun c => Config.happens s.free (2 ^ 77 + 4096 * i + c)).map (coreIndexEid dev)

/-- A function is bound to a context anew, or stays as it is. -/
def bindFn (s : State) (dev asid i : Nat) (h : HostFn) : HostFn :=
  if Config.happens s.free (2 ^ 76 + i) then { h with asid := some asid, cores := some (boundCores s dev i) } else h

/-- The physical function binds functions to contexts and cores, itself among them, by a route that the spec does not give: at the
switch-in of a core to a context, which functions are bound to that context anew, and with which cores, is of no stated value (R403,
log entry 80). -/
def bindFns (s : State) (dev asid : Nat) : State :=
  s.modDev dev fun d => { d with fns := d.fns.mapIdx (bindFn s dev asid) }

/-- Switch-in of a core to the context of a descriptor. -/
def switchTo (s : State) (dev core pa : Nat) : State :=
  let eid := coreIndexEid dev core
  if (s.core eid).ctx.isSome then ctxAnswer s dev stSTATE 0
  else
    match readCtx s dev pa with
    | none => ctxAnswer s dev stSTATE 0
    | some (asid, x) =>
      match switchIn (loadCtx s dev asid x) eid asid with
      | .error _ => ctxAnswer s dev stSTATE 0
      | .ok s =>
        -- the grant pointers stand at 0 after a context load (R283)
        let s := s.modDie (eidDie eid) fun d => { d with grants := List.replicate 8 0 }
        ctxAnswer (bindFns s dev asid) dev stOK 0

/-- A switch-in to the context that CTXDESC names starts, or ends. -/
def ctxswIn (s : State) (dev core : Nat) : State :=
  let c := s.core (coreIndexEid dev core)
  if s.who = [1] then
    match c.switching with
    | some (some pa) => endSwitch s dev core fun s => switchTo s dev core pa
    | _ => s
  else startSwitch s dev core c.ctx.isNone (some (fnOf s dev 0).ctxdesc.toNat)

def execCtxswSwitchIn (dev core : Nat) (s : State) : Host.Outcome State Fault Refusal :=
  event (fun s => ctxswIn s dev core) s

/-! ## Power and cooling (R405, R406) -/

/-- The parts that have a power budget (R405). -/
inductive Part where
  | computeDie | yardDie | mast | rest | package
  deriving DecidableEq, Repr

/-- A part's budget in watts with no cap. -/
def Part.watts : Part → Nat
  | .computeDie => 480
  | .yardDie => 220
  | .mast => 45
  | .rest => 100
  | .package => 2600

/-- A part's budget in units of 1/2,600 W: lowered by the ratio of the cap to 2,600 W. -/
def budget (s : State) (dev : Nat) (p : Part) : Nat := p.watts * (fnOf s dev 0).pwrcap.toNat

/-- A compute die's budget. -/
def dieBudget (s : State) (dev : Nat) : Nat := budget s dev .computeDie

/-- The clock after a step of the loop. -/
def nextMhz (mhz power temp budget : Nat) : Nat :=
  if budget < power * 2600 ∨ 1000 < temp then max 650 (mhz - 26)
  else if power * 2600 * 100 < budget * 95 ∧ temp * 100 < 1000 * 95 then min 1300 (mhz + 26)
  else mhz

/-- A step of a die's loop on the power and the temperature measured; a changed clock is logged. -/
def dvfs (s : State) (die power temp : Nat) : State :=
  let m := (s.die die).mhz
  let n := nextMhz m power temp (dieBudget s (die / 4))
  let s := s.modDie die fun d => { d with mhz := n, power := power, temp := temp }
  if n = m then s else s.record (die / 4) (die % 4) 6 (die * 1024) (some n) none

def execDvfsLoop (die power temp : Nat) (s : State) : Host.Outcome State Fault Refusal :=
  event (fun s => dvfs s die power temp) s

/-- At 110 °C the die stops issue. -/
def thermalStop (s : State) : State :=
  match s.who with
  | [die] => if 1100 ≤ (s.die die).temp then s.modDie die fun d => { d with stopped := true } else s
  | _ => s

def execThermalStop (s : State) : Host.Outcome State Fault Refusal := event thermalStop s

/-- Below 100 °C it issues again. -/
def thermalResume (s : State) : State :=
  match s.who with
  | [die] =>
    if (s.die die).stopped ∧ (s.die die).temp < 1000 then s.modDie die fun d => { d with stopped := false } else s
  | _ => s

def execThermalIssueResume (s : State) : Host.Outcome State Fault Refusal := event thermalResume s

/-! ## Resets (R408, R413) -/

/-- What a reset of either kind takes from a device: every context with its graph memory, cores, queues and plans, and what
the device has under way. -/
def clearDevice (s : State) (dev : Nat) : State :=
  let mine (e : Nat) : Bool := eidDev e == dev
  let s := setLock s dev false
  let s := s.plans.foldl (fun s (k, p) => if p.devs.contains dev then modPlan (loseDevice s k dev) k (·.cleared dev) else s) s
  let s := { s with
    cores := s.cores.filter fun (e, _) => !mine e
    tiles := s.tiles.filter fun (t, _) => !mine (8 * t)
    dies := (s.dies.filter fun (d, _) => d / 4 != dev)
    ctxs := s.ctxs.filter fun (k, _) => k / 65536 != dev
    recs := s.recs.filter fun (h, _) => State.hDev h != dev
    gens := s.gens.filter fun (h, _) => State.hDev h != dev
    insts := s.insts.filter fun (d, _) => d != dev
    groups := s.groups.filter fun (k, _) => k / 2 ^ 24 != dev
    edges := s.edges.filter fun g => State.hDev g.cons != dev && State.hDev g.prod != dev
    accs := s.accs.filter fun a => !mine a.eid
    acks := s.acks.filter fun a => !mine a.eid
    net := s.net.filter fun p => !mine p.src
    cache := s.cache.filter fun c => !mine (c.unit % 2 ^ 22)
    seqs := s.seqs.filter fun x => !mine x.1.1
    used := s.used.filter fun x => !mine x.1.1
    fars := s.fars.filter fun f => !mine f.eid
    gaps := s.gaps.filter fun g => !mine g.2.1
    gangs := s.gangs.filter fun g => !mine g.src.eid }
  noteRoutes ((reapPlans s).modDev dev fun d =>
    { d with stage := 1, slew := 0, slewRest := 0, adrift := false, ports := List.replicate 24 { up := false, routed := false }
             unreachable := [], noRoute := [], queues := [], qops := [], planGen := [], fns := List.replicate 17 {}, spdm := none, cutoff := false })

/-- A warm reset, logged by the Yard die: of a device whose firmware has been accepted; the fuses, the number and the recorder
stay. -/
def warmReset (s : State) (dev : Nat) : State :=
  if ¬ s.hasDev dev ∨ (s.dev dev).stage = 9 ∨ (s.dev dev).stage = 0 then s
  else (clearDevice s dev).record dev 4 7 0 none none

def execWarmReset (dev : Nat) (s : State) : Host.Outcome State Fault Refusal := event (fun s => warmReset s dev) s

/-- A flash bank: whether both signatures verify over the image bytes, the image's security version and digest, and the hashes of
the two public keys (R408). -/
structure Bank where
  ok : Bool
  ver : Nat
  digest : Nat
  rsa : Nat
  slh : Nat
  deriving DecidableEq, Repr

/-- Whether a public key hashes to a fused slot that has not been revoked. -/
def Device.trusts (d : Device) (hash : Nat) : Bool := d.keySlots.contains (hash, false)

/-- Whether the boot ROM accepts a bank. -/
def Device.accepts (d : Device) (b : Bank) : Bool := b.ok && d.trusts b.rsa && d.trusts b.slh && decide (d.fuseVer ≤ b.ver)

/-- The second bank, and the key hashes of both, that a cold reset finds: what the event acts on gives them in this order. -/
def banksOf (ok : Bool) (ver digest : Nat) : List Nat → List Bank
  | [rsa, slh, ok2, ver2, digest2, rsa2, slh2] => [⟨ok, ver, digest, rsa, slh⟩, ⟨ok2 != 0, ver2, digest2, rsa2, slh2⟩]
  | [rsa, slh] => [⟨ok, ver, digest, rsa, slh⟩]
  | _ => [⟨ok, ver, digest, 0, 0⟩]

/-- A cold reset: the boot ROM takes the first bank that it accepts; when it accepts none the device stays in recovery.  An accepted
image may raise the fused counter. -/
def coldReset (s : State) (dev : Nat) (ok : Bool) (ver digest : Nat) : State :=
  if ¬ s.hasDev dev then s
  else
    let s := clearDevice (loseMaster s dev) dev
    let s := { s with recorders := s.recorders.filter fun (k, _) => k / 8 != dev }
    let s := match (banksOf ok ver digest s.who).find? (s.dev dev).accepts with
      | some b =>
        (s.modDev dev fun d =>
          { d with image := BitVec.ofNat 64 b.digest
                   fuseVer := if Config.happens s.free 0 then b.ver else d.fuseVer }).record dev 4 7 0 none none
      | none => (s.modDev dev fun d => { d with stage := 9 }).record dev 4 13 0 none none
    noteRoutes (unnumber s dev)

def execColdReset (dev : Nat) (ok : Bool) (ver digest : Nat) (s : State) : Host.Outcome State Fault Refusal :=
  event (fun s => coldReset s dev ok ver digest) s

/-- The hottest junction of a package in tenths of a degree: of its compute dies, as they were measured last, and of what else the
event brings a measurement. -/
def hottest (s : State) (dev : Nat) : Nat :=
  (s.who ++ (List.range 4).map fun k => (s.die (4 * dev + k)).temp).foldl max 0

/-- At 115 °C power is cut: nothing of the device goes on, and the recorder keeps the reason under a TYPE that the spec does
not give. -/
def thermalCutoff (s : State) (dev : Nat) : State :=
  if ¬ s.hasDev dev ∨ hottest s dev < 1150 then s
  else
    let s := clearDevice (loseMaster s dev) dev
    (s.modDev dev fun d => { d with stage := 0, cutoff := true }).record dev 4
      ((Config.freeWord s.free (2 ^ 74)).toNat % 256) 0 none none

def execThermalCutoff (dev : Nat) (s : State) : Host.Outcome State Fault Refusal := event (fun s => thermalCutoff s dev) s

/-- Whether the PCIe link may train: the last step of bring-up, once the device's number is set and its tick locked, or later. -/
def mayTrain (d : Device) : Bool := d.stage == 5 || (d.stage == 4 && d.numbered && d.locked)

/-- The PCIe link trains, at 16 lanes and 128 GT/s or less. -/
def trainPcie (s : State) (dev width rate : Nat) : State :=
  if ¬ s.hasDev dev ∨ ¬ mayTrain (s.dev dev) ∨ width = 0 ∨ 16 < width ∨ rate = 0 ∨ 128 < rate then s
  else s.modDev dev fun d => { d with stage := 5, linkWidth := width, linkRate := rate }

def execPcieLinkTraining (dev width rate : Nat) (s : State) : Host.Outcome State Fault Refusal :=
  event (fun s => trainPcie s dev width rate) s

/-! ## Attestation (R409) -/

/-- The measurement blocks: boot ROM version, firmware image, fuses, pod configuration. -/
def measurements (s : State) (dev : Nat) : List (BitVec 64) :=
  let d := s.dev dev
  [Config.digest [1], d.image, Config.digest (3 :: d.fuseVer :: d.keySlots.flatMap fun x => [x.1, b2n x.2]),
   Config.digest [4, dev, ((s.devs.find? fun x => x.2.master).map (·.1 + 1)).getD 0, s.trt]]

/-- Answers an SPDM request over DOE; DOE answers in recovery too. -/
def spdmAnswer (s : State) (dev code : Nat) (content : List (BitVec 64)) : State :=
  if (s.dev dev).stage = 5 ∨ (s.dev dev).stage = 9 then s.modDev dev fun d => { d with spdm := some (code, content) } else s

/-- An answer whose contents SPDM 1.3 lays out and the spec does not. -/
def spdmOpen (s : State) (dev code : Nat) : State := spdmAnswer s dev code [Config.freeWord s.free (2 ^ 75)]

def execGetVersion (dev : Nat) (s : State) : Host.Outcome State Fault Refusal := event (fun s => spdmOpen s dev 0) s
def execGetCapabilities (dev : Nat) (s : State) : Host.Outcome State Fault Refusal := event (fun s => spdmOpen s dev 1) s
def execNegotiateAlgorithms (dev : Nat) (s : State) : Host.Outcome State Fault Refusal := event (fun s => spdmOpen s dev 2) s
def execGetDigests (dev : Nat) (s : State) : Host.Outcome State Fault Refusal := event (fun s => spdmOpen s dev 3) s
def execGetCertificate (dev : Nat) (s : State) : Host.Outcome State Fault Refusal := event (fun s => spdmOpen s dev 4) s
def execChallenge (dev : Nat) (s : State) : Host.Outcome State Fault Refusal := event (fun s => spdmOpen s dev 5) s
def execGetMeasurements (dev : Nat) (s : State) : Host.Outcome State Fault Refusal :=
  event (fun s => spdmAnswer s dev 6 (measurements s dev)) s
def execKeyExchange (dev : Nat) (s : State) : Host.Outcome State Fault Refusal := event (fun s => spdmOpen s dev 7) s
def execFinish (dev : Nat) (s : State) : Host.Outcome State Fault Refusal := event (fun s => spdmOpen s dev 8) s

/-! ## Soft errors (R410) -/

/-- A word of a structure of a die, named device·8 + die, has been corrected: it is counted for that structure, and its value is the
one it had. -/
def scrub (s : State) (die structure_ : Nat) : State :=
  let n := ((Keyed.get? (s.recorder die).corrected structure_).getD 0) + 1
  (s.modRecorder die fun r => { r with corrected := Keyed.put r.corrected structure_ n }).record (die / 8) (die % 8) 8 0 none (some n)

def execScrubPass (die word : Nat) (s : State) : Host.Outcome State Fault Refusal :=
  event (fun s => scrub s die (Config.sramOf word + 1)) s

/-- A patrol has corrected an error in a page of DRAM: the sixteenth within 24 hours gives a page-retire advice. -/
def patrol (s : State) (die page : Nat) : State :=
  let t := (s.dev (die / 8)).tick
  let r := s.recorder die
  let l := t :: ((Keyed.get? r.pages page).getD []).filter fun x => decide (t < x + 86400 * 10 ^ 9)
  let s := scrub (s.modRecorder die fun r => { r with pages := Keyed.put r.pages page (if 16 ≤ l.length then [] else l) }) die 0
  if 16 ≤ l.length then s.record (die / 8) (die % 8) 9 0 none (some (page * 4096)) else s

def execDramPatrol (die page : Nat) (s : State) : Host.Outcome State Fault Refusal := event (fun s => patrol s die page) s

end Sys2Proof.Machine
end

