-- ==== Sys2Proof/Machine/Wake.lean ====
section
/-! DEFINITION. What happens to a thread between its instructions: its results land, its fetch blocks arrive, its waits
end; and the sleep of a core (R71, R101, R111 to R113, R321). -/

namespace Sys2Proof.Machine

/-! ## Results (R71, R73) -/

/-- Whether a result of a thread may land: nothing of it is still to come, and its core is not frozen.  That of a `pop`, with which
an acquire is made, waits until what precedes it is bound (R241). -/
def mayLand (s : State) (eid slot id : Nat) : Bool :=
  !(s.core eid).frozen && match s.thr? eid slot with
    | some t =>
      t.pend.any fun p => p.id == id && p.need == 0 && !p.landed &&
        (!p.acq || (t.pend.takeWhile (·.id != id)).all fun q => q.need == 0 || t.joins.any (·.pend == q.id))
    | none => false

/-- Whether a result says OK, for the acquire of a `pop` (R341): the status byte of its second word is 0. -/
def Pend.saysOk (p : Pend) : Bool := p.vals.any fun (_, v) => bits v 127 120 == 0

/-- The result is converted where it is an `ldf`'s, and a `pop` that says OK acquires; then it lands. -/
def resultLands (s : State) (eid slot id : Nat) : State :=
  let s := s.modThr eid slot fun t => { t with pend := t.pend.map fun p => if p.id = id then p.convert else p }
  let acq := match s.thr? eid slot with
    | some t => t.pend.any fun p => p.id == id && p.acq && p.saysOk
    | none => false
  landPend (if acq then acquire s eid slot 4 else s) eid slot id

def classLResult (s : State) : State :=
  match s.who with
  | [eid, slot, id] => if mayLand s eid slot id then resultLands s eid slot id else s
  | _ => s

def execClassLResultWrite (s : State) : Host.Outcome State Fault Refusal := event classLResult s

/-! ## Fetch (R101, R102, R186, R187) -/

/-- The next fetch block that a thread's fetch unit reads: the one that holds its next base word, else the one behind
it. -/
def Thread.wantsBlock (t : Thread) : Option Nat :=
  let b := t.pc.toNat / 32 * 32
  if 0x80000 ≤ b then none
  else if ¬ t.fetch.any (·.1 == b) then some b
  else if b + 32 < 0x80000 ∧ ¬ t.fetch.any (·.1 == b + 32) then some (b + 32)
  else none

/-- The buffer once a block has been read, with an error or not: the block of the next base word and the one behind it. -/
def Thread.fetched (t : Thread) (b : Nat) (bs : List Byte) (err : Bool) : Thread :=
  let first := t.pc.toNat / 32 * 32
  let ecc := t.ecc.filter fun k => decide (k < 1024) || (k == 1024 + first / 32 && first != b)
  { t with fetch := (t.fetch.filter fun x => x.1 == first && x.1 != b) ++ [(b, bs)]
           ecc := if err then (1024 + b / 32) :: ecc else ecc }

/-- The step from which a thread's fetches of a block count: its creation, or its last `isync` that covers some of the
block (R102). -/
def Thread.fetchFrom (t : Thread) (b : Nat) : Nat :=
  t.isyncs.foldl (fun m (lo, hi, n) => if lo < b + 32 ∧ b ≤ hi then max m n else m) t.born

/-- The contents that a fetch of a block may return: the block as it stands, and as it stood before any write since then.
When an acquire of the thread has followed them all, they count as one: before or after all of them (R102). -/
def fetchChoices (s : State) (eid : Nat) (t : Thread) (b : Nat) : List (List Byte) :=
  let now := ((List.range 32).map (lmKey eid b + ·)).map s.byte
  let old := s.past.filter fun (k, n, _) => k == lmKey eid b && decide (t.fetchFrom b < n)
  match old with
  | [] => [now]
  | (_, _, first) :: _ => if old.all fun (_, n, _) => decide (n < t.acqAt) then [now, first] else now :: old.map (·.2.2)

/-- The block that a fetch returns: one of the choices, as the free value says. -/
def fetchBytes (s : State) (eid : Nat) (t : Thread) (b : Nat) : List Byte :=
  match fetchChoices s eid t b with
  | [x] => x
  | l => l.getD (Config.choose s.free % l.length) []

/-- Whether a thread that is fetching cannot go on without a block: it holds a word of its next instruction (R101). -/
def Thread.needsBlock (t : Thread) (b : Nat) : Bool :=
  t.status == .fetching && (b == t.pc.toNat / 32 * 32 ||
    match t.wordAt t.pc.toNat with
    | some w => w % 2 == 1 && b == (t.pc.toNat + 8) / 32 * 32
    | none => false)

/-- A block read completes: it is one read of LM (R102).  A block of a granule that the context does not own, or of the spill
ring, is an access that traps once an instruction needs it; read ahead, it is left out (R101, R177).  An empty stash granule is
filled first, and a fill that faulted traps at the instruction that needs the block (R187).  A block read with an uncorrectable error
is reported at the instruction fetched from it (R380). -/
def fetchBlock (s : State) (eid slot : Nat) (t : Thread) (b : Nat) : State :=
  let ks := (List.range 32).map (lmKey eid b + ·)
  let trap (s : State) (code : Nat) : State :=
    takeTrap s eid slot { code := code, ipc := t.pc.toNat, rpc := t.pc.toNat, va := windowVa eid b }
  if ¬ (s.core eid).lmOk b 32 then (if t.needsBlock b then trap s 6 else s)
  else
  match emptyGran s ks with
  | some (c, i, g) =>
    (match granOf s c i g with
     | some { fault := some code, .. } =>
       if t.needsBlock b then trap (modGran s c i g fun x => { x with want := false, fault := none }) code else s
     | _ => modGran s c i g fun x => { x with want := true })
  | none =>
    let t := t.fetched b (fetchBytes s eid t b) (ks.any s.bad.contains)
    match t.status with
    | .fetching => if t.hasWords then enterReady s eid slot t else s.setThr eid slot t
    | _ => s.setThr eid slot t

def fetchRead (s : State) : State :=
  match s.who with
  | [eid, slot] =>
    (match s.thr? eid slot with
     | some t =>
       if (s.core eid).frozen then s
       else match t.wantsBlock with
         | some b => fetchBlock s eid slot t b
         | none => s
     | none => s)
  | _ => s

def execFetchBlockRead (s : State) : Host.Outcome State Fault Refusal := event fetchRead s

/-! ## Watchdog (R321) -/

/-- A handler about to issue its 4,097th instruction. -/
def watchdogDue (t : Thread) (slot : Nat) : Bool :=
  decide (16 ≤ slot) && decide (4096 ≤ t.issued) && t.status == .ready

def handlerWatchdog (s : State) : State :=
  match s.who with
  | [eid, slot] =>
    (match s.thr? eid slot with
     | some t =>
       if watchdogDue t slot then
         takeTrap s eid slot { code := 9, ipc := t.pc.toNat, rpc := t.pc.toNat, word := t.word }
       else s
     | none => s)
  | _ => s

def execHandlerWatchdog (s : State) : Host.Outcome State Fault Refusal := event handlerWatchdog s

/-! ## Waits (R111, R112) -/

/-- The wait in progress in a slot of a core that is not frozen. -/
def waitOf (s : State) (eid slot : Nat) : Option (Thread × Waiting) :=
  if (s.core eid).frozen then none
  else (s.thr? eid slot).bind fun t => match t.status with
    | .waiting w => some (t, w)
    | _ => none

/-- Whether a core issues as far as its sleep goes: it is awake, and the time that waking takes has passed (R91, R113). -/
def awake (s : State) (eid : Nat) : Bool := (s.core eid).depth == 0 && decide ((s.core eid).wakeAt ≤ s.cycle eid)

/-- The value with which a thread's `wait` ends, 0 while it goes on: the events of the first cycle in which one held. -/
def waitValue (s : State) (eid slot : Nat) : Nat :=
  match waitOf s eid slot with
  | some (t, w) => (match w.what with
    | .event m a c l => if w.hit ≠ 0 then w.hit else waitHit s eid t w.issued m a c l
    | _ => 0)
  | none => 0

/-- Ends a `wait`, when the value it ends with satisfies a test. -/
def endEvent (p : Nat → Bool) (s : State) : State :=
  match s.who with
  | [eid, slot] =>
    (match waitOf s eid slot with
     | some (_, w) =>
       let v := waitValue s eid slot
       if v ≠ 0 ∧ p v ∧ awake s eid then endWait s eid slot w (some v) else s
     | none => s)
  | _ => s

def execWaitWake (s : State) : Host.Outcome State Fault Refusal := event (endEvent fun _ => true) s

/-- The limit of a `wait` has passed; events that hold in the same cycle are reported with it. -/
def execWaitTimeout (s : State) : Host.Outcome State Fault Refusal := event (endEvent fun v => bit v 15) s

/-- Whether a `sleep` ends now. -/
def sleepDone (s : State) (eid slot : Nat) : Bool :=
  match waitOf s eid slot with
  | some (t, w) => (match w.what with
    | .sleep u => t.drainReq || decide (u ≤ s.cycle eid)
    | _ => false)
  | none => false

def sleepExpiry (s : State) : State :=
  match s.who with
  | [eid, slot] =>
    (match waitOf s eid slot with
     | some (_, w) => if sleepDone s eid slot ∧ awake s eid then endWait s eid slot w none else s
     | none => s)
  | _ => s

def execSleepExpiry (s : State) : Host.Outcome State Fault Refusal := event sleepExpiry s

/-- Whether a `tick.at` ends now. -/
def tickDone (s : State) (eid slot : Nat) : Bool :=
  match waitOf s eid slot with
  | some (t, w) => (match w.what with
    | .tick n => t.drainReq || decide (n ≤ s.tickOf eid)
    | _ => false)
  | none => false

def tickAtWake (s : State) : State :=
  match s.who with
  | [eid, slot] =>
    (match waitOf s eid slot with
     | some (_, w) => if tickDone s eid slot ∧ awake s eid then endWait s eid slot w (some (s.tickOf eid % 2 ^ 64)) else s
     | none => s)
  | _ => s

def execTickAtWake (s : State) : Host.Outcome State Fault Refusal := event tickAtWake s

/-! ## Sleep of a core (R113, R118) -/

/-- The depth that the waiting thread slots of a core ask for: none when some occupied slot does not wait for a wake, or a
handler slot is occupied or about to be. -/
def Core.wantsDepth (c : Core) : Option Nat :=
  if c.handlerQ.any (fun m => match m with | .am .. => true | .atomic _ => false) then none
  else c.threads.foldl (fun d (i, t) =>
    match d, t.status with
    | some d, .waiting w => if 16 ≤ i ∨ w.depth = 0 then none else some (min d w.depth)
    | _, _ => none) (some c.limit.toNat)

/-- The cycle from which a waiting slot's wake condition holds, if it holds. -/
def wakeCycle (s : State) (eid slot : Nat) : Option Nat :=
  let now := s.cycle eid
  match waitOf s eid slot with
  | some (_, w) => (match w.what with
    | .event _ _ _ l =>
      let v := waitValue s eid slot
      if v = 0 then none else if v = 2 ^ 15 then some (min now (w.issued + l)) else some now
    | .sleep u => if sleepDone s eid slot then some (min now u) else none
    | .tick _ => if tickDone s eid slot then some now else none
    | _ => none)
  | none => none

/-- The cycle of the event that wakes a sleeping core, if there has been one. -/
def wakeEvent (s : State) (eid : Nat) : Option Nat :=
  let c := s.core eid
  if c.wantsDepth.isNone then some (s.cycle eid)
  else c.threads.foldl (fun m (i, _) =>
    match m, wakeCycle s eid i with
    | some a, some b => some (min a b)
    | none, b => b
    | a, none => a) none

/-- The doubleword that a `wait` looks at and that lies in a stash granule which has become empty is filled again; a fill that
faulted traps (R187). -/
def waitFills (s : State) (eid slot : Nat) (t : Thread) (w : Waiting) : State :=
  match w.what with
  | .event m a _ _ =>
    if ¬ bit m 4 ∨ (s.core eid).frozen then s
    else
      match emptyGran s [lmKey eid a] with
      | none => s
      | some x =>
        match granOf s x.1 x.2.1 x.2.2 with
        | some { fault := some code, .. } =>
          takeTrap (modGran s x.1 x.2.1 x.2.2 fun y => { y with want := false, fault := none }) eid slot
            { code := code, ipc := t.pc.toNat, rpc := t.pc.toNat, word := t.word, va := windowVa eid a, lane := 255 }
        | _ => modGran s x.1 x.2.1 x.2.2 fun y => { y with want := true }
  | _ => s

/-- What is noticed of one core in each cycle: the events of its `wait`s that hold, and the event that wakes it. -/
def noteCore (s : State) (eid : Nat) : State :=
  let s := (s.core eid).threads.foldl (fun s (i, t) =>
    match t.status with
    | .waiting w => waitFills s eid i t w
    | _ => s) s
  let s := (s.core eid).threads.foldl (fun s (i, t) =>
    match t.status with
    | .waiting w => let v := waitValue s eid i
      if v = w.hit then s else s.setThr eid i { t with status := .waiting { w with hit := v } }
    | _ => s) s
  let c := s.core eid
  if c.depth = 0 ∨ c.woke.isSome then s
  else match wakeEvent s eid with
    | some n => s.setCore eid { c with woke := some n }
    | none => s

/-- What is noticed in each cycle: no event that a `wait` looks for is missed (R111), and the wake of a core counts from the
event (R113). -/
def noteWakes (s : State) : State := s.cores.foldl (fun s (e, _) => noteCore s e) s

/-- Whether a core that is awake goes to sleep, and how deep: not while it wakes, nor while a slot's wake condition holds. -/
def sleepsTo (s : State) (eid : Nat) : Option Nat :=
  let c := s.core eid
  if c.depth ≠ 0 ∨ c.frozen ∨ c.freezing.isSome ∨ s.cycle eid < c.wakeAt ∨ (wakeEvent s eid).isSome then none
  else c.wantsDepth.bind fun d => if d = 0 then none else some d

def coreSleeps (s : State) : State :=
  match s.who with
  | [eid] =>
    (match sleepsTo s eid with
     | some d => s.modCore eid fun c => { c with depth := d, last := BitVec.ofNat 2 d, woke := none }
     | none => s)
  | _ => s

def execCoreSleepEntry (s : State) : Host.Outcome State Fault Refusal := event coreSleeps s

/-- Whether a sleeping core has been woken. -/
def wakesUp (s : State) (eid : Nat) : Bool :=
  (s.core eid).depth != 0 && ((s.core eid).woke.isSome || (wakeEvent s eid).isSome)

/-- A wake has come to a sleeping core: it issues again 4 cycles after the event, 60 from depth 2. -/
def coreWakes (s : State) : State :=
  match s.who with
  | [eid] =>
    let c := s.core eid
    if wakesUp s eid then
      let at_ := c.woke.getD ((wakeEvent s eid).getD (s.cycle eid))
      s.setCore eid { c with depth := 0, woke := none, wakeAt := at_ + (if c.depth = 2 then 60 else 4) }
    else s
  | _ => s

def execCoreWake (s : State) : Host.Outcome State Fault Refusal := event coreWakes s

end Sys2Proof.Machine
end

