-- ==== Sys2Proof/Machine/Dispatch.lean ====
section
/-! DEFINITION. The meaning of every instruction and step: one arm per constructor of `Instr`. -/

namespace Sys2Proof.Machine

def exec (i : Instr) (s : State) : Host.Outcome State Fault Refusal :=
  match i with
  | .mov f => Sys2Proof.Machine.execMov f s
  | .movi f => Sys2Proof.Machine.execMovi f s
  | .movhi f => Sys2Proof.Machine.execMovhi f s
  | .sext f => Sys2Proof.Machine.execSext f s
  | .zext f => Sys2Proof.Machine.execZext f s
  | .pack f => Sys2Proof.Machine.execPack f s
  | .xtr f => Sys2Proof.Machine.execXtr f s
  | .ins f => Sys2Proof.Machine.execIns f s
  | .bcast f => Sys2Proof.Machine.execBcast f s
  | .lane f => Sys2Proof.Machine.execLane f s
  | .shfl f => Sys2Proof.Machine.execShfl f s
  | .shfli f => Sys2Proof.Machine.execShfli f s
  | .sspill f => Sys2Proof.Machine.execSspill f s
  | .sfill f => Sys2Proof.Machine.execSfill f s
  | .dead f => Sys2Proof.Machine.execDead f s
  | .swin f => Sys2Proof.Machine.execSwin f s
  | .sclr f => Sys2Proof.Machine.execSclr f s
  | .br f => Sys2Proof.Machine.execBr f s
  | .bra f => Sys2Proof.Machine.execBra f s
  | .call f => Sys2Proof.Machine.execCall f s
  | .calla f => Sys2Proof.Machine.execCalla f s
  | .ret f => Sys2Proof.Machine.execRet f s
  | .loop f => Sys2Proof.Machine.execLoop f s
  | .bany f => Sys2Proof.Machine.execBany f s
  | .ball f => Sys2Proof.Machine.execBall f s
  | .pand f => Sys2Proof.Machine.execPand f s
  | .por f => Sys2Proof.Machine.execPor f s
  | .pxor f => Sys2Proof.Machine.execPxor f s
  | .pnot f => Sys2Proof.Machine.execPnot f s
  | .pmov f => Sys2Proof.Machine.execPmov f s
  | .pcnt f => Sys2Proof.Machine.execPcnt f s
  | .spawn f => Sys2Proof.Machine.execSpawn f s
  | .exit f => Sys2Proof.Machine.execExit f s
  | .yield f => Sys2Proof.Machine.execYield f s
  | .wait f => Sys2Proof.Machine.execWait f s
  | .sleep f => Sys2Proof.Machine.execSleep f s
  | .nop f => Sys2Proof.Machine.execNop f s
  | .isync f => Sys2Proof.Machine.execIsync f s
  | .rdsr f => Sys2Proof.Machine.execRdsr f s
  | .wrsr f => Sys2Proof.Machine.execWrsr f s
  | .tick f => Sys2Proof.Machine.execTick f s
  | .tickAt f => Sys2Proof.Machine.execTickAt f s
  | .add f => Sys2Proof.Machine.execAdd f s
  | .sub f => Sys2Proof.Machine.execSub f s
  | .addc f => Sys2Proof.Machine.execAddc f s
  | .subb f => Sys2Proof.Machine.execSubb f s
  | .mul f => Sys2Proof.Machine.execMul f s
  | .mulh f => Sys2Proof.Machine.execMulh f s
  | .mad f => Sys2Proof.Machine.execMad f s
  | .min f => Sys2Proof.Machine.execMin f s
  | .max f => Sys2Proof.Machine.execMax f s
  | .abs f => Sys2Proof.Machine.execAbs f s
  | .neg f => Sys2Proof.Machine.execNeg f s
  | .and f => Sys2Proof.Machine.execAnd f s
  | .or f => Sys2Proof.Machine.execOr f s
  | .xor f => Sys2Proof.Machine.execXor f s
  | .not f => Sys2Proof.Machine.execNot f s
  | .andn f => Sys2Proof.Machine.execAndn f s
  | .shl f => Sys2Proof.Machine.execShl f s
  | .shr f => Sys2Proof.Machine.execShr f s
  | .sar f => Sys2Proof.Machine.execSar f s
  | .rot f => Sys2Proof.Machine.execRot f s
  | .popc f => Sys2Proof.Machine.execPopc f s
  | .clz f => Sys2Proof.Machine.execClz f s
  | .brev f => Sys2Proof.Machine.execBrev f s
  | .sel f => Sys2Proof.Machine.execSel f s
  | .cmp f => Sys2Proof.Machine.execCmp f s
  | .sad f => Sys2Proof.Machine.execSad f s
  | .dp4 f => Sys2Proof.Machine.execDp4 f s
  | .dp8 f => Sys2Proof.Machine.execDp8 f s
  | .div f => Sys2Proof.Machine.execDiv f s
  | .rem f => Sys2Proof.Machine.execRem f s
  | .ired f => Sys2Proof.Machine.execIred f s
  | .iscan f => Sys2Proof.Machine.execIscan f s
  | .padd f => Sys2Proof.Machine.execPadd f s
  | .pmk f => Sys2Proof.Machine.execPmk f s
  | .pfmt f => Sys2Proof.Machine.execPfmt f s
  | .fadd f => Sys2Proof.Machine.execFadd f s
  | .fsub f => Sys2Proof.Machine.execFsub f s
  | .fmul f => Sys2Proof.Machine.execFmul f s
  | .fma f => Sys2Proof.Machine.execFma f s
  | .fmin f => Sys2Proof.Machine.execFmin f s
  | .fmax f => Sys2Proof.Machine.execFmax f s
  | .fabs f => Sys2Proof.Machine.execFabs f s
  | .fneg f => Sys2Proof.Machine.execFneg f s
  | .fcmp f => Sys2Proof.Machine.execFcmp f s
  | .fclass f => Sys2Proof.Machine.execFclass f s
  | .frcp f => Sys2Proof.Machine.execFrcp f s
  | .frsq f => Sys2Proof.Machine.execFrsq f s
  | .fsqrt f => Sys2Proof.Machine.execFsqrt f s
  | .fdiv f => Sys2Proof.Machine.execFdiv f s
  | .fexp2 f => Sys2Proof.Machine.execFexp2 f s
  | .flog2 f => Sys2Proof.Machine.execFlog2 f s
  | .fsin f => Sys2Proof.Machine.execFsin f s
  | .fcos f => Sys2Proof.Machine.execFcos f s
  | .fscale f => Sys2Proof.Machine.execFscale f s
  | .frint f => Sys2Proof.Machine.execFrint f s
  | .fdot2 f => Sys2Proof.Machine.execFdot2 f s
  | .fsplit f => Sys2Proof.Machine.execFsplit f s
  | .fred f => Sys2Proof.Machine.execFred f s
  | .cvt f => Sys2Proof.Machine.execCvt f s
  | .lsmk f => Sys2Proof.Machine.execLsmk f s
  | .bxq f => Sys2Proof.Machine.execBxq f s
  | .bxd f => Sys2Proof.Machine.execBxd f s
  | .lsadd f => Sys2Proof.Machine.execLsadd f s
  | .lscvt f => Sys2Proof.Machine.execLscvt f s
  | .mma f => Sys2Proof.Machine.execMma f s
  | .mmaz f => Sys2Proof.Machine.execMmaz f s
  | .mld f => Sys2Proof.Machine.execMld f s
  | .mst f => Sys2Proof.Machine.execMst f s
  | .msteer f => Sys2Proof.Machine.execMsteer f s
  | .mwait f => Sys2Proof.Machine.execMwait f s
  | .mprog f => Sys2Proof.Machine.execMprog f s
  | .mweight f => Sys2Proof.Machine.execMweight f s
  | .mclr f => Sys2Proof.Machine.execMclr f s
  | .ldl f => Sys2Proof.Machine.execLdl f s
  | .stl f => Sys2Proof.Machine.execStl f s
  | .stash f => Sys2Proof.Machine.execStash f s
  | .unstash f => Sys2Proof.Machine.execUnstash f s
  | .wptr f => Sys2Proof.Machine.execWptr f s
  | .eread f => Sys2Proof.Machine.execEread f s
  | .ereadRel f => Sys2Proof.Machine.execEreadRel f s
  | .ewrite f => Sys2Proof.Machine.execEwrite f s
  | .eos f => Sys2Proof.Machine.execEos f s
  | .ld f => Sys2Proof.Machine.execLd f s
  | .st f => Sys2Proof.Machine.execSt f s
  | .ldf f => Sys2Proof.Machine.execLdf f s
  | .stf f => Sys2Proof.Machine.execStf f s
  | .gather f => Sys2Proof.Machine.execGather f s
  | .scatter f => Sys2Proof.Machine.execScatter f s
  | .prf f => Sys2Proof.Machine.execPrf f s
  | .amo f => Sys2Proof.Machine.execAmo f s
  | .cas f => Sys2Proof.Machine.execCas f s
  | .sta f => Sys2Proof.Machine.execSta f s
  | .inv f => Sys2Proof.Machine.execInv f s
  | .tlbinv f => Sys2Proof.Machine.execTlbinv f s
  | .rel f => Sys2Proof.Machine.execRel f s
  | .acq f => Sys2Proof.Machine.execAcq f s
  | .fence f => Sys2Proof.Machine.execFence f s
  | .ogq f => Sys2Proof.Machine.execOgq f s
  | .cpy f => Sys2Proof.Machine.execCpy f s
  | .cpyg f => Sys2Proof.Machine.execCpyg f s
  | .cpyf f => Sys2Proof.Machine.execCpyf f s
  | .cpw f => Sys2Proof.Machine.execCpw f s
  | .cpwDrop f => Sys2Proof.Machine.execCpwDrop f s
  | .cpq f => Sys2Proof.Machine.execCpq f s
  | .binit f => Sys2Proof.Machine.execBinit f s
  | .barv f => Sys2Proof.Machine.execBarv f s
  | .bexp f => Sys2Proof.Machine.execBexp f s
  | .bwait f => Sys2Proof.Machine.execBwait f s
  | .btest f => Sys2Proof.Machine.execBtest f s
  | .gbar f => Sys2Proof.Machine.execGbar f s
  | .tkmk f => Sys2Proof.Machine.execTkmk f s
  | .tkarm f => Sys2Proof.Machine.execTkarm f s
  | .tksucc f => Sys2Proof.Machine.execTksucc f s
  | .tkdec f => Sys2Proof.Machine.execTkdec f s
  | .tkdone f => Sys2Proof.Machine.execTkdone f s
  | .ginst f => Sys2Proof.Machine.execGinst f s
  | .tkcan f => Sys2Proof.Machine.execTkcan f s
  | .tkcanG f => Sys2Proof.Machine.execTkcanG f s
  | .tkst f => Sys2Proof.Machine.execTkst f s
  | .tksub f => Sys2Proof.Machine.execTksub f s
  | .arrm f => Sys2Proof.Machine.execArrm f s
  | .arrmFree f => Sys2Proof.Machine.execArrmFree f s
  | .tkres f => Sys2Proof.Machine.execTkres f s
  | .rgres f => Sys2Proof.Machine.execRgres f s
  | .rgpub f => Sys2Proof.Machine.execRgpub f s
  | .rgtake f => Sys2Proof.Machine.execRgtake f s
  | .am f => Sys2Proof.Machine.execAm f s
  | .amD f => Sys2Proof.Machine.execAmD f s
  | .amr f => Sys2Proof.Machine.execAmr f s
  | .hend f => Sys2Proof.Machine.execHend f s
  | .push f => Sys2Proof.Machine.execPush f s
  | .pop f => Sys2Proof.Machine.execPop f s
  | .popW f => Sys2Proof.Machine.execPopW f s
  | .qmk f => Sys2Proof.Machine.execQmk f s
  | .qmkFree f => Sys2Proof.Machine.execQmkFree f s
  | .mbsend f => Sys2Proof.Machine.execMbsend f s
  | .mbcnt f => Sys2Proof.Machine.execMbcnt f s
  | .cplan f => Sys2Proof.Machine.execCplan f s
  | .cplanFree f => Sys2Proof.Machine.execCplanFree f s
  | .red f => Sys2Proof.Machine.execRed f s
  | .cbcast f => Sys2Proof.Machine.execCbcast f s
  | .cgath f => Sys2Proof.Machine.execCgath f s
  | .redw f => Sys2Proof.Machine.execRedw f s
  | .redr f => Sys2Proof.Machine.execRedr f s
  | .redfix f => Sys2Proof.Machine.execRedfix f s
  | .trap f => Sys2Proof.Machine.execTrap f s
  | .brk f => Sys2Proof.Machine.execBrk f s
  | .eret f => Sys2Proof.Machine.execEret f s
  | .drain f => Sys2Proof.Machine.execDrain f s
  | .drainRes f => Sys2Proof.Machine.execDrainRes f s
  | .frz f => Sys2Proof.Machine.execFrz f s
  | .frzRes f => Sys2Proof.Machine.execFrzRes f s
  | .ctxsv f => Sys2Proof.Machine.execCtxsv f s
  | .ctxld f => Sys2Proof.Machine.execCtxld f s
  | .gang f => Sys2Proof.Machine.execGang f s
  | .classLResultWrite => Sys2Proof.Machine.execClassLResultWrite s
  | .fetchBlockRead => Sys2Proof.Machine.execFetchBlockRead s
  | .handlerWatchdog => Sys2Proof.Machine.execHandlerWatchdog s
  | .spawnArrival => Sys2Proof.Machine.execSpawnArrival s
  | .waitWake => Sys2Proof.Machine.execWaitWake s
  | .waitTimeout => Sys2Proof.Machine.execWaitTimeout s
  | .sleepExpiry => Sys2Proof.Machine.execSleepExpiry s
  | .tickAtWake => Sys2Proof.Machine.execTickAtWake s
  | .coreSleepEntry => Sys2Proof.Machine.execCoreSleepEntry s
  | .coreWake => Sys2Proof.Machine.execCoreWake s
  | .activeMessageArrival => Sys2Proof.Machine.execActiveMessageArrival s
  | .handlerStart => Sys2Proof.Machine.execHandlerStart s
  | .depositArrival => Sys2Proof.Machine.execDepositArrival s
  | .messageRefused => Sys2Proof.Machine.execMessageRefused s
  | .amrReply => Sys2Proof.Machine.execAmrReply s
  | .mailboxEntryArrival => Sys2Proof.Machine.execMailboxEntryArrival s
  | .mbsendRetry => Sys2Proof.Machine.execMbsendRetry s
  | .mbsendRecordRetry => Sys2Proof.Machine.execMbsendRecordRetry s
  | .mailboxReservationExpiry => Sys2Proof.Machine.execMailboxReservationExpiry s
  | .eretRequestArrival => Sys2Proof.Machine.execEretRequestArrival s
  | .pushArrival => Sys2Proof.Machine.execPushArrival s
  | .popArrival => Sys2Proof.Machine.execPopArrival s
  | .pushWindowExpiry => Sys2Proof.Machine.execPushWindowExpiry s
  | .popWindowExpiry => Sys2Proof.Machine.execPopWindowExpiry s
  | .popWCancel => Sys2Proof.Machine.execPopWCancel s
  | .fabricRequestArrival => Sys2Proof.Machine.execFabricRequestArrival s
  | .retransmitTimer => Sys2Proof.Machine.execRetransmitTimer s
  | .requestAbandon => Sys2Proof.Machine.execRequestAbandon s
  | .replyCacheExpiry => Sys2Proof.Machine.execReplyCacheExpiry s
  | .retryLaterResend => Sys2Proof.Machine.execRetryLaterResend s
  | .escapeMove => Sys2Proof.Machine.execEscapeMove s
  | .thresholdRecompute => Sys2Proof.Machine.execThresholdRecompute s
  | .linkFailure dev port => Sys2Proof.Machine.execLinkFailure dev port s
  | .routeRemoval => Sys2Proof.Machine.execRouteRemoval s
  | .deviceUnreachable => Sys2Proof.Machine.execDeviceUnreachable s
  | .routeFound => Sys2Proof.Machine.execRouteFound s
  | .linkRetrain dev port => Sys2Proof.Machine.execLinkRetrain dev port s
  | .apertureWriteDiscard => Sys2Proof.Machine.execApertureWriteDiscard s
  | .tickMeasurement => Sys2Proof.Machine.execTickMeasurement s
  | .tickMasterFailure dev => Sys2Proof.Machine.execTickMasterFailure dev s
  | .newTickMaster => Sys2Proof.Machine.execNewTickMaster s
  | .deviceJoin dev ticks => Sys2Proof.Machine.execDeviceJoin dev ticks s
  | .deviceNumberSet dev num => Sys2Proof.Machine.execDeviceNumberSet dev num s
  | .homeAccess => Sys2Proof.Machine.execHomeAccess s
  | .atomicAtHome => Sys2Proof.Machine.execAtomicAtHome s
  | .lmAtomicMicrocode => Sys2Proof.Machine.execLmAtomicMicrocode s
  | .uncorrectableError key => Sys2Proof.Machine.execUncorrectableError key s
  | .walkStart => Sys2Proof.Machine.execWalkStart s
  | .pageWalk => Sys2Proof.Machine.execPageWalk s
  | .tlbinvAck => Sys2Proof.Machine.execTlbinvAck s
  | .joinComplete => Sys2Proof.Machine.execJoinComplete s
  | .stashFill => Sys2Proof.Machine.execStashFill s
  | .stashWriteback => Sys2Proof.Machine.execStashWriteback s
  | .mxuArbitrate => Sys2Proof.Machine.execMxuArbitrate s
  | .stagerFetch => Sys2Proof.Machine.execStagerFetch s
  | .accPortCommand => Sys2Proof.Machine.execAccPortCommand s
  | .msteerTokenWrite => Sys2Proof.Machine.execMsteerTokenWrite s
  | .mxuCommandComplete => Sys2Proof.Machine.execMxuCommandComplete s
  | .mxuFault => Sys2Proof.Machine.execMxuFault s
  | .copyCommandStart => Sys2Proof.Machine.execCopyCommandStart s
  | .copyRequest => Sys2Proof.Machine.execCopyRequest s
  | .copyFault => Sys2Proof.Machine.execCopyFault s
  | .copyCommandComplete => Sys2Proof.Machine.execCopyCommandComplete s
  | .barrierUpdate => Sys2Proof.Machine.execBarrierUpdate s
  | .staAck => Sys2Proof.Machine.execStaAck s
  | .bwaitTimeout => Sys2Proof.Machine.execBwaitTimeout s
  | .gbarEpisodeComplete => Sys2Proof.Machine.execGbarEpisodeComplete s
  | .edgeReservation => Sys2Proof.Machine.execEdgeReservation s
  | .edgeTokenArrival => Sys2Proof.Machine.execEdgeTokenArrival s
  | .eosMarkArrival => Sys2Proof.Machine.execEosMarkArrival s
  | .drainMarkerInject => Sys2Proof.Machine.execDrainMarkerInject s
  | .queueRingTake => Sys2Proof.Machine.execQueueRingTake s
  | .dispatchSelection => Sys2Proof.Machine.execDispatchSelection s
  | .priorityAging => Sys2Proof.Machine.execPriorityAging s
  | .operandPrefetch => Sys2Proof.Machine.execOperandPrefetch s
  | .prefetchFault => Sys2Proof.Machine.execPrefetchFault s
  | .threadCreation => Sys2Proof.Machine.execThreadCreation s
  | .taskCompletion => Sys2Proof.Machine.execTaskCompletion s
  | .decrementApply => Sys2Proof.Machine.execDecrementApply s
  | .quiescenceExpiry => Sys2Proof.Machine.execQuiescenceExpiry s
  | .gangPrepare => Sys2Proof.Machine.execGangPrepare s
  | .gangCommit => Sys2Proof.Machine.execGangCommit s
  | .gangArm => Sys2Proof.Machine.execGangArm s
  | .planPrepare => Sys2Proof.Machine.execPlanPrepare s
  | .contributionArrival => Sys2Proof.Machine.execContributionArrival s
  | .epochOpen => Sys2Proof.Machine.execEpochOpen s
  | .forwardTickExpiry => Sys2Proof.Machine.execForwardTickExpiry s
  | .resultDelivery => Sys2Proof.Machine.execResultDelivery s
  | .shakeOutCommit => Sys2Proof.Machine.execShakeOutCommit s
  | .correctionArrival => Sys2Proof.Machine.execCorrectionArrival s
  | .userRoutineRun => Sys2Proof.Machine.execUserRoutineRun s
  | .yardRoutineWatchdog => Sys2Proof.Machine.execYardRoutineWatchdog s
  | .planDeviceLost => Sys2Proof.Machine.execPlanDeviceLost s
  | .spillRingCatch => Sys2Proof.Machine.execSpillRingCatch s
  | .ctxswSwitchOut dev core => Sys2Proof.Machine.execCtxswSwitchOut dev core s
  | .ctxswSwitchIn dev core => Sys2Proof.Machine.execCtxswSwitchIn dev core s
  | .rres dev fn => Sys2Proof.Machine.execRres dev fn s
  | .rpub dev fn val => Sys2Proof.Machine.execRpub dev fn val s
  | .rtake dev fn => Sys2Proof.Machine.execRtake dev fn s
  | .rdone dev fn val => Sys2Proof.Machine.execRdone dev fn val s
  | .pwrcap dev val => Sys2Proof.Machine.execPwrcap dev val s
  | .recsel dev val => Sys2Proof.Machine.execRecsel dev val s
  | .hostRegisterWrite dev fn off val => Sys2Proof.Machine.execHostRegisterWrite dev fn off val s
  | .bar2Access dev fn off n val => Sys2Proof.Machine.execBar2Access dev fn off n val s
  | .dvfsLoop die power temp => Sys2Proof.Machine.execDvfsLoop die power temp s
  | .thermalStop => Sys2Proof.Machine.execThermalStop s
  | .thermalCutoff dev => Sys2Proof.Machine.execThermalCutoff dev s
  | .coldReset dev ok ver digest => Sys2Proof.Machine.execColdReset dev ok ver digest s
  | .warmReset dev => Sys2Proof.Machine.execWarmReset dev s
  | .pcieLinkTraining dev width rate => Sys2Proof.Machine.execPcieLinkTraining dev width rate s
  | .getVersion dev => Sys2Proof.Machine.execGetVersion dev s
  | .getCapabilities dev => Sys2Proof.Machine.execGetCapabilities dev s
  | .negotiateAlgorithms dev => Sys2Proof.Machine.execNegotiateAlgorithms dev s
  | .getDigests dev => Sys2Proof.Machine.execGetDigests dev s
  | .getCertificate dev => Sys2Proof.Machine.execGetCertificate dev s
  | .challenge dev => Sys2Proof.Machine.execChallenge dev s
  | .getMeasurements dev => Sys2Proof.Machine.execGetMeasurements dev s
  | .keyExchange dev => Sys2Proof.Machine.execKeyExchange dev s
  | .finish dev => Sys2Proof.Machine.execFinish dev s
  | .scrubPass die word => Sys2Proof.Machine.execScrubPass die word s
  | .dramPatrol die page => Sys2Proof.Machine.execDramPatrol die page s
  | .unassignedOpcode opc f => Sys2Proof.Machine.execUnassignedOpcode opc f s
  | .redwTimeout => Sys2Proof.Machine.execRedwTimeout s
  | .lossOfLock => Sys2Proof.Machine.execLossOfLock s
  | .thermalIssueResume => Sys2Proof.Machine.execThermalIssueResume s

end Sys2Proof.Machine
end

