-- ==== Sys2Proof/Machine/Select.lean ====
section
/-! DEFINITION. What can happen next: every step that some agent of the machine may take now, the thread that each core
grants (R91, R95), and the passage of time.  `Step.lean` takes one of them. -/

namespace Sys2Proof.Machine

/-- A step that may be taken: what runs, the slot that holds the issue port, what it acts on, and whether it is the outside
world's next event. -/
structure Move where
  i : Instr
  cur : Nat × Nat := (0, 0)
  who : List Nat := []
  input : Bool := false
  deriving DecidableEq, Repr

/-! ## The instruction of a thread (R48, R101) -/

/-- The bytes of the fetch buffer from an LM offset on, up to the first that it does not hold. -/
def Thread.bytesAt (t : Thread) (off : Nat) : Nat → List Byte
  | 0 => []
  | n + 1 =>
    match t.wordAt off with
    | some w => toBytes 8 w ++ t.bytesAt (off + 8) n
    | none => []

/-- The bytes at the program counter: two words; a word past the end of LM counts as zero, and the instruction traps. -/
def Thread.code (t : Thread) : List Byte := t.bytesAt t.pc.toNat 2 ++ List.replicate 16 0

/-- The instruction that a thread issues next. -/
def Thread.next (t : Thread) : Instr :=
  match decode t.code with
  | .ok (i, _) => i
  | .error _ => .nop default

/-! ## Grants (R91, R95) -/

/-- The state after a thread has tried its instruction. -/
def trial (s : State) (eid slot : Nat) (t : Thread) : Option State :=
  match exec t.next { s with cur := (eid, slot), who := [] } with
  | .next s' => some { s' with cur := s.cur, who := s.who }
  | _ => none

/-- Whether a thread in a slot is held by a reason that can clear by itself: it is blocked, or parked before its
instruction takes effect. -/
def Thread.held (t : Thread) : Bool :=
  match t.status with
  | .blocked => true
  | .parked false => true
  | _ => false

/-- A blocked or parked thread whose instruction would now do something but be held again has become ready, whether or not the issue
port is free (R91). -/
def refreshThread (s : State) (eid slot : Nat) (t : Thread) : State :=
  if t.held then
    match trial s eid slot t with
    | some s' => if s' = holdAt s eid slot t t.status then s else enterReady s eid slot t
    | none => s
  else s

/-- Whether a core issues now: it is awake, not frozen, its compute die runs and its issue port is free. -/
def Core.issues (c : Core) (s : State) (eid : Nat) : Bool :=
  !c.frozen && awake s eid && decide (c.busy ≤ s.cycle eid) && !((s.die (eidDie eid)).stopped && !isYard eid)

/-- The slots of a core that may issue: handlers only while a freeze is asked for (R392). -/
def Core.slots (c : Core) : List (Nat × Thread) := c.threads.filter fun (i, _) => c.freezing.isNone || decide (16 ≤ i)

/-- Every waiting and every blocked thread of every core is looked at again, and every freeze and drain that was asked for. -/
def refresh (s : State) : State :=
  let s := noteWakes s
  let s := s.cores.foldl (fun s (e, c) => if c.mxq.isEmpty then s else notePort s e) s
  let s := s.cores.foldl (fun s (e, c) => if c.bindings.isEmpty then s else reclaim s e) s
  let s := s.cores.foldl (fun s (e, _) => tryFreeze s e) s
  let s := s.insts.foldl (fun s (d, i) => if i.draining && !i.suspended then suspendCheck s d i.asid i.gid else s) s
  s.cores.foldl (fun s (e, c) =>
    if c.frozen then s else c.slots.foldl (fun s (i, _) =>
      match s.thr? e i with
      | some t => refreshThread s e i t
      | none => s) s) s

/-- The handler slot that is granted: the one whose handler started first, 16 on a tie. -/
def handlerGrant (l : List (Nat × Thread)) : Option (Nat × Thread) :=
  match (l.find? (·.1 == 16)), (l.find? (·.1 == 17)) with
  | some a, some b => if b.2.startNo < a.2.startNo then some b else some a
  | some a, none => some a
  | none, b => b

/-- The thread slot that is granted: the smallest stamp, then the first from the pointer on. -/
def threadGrant (ptr : Nat) (l : List (Nat × Thread)) : Option (Nat × Thread) :=
  l.foldl (fun best x =>
    match best with
    | none => some x
    | some b =>
      if x.2.stamp < b.2.stamp ∨ (x.2.stamp = b.2.stamp ∧ (x.1 + 16 - ptr) % 16 < (b.1 + 16 - ptr) % 16) then some x
      else best) none

/-- The slot that a core grants, with its thread. -/
def grantOf (c : Core) : Option (Nat × Thread) :=
  let l := c.slots.filter fun x => x.2.status == .ready
  match handlerGrant (l.filter fun x => decide (16 ≤ x.1)) with
  | some x => some x
  | none => threadGrant c.ptr (l.filter fun x => decide (x.1 < 16))

/-! ## The moves of each agent -/

/-- A move of an engine when a test holds. -/
def mv (i : Instr) (who : List Nat) (ok : Bool) : List Move := if ok then [{ i := i, who := who }] else []

/-- The moves about one thread. -/
def threadMoves (s : State) (e : Nat) (x : Nat × Thread) : List Move :=
  let (i, t) := x
  let waits (p : WaitFor → Bool) : Bool := match t.status with | .waiting w => p w.what | _ => false
  (t.pend.flatMap fun p =>
    mv .classLResultWrite [e, i, p.id] (mayLand s e i p.id) ++ mv .tlbinvAck [e, i, p.id] (p.tlb && p.need != 0)) ++
  (t.joins.flatMap fun j => mv .joinComplete [e, i, j.id] true) ++
  mv .fetchBlockRead [e, i] (!(s.core e).frozen && t.wantsBlock.isSome) ++
  mv .handlerWatchdog [e, i] (watchdogDue t i) ++
  mv .yardRoutineWatchdog [e] (isYard e && decide (65536 ≤ t.issued)) ++
  (if awake s e then
    mv .waitWake [e, i] (waitValue s e i != 0) ++ mv .waitTimeout [e, i] (bit (waitValue s e i) 15) ++
    mv .sleepExpiry [e, i] (sleepDone s e i) ++ mv .tickAtWake [e, i] (tickDone s e i)
   else []) ++
  mv .bwaitTimeout [e, i] (waits fun w => match w with | .barrier .. => true | _ => false) ++
  mv .redwTimeout [e, i] (waits fun w => match w with | .call .. => true | _ => false)

/-- The moves about one core, its stash windows, its matrix queue and its copy channels. -/
def coreMoves (s : State) (e : Nat) (c : Core) : List Move :=
  c.threads.flatMap (threadMoves s e) ++
  (if c.switching.isSome then
    [{ i := .ctxswSwitchOut (eidDev e) (eidDie e % 4 * 576 + eidEp e), who := [1] },
     { i := .ctxswSwitchIn (eidDev e) (eidDie e % 4 * 576 + eidEp e), who := [1] }] else []) ++
  mv .coreSleepEntry [e] (sleepsTo s e).isSome ++ mv .coreWake [e] (wakesUp s e) ++
  mv .handlerStart [e] (!c.handlerQ.isEmpty) ++ mv .lmAtomicMicrocode [e] (!c.handlerQ.isEmpty) ++
  (c.mbResv.flatMap fun r => mv .mailboxReservationExpiry [e, r.pkt] (decide (r.until_ ≤ s.cycle e))) ++
  (c.stash.flatMap fun w => (List.range w.grs.length).flatMap fun g =>
    match w.grs[g]? with
    | some x => mv .stashFill [e, w.lo / 4096 + g] x.want ++ mv .stashWriteback [e, w.lo / 4096 + g] (x.dirty != 0)
    | none => []) ++
  (if c.mxq.isEmpty then [] else
    mv .stagerFetch [e] true ++ mv .mxuArbitrate [eidTile e] true ++ mv .accPortCommand [e] true ++
    mv .msteerTokenWrite [e] true ++ mv .mxuFault [e] true ++ mv .mxuCommandComplete [e] true) ++
  ((List.range c.chan.length).flatMap fun ch =>
    let on := (c.chan[ch]?).any (·.cmd.isSome) || c.shadow.any (·.1 == ch)
    mv .copyCommandStart [e, ch] on ++ mv .copyRequest [e, ch] on ++ mv .copyFault [e, ch] on ++
    mv .copyCommandComplete [e, ch] on)

/-- The step that performs a request at its unit. -/
def Body.arrival : Body → Option Instr
  | .spawn .. => some .spawnArrival
  | .am .. => some .activeMessageArrival
  | .deposit .. => some .depositArrival
  | .mbox .. => some .mailboxEntryArrival
  | .push .. => some .pushArrival
  | .pop .. => some .popArrival
  | .popCancel .. => some .popWCancel
  | .taskOp .. => some .fabricRequestArrival
  | .decr .. => some .decrementApply
  | .edgeResv .. => some .edgeReservation
  | .edgeToken .. => some .edgeTokenArrival
  | .eosMark .. => some .eosMarkArrival
  | .barrier .. => some .barrierUpdate
  | .eret .. => some .eretRequestArrival
  | .contrib .. => some .contributionArrival
  | .forward .. => some .contributionArrival
  | .shake .. => some .shakeOutCommit
  | .planResult .. => some .resultDelivery
  | .planFix .. => some .correctionArrival
  | .gangPrep .. => some .gangPrepare
  | .gangCommit .. => some .gangCommit
  | .planPrep .. => some .planPrepare
  | .refusal .. => some .messageRefused
  | .amrReply .. => some .amrReply
  | .reply .. => none
  | .lmAtomic .. => none
  | .access .. => none
  | .engine => some .fabricRequestArrival

/-- A spawn, or a mailbox entry, reaches its core in its turn among the requests of the cycle (R64, R328). -/
def Packet.turn (p : Packet) (s : State) : Bool :=
  match p.body with
  | .spawn .. => unitsTurn s p.dst (rankSpawn p.src)
  | .mbox .. => boxTurn s p
  | _ => true

/-- The moves about one request. -/
def pktMoves (s : State) (p : Packet) : List Move :=
  (match p.body.arrival with
   | some i => mv i [p.id] ((p.ready s && p.turn s) || (p.state == .recorded && i == .edgeReservation))
   | none => []) ++
  mv .fabricRequestArrival [p.id] (p.mayQueue s || p.mayLeave s || p.mayArrive s || (p.state == .arrived && p.stale s)) ++
  mv .spillRingCatch [p.id] (p.here s && p.body.caught && ((s.core p.dst).frozen || p.body.own)) ++
  mv .retransmitTimer [p.id] (resendDue s p) ++ mv .requestAbandon [p.id] (giveUpDue s p) ++
  mv .retryLaterResend [p.id] (p.state == .later && decide (p.due ≤ s.tickOf p.src)) ++
  mv .escapeMove [p.id] ((waitPort s p).any (escapeDue s p)) ++
  (if p.state == .refused then mv .mbsendRetry [p.id] p.body.box.isSome ++ mv .mbsendRecordRetry [p.id] p.body.box.isSome
   else [])

/-- The moves about one access. -/
def accMoves (s : State) (a : Access) : List Move :=
  mv (if a.atomic then .atomicAtHome else .homeAccess) [a.id] (mayPerform s a) ++ mv .requestAbandon [a.id] (accessDue s a)

/-- The moves about one device: its Yard, its links, its tick. -/
def devMoves (s : State) (d : Nat) (v : Device) : List Move :=
  (v.qops.flatMap fun o =>
    mv .pushWindowExpiry [d, o.pkt] (o.push.isSome && decide (o.until_ ≤ v.yard)) ++
    mv .popWindowExpiry [d, o.pkt] (o.push.isNone && decide (o.until_ ≤ v.yard))) ++
  ((List.range 24).flatMap fun i =>
    mv .thresholdRecompute [d, i] (thresholdDue s d i) ++
    mv .routeRemoval [d, i] ((portOf s d i).routed && !(portOf s d i).up)) ++
  (s.devs.flatMap fun (o, _) => mv .deviceUnreachable [d, o] (lostDue s d o) ++ mv .routeFound [d, o] (foundDue s d o)) ++
  (if 1150 ≤ hottest { s with who := [] } d ∧ ¬ v.cutoff then [{ i := .thermalCutoff d }] else []) ++
  mv .tickMeasurement [d] (measureDue s d) ++ mv .lossOfLock [d] (lockLossDue s d) ++ mv .newTickMaster [d] (masterDue s d)

/-- No core of a die has had another request for units in this cycle: bindings come first (R64). -/
def bindingsTurn (s : State) (n : Nat) : Bool := s.cores.all fun (e, _) => eidDie e != n || unitsTurn s e rankBinding

/-- The moves about the dies of a device: page walks, dispatcher, issue stops. -/
def dieMoves (s : State) (d : Nat) : List Move :=
  (List.range 4).flatMap fun k =>
    let n := d * 4 + k
    let v := s.die n
    mv .walkStart [n] (v.walks.any fun w => !w.running) ++
    ((v.walks.filter (·.running)).flatMap fun w => mv .pageWalk [n, w.asid, w.vpn] true) ++
    mv .dispatchSelection [n] (bindingsTurn s n && (selection s n).isSome) ++
    mv .thermalStop [n] (decide (1100 ≤ v.temp) && !v.stopped) ++
    mv .thermalIssueResume [n] (v.stopped && decide (v.temp < 1000))

/-- The task queues of a loaded context. -/
def queueMoves (s : State) (key : Nat) (x : Ctx) : List Move :=
  (List.range x.queues.length).flatMap fun q =>
    if (x.queues.getD q (0, 0)).1 = 0 then [] else
    (List.range 4).flatMap fun k =>
      let n := key / 65536 * 4 + k
      mv .queueRingTake [n, key % 65536, q] (takeable s n (key % 65536) q).isSome

/-- The moves about one task. -/
def recMoves (s : State) (r : Rec) : List Move :=
  mv .priorityAging [r.handle] (r.tabled && prioOf s r != r.prio) ++
  ((List.range 5).flatMap fun j =>
    mv .operandPrefetch [r.handle, j] r.berth.isSome ++ mv .prefetchFault [r.handle, j] r.berth.isSome) ++
  mv .threadCreation [r.handle] (r.state == .staging && r.berth.isSome) ++
  mv .taskCompletion [r.handle] (r.state == .done || r.state == .cancelling)

/-- The moves about one plan. -/
def planMoves (s : State) (k : Nat) (p : Plan) : List Move :=
  (p.opened.flatMap fun (e, _, _) => (List.range p.nodes.length).flatMap fun j =>
    mv .epochOpen [k, j, e] (p.epochAt j e).isNone) ++
  (p.epochs.flatMap fun x => mv .forwardTickExpiry [k, x.node, x.epoch] (!x.forwarded)) ++
  (p.results.flatMap fun (m, r) => mv .resultDelivery [k, m, r.epoch] true) ++
  (p.fixes.flatMap fun (m, _, _) => mv .correctionArrival [k, m] (dueFix s p m).isSome) ++
  (p.jobs.flatMap fun j => mv .userRoutineRun [k, j.node, j.epoch, j.num] true) ++
  (p.devs.flatMap fun x => p.devs.flatMap fun d => mv .planDeviceLost [k, x, d] (p.sees s x d))

/-- The next event of the outside world. -/
def inputMoves (s : State) : List Move :=
  match s.inputs with
  | [] => []
  | (i, w) :: _ => [{ i := i, who := w, input := true }]

/-- The instruction that each core issues. -/
def issueMoves (s : State) : List Move :=
  s.cores.flatMap fun (e, c) =>
    if c.issues s e then
      match grantOf c with
      | some (i, t) => [{ i := t.next, cur := (e, i) }]
      | none => []
    else []

/-- Everything that can happen next. -/
def moves (s : State) : List Move :=
  inputMoves s ++ (issueMoves s ++ ([
    s.cores.flatMap fun (e, c) => coreMoves s e c,
    s.net.flatMap (pktMoves s), s.accs.flatMap (accMoves s),
    s.acks.flatMap fun a => mv .staAck [a.eid, a.slot, a.id] true,
    s.cache.flatMap fun c => mv .replyCacheExpiry [c.unit, c.seq] (decide (c.freeAt ≤ s.tickOf (c.unit % 2 ^ 22))),
    s.devs.flatMap fun (d, v) => devMoves s d v ++ dieMoves s d,
    s.ctxs.flatMap fun (k, x) => queueMoves s k x,
    s.recs.flatMap fun (_, r) => recMoves s r,
    s.insts.flatMap fun (d, i) =>
      mv .quiescenceExpiry [d, i.asid, i.gid] true ++ mv .gangArm [d, i.asid, i.gid] i.armAt.isSome,
    s.groups.flatMap fun (k, _) => mv .gbarEpisodeComplete [k] true,
    s.edges.flatMap fun g => mv .drainMarkerInject [g.id] (markerDue s g),
    s.plans.flatMap fun (k, p) => planMoves s k p] : List (List Move)).flatten)

/-- The move that is taken: which one of several is not the spec's to say (log entry 3). -/
def pickMove (s : State) : List Move → Option Move
  | [] => none
  | [m] => some m
  | l => l[Config.nextStep s.steps % l.length]?

/-! ## Time -/

/-- A device's tick after `n` ns of the pod: slewed by its rate (R353). -/
def tickOn (n : Nat) (d : Device) : Device :=
  let x := n * (1000000 + d.slew).toNat + d.slewRest
  { d with tick := d.tick + x / 1000000, slewRest := x % 1000000 }

/-- Time passes: every die's cycles, every device's Yard cycles and the pod's time grow by amounts that the spec leaves open (log
entry 4). -/
def passTime (s : State) : State :=
  { s with
    steps := s.steps + 1
    dies := s.devs.foldl (fun l (d, _) => (List.range 4).foldl (fun l k =>
      let n := d * 4 + k
      let v := (Keyed.get? l n).getD {}
      Keyed.put l n { v with cycles := v.cycles + Config.passed s.steps (1024 + n) }) l) s.dies
    devs := s.devs.map fun (d, v) =>
      (d, tickOn (Config.passed s.steps 16384) { v with yard := v.yard + Config.passed s.steps (8192 + d) }) }
  |> bringUp

/-- The keys at which two memories differ; the fuel is the cells of both. -/
def memDiff : Nat → List Host.Cell → List Host.Cell → List Nat
  | _, [], l => l.map (·.1)
  | _, l, [] => l.map (·.1)
  | 0, _, _ => []
  | n + 1, (a, x) :: r, (b, y) :: q =>
    if a < b then a :: memDiff n r ((b, y) :: q)
    else if b < a then b :: memDiff n ((a, x) :: r) q
    else if x = y then memDiff n r q else a :: memDiff n r q

/-- Remembers the fetch blocks of LM that a step has written as they stood before it, while threads of their core may still
fetch them so (R102). -/
def notePast (s s' : State) : State :=
  if s.mem = s'.mem then s'
  else
    let ks := (((memDiff (s.mem.length + s'.mem.length) s.mem s'.mem).filter keyIsLm).map fun k => k / 32 * 32).eraseDups
    let kept := (s'.past ++ ks.map fun k => (k, s.steps, ((List.range 32).map (k + ·)).map s.byte)).filter fun (k, _, _) =>
      !(s'.core (keyCore k)).threads.isEmpty
    { s' with past := kept }

/-- Runs a move: the outside world's event is taken from its list first. -/
def runMove (s : State) (m : Move) : Host.Outcome State Fault Refusal :=
  match exec m.i { s with cur := m.cur, who := m.who, inputs := if m.input then s.inputs.drop 1 else s.inputs } with
  | .next s' => .next (passTime (noteWakes (notePast s s')))
  | .fault r => .fault r
  | .refused r => .refused r

/-! ## Placing an instruction -/

/-- LM offset at which `codeState` places the instruction. -/
def codeAtOff : Nat := 0x1000

/-- A core that hosts a context with all of LM in its context region and one thread, ready to issue from `codeAtOff` with both
fetch blocks in its buffer. -/
def codeCore (bs : List Byte) : Core :=
  let t : Thread := newThread codeAtOff 512 (List.range 8) 0 0xFFFFFFFF [0, 0, 0, 0]
  { Core.reset 0 with
    ctx := some 1, depth := 0
    gran := (List.range 127).map fun g => (g, Region.context)
    threads := [(0, { t with status := .ready
                             fetch := [(codeAtOff, bs ++ List.replicate (32 - bs.length) 0), (codeAtOff + 32, List.replicate 32 0)] })] }

/-- A machine of one device that is up, with a context loaded on one core, whose only possible step is the instruction with
these bytes; memory is as given. -/
def codeState (s : State) (bs : List Byte) : State :=
  let x : Ctx := { ctxgr := 126, root := 0, fring := 0, csv := 0, frz := 0, ranges := [], handlers := [], queues := [] }
  { State.reset with
    mem := s.mem, trt := s.trt, nextId := s.nextId, steps := s.steps
    devs := [(0, { stage := 5, numbered := true, master := true, locked := true })]
    ctxs := [(1, x)]
    cores := [(0, codeCore bs)] }
  |>.setBytes (((List.range 32).map fun i => lmKey 0 (codeAtOff + i)).zip (bs ++ List.replicate (32 - bs.length) 0))

end Sys2Proof.Machine
end

