-- ==== Sys2Proof/Machine/Step.lean ====
section
/-! DEFINITION. One step of the machine, and the placing of an instruction that runs next. -/

namespace Sys2Proof.Machine

/-- One step: one of the things that can happen next, or nothing but the passage of time. -/
def step (s : State) : Host.Outcome State Fault Refusal :=
  let r := refresh s
  match pickMove r (moves r) with
  | some m => runMove r m
  | none => .next (passTime r)

/-- A machine in which the instruction with the given bits stands where the one thread fetches its next instruction, and in
which nothing else can happen (log entry 6). -/
def State.withFetchWord (s : State) (nbits w : Nat) : State := codeState s (toBytes 16 (w % 2 ^ nbits))

end Sys2Proof.Machine
end

