-- ==== Sys2Proof/Safety.lean ====
section
/-! DEFINITION. The terms in which statements speak: when an instruction goes on to its own description, what it then leaves,
and what an invariant of the machine is. -/

namespace Sys2Proof.Machine

/-- The thread `th` holds the issue port, and its instruction with fields `f` goes on to its own description: its task is not
cancelled, none of its mailbox entries holds it, the checks of R52 pass, and the mailboxes that it reads hold entries. -/
def Issues (form : Option Form) (hOk yOk : Bool) (f : Fields) (s : State) (th : Thread) : Prop :=
  s.thr? s.cur.1 s.cur.2 = some th ∧ cancelled s s.cur.2 th = false ∧ mbHeld s s.cur.1 s.cur.2 = false ∧
    precheck form hOk yOk s.cur.1 s.cur.2 th f = none ∧
    headsReady (s.core s.cur.1) th (mboxesOf (form.getD {}) f) = true

/-- The instruction in hand of that thread. -/
def hand (form : Option Form) (f : Fields) (s : State) (th : Thread) : Env :=
  issueEnv (form.getD {}) f s s.cur.1 s.cur.2 th

/-- The state in which the instruction has made its effect `s'` and retires (R71, R91). -/
def retired (s : State) (th : Thread) (f : Fields) (s' : State) : State := conclude s s.cur.1 s.cur.2 th 0 f (.ok s')

/-- No condition of an instruction's own. -/
def anyEnv : Env → Prop := fun _ => True

/-- The instruction in hand acts: its lane 0 is active (R98). -/
def Env.on (e : Env) : Prop := e.act 0 = true

/-- Instruction `i` completes with the effect `g` in every state in which it issues and its own conditions `p` hold. -/
def Ends (form : Option Form) (hOk yOk : Bool) (f : Fields) (i : Instr) (p : Env → Prop) (g : Env → State) : Prop :=
  ∀ s th, Issues form hOk yOk f s th → p (hand form f s th) →
    exec i s = .next (retired s th f (g (hand form f s th)))

/-- The same for an instruction whose own checks `chk` give something that its effect needs. -/
def EndsBy {α : Type} (form : Option Form) (hOk yOk : Bool) (f : Fields) (i : Instr) (p : Env → Prop)
    (chk : Env → Except Stop α) (g : Env → α → State) : Prop :=
  ∀ s th a, Issues form hOk yOk f s th → p (hand form f s th) → chk (hand form f s th) = .ok a →
    exec i s = .next (retired s th f (g (hand form f s th) a))

/-- Instruction `i` waits: its marks are applied and it retires when the wait ends. -/
def Waits (form : Option Form) (hOk yOk : Bool) (f : Fields) (i : Instr) (p : Env → Prop) (w : Env → Waiting) : Prop :=
  ∀ s th, Issues form hOk yOk f s th → p (hand form f s th) →
    exec i s = .next ((grant s s.cur.1 s.cur.2 th (crossings (form.getD {}) f)).modThr s.cur.1 s.cur.2 fun t =>
      { t with status := .waiting (w (hand form f s th)) })

/-- Instruction `i` begins and retires later: what its checks `chk` give has its first effect `g`, and the thread is blocked. -/
def StartsBy {α : Type} (form : Option Form) (hOk yOk : Bool) (f : Fields) (i : Instr) (p : Env → Prop)
    (chk : Env → Except Stop α) (g : Env → α → State) : Prop :=
  ∀ s th a, Issues form hOk yOk f s th → p (hand form f s th) → chk (hand form f s th) = .ok a →
    exec i s = .next (holdAt (g (hand form f s th) a) s.cur.1 s.cur.2
      (((g (hand form f s th) a).thr? s.cur.1 s.cur.2).getD th) .blocked)

/-- Instruction `i` takes a precise trap. -/
def Traps (form : Option Form) (hOk yOk : Bool) (f : Fields) (i : Instr) (p : Env → Prop) (x : Env → TrapInfo) : Prop :=
  ∀ s th, Issues form hOk yOk f s th → p (hand form f s th) →
    exec i s = .next (takeTrap (grant s s.cur.1 s.cur.2 th (crossings (form.getD {}) f)) s.cur.1 s.cur.2 (x (hand form f s th)))

/-- The patterns that an instruction writes to D at once, and those of a class L result, lane by lane. -/
def Env.putI (e : Env) (v : Nat → Nat) : State := e.doneI (e.dlanes.map fun l => (l, v l)) 0
def Env.putL (e : Env) (v : Nat → Nat) : State := e.doneL (e.dlanes.map fun l => (l, v l)) 0

/-- The result of a thread effect, a scalar pattern still to land. -/
def Env.putW (e : Env) (s : State) (v : Nat) : State := (e.upd s).doneL [(0, fitRaw e.od.w v)] 0

/-- A status that `swin` writes to D at once, whatever became of the window (R89). -/
def Env.status (e : Env) (v : Nat) (s : State) : State :=
  s.modThr e.eid e.slot fun t => t.write e.od fun l => if l = 0 then some (fitRaw e.od.w v) else none

/-- The thread continues at an LM offset (R106). -/
def Env.jump (e : Env) (t : Int) (s : State) : State :=
  s.modThr e.eid e.slot fun th => { th with pc := BitVec.ofNat 20 t.toNat }

/-- No `pop` of the thread is still to make its acquire (R241, R244). -/
def Env.noPops (e : Env) : Prop := popHeld e.s0 e.eid e.slot e.s0.nextId = false

/-- The state with a matrix command at the end of the core's queue and its range locks (R155, R160). -/
def Env.queued (e : Env) (m : MxCmd) (spans : List (Bool × Int × Int)) : State :=
  e.s.fresh.2.modCore e.eid fun c =>
    { c with
      mxq := c.mxq ++ [{ m with id := e.s.nextId, task := e.t.task, thread := e.slot }]
      rlocks := c.rlocks ++ spans.map fun x => lockOf e.s.nextId e.eid x.1 x.2 }

/-- A matrix command may enter the queue (R155, R160, R240, R244). -/
def Env.mxRoom (e : Env) (spans : List (Bool × Int × Int)) : Prop :=
  (∀ x ∈ spans, spanOk x.1 x.2 = true) ∧ e.t.joins = [] ∧ e.noPops ∧ e.c.rlocks.length + spans.length ≤ 32 ∧ e.c.mxq.length < 8

/-- What the release of an atomic with `.rel` joins, on a state; one without it joins nothing (R227, R240). -/
def Env.atomicRelease (e : Env) (s : State) : Except Stop (State × List Nat) :=
  if bit e.f.md 4 then release e s 15 e.scope else .ok (s, [])

/-- The state with the atomics of an instruction on their way into one pending result, after what its release joins (R227). -/
def Env.atomic (e : Env) (tg : Target) (dw : Nat) (op : Nat → AccOp) (gs : List Got) (live : Bool) (r : State × List Nat) : State :=
  let s := holdJoin e r.1 e.scope 0 r.2
  let u := s.fresh.2.modThr e.eid e.slot fun t => t.addPend { id := s.nextId, target := tg, need := gs.length } live
  laneAtomics e s.nextId u.nextId dw op r.2 gs u.fresh.2

/-- The result that an `.acq` atomic waits for: the one that it will number. -/
def Env.atomicId (e : Env) (r : State × List Nat) : Nat := (holdJoin e r.1 e.scope 0 r.2).nextId

/-- The thread goes on with its instruction at a later issue, when the phase allows it. -/
def Env.begun (e : Env) (ph : Phase) (s : State) : State := s.modThr e.eid e.slot fun t => { t with phase := some ph }

/-- The state with a request on its way after a release, its result still to come (R240, R243). -/
def Env.asked (e : Env) (dst cls : Nat) (body : Body) (r : State × List Nat) : State :=
  match (e.upd r.1).pendL e.od.target 1 with
  | (p, s) => e.send s dst cls r.2 p body

/-- The state with a message on its way, `need` answers of which complete its result (R324, R325). -/
def Env.told (e : Env) (dst need : Nat) (tg : Target) (body : Body) (r : State × List Nat) : State :=
  match (e.upd r.1).pendL tg need with
  | (p, s) => e.send s dst 1 r.2 p body

/-- A result word for D, still to land, in a state. -/
def Env.answers (e : Env) (s : State) (st v : Nat) : State := (e.upd s).doneL [(0, fitRaw e.od.w (resWord st v))] 0

/-- An operand names a record of a device that is there (R304). -/
def Env.handleOk (e : Env) (v : Nat) : Prop := v < 15 * 2 ^ 28 ∧ e.s0.hasDev (State.hDev v) = true

/-- An instruction's own description ends without a trap. -/
def Calm : Except Stop State → Prop
  | .error (.trap _) | .error (.fail _ _) => False
  | _ => True

/-- Whether an opcode, with a value of MOD, is illegal in a handler slot (R89, R94, R154, R304, R322, R354, R372, R397). -/
def barredInHandler (opc md : Nat) : Bool :=
  [0x013, 0x061, 0x062, 0x063, 0x064, 0x246, 0x247, 0x248, 0x323, 0x333, 0x335, 0x364, 0x365, 0x366, 0x36A, 0x3A1].contains opc ||
    decide (0x200 ≤ opc ∧ opc ≤ 0x208) || (opc != 0x3D3 && decide (0x3D0 ≤ opc ∧ opc ≤ 0x3D6)) ||
    decide (0x3F1 ≤ opc ∧ opc ≤ 0x3F6) || ([0x06A, 0x245, 0x3A4].contains opc && md == 1)

/-- Whether an opcode is legal on a yard core (R361), `redr` among them as R372 has it (log entry 120). -/
def legalInYard (opc : Nat) : Bool :=
  (decide (opc < 0x200) && !(List.contains [0x060, 0x063, 0x064] opc)) || [0x240, 0x241, 0x3D3].contains opc

/-- An LM offset at which an instruction may stand (R105). -/
def InCode (t : Int) : Prop := 0 ≤ t ∧ t ≤ 0x7FFF8 ∧ t % 8 = 0

/-- The encoded words `w`, `e` (the extension word 0 where none stands) decode to `i`. -/
def Reads (w e : Nat) (i : Instr) : Prop :=
  (decode (toBytes 8 w ++ toBytes 8 e)).toOption = some (i, if w % 2 = 1 then 16 else 8)

/-- Slice `n` of a file lies in an operand that spans `sp` of its widths. -/
def Opnd.hits (o : Opnd) (isVec : Bool) (sp n : Nat) : Prop :=
  match o with
  | .vec st w => isVec = true ∧ st ≤ n ∧ n < st + w * sp
  | .scal st w => isVec = false ∧ st ≤ n ∧ n < st + w * sp
  | _ => False

/-- Slice `n` of a file lies in the destination of an instruction or in an operand that it marks as read for the last time. -/
def touched (fm : Form) (f : Fields) (isVec : Bool) (n : Nat) : Prop :=
  Opnd.hits (Opnd.ofField f.d) isVec fm.dspan n ∨
    (f.lra = true ∧ Opnd.hits (Opnd.ofField f.a) isVec fm.aspan n) ∨
    (f.lrb = true ∧ Opnd.hits (Opnd.ofField f.b) isVec fm.bspan n) ∨
    (f.lrc = true ∧ Opnd.hits (Opnd.ofField f.c) isVec fm.cspan n)

/-- What an instruction of the thread `th` that writes only D leaves of it, where `p` tells the slices that it may change: every other
slice with its liveness, the predicates, and every special register but FPSR and the generators. -/
def KeepsThread (p : Bool → Nat → Prop) (th u : Thread) : Prop :=
  (∀ n, ¬ p true n →
    (∀ l < 32, slices (u.lane l) n 1 = slices (th.lane l) n 1) ∧ u.vlive.getLsbD n = th.vlive.getLsbD n) ∧
  (∀ n, ¬ p false n →
    slices u.scal.toNat n 1 = slices th.scal.toNat n 1 ∧ u.slive.getLsbD n = th.slive.getLsbD n) ∧
  u.preds = th.preds ∧ u.task = th.task ∧ u.targ = th.targ ∧ u.swinv = th.swinv ∧ u.units = th.units ∧
  u.trapCnt = th.trapCnt ∧ u.lastTrap = th.lastTrap ∧ u.drainReq = th.drainReq ∧ u.hslot = th.hslot ∧ u.joins = th.joins

/-- A core without its threads and its issue port. -/
def Core.rest (c : Core) : Core := { c with threads := [], ptr := 0, busy := 0 }

/-- An instance without its quiet window (R302). -/
def Inst.rest (i : Inst) : Inst := { i with since := 0, told := false }

/-- What such an instruction leaves of the rest of the machine: every byte of memory, every other core, every other thread of its core,
the core's other parts but for the issue port, and all else but for the quiet window of the instance and the count that numbers
results. -/
def KeepsRest (eid slot : Nat) (s t : State) : Prop :=
  (∀ k, t.byte k = s.byte k) ∧ t = { s with cores := t.cores, insts := t.insts, nextId := t.nextId } ∧
  (∀ n, n ≠ eid → t.core n = s.core n) ∧ (∀ k, k ≠ slot → t.thr? eid k = s.thr? eid k) ∧
  (t.core eid).rest = (s.core eid).rest ∧
  t.insts.map (fun x => (x.1, x.2.rest)) = s.insts.map fun x => (x.1, x.2.rest)

/-- A predicate on states that holds after every step if it holds before. -/
def Invariant (inv : State → Prop) : Prop := ∀ s s', inv s → step s = .next s' → inv s'

/-- Memory is in its canonical form. -/
def MemOk (s : State) : Prop := Memory.wf s.mem = true

end Sys2Proof.Machine
end

