-- ==== Sys2Proof/Certificates/Slice0/Obligations.lean ====
section
/-! DEFINITION. The statements for the provers.  `Ends`, `Waits` and `Traps` of `Safety.lean` say what an instruction does in every
state in which it issues. -/

open Sys2Proof Sys2Proof.Machine

/-! ## Slices -/

/-- R82 to R86, the slice group without the window instructions: `mov`, `movi`, `movhi`, `sext`, `zext`, `pack`, `xtr`, `ins` and
`bcast` complete, and each active lane of D receives the pattern that the rule gives, reduced to D's width; the cross-lane
`lane`, `shfl` and `shfli` read A of the lane that the rule names and complete with a class L result; and, bit by bit, `ins`
takes its field from A and keeps the other bits of D, and `bcast` repeats A's pattern. -/
def Obligations.SliceInstructionsWriteD : Prop :=
  ((∀ f : Fields,
      Ends (formMov f) true true f (.mov f) anyEnv (fun e => e.putI fun l => fitRaw e.od.w
        (match Ty.ofCode f.etype.toNat with
         | none | some .raw => e.a l
         | some t => fitInt f.sat t.sgn t.width e.od.w (srcInt t.sgn t.width e.oa.w (e.a l)))) ∧
      Ends (formMovi f) true true f (.movi f) anyEnv (fun e => e.putI fun _ => fitRaw e.od.w
        (if f.md = 0 then pat 64 f.imm.toInt else if f.md = 1 then f.imm.toNat else pat 64 (simm14 f.b))) ∧
      Ends (formMovhi f) true true f (.movhi f) anyEnv (fun e => e.putI fun l => fitRaw e.od.w
        (e.d l % 2 ^ 32 + f.imm.toNat * 2 ^ 32)) ∧
      Ends (formExt f) true true f (.sext f) anyEnv (fun e => e.putI fun l => fitRaw e.od.w
        (pat 64 (signed (if f.md = 0 then 4 * e.oa.w else (simm14 f.b).toNat) (e.a l)))) ∧
      Ends (formExt f) true true f (.zext f) anyEnv (fun e => e.putI fun l => fitRaw e.od.w
        (e.a l % 2 ^ (if f.md = 0 then 4 * e.oa.w else (simm14 f.b).toNat))) ∧
      Ends (formPack f) true true f (.pack f) anyEnv (fun e => e.putI fun l => fitRaw e.od.w
        (e.a l + e.b l * 2 ^ (4 * e.oa.w) + (if f.md = 1 then e.c_ l * 2 ^ (4 * (e.oa.w + e.ob.w)) else 0))) ∧
      Ends (formField f) true true f (.xtr f) anyEnv (fun e => e.putI fun l => fitRaw e.od.w
        (let pos := if f.md = 0 then e.b l else (simm14 f.b).toNat
         if 4 * e.oa.w ≤ pos then 0 else e.a l / 2 ^ pos)) ∧
      Ends (formIns f) true true f (.ins f) anyEnv (fun e => e.putI fun l => fitRaw e.od.w (insVal e l)) ∧
      Ends (formBcast f) true true f (.bcast f) anyEnv (fun e => e.putI fun l => fitRaw e.od.w
        (repeatBits (4 * e.oa.w) (e.a l) 16))) ∧
    (∀ f : Fields,
      Ends (formLane f) true true f (.lane f) anyEnv (fun e => e.putL fun _ => fitRaw e.od.w
        (e.a (if f.md = 0 then e.b 0 % 32 else (simm14 f.b).toNat))) ∧
      Ends (formShfl f) true true f (.shfl f) anyEnv (fun e => e.putL fun l => fitRaw e.od.w
        (let b := if f.md < 4 then e.b l else (simm14 f.b).toNat
         e.a (if f.md % 4 = 0 then b % 32
              else if f.md % 4 = 1 then l ^^^ b % 32
              else if f.md % 4 = 2 then (if b ≤ l then l - b else l)
              else (if l + b ≤ 31 then l + b else l)))) ∧
      Ends (formShfli f) true true f (.shfli f) anyEnv (fun e => e.putL fun l => fitRaw e.od.w
        (e.a (8 * (l / 8) + f.imm.toNat / 2 ^ (3 * (l % 8)) % 8))))) ∧
  ((∀ (e : Env) (l j : Nat), j < 4 * e.od.w → bit (insVal e l) j =
      (let pos := if e.f.md = 0 then e.b l else (simm14 e.f.b).toNat
       if pos ≤ j ∧ j < min (pos + 4 * e.oa.w) (4 * e.od.w) then bit (e.a l) (j - pos) else bit (e.d l) j)) ∧
    (∀ n v k j : Nat, 0 < n → v < 2 ^ n → j < n * k → bit (repeatBits n v k) j = bit v (j % n)))

/-- R88 to R90: `dead` kills the slices of its operands, `swin` changes the window or says why not (statuses 0, 1 and 2), with its
request for units noted on the core (R64), and `sclr` clears D in the active lanes or, once the run's results have landed, whole
windows. The model's own choices that show in it: log entry 39. -/
def Obligations.WindowInstructions : Prop := ∀ f : Fields,
  Ends (formDead f) true true f (.dead f) anyEnv (fun e => e.modT fun t =>
    let t := t.kill e.oa 1
    let t := if 1 ≤ f.md then t.kill e.ob 1 else t
    if 2 ≤ f.md then t.kill e.oc 1 else t) ∧
  (∀ n : Nat,
    let asked (e : Env) : State := unitsAsked e.s e.eid rankSwin
    Ends (formSwin f) false true f (.swin f)
      (fun e => e.on ∧ e.t.allLanded = true ∧ n = (if f.md = 0 then e.a0 else (simm14 f.b).toNat) ∧
        (n % 64 ≠ 0 ∨ n < 64 ∨ 512 < n)) (fun e => e.status 2 e.s) ∧
    Ends (formSwin f) false true f (.swin f)
      (fun e => e.on ∧ e.t.allLanded = true ∧ n = (if f.md = 0 then e.a0 else (simm14 f.b).toNat) ∧
        n % 64 = 0 ∧ 64 ≤ n ∧ n ≤ 512 ∧ n / 64 ≤ e.t.units.length)
      (fun e => e.status 0 ((asked e).modThr e.eid e.slot fun t => t.resize n (e.t.units.take (n / 64)))) ∧
    Ends (formSwin f) false true f (.swin f)
      (fun e => e.on ∧ e.t.allLanded = true ∧ n = (if f.md = 0 then e.a0 else (simm14 f.b).toNat) ∧
        n % 64 = 0 ∧ 64 ≤ n ∧ n ≤ 512 ∧ e.t.units.length < n / 64 ∧
        (freeUnits (e.s.core e.eid)).length < n / 64 - e.t.units.length) (fun e => e.status 1 (asked e)) ∧
    Ends (formSwin f) false true f (.swin f)
      (fun e => e.on ∧ e.t.allLanded = true ∧ n = (if f.md = 0 then e.a0 else (simm14 f.b).toNat) ∧
        n % 64 = 0 ∧ 64 ≤ n ∧ n ≤ 512 ∧ e.t.units.length < n / 64 ∧
        n / 64 - e.t.units.length ≤ (freeUnits (e.s.core e.eid)).length)
      (fun e => e.status 0 ((asked e).modThr e.eid e.slot fun t =>
        t.resize n (e.t.units ++ (freeUnits (e.s.core e.eid)).take (n / 64 - e.t.units.length))))) ∧
  Ends (formSclr f) true true f (.sclr f) (fun _ => f.md = 0) (fun e => e.putI fun _ => 0) ∧
  Ends (formSclr f) true true f (.sclr f) (fun e => f.md ≠ 0 ∧ e.t.allLanded = true) (fun e => e.modT fun t =>
    let t := if f.md ≠ 2 then t.clearVec else t
    if f.md ≠ 1 then t.clearScal else t)

/-! ## Control and special registers -/

/-- R105 and R106: the transfers go to their target when it lies in LM and is a multiple of 8, and `call`, `calla` and `loop` write
D; otherwise the illegal-operand trap is taken. -/
def Obligations.TransfersGoToTheirTarget : Prop := ∀ (f : Fields) (t : Int),
  let off (e : Env) : Prop := t = (e.pc : Int) + (if f.md = 0 then 8 * simm14 f.b else f.imm.toInt)
  let link (e : Env) : State := e.doneI [(0, fitRaw e.od.w (e.pc + e.len))] 0
  let left (e : Env) : Nat := pat (4 * e.od.w) ((e.d 0 : Int) - 1)
  (InCode t →
    Ends (formBr f) true true f (.br f) (fun e => e.on ∧ off e) (fun e => e.jump t e.s) ∧
    Ends (formBra f) true true f (.bra f) (fun e => e.on ∧ t = e.a0) (fun e => e.jump t e.s) ∧
    Ends (formBra f) true true f (.ret f) (fun e => e.on ∧ t = e.a0) (fun e => e.jump t e.s) ∧
    Ends (formCall f) true true f (.call f) (fun e => e.on ∧ off e) (fun e => e.jump t (link e)) ∧
    Ends (formCalla f) true true f (.calla f) (fun e => e.on ∧ t = e.a0) (fun e => e.jump t (link e)) ∧
    Ends (formLoop f) true true f (.loop f) (fun e => e.on ∧ left e ≠ 0 ∧ off e)
      (fun e => e.jump t (e.doneI [(0, left e)] 0)) ∧
    Ends (formBanyall f) true true f (.bany f) (fun e => predA e ≠ 0 ∧ off e) (fun e => e.jump t e.s) ∧
    Ends (formBanyall f) true true f (.ball f) (fun e => predA e = 0xFFFFFFFF ∧ off e) (fun e => e.jump t e.s)) ∧
  (¬ InCode t →
    Traps (formBr f) true true f (.br f) (fun e => e.on ∧ off e) (fun e => e.info 2) ∧
    Traps (formBra f) true true f (.bra f) (fun e => e.on ∧ t = e.a0) (fun e => e.info 2) ∧
    Traps (formBra f) true true f (.ret f) (fun e => e.on ∧ t = e.a0) (fun e => e.info 2) ∧
    Traps (formCall f) true true f (.call f) (fun e => e.on ∧ off e) (fun e => e.info 2) ∧
    Traps (formCalla f) true true f (.calla f) (fun e => e.on ∧ t = e.a0) (fun e => e.info 2) ∧
    Traps (formLoop f) true true f (.loop f) (fun e => e.on ∧ left e ≠ 0 ∧ off e) (fun e => e.info 2) ∧
    Traps (formBanyall f) true true f (.bany f) (fun e => predA e ≠ 0 ∧ off e) (fun e => e.info 2) ∧
    Traps (formBanyall f) true true f (.ball f) (fun e => predA e = 0xFFFFFFFF ∧ off e) (fun e => e.info 2)) ∧
  Ends (formLoop f) true true f (.loop f) (fun e => e.on ∧ left e = 0) (fun e => e.doneI [(0, 0)] 0) ∧
  Ends (formBanyall f) true true f (.bany f) (fun e => predA e = 0) (fun e => e.s) ∧
  Ends (formBanyall f) true true f (.ball f) (fun e => predA e ≠ 0xFFFFFFFF) (fun e => e.s)

/-- R107 with R99: the predicate instructions write the bits of pd in the active lanes, and `pmov.v` and `pcnt` write D. -/
def Obligations.PredicateInstructions : Prop := ∀ f : Fields,
  let w (e : Env) (v : Nat → Bool) : State :=
    e.modT fun t => t.setPred f.d.toNat fun l => if e.act l then some (v l) else none
  let pa (e : Env) (l : Nat) : Bool := (e.t.pred f.a.toNat).getLsbD l
  let pb (e : Env) (l : Nat) : Bool := (e.t.pred f.b.toNat).getLsbD l
  Ends (formPlog f) true true f (.pand f) anyEnv (fun e => w e fun l => pa e l && pb e l) ∧
  Ends (formPlog f) true true f (.por f) anyEnv (fun e => w e fun l => pa e l || pb e l) ∧
  Ends (formPlog f) true true f (.pxor f) anyEnv (fun e => w e fun l => pa e l != pb e l) ∧
  Ends (formPnot f) true true f (.pnot f) anyEnv (fun e => w e fun l => !pa e l) ∧
  Ends (formPmov f) true true f (.pmov f) (fun _ => f.md = 0) (fun e => w e fun l => pa e l) ∧
  Ends (formPmov f) true true f (.pmov f) (fun _ => f.md = 1) (fun e => w e fun l => bit e.a0 l) ∧
  Ends (formPmov f) true true f (.pmov f) (fun _ => f.md = 2)
    (fun e => e.doneI [(0, fitRaw e.od.w (e.t.pred f.a.toNat).toNat)] 0) ∧
  Ends (formPmov f) true true f (.pmov f) (fun _ => f.md = 3) (fun e => w e fun _ => true) ∧
  Ends (formPmov f) true true f (.pmov f) (fun _ => f.md = 4) (fun e => w e fun _ => false) ∧
  Ends (formPcnt f) true true f (.pcnt f) anyEnv
    (fun e => e.doneI [(0, fitRaw e.od.w (popcount 32 (e.t.pred f.a.toNat).toNat))] 0)

/-- R99 and R115 to R119: `rdsr` writes the special register that it names to D, `wrsr` writes the four registers that may be
written, and `tick` writes the pod tick.  LIMIT 3 is stored as 2, and a seed of 0 as 1. -/
def Obligations.SpecialRegisterInstructions : Prop := ∀ f : Fields,
  Ends (formRdsr f) true true f (.rdsr f) anyEnv (fun e => e.putI fun l => fitRaw e.od.w
    (match (simm14 f.b).toNat with
     | 0 => e.slot
     | 1 => e.eid
     | 2 => e.t.task.toNat
     | 3 => (e.t.targ.getD 0 0).toNat
     | 4 => (e.t.targ.getD 1 0).toNat
     | 5 => (e.t.targ.getD 2 0).toNat
     | 6 => (e.t.targ.getD 3 0).toNat
     | 7 => e.t.fpsr.toNat
     | 8 => e.t.trapCnt.toNat * 2 ^ 16 + e.t.lastTrap.toNat * 2 ^ 8 + b2n e.t.drainReq * 4 + b2n e.t.hslot * 2 +
         b2n e.t.deadRead
     | 9 => (e.s0.cycle e.eid - e.c.cycle0) % 2 ^ 64
     | 10 => (e.s0.dev e.dev).tick % 2 ^ 64
     | 11 => e.t.swinv
     | 12 => e.c.limit.toNat * 4 + e.c.last.toNat
     | 13 => e.c.rlocks.length
     | 14 => e.c.mxw.toNat
     | _ => (e.t.seed.getD l 1).toNat)) ∧
  Ends (formWrsr f) true true f (.wrsr f) (fun e => e.on ∧ (simm14 f.b).toNat = 7)
    (fun e => e.modT fun t => { t with fpsr := BitVec.ofNat 6 e.a0 }) ∧
  Ends (formWrsr f) true true f (.wrsr f) (fun e => e.on ∧ (simm14 f.b).toNat = 8)
    (fun e => e.modT fun t => { t with deadRead := bit e.a0 0 }) ∧
  Ends (formWrsr f) true true f (.wrsr f) (fun e => e.on ∧ (simm14 f.b).toNat = 12)
    (fun e => e.s.modCore e.eid fun c =>
      { c with limit := if bits e.a0 3 2 = 3 then 2 else BitVec.ofNat 2 (bits e.a0 3 2) }) ∧
  Ends (formWrsr f) true true f (.wrsr f) (fun _ => (simm14 f.b).toNat = 15)
    (fun e => e.modT fun t =>
      { t with
        seed := (List.range 32).map fun l =>
          if e.act l then (if e.a l % 65536 = 0 then 1 else BitVec.ofNat 16 (e.a l)) else t.seed.getD l 1 }) ∧
  Ends (formTick f) true true f (.tick f) (fun e => e.on)
    (fun e => e.doneI [(0, fitRaw e.od.w ((e.s.dev e.dev).tick % 2 ^ 64))] 0)

/-- R108 to R114 and R386: `nop`, `yield` and `isync` complete, the last with a new start for the fetches of the bytes that it
covers; `exit` and a draining `yield` end the thread once its run and its joins are done and nothing of the run is left to deliver;
and `spawn` sends its request to the target core, unless one of the scalar slices 0 to 63, which it reads, holds an uncorrectable
error (R380). The model's own choices that show in it: log entry 93. -/
def Obligations.ThreadInstructions : Prop := ∀ f : Fields,
  let badScal (e : Env) : Bool := e.t.ecc.any fun k => decide (512 ≤ k) && decide (k < 576)
  Ends (formPlain f) true true f (.nop f) anyEnv (fun e => e.s) ∧
  Ends (formPlain f) false true f (.yield f) (fun e => e.on ∧ (e.t.drainReq = false ∨ hasInPort e = true)) (fun e => e.s) ∧
  Ends (formPlain f) false true f (.yield f)
    (fun e => e.on ∧ e.t.drainReq = true ∧ hasInPort e = false ∧ e.t.allLanded = true ∧ e.t.deferred = [] ∧ e.t.joins = [])
    (fun e => endThread e.s e.eid e.slot true) ∧
  Ends (formPlain f) false true f (.exit f)
    (fun e => e.on ∧ e.t.allLanded = true ∧ e.t.deferred = [] ∧ e.t.joins = [] ∧ exitFault e = none)
    (fun e => endThread e.s e.eid e.slot (match e.s.binding? e.eid e.t.task.toNat with | some b => b.sawDrain | none => false)) ∧
  Traps (formPlain f) false true f (.exit f)
    (fun e => e.on ∧ e.t.allLanded = true ∧ (exitFault e).isSome) (fun e => (exitFault e).getD (e.info 12)) ∧
  Ends (formIsync f) true true f (.isync f) (fun e => e.on ∧ (f.md = 0 → e.b0 = 0 ∨ e.a0 + e.b0 ≤ 0x80000))
    (fun e =>
      let b := if f.md = 0 then (e.a0, e.b0) else (0, 0x80000)
      e.modT fun t => { t with
        fetch := [], isyncs := if b.2 = 0 then t.isyncs else t.isyncs ++ [(b.1, b.1 + b.2 - 1, e.s0.steps)] }) ∧
  Traps (formSpawn f) true false f (.spawn f) (fun e => e.on ∧ badScal e = true) (fun e => { e.info 11 with cause := 1 }) ∧
  EndsBy (formSpawn f) true false f (.spawn f)
    (fun e => e.on ∧ badScal e = false ∧ e.t.joins = [] ∧ e.a0 < 2 ^ 22 ∧ InCode e.b0)
    (fun e => sendRelease e e.s false (scopeTo e.eid e.a0))
    (fun e r => match (e.upd r.1).pendL e.od.target 1 with
      | (p, s) => e.send s e.a0 1 r.2 p (.spawn e.b0 e.t.swinv (e.rd 4 (.scal 0 64) 0) e.t.task e.t.targ))

/-- R111 and R112: `wait`, `sleep` and `tick.at` begin to wait, for the events, the cycles or the tick that their operands name; a
`wait` completes at once with the events that hold at its issue; and on a core that is awake a wait ends when what it waits for
holds: `wait` with the events of the first cycle in which one held as its value, bit 15 for its limit; `sleep` when its cycles have
passed; `tick.at` with the tick. The model's own choices that show in it: log entry 70. -/
def Obligations.WaitsBeginAndEnd : Prop :=
  (∀ f : Fields,
    let good (e : Env) : Prop := e.on ∧ e.t.allLanded = true ∧ bits e.a0 63 5 = 0 ∧ (e.a0 ≠ 0 ∨ f.imm.toNat ≠ 0) ∧
      (bit e.a0 4 = true → e.b0 ≤ 0x7FFF8 ∧ e.b0 % 8 = 0 ∧ emptyGran e.s0 [lmKey e.eid e.b0] = none)
    let word (e : Env) : Nat := if bit e.a0 4 then e.b0 else 0
    let hit (e : Env) : Nat := waitHit e.s0 e.eid e.t (e.s0.cycle e.eid) e.a0 (word e) e.c0 f.imm.toNat
    Ends (formWait f) false false f (.wait f) (fun e => good e ∧ hit e ≠ 0) (fun e => e.putW e.s (hit e)) ∧
    Waits (formWait f) false false f (.wait f) (fun e => good e ∧ hit e = 0)
      (fun e => { what := .event e.a0 (word e) e.c0 f.imm.toNat, f := f, issued := e.s0.cycle e.eid, depth := 1 }) ∧
    Waits (formSleep f) false false f (.sleep f) (fun e => e.on ∧ e.t.allLanded = true)
      (fun e => { what := .sleep (e.s.cycle e.eid + e.a0), f := f, issued := e.s.cycle e.eid, depth := if f.md = 1 then 2 else 1 }) ∧
    Waits (formTickAt f) false true f (.tickAt f) (fun e => e.on)
      (fun e => { what := .tick e.a0, f := f, issued := e.s.cycle e.eid, depth := 1 })) ∧
  (∀ (s : State) (eid slot : Nat) (t : Thread) (w : Waiting),
    s.who = [eid, slot] → (s.core eid).frozen = false → awake s eid = true → s.thr? eid slot = some t → t.status = .waiting w →
    (∀ m a c l v, w.what = .event m a c l → v ≠ 0 → v = (if w.hit ≠ 0 then w.hit else waitHit s eid t w.issued m a c l) →
      exec .waitWake s = .next (endWait s eid slot w (some v)) ∧
      (bit v 15 = true → exec .waitTimeout s = .next (endWait s eid slot w (some v)))) ∧
    (∀ u, w.what = .sleep u → (t.drainReq = true ∨ u ≤ s.cycle eid) →
      exec .sleepExpiry s = .next (endWait s eid slot w none)) ∧
    (∀ n, w.what = .tick n → (t.drainReq = true ∨ n ≤ s.tickOf eid) →
      exec .tickAtWake s = .next (endWait s eid slot w (some (s.tickOf eid % 2 ^ 64)))))

/-- R71, R101, R102, R108, R113, R177 and R321: a result that may land lands; a fetch block is one read of LM, as it stands or has
stood since the thread's fetches of it count, with its uncorrectable error if it has one, and where the core has no allotment it traps
with 0x06 if the thread needs it for its next instruction and is left out if not; a core all of whose threads wait goes to sleep and
wakes 4 or 60 cycles after the event; a handler's watchdog traps with 0x09; and a spawn that finds a free slot and units in its turn
creates its thread with status 0. The model's own choices that show in it: log entries 13 and 39. -/
def Obligations.ThreadEvents : Prop :=
  (∀ (s : State) (eid slot id : Nat), s.who = [eid, slot, id] → mayLand s eid slot id = true →
    exec .classLResultWrite s = .next (resultLands s eid slot id)) ∧
  (∀ (s : State) (eid slot b : Nat) (t : Thread), s.who = [eid, slot] → s.thr? eid slot = some t → (s.core eid).frozen = false →
    t.wantsBlock = some b →
    let err := ((List.range 32).map (lmKey eid b + ·)).any s.bad.contains
    ((s.core eid).lmOk b 32 = true → t.status = .fetching → emptyGran s ((List.range 32).map (lmKey eid b + ·)) = none →
      ∃ bs, ((∃ x ∈ s.past, x.1 = lmKey eid b ∧ t.fetchFrom b < x.2.1 ∧ bs = x.2.2) ∨
          bs = ((List.range 32).map (lmKey eid b + ·)).map s.byte) ∧
        exec .fetchBlockRead s = .next (if (t.fetched b bs err).hasWords then enterReady s eid slot (t.fetched b bs err)
          else s.setThr eid slot (t.fetched b bs err))) ∧
    ((s.core eid).lmOk b 32 = false →
      (t.needsBlock b = true → exec .fetchBlockRead s = .next (takeTrap s eid slot
        { code := 6, ipc := t.pc.toNat, rpc := t.pc.toNat, va := windowVa eid b })) ∧
      (t.needsBlock b = false → exec .fetchBlockRead s = .next s))) ∧
  (∀ (s : State) (eid d : Nat), s.who = [eid] → sleepsTo s eid = some d →
    exec .coreSleepEntry s = .next (s.modCore eid fun c => { c with depth := d, last := BitVec.ofNat 2 d, woke := none })) ∧
  (∀ (s : State) (eid n : Nat), s.who = [eid] → (s.core eid).depth ≠ 0 →
    ((s.core eid).woke = some n ∨ ((s.core eid).woke = none ∧ wakeEvent s eid = some n)) →
    exec .coreWake s = .next (s.setCore eid { s.core eid with
      depth := 0, woke := none, wakeAt := n + (if (s.core eid).depth = 2 then 60 else 4) })) ∧
  (∀ (s : State) (eid slot : Nat) (t : Thread), s.who = [eid, slot] → s.thr? eid slot = some t → 16 ≤ slot → 4096 ≤ t.issued →
    t.status = .ready → exec .handlerWatchdog s = .next (takeTrap s eid slot
      { code := 9, ipc := t.pc.toNat, rpc := t.pc.toNat, word := t.word })) ∧
  (∀ (s : State) (p : Packet) (off swinv scal slot : Nat) (task : BitVec 32) (targ : List (BitVec 64)), readyPkt? s = some p →
    p.body = .spawn off swinv scal task targ → s.hasCore p.dst = true → (s.core p.dst).ctx = some p.asid →
    unitsTurn s p.dst (rankSpawn p.src) = true →
    freeSlot (s.core p.dst) = some slot → swinv / 64 ≤ (freeUnits (s.core p.dst)).length →
    let u := unitsAsked s p.dst (rankSpawn p.src)
    exec .spawnArrival s = .next (answerWord (startThread (acquire u p.dst slot (max 2 (scopeTo p.src p.dst))) p.dst slot
      (newThread off swinv ((freeUnits (s.core p.dst)).take (swinv / 64)) scal task targ)) p 0))

/-! ## Integers and pointers -/

/-- R125: the exact results of the integer arithmetic, element by element, reduced to the type and to D; and, on the N-bit patterns
of the elements, the logic instructions and the counts and the reversal of bits. -/
def Obligations.IntegerArithmeticAndLogic : Prop :=
  (∀ f : Fields,
    let ends (form : Option Form) (i : Instr) (r : Env → Nat → Nat → Int) : Prop :=
      Ends form true true f i anyEnv (fun e => e.putI fun l => e.fitElems (r e l))
    ends (formArith f) (.add f) (fun e l j => e.elemA l j + e.elemB l j) ∧
    ends (formArith f) (.sub f) (fun e l j => e.elemA l j - e.elemB l j) ∧
    ends (formArith f) (.mul f) (fun e l j => e.elemA l j * e.elemB l j) ∧
    ends (formMulh f) (.mulh f) (fun e l j => e.elemA l j * e.elemB l j / (2 : Int) ^ e.ibits) ∧
    ends (formMad f) (.mad f) (fun e l j => e.elemA l j * e.elemB l j + e.elemC l j) ∧
    ends (formArith f) (.min f) (fun e l j => if e.elemA l j ≤ e.elemB l j then e.elemA l j else e.elemB l j) ∧
    ends (formArith f) (.max f) (fun e l j => if e.elemA l j ≤ e.elemB l j then e.elemB l j else e.elemA l j) ∧
    ends (formUnary f) (.abs f) (fun e l j => if e.elemA l j < 0 then -e.elemA l j else e.elemA l j) ∧
    ends (formUnary f) (.neg f) (fun e l j => -e.elemA l j)) ∧
  (∀ f : Fields,
    let ends (form : Option Form) (i : Instr) (r : Nat → Nat → Nat → Nat) : Prop :=
      Ends form true true f i anyEnv (fun e => e.putI fun l => e.fitElems fun j =>
        (r e.ibits (pat e.ibits (e.elemA l j)) (pat e.ibits (e.elemB l j)) : Nat))
    ends (formLogic f) (.and f) (fun _ a b => a &&& b) ∧
    ends (formLogic f) (.or f) (fun _ a b => a ||| b) ∧
    ends (formLogic f) (.xor f) (fun _ a b => a ^^^ b) ∧
    ends (formLogic f) (.andn f) (fun n a b => a &&& (b ^^^ (2 ^ n - 1))) ∧
    ends (formBitUn f) (.not f) (fun n a _ => a ^^^ (2 ^ n - 1)) ∧
    ends (formBitUn f) (.popc f) (fun n a _ => ((List.range n).map fun i => b2n (bit a i)).sum) ∧
    ends (formBitUn f) (.clz f) (fun n a _ => if a = 0 then n else n - 1 - Nat.log2 a) ∧
    ends (formBitUn f) (.brev f) (fun n a _ => ((List.range n).map fun i => b2n (bit a i) * 2 ^ (n - 1 - i)).sum))

/-- R126: the shifts take the count c, the low N bits of b's pattern read unsigned.  `shl` gives the pattern of a moved up by c
bits, or 0 when c ≥ N; `shr` fills with zeros, `sar` with bit N − 1, and `rot` rotates toward the high end by c mod N bits. -/
def Obligations.ShiftsOfIntegers : Prop := ∀ f : Fields,
  let ends (i : Instr) (r : Nat → Nat → Nat → Nat) : Prop :=
    Ends (formLogic f) true true f i anyEnv (fun e => e.putI fun l => e.fitElems fun j =>
      (r e.ibits (pat e.ibits (e.elemA l j)) (pat e.ibits (e.elemB l j)) : Nat))
  ends (.shl f) (fun n a c => if n ≤ c then 0 else a * 2 ^ c % 2 ^ n) ∧
  ends (.shr f) (fun n a c => if n ≤ c then 0 else a / 2 ^ c) ∧
  ends (.sar f) (fun n a c => pat n (signed n a / (2 : Int) ^ min c n)) ∧
  ends (.rot f) (fun n a c => a * 2 ^ (c % n) % 2 ^ n + a / 2 ^ (n - c % n))

/-- R127, R128 and R133: `addc` and `subb` write the result and the carry, `sel` and `cmp` choose and compare, `pmk` builds a fat
pointer and `pfmt` reads its fields. -/
def Obligations.CarrySelectionAndPointers : Prop := ∀ f : Fields,
  let pk (e : Env) (l : Nat) : Bool := (e.t.pred f.c.toNat).getLsbD l
  let ua (e : Env) (l : Nat) : Int := (pat e.ibits (e.elemA l 0) : Nat)
  let ub (e : Env) (l : Nat) : Int := (pat e.ibits (e.elemB l 0) : Nat)
  let both (e : Env) (r : Nat → Int) : State :=
    (e.putI fun l => fitInt false e.isgn e.ibits e.od.w (r l)).modThr e.eid e.slot fun t =>
      t.setPred f.c.toNat fun l => if e.act l then
        some (decide (r (if e.od.isVec then l else 0) < 0) || decide ((2 : Int) ^ e.ibits ≤ r (if e.od.isVec then l else 0)))
        else none
  Ends (formCarry f) true true f (.addc f) anyEnv (fun e => both e fun l => ua e l + ub e l + b2n (pk e l)) ∧
  Ends (formCarry f) true true f (.subb f) anyEnv (fun e => both e fun l => ua e l - ub e l - b2n (pk e l)) ∧
  Ends (formSel f) true true f (.sel f) anyEnv
    (fun e => e.putI fun l => e.fitElems fun j => if pk e l then e.elemA l j else e.elemB l j) ∧
  Ends (formCmp f) true true f (.cmp f) anyEnv (fun e => e.modT fun t => t.setPred f.d.toNat fun l =>
    if e.act l then some (match f.op with
      | 0 => decide (e.elemA l 0 = e.elemB l 0)
      | 1 => decide (e.elemA l 0 ≠ e.elemB l 0)
      | 2 => decide (e.elemA l 0 < e.elemB l 0)
      | 3 => decide (e.elemA l 0 ≤ e.elemB l 0)
      | 4 => decide (e.elemA l 0 > e.elemB l 0)
      | _ => decide (e.elemA l 0 ≥ e.elemB l 0)) else none) ∧
  Ends (formPmk f) true true f (.pmk f) anyEnv (fun e => e.putI fun l =>
    f.imm.toNat % 32 * 2 ^ 59 + f.imm.toNat / 32 % 8 * 2 ^ 56 + e.a l % 2 ^ 56) ∧
  Ends (formPfmt f) true true f (.pfmt f) anyEnv (fun e => e.putI fun l => fitRaw e.od.w
    (match f.op with
     | 0 => bits (e.a l) 63 59
     | 1 => bits (e.a l) 58 56
     | 2 => bits (e.a l) 55 0
     | _ => fmtBits (bits (e.a l) 63 59)))

/-- R129 to R132: the class L instructions of the group and the sums of products: quotient and remainder with IDZ for a division by
zero, `ired` and `iscan` over the active lanes, `sad`, `dp4` and `dp8`; `padd` adds the byte offset to the address of every lane's
pointer and keeps bits 63:56, and a reserved format or an address that leaves 56 bits is the format trap 0x07, an odd count of 4-bit
elements the illegal-operand trap 0x02, each at the first lane that has it. The model's own choices that show in it: log entry 8. -/
def Obligations.DivisionSumsAndPointers : Prop :=
  (∀ f : Fields,
    let zero (e : Env) : BitVec 6 :=
      if e.dlanes.any fun l => (List.range e.elems).any fun j => e.elemB l j == 0 then fIDZ else 0
    Ends (formDiv f) true true f (.div f) anyEnv (fun e => e.doneL (e.dlanes.map fun l => (l, e.fitElems fun j =>
      if e.elemB l j = 0 then wrapInt e.isgn e.ibits (2 ^ e.ibits - 1) else (e.elemA l j).tdiv (e.elemB l j))) (zero e)) ∧
    Ends (formLogic f) true true f (.rem f) anyEnv (fun e => e.doneL (e.dlanes.map fun l => (l, e.fitElems fun j =>
      if e.elemB l j = 0 then e.elemA l j else (e.elemA l j).tmod (e.elemB l j))) (zero e)) ∧
    Ends (formIred f) true true f (.ired f) anyEnv (fun e => e.putL fun _ => fitInt f.sat e.isgn e.ibits e.od.w
      (combine f.op e.isgn e.ibits (e.lanes.map fun k => e.elemA k 0))) ∧
    Ends (formIscan f) true true f (.iscan f) anyEnv (fun e => e.putL fun l => fitInt f.sat e.isgn e.ibits e.od.w
      (combine f.op e.isgn e.ibits ((e.lanes.filter fun k =>
        if f.smod == 1 then decide (k < l) else decide (k ≤ l)).map fun k => e.elemA k 0))) ∧
    Ends (formSad f) true true f (.sad f) anyEnv (fun e => e.putI fun l => fitInt f.sat false 32 e.od.w
      (srcInt false 32 e.oc.w (e.c_ l) + sumInt ((List.range (if f.pk = 0 then 1 else e.elems)).map fun j =>
        ((e.elemA l j - e.elemB l j).natAbs : Int)))) ∧
    Ends (formDp f [1, 2]) true true f (.dp4 f) anyEnv (fun e => e.putI fun l => dpVal 8 e l) ∧
    Ends (formDp f [15, 16]) true true f (.dp8 f) anyEnv (fun e => e.putI fun l => dpVal 4 e l)) ∧
  (∀ f : Fields,
    Ends (formPadd f) true true f (.padd f)
      (fun e => ∀ l ∈ e.dlanes, paddBad e l = false ∧ (paddOff e l).isSome)
      (fun e => e.putI fun l => bits (e.a l) 63 56 * 2 ^ 56 + ((bits (e.a l) 55 0 : Int) + (paddOff e l).getD 0).toNat) ∧
    (∀ l : Nat, Traps (formPadd f) true true f (.padd f) (fun e => e.dlanes.find? (paddBad e) = some l)
      (fun e => { e.info 7 with lane := if e.od.isVec then l else 255, va := 0 })) ∧
    (∀ l : Nat, Traps (formPadd f) true true f (.padd f)
      (fun e => e.dlanes.find? (paddBad e) = none ∧ (e.dlanes.find? fun k => (paddOff e k).isNone) = some l)
      (fun e => { e.info 2 with lane := if e.od.isVec then l else 255, va := 0 })))

/-! ## Floats and conversions -/

/-- R135 to R142: the float instructions round each active lane's exact result once, in the format and mode that the word gives,
pack the elements, collect the flags in FPSR and step the generators of an SR rounding. The model's own choices that show in it: log
entry 87. -/
def Obligations.FloatArithmetic : Prop := ∀ f : Fields,
  let ends (slow : Bool) (form : Option Form) (i : Instr) (g : Env → Nat → Nat → Nat → Nat → Nat × Flags) : Prop :=
    Ends form true true f i anyEnv (fun e =>
      let r := e.dlanes.map fun l =>
        (l, e.fpack fun j => g e (e.draw l j) (e.felem (e.a l) j) (e.felem (e.b l) j) (e.felem (e.c_ l) j))
      stepSeeds e (2 ^ f.pk) (e.doneF slow (r.map fun x => (x.1, x.2.1)) (r.foldl (fun fl x => fl ||| x.2.2) 0)))
  ends false (formFarith f) (.fadd f) (fun e u a b _ => deliver e.fmt f.rm f.sat u (fAdd f.rm (e.fv a) (e.fv b))) ∧
  ends false (formFarith f) (.fsub f) (fun e u a b _ => deliver e.fmt f.rm f.sat u (fSub f.rm (e.fv a) (e.fv b))) ∧
  ends false (formFarith f) (.fmul f) (fun e u a b _ => deliver e.fmt f.rm f.sat u (fMul (e.fv a) (e.fv b))) ∧
  ends true (formFarith f) (.fdiv f) (fun e u a b _ => deliver e.fmt f.rm f.sat u (fDiv (e.fv a) (e.fv b))) ∧
  ends false (formFma f) (.fma f) (fun e u a b c => deliver e.fmt f.rm f.sat u (fMa f.rm (e.fv a) (e.fv b) (e.fv c))) ∧
  ends false (formFminmax f) (.fmin f) (fun e _ a b _ => fMinMax e.fmt false a b) ∧
  ends false (formFminmax f) (.fmax f) (fun e _ a b _ => fMinMax e.fmt true a b) ∧
  ends false (formFsign f) (.fabs f) (fun e _ a _ _ =>
    if (floatValue e.fmt a).isNan then (e.fmt.nan, (floatValue e.fmt a).snan) else (a % 2 ^ (e.fmt.w - 1), 0)) ∧
  ends false (formFsign f) (.fneg f) (fun e _ a _ _ =>
    if (floatValue e.fmt a).isNan then (e.fmt.nan, (floatValue e.fmt a).snan) else (a ^^^ 2 ^ (e.fmt.w - 1), 0)) ∧
  ends false (formFclass f) (.fclass f) (fun e _ a _ _ => (classOf e.fmt a, (floatValue e.fmt a).snan)) ∧
  ends false (formFrint f) (.frint f) (fun e u a _ _ => rintOp e.fmt f.rm u a) ∧
  ends true (formFn f) (.frcp f) (fun e u a _ _ => fnElem .rcp e.fmt f.rm f.sat u a) ∧
  ends true (formFn f) (.frsq f) (fun e u a _ _ => fnElem .rsq e.fmt f.rm f.sat u a) ∧
  ends true (formFn f) (.fsqrt f) (fun e u a _ _ => fnElem .sqrt e.fmt f.rm f.sat u a) ∧
  ends true (formFn f) (.fexp2 f) (fun e u a _ _ => fnElem .exp2 e.fmt f.rm f.sat u a) ∧
  ends true (formFn f) (.flog2 f) (fun e u a _ _ => fnElem .log2 e.fmt f.rm f.sat u a) ∧
  ends true (formFn f) (.fsin f) (fun e u a _ _ => fnElem .sin e.fmt f.rm f.sat u a) ∧
  ends true (formFn f) (.fcos f) (fun e u a _ _ => fnElem .cos e.fmt f.rm f.sat u a)

/-- R134, R137, R139 to R142: `fcmp` writes pd in the active lanes (a class L result for FP64 on a D-tile), `fscale`, `fdot2` and
`fsplit` complete with their flags, and `fred` with the result of its tree, a NaN as the canonical one (R11). The model's own
choices that show in it: log entries 11 and 12. -/
def Obligations.FloatComparisonsAndTrees : Prop := ∀ f : Fields,
  let flags (r : List (Nat × Nat × Flags)) : Flags := r.foldl (fun fl x => fl ||| x.2.2) 0
  let vals (r : List (Nat × Nat × Flags)) : List (Nat × Nat) := r.map fun x => (x.1, x.2.1)
  Ends (formFcmp f) true true f (.fcmp f) (fun e => slowType e (floatType f) = false) (fun e =>
    let r := e.lanes.map fun l => (l, fcmpCond f.op (e.fv (e.felem (e.a l) 0)) (e.fv (e.felem (e.b l) 0)))
    e.modT fun t => { t.setPred f.d.toNat (fun l => (Keyed.get? r l).map (·.1)) with
      fpsr := t.fpsr ||| r.foldl (fun fl x => fl ||| x.2.2) 0 }) ∧
  Ends (formFcmp f) true true f (.fcmp f) (fun e => slowType e (floatType f) = true) (fun e =>
    let r := e.lanes.map fun l => (l, fcmpCond f.op (e.fv (e.felem (e.a l) 0)) (e.fv (e.felem (e.b l) 0)))
    e.s.fresh.2.modThr e.eid e.slot fun t => t.addPend
      { id := e.s.fresh.1, target := .pred f.d.toNat, vals := r.map fun x => (x.1, b2n x.2.1)
        flags := r.foldl (fun fl x => fl ||| x.2.2) 0 } true) ∧
  Ends (formFscale f) true true f (.fscale f) anyEnv (fun e =>
    let r := e.dlanes.map fun l => (l, e.fpack fun j => deliver e.fmt f.rm f.sat (e.draw l j)
      (scaleX (e.fv (e.felem (e.a l) 0)) (if f.isI then simm14 f.b else signed (4 * e.ob.w) (e.b l))))
    stepSeeds e 1 (e.doneF false (vals r) (flags r))) ∧
  Ends (formFdot2 f) true true f (.fdot2 f) anyEnv (fun e =>
    let r := e.dlanes.map fun l =>
      (l, dot2 (if f.etype = 4 then Fmt.fp16 else .bf16) f.rm f.sat (e.draw l 0) (e.a l) (e.b l) (e.c_ l))
    stepSeeds e 1 (e.doneI (r.map fun x => (x.1, fitRaw e.od.w x.2.1)) (flags r))) ∧
  Ends (formFsplit f) true true f (.fsplit f) anyEnv fsplitEff ∧
  Ends (formFred f) true true f (.fred f) (fun e => e.dlanes ≠ []) (fun e =>
    let x := ((fredTree e).v.getD 0 none).getD (fredIdentity e)
    let r := if (floatValue e.fmt x).isNan then e.fmt.nan else x
    (e.doneF true (e.dlanes.map fun l => (l, fitRaw e.od.w r)) ((fredTree e).fl ||| (floatValue e.fmt x).snan)).modThr e.eid e.slot
      fun t => { t with seed := (fredTree e).seed }) ∧
  Ends (formFred f) true true f (.fred f) (fun e => e.dlanes = []) (fun e => e.modT fun t => { t with seed := (fredTree e).seed })

/-- R143 to R150: `cvt` converts the elements of each lane, `bxq` and `bxd` quantise and decode blocks, and the long sums are made,
added and converted, with NV for a signalling NaN in `lsmk`; a wide long sum with a reserved bit set is the illegal-operand trap.
The model's own choices that show in it: log entries 12, 89 and 96. -/
def Obligations.Conversions : Prop := ∀ f : Fields,
  let flags (r : List (Nat × Nat × Flags)) : Flags := r.foldl (fun fl x => fl ||| x.2.2) 0
  let vals (r : List (Nat × Nat × Flags)) : List (Nat × Nat) := r.map fun x => (x.1, x.2.1)
  (∀ src dst : Ty, Ty.ofCode f.smod.toNat = some src → Ty.ofCode f.etype.toNat = some dst →
    Ends (formCvt f) true true f (.cvt f) anyEnv (fun e =>
      let r := e.dlanes.map fun l => (l, cvtLane e src dst l)
      stepSeeds e (2 ^ f.pk) (if slowType e f.smod.toNat || slowType e f.etype.toNat then e.doneL (vals r) (flags r)
        else e.doneI (vals r) (flags r)))) ∧
  Ends (formBxq f) true true f (.bxq f) anyEnv bxqEff ∧
  (∀ fmt : Bx, Bx.ofCode f.etype.toNat = some fmt →
    Ends (formBxd f) true true f (.bxd f) anyEnv (fun e =>
      let r := e.lanes.map fun l => (l, bxdLane e fmt l)
      stepSeeds e (if f.md = 3 then 2 else 1) (e.doneL (vals r) (flags r)))) ∧
  Ends (formLsmk f) true true f (.lsmk f) anyEnv
    (fun e => e.wideI 2 (e.dlanes.map fun l => (l, (lsmkVal e l).word0 + 2 ^ 64 * (lsmkVal e l).word1))
      (e.dlanes.foldl (fun fl l => fl ||| lsmkFlags e l) 0)) ∧
  Ends (formLsadd f) true true f (.lsadd f) anyEnv (fun e => e.wideL 2 (e.dlanes.map fun l =>
    (l, (lsAdd2 (LongSum.ofPair (e.rd 1 (Env.wide e.oa 2) l)) (LongSum.ofPair (e.rd 2 (Env.wide e.ob 2) l))).pair)) 0) ∧
  Ends (formLscvt f) true true f (.lscvt f)
    (fun e => ∀ l ∈ e.dlanes, f.md = 1 → bits (e.rd 1 (Env.wide e.oa 4) l) 255 244 = 0)
    (fun e =>
      let r := e.dlanes.map fun l => (l, lscvtVal e l)
      stepSeeds e 1 (e.doneL (r.map fun x => (x.1, fitRaw e.od.w x.2.1)) (flags r))) ∧
  (∀ l : Nat, Traps (formLscvt f) true true f (.lscvt f)
    (fun e => (e.dlanes.find? fun k => f.md == 1 && bits (e.rd 1 (Env.wide e.oa 4) k) 255 244 != 0) = some l)
    (fun e => { e.info 2 with lane := if e.od.isVec then l else 255, va := 0 }))

/-! ## Local memory -/

/-- R87, R180, R181: the local loads and stores check their lanes in order and complete: a load with the accesses that bind D, a
store with those that write its lanes' values, `sspill` and `sfill` as `stl` and `ldl` of 8 bytes. The checks of one lane, in their
order: the illegal-operand trap for an address outside LM, the permission trap for a granule that is not allotted or a write to an
edge header, the alignment trap, the range-lock trap. The model's own choices that show in it: log entries 29 and 30,
and, for the address that a trap about an offset outside LM names, 90. -/
def Obligations.LocalLoadsAndStores : Prop :=
  (∀ f : Fields,
    let free (e : Env) : Prop := e.t.joins = []
    EndsBy (formLdl f) true true f (.ldl f) anyEnv
      (fun e => lmChecks e (lsMode f != 2) false (lsMode f == 1) (e.wants (lsMode f) (lsSize f) e.b))
      (fun e gs => e.loads false false gs) ∧
    EndsBy (formSfill f) true true f (.sfill f) anyEnv
      (fun e => lmChecks e e.od.isVec false false (e.wants (if e.od.isVec then 0 else 2) 8 e.b))
      (fun e gs => e.loads false false gs) ∧
    EndsBy (formStl f) true true f (.stl f) (fun e => free e ∧ e.wants (lsMode f) (lsSize f) e.b ≠ [])
      (fun e => lmChecks e (lsMode f != 2) true (lsMode f == 1) (e.wants (lsMode f) (lsSize f) e.b))
      (fun e gs => e.stores e.s (f.smod.toNat % 4) false (fun l => storeFit e (lsSize f) (e.a l)) gs) ∧
    EndsBy (formSspill f) true true f (.sspill f)
      (fun e => free e ∧ e.wants (if e.oa.isVec then 0 else 2) 8 e.b ≠ [])
      (fun e => lmChecks e e.oa.isVec true false (e.wants (if e.oa.isVec then 0 else 2) 8 e.b))
      (fun e gs => e.stores e.s 0 false (fun l => storeFit e 8 (e.a l)) gs)) ∧
  (∀ (e : Env) (vec write aligned : Bool) (l n : Nat) (va : Int),
    let ln := if vec then l else 255
    let w : Want := { lane := l, va := va, n := n }
    let off := va.toNat
    let perm : Prop := e.c.lmOk off n = true ∧ ¬ (write = true ∧ e.s0.inHeader e.eid off n = true)
    (va < 0 → lmCheck e vec write aligned w = .error (.trap { e.info 2 with lane := ln, va := windowVaAny e.eid va })) ∧
    (0 ≤ va → 0x80000 < off + n →
      lmCheck e vec write aligned w = .error (.trap { e.info 2 with lane := ln, va := windowVaAny e.eid va })) ∧
    (0 ≤ va → off + n ≤ 0x80000 → ¬ perm →
      lmCheck e vec write aligned w = .error (.trap { e.info 6 with lane := ln, va := windowVa e.eid off })) ∧
    (0 ≤ va → off + n ≤ 0x80000 → perm → aligned = true → off % n ≠ 0 →
      lmCheck e vec write aligned w = .error (.trap { e.info 8 with lane := ln, va := windowVa e.eid off })) ∧
    (0 ≤ va → off + n ≤ 0x80000 → perm → (aligned = true → off % n = 0) → locked e.c true off n = true →
      lmCheck e vec write aligned w = .error (.trap { e.info 4 with lane := ln, va := windowVa e.eid off })) ∧
    (0 ≤ va → off + n ≤ 0x80000 → perm → (aligned = true → off % n = 0) → locked e.c true off n = false →
      lmCheck e vec write aligned w = .ok
        { lane := l, va := windowVa e.eid off, keys := (List.range n).map (lmKey e.eid off + ·), cache := false }))

/-- R182 to R192: `stash` makes a window with its granules empty (status 0) or says why not (1: eight windows, 2: a granule that may
not become one), once nothing issued before is still to be performed in the granules, `unstash` takes a clean or a dropped window away
(0) or finds none (1), and `wptr` returns the write pointer with an acquire, `wptr.ge` once enough bytes are delivered or SEQ is no
more what it was when the instruction was first met. The model's own choices that show in it: log entries 31, 32, 33 and 102. -/
def Obligations.StashAndWritePointer : Prop := ∀ f : Fields,
  let good (e : Env) : Prop := e.on ∧ e.a0 % 4096 = 0 ∧ e.b0 % 4096 = 0 ∧ 1 ≤ e.c0 ∧ e.c0 ≤ 127
  Ends (formStash f) true false f (.stash f) (fun e => good e ∧ 8 ≤ e.c.stash.length)
    (fun e => e.doneL [(0, fitRaw e.od.w 1)] 0) ∧
  Ends (formStash f) true false f (.stash f)
    (fun e => good e ∧ e.c.stash.length < 8 ∧ stashable e.c (e.a0 / 4096) e.c0 = false)
    (fun e => e.doneL [(0, fitRaw e.od.w 2)] 0) ∧
  Ends (formStash f) true false f (.stash f)
    (fun e => good e ∧ e.c.stash.length < 8 ∧ stashable e.c (e.a0 / 4096) e.c0 = true ∧
      ∀ i < e.c0, granInUse e.s0 e.eid (e.a0 / 4096 + i) = false)
    (fun e => (e.doneL [(0, 0)] 0).modCore e.eid fun c =>
      { c with stash := c.stash ++
          [{ lo := e.a0, va := bits e.b0 55 0, grs := List.replicate e.c0 { filled := false, dirty := 0 } }] }) ∧
  Ends (formUnstash f) true false f (.unstash f)
    (fun e => e.on ∧ (firstIdx e.c.stash.length fun i => (e.c.stash[i]?).any fun w => w.lo == e.a0) = none)
    (fun e => e.doneL [(0, fitRaw e.od.w 1)] 0) ∧
  (∀ (i : Nat) (w : Stash), Ends (formUnstash f) true false f (.unstash f)
    (fun e => e.on ∧ (firstIdx e.c.stash.length fun i => (e.c.stash[i]?).any fun w => w.lo == e.a0) = some i ∧
      e.c.stash[i]? = some w ∧
      (f.md = 1 ∨ stashSettled e = true ∧ (w.grs.all fun g => g.dirty == 0) = true ∧ wbPending e.s0 e.eid = []))
    (fun e => freeStash (e.doneL [(0, 0)] 0) e.eid i w)) ∧
  Ends (formWptr f) (f.md == 0) false f (.wptr f)
    (fun e => e.on ∧ e.a0 < 16 ∧ holdsChan e e.a0 = true ∧ (tileChan e e.a0).fault = none ∧ readsBound e.t = true ∧
      (f.md = 1 → e.b0 ≤ (tileChan e e.a0).bytes ∨ ∃ n, e.t.phase = some (.begun n) ∧ (tileChan e e.a0).seq.toNat ≠ n))
    (fun e => acquire (e.doneL [(0, (tileChan e e.a0).ptr)] 0) e.eid e.slot 2) ∧
  Traps (formWptr f) (f.md == 0) false f (.wptr f)
    (fun e => e.on ∧ (16 ≤ e.a0 ∨ holdsChan e e.a0 = false)) (fun e => e.info 2)

/-- R193 to R197: `ewrite` asks its ring for a slot and places its token behind the request, both held at the core while the ring has
no place yet, and completes once the ring has granted the slot, `eread` takes the oldest token with the address and size of its bytes,
or the end of stream with KIND 1 or the drain marker with KIND 2, `eread.rel` releases the token held, and `eos` sends its mark; a
port that is not bound is the illegal-operand trap. The model's own choices that show in it: log entries 71 and 112. -/
def Obligations.EdgeInstructions : Prop := ∀ (f : Fields) (g : Edge),
  let port := (simm14 f.b).toNat
  (∀ bs : List Byte, StartsBy (formEwrite f) false false f (.ewrite f)
    (fun e => e.on ∧ outPort e port = .ok g ∧ tokenBytes e g = .ok bs ∧ e.t.joins = [] ∧ e.t.phase = none ∧ g.placed = true)
    (fun e => sendRelease e e.s0 (bit f.md 1) (scopeTo e.eid g.core))
    (fun e r => e.begun (.edge false)
      (holdLast (e.send (e.send r.1 g.core 1 [] 0 (.edgeResv g.id)) g.core 1 r.2 0 (.edgeToken g.id bs)) 1))) ∧
  (∀ bs : List Byte, StartsBy (formEwrite f) false false f (.ewrite f)
    (fun e => e.on ∧ outPort e port = .ok g ∧ tokenBytes e g = .ok bs ∧ e.t.joins = [] ∧ e.t.phase = none ∧ g.placed = false)
    (fun e => sendRelease e e.s0 (bit f.md 1) (max 2 (scopeTo e.eid (State.hDie g.cons * 1024))))
    (fun e r => e.begun (.edge false)
      (holdLast (e.send (e.send r.1 e.eid 1 [] 0 (.edgeResv g.id)) e.eid 1 r.2 0 (.edgeToken g.id bs)) 2))) ∧
  Ends (formEwrite f) false false f (.ewrite f) (fun e => e.on ∧ e.t.phase = some (.edge true)) (fun e => e.s) ∧
  (∀ (it : EdgeItem) (rest : List EdgeItem) (g' : Edge) (out : Env → Nat → State → State),
    (out = fun e v s => ({ e with s := s } : Env).doneL [(0, v)] 0) →
    Ends (formEread f) false false f (.eread f)
    (fun e => e.on ∧ inPort e port = .ok g ∧ readsBound e.t = true ∧ g.queue = it :: rest ∧
      ((releaseHeld (acquire e.s e.eid e.slot 2) g).edge? g.id).getD g = g')
    (fun e =>
      let s := releaseHeld (acquire e.s e.eid e.slot 2) g
      match it with
      | .data k => out e (g'.tsize * 2 ^ 20 + (g'.off + 64 + k * g'.stride)) (s.setEdge { g' with queue := rest, held := some k })
      | .eos => out e (2 ^ 32) (unbindIn (freeRing s g') e.eid e.t.task.toNat g'.id)
      | .drain => out e (2 * 2 ^ 32) ((s.setEdge { g' with queue := rest }).modCore e.eid fun c =>
          { c with bindings := c.bindings.map fun b =>
              if b.handle = e.t.task.toNat then { b with sawDrain := true } else b }))) ∧
  Ends (formEreadRel f) false false f (.ereadRel f) (fun e => e.on ∧ inPort e port = .ok g) (fun e => releaseHeld e.s g) ∧
  EndsBy (formEos f) false false f (.eos f)
    (fun e => e.on ∧ outPort e port = .ok g ∧ e.t.joins = [] ∧ steering e.c e.t.task port = false ∧ g.full = false)
    (fun e => sendRelease e e.s (bit f.md 1) (scopeTo e.eid g.core))
    (fun e r => (e.send r.1 g.core 1 r.2 0 (.eosMark g.id e.eid)).setEdge { g with ended := g.ended ++ [e.eid] }) ∧
  Traps (formEwrite f) false false f (.ewrite f)
    (fun e => e.on ∧ e.t.phase = none ∧ outPort? e.s0 e.eid e.t.task.toNat port = none) (fun e => e.info 2) ∧
  Traps (formEos f) false false f (.eos f)
    (fun e => e.on ∧ outPort? e.s0 e.eid e.t.task.toNat port = none) (fun e => e.info 2)

/-! ## Global memory -/

/-- R199 and R222 to R225: the global loads and stores complete when their checks pass: a load with the accesses that bind D, a store
with those that write its lanes' values; `ldf` reads the codes and the metadata of its elements into one result that the conversion
ends, and `stf` issues the stores of its converted or quantised elements with its flags. In SR both step the generators once for each
element. The model's own choices that show in it: log entries 37 and 90. -/
def Obligations.GlobalLoadsAndStores : Prop :=
  let hit (f : Fields) (e : Env) (g : Got) : Bool := (hitsNow e.s0 e.eid e.slot (g.cache && !bit f.md 4) g.keys).isSome
  (∀ f : Fields,
    let at_ (e : Env) : List Want := e.wants (lsMode f) (lsSize f) fun l => e.b l % 2 ^ 56
    let ix (e : Env) : List Want := e.lanes.map fun l =>
      { lane := l, va := (e.b 0 % 2 ^ 56 : Nat) + srcInt true 32 e.oc.w (e.c_ l) * lsSize f, n := lsSize f }
    EndsBy (formLd f) true false f (.ld f) anyEnv (fun e => checkGlobal e (lsMode f != 2) false (at_ e) (hit := hit f e))
      (fun e gs => e.loads (bit f.md 4) true gs) ∧
    EndsBy (formGather f) true false f (.gather f) anyEnv (fun e => checkGlobal e true false (ix e) (hit := hit f e))
      (fun e gs => e.loads (bit f.md 4) true gs) ∧
    EndsBy (formSt f) true false f (.st f) (fun e => e.t.joins = [] ∧ at_ e ≠ [])
      (fun e => checkGlobal e (lsMode f != 2) true (at_ e))
      (fun e gs => e.stores e.s (f.smod.toNat % 4) true (fun l => storeFit e (lsSize f) (e.a l)) gs) ∧
    EndsBy (formScatter f) true false f (.scatter f) (fun e => e.t.joins = [] ∧ ix e ≠ [])
      (fun e => checkGlobal e true true (ix e))
      (fun e gs => e.stores e.s (f.smod.toNat % 4) true (fun l => storeFit e (lsSize f) (e.a l)) gs)) ∧
  (∀ f : Fields,
    EndsBy (formLdf f) true false f (.ldf f)
      (fun e => ldfLanes e ≠ [] ∧ ldfOk e (FatPtr.of (e.b 0)) = .ok ())
      (fun e => do
        let es ← elemsOk e (elemsOf f (FatPtr.of (e.b 0)) (ldfLanes e))
        checkPlaces e e.od.isVec false 16 (ldfWants f (FatPtr.of (e.b 0)).fmt es) (hit f e))
      (fun e gs =>
        let s := e.s.fresh.2.fresh.2.modThr e.eid e.slot fun t => t.addPend
          { id := e.s.nextId, target := e.od.target, need := gs.length
            conv := some (e.b 0, f, (ldfLanes e).map fun l => (l, (e.t.seed.getD l 1).toNat)) } true
        let s := gs.foldl (issueLoad e e.s.nextId (e.s.nextId + 1) (bit f.md 4) true true) s
        stepSeeds e (2 ^ f.pk) s) ∧
    EndsBy (formStf f) true false f (.stf f)
      (fun e => e.lanes ≠ [] ∧ e.t.joins = [] ∧ Bx.ofCode (FatPtr.of (e.b 0)).fmt = none ∧
        stfOk e (FatPtr.of (e.b 0)) = .ok ())
      (fun e => checkPlaces e true true 1 ((stfPlain e (FatPtr.of (e.b 0))).1.map fun x =>
        { lane := x.lane, va := x.at_, n := x.bytes.length }))
      (fun e gs =>
        let s := stfIssue e e.s.nextId e.s.fresh.2 ((stfPlain e (FatPtr.of (e.b 0))).1.zip gs)
        let s := stepSeeds { e with f := { f with d := 0 } } (2 ^ f.pk) s
        let fl := (stfPlain e (FatPtr.of (e.b 0))).2
        if fl = 0 then s.fresh.2 else
          s.fresh.2.modThr e.eid e.slot fun t => t.addPend { id := s.nextId, target := .none, flags := fl } false))

/-- R226 to R231: `prf` reads its line into the L1D when a translation and a register are at hand and is otherwise without effect;
`inv` drops the lines of its range, or all of them; `tlbinv` drops the translations of its page and waits for the earlier accesses;
`amo` and `cas` issue their atomics after their release, an `.acq` one begins so and completes with an acquire once its reads are
bound; `sta` issues its stores and the arrival that follows their acknowledgement. The model's own choices that show in it: log
entries 34, 35, 36, 38 and 105. -/
def Obligations.AtomicsAndCacheInstructions : Prop := ∀ f : Fields,
  let t := f.etype.toNat
  let n := codeBits t / 8
  let line (e : Env) : Nat := ((e.b 0 % 2 ^ 56 : Nat) + e.imm).toNat / 64 * 64
  let at_ (e : Env) : Int := (e.b 0 % 2 ^ 56 : Nat) + e.imm
  let found (e : Env) : Xl := lookup e.s0 e.dev e.asid (line e) (e.c.tlb ++ (e.s0.tile (eidTile e.eid)).tlb) true false
  (∀ k : Nat, Ends (formPrf f) true false f (.prf f)
    (fun e => e.on ∧ f.md = 0 ∧ 0 ≤ at_ e ∧ found e = .ok k true ∧ regsUsed e.s0 e.eid < 192)
    (fun e => addAccess e.s.fresh.2 { (default : Access) with
      eid := e.eid, slot := e.slot, op := .load, va := line e, keys := (List.range 64).map (k + ·), pieces := [(0, 64)], grp := 4
      fill := true, inst := e.s.nextId, ty := 99 })) ∧
  Ends (formPrf f) true false f (.prf f)
    (fun e => ¬ e.on ∨ f.md ≠ 0 ∨ at_ e < 0 ∨ (∀ k, found e ≠ .ok k true) ∨ 192 ≤ regsUsed e.s0 e.eid) (fun e => e.s) ∧
  (let lo (e : Env) : Nat := e.a 0 % 2 ^ 56
   let lines (e : Env) : Nat := (lo e + e.b 0 + 63) / 64 - lo e / 64
   Ends (formInv f) true false f (.inv f) (fun e => e.on ∧ (f.md = 1 ∨ 6144 < lines e))
     (fun e => e.s.modCore e.eid fun c => { c with l1d := [] }) ∧
   Ends (formInv f) true false f (.inv f) (fun e => e.on ∧ f.md ≠ 1 ∧ e.b 0 = 0) (fun e => e.s) ∧
   Ends (formInv f) true false f (.inv f) (fun e => e.on ∧ f.md ≠ 1 ∧ lines e ≤ 6144 ∧ e.b 0 ≠ 0)
     (fun e => (List.range (lines e)).foldl (fun s i => dropVa s e.eid e.asid ((lo e / 64 + i) * 64)) e.s)) ∧
  Ends (formTlbinv f) true false f (.tlbinv f) (fun e => e.on) (fun e =>
    let s := tlbDrop e.s e.dev e.asid fun b n =>
      f.md == 1 || (decide (b ≤ e.a 0 % 2 ^ 56 / 4096) && decide (e.a 0 % 2 ^ 56 / 4096 < b + n))
    s.fresh.2.modThr e.eid e.slot fun t =>
      t.addPend { id := s.nextId, target := e.od.target, need := 1, tlb := true } true) ∧
  (let lanes (e : Env) : List Nat := if bit f.md 5 then e.lanes else [0]
   let ready (e : Env) : Prop := (if bit f.md 5 then e.lanes ≠ [] else e.on) ∧ e.t.joins = [] ∧ e.t.phase = none ∧
     ∀ l ∈ lanes e, e.a l % 2 ^ 56 % n = 0
   let chk (e : Env) : Except Stop (List Got) := checkGlobal e (bit f.md 5) true
     ((lanes e).map fun l => { lane := l, va := (e.a l % 2 ^ 56 : Nat), n := n })
     (each := fun g => hostAtomicOk e (bit f.md 5) ((f.md % 8 == 0 || f.md % 8 == 6) && (n == 4 || n == 8)) g
       (ual := f.md % 8 != 7 && (n == 4 || n == 8)))
   let op (e : Env) (l : Nat) : AccOp := .amo (f.md % 8) t (if codeIsFloat t then e.b l % 2 ^ codeBits t
     else pat (codeBits t) (srcInt (codeSgn t) (codeBits t) e.ob.w (e.b l)))
   EndsBy (formAmo f) true false f (.amo f) (fun e => ready e ∧ bit f.md 3 = false)
     (fun e => do let gs ← chk e; let r ← e.atomicRelease e.s; pure (gs, r))
     (fun e x => e.atomic e.od.target e.od.w (op e) x.1 true x.2) ∧
   StartsBy (formAmo f) true false f (.amo f) (fun e => ready e ∧ bit f.md 3 = true)
     (fun e => do let gs ← chk e; let r ← e.atomicRelease e.s0; pure (gs, r))
     (fun e x => e.begun (.begun (e.atomicId x.2)) (e.atomic e.od.target e.od.w (op e) x.1 false x.2)) ∧
   (∀ p : Nat, Ends (formAmo f) true false f (.amo f)
     (fun e => (if bit f.md 5 then e.lanes ≠ [] else e.on) ∧ e.t.phase = some (.begun p) ∧ readsBound e.t = true)
     (fun e => acquire (e.s.modThr e.eid e.slot (·.wrote p)) e.eid e.slot e.scope))) ∧
  (let pair := bit f.md 0
   let m := if pair then 16 else n
   let ready (e : Env) : Prop := e.on ∧ e.t.joins = [] ∧ e.t.phase = none ∧ e.a0 % 2 ^ 56 % m = 0
   let chk (e : Env) : Except Stop (List Got) := checkGlobal e false true
     [{ lane := 0, va := (e.a0 % 2 ^ 56 : Nat), n := m }] (each := hostAtomicOk e false (m == 4 || m == 8))
   let d (e : Env) : Opnd := if pair then Env.wide e.od 2 else e.od
   let v (e : Env) (field : Nat) (o : Opnd) : Nat := if pair then e.rd field (Env.wide o 2) 0
     else pat (codeBits t) (srcInt (codeSgn t) (codeBits t) o.w (e.rd field o 0))
   let op (e : Env) (_ : Nat) : AccOp := .cas (v e 2 e.ob) (v e 3 e.oc)
   EndsBy (formCas f) true false f (.cas f) (fun e => ready e ∧ bit f.md 3 = false)
     (fun e => do let gs ← chk e; let r ← e.atomicRelease e.s; pure (gs, r))
     (fun e x => e.atomic (d e).target (d e).w (op e) x.1 true x.2) ∧
   StartsBy (formCas f) true false f (.cas f) (fun e => ready e ∧ bit f.md 3 = true)
     (fun e => do let gs ← chk e; let r ← e.atomicRelease e.s0; pure (gs, r))
     (fun e x => e.begun (.begun (e.atomicId x.2)) (e.atomic (d e).target (d e).w (op e) x.1 false x.2)) ∧
   (∀ p : Nat, Ends (formCas f) true false f (.cas f) (fun e => e.on ∧ e.t.phase = some (.begun p) ∧ readsBound e.t = true)
     (fun e => acquire (e.s.modThr e.eid e.slot (·.wrote p)) e.eid e.slot e.scope))) ∧
  (∀ (gs : List Got),
    let ws (e : Env) : List Want := e.wants (lsMode f) (lsSize f) fun l => e.b l % 2 ^ 56
    EndsBy (formSta f) true false f (.sta f)
      (fun e => e.on ∧ e.t.joins = [] ∧ e.c0 ≤ 0x7FFF0 ∧ e.c0 % 16 = 0 ∧
        checkGlobal e (lsMode f != 2) true (ws e) (barrierPermOk e e.c0) = .ok gs ∧ emptyGran e.s0 [lmKey e.eid e.c0] = none)
      (fun e => sendRelease e e.s (bit f.md 4) (gs.foldl (fun m g => g.keys.foldl (fun m k => max m (homeScope e.eid k)) m) 0))
      (fun e r =>
        let s := e.stores r.1 (f.smod.toNat % 4) true (fun l => storeFit e (lsSize f) (e.a l)) gs
        { s.fresh.2 with acks := s.fresh.2.acks ++
            [{ id := s.nextId, eid := e.eid, slot := e.slot, obj := e.c0, after := r.2
               scope := gs.foldl (fun m g => g.keys.foldl (fun m k => max m (homeScope e.eid k)) m) 0
               own := (s.accs.filter fun a =>
                 decide (e.s.nextId ≤ a.id) && a.eid == e.eid && a.slot == e.slot).map (·.id) }] }) ∧
    Ends (formSta f) true false f (.sta f)
      (fun e => ¬ e.on ∧ ws e ≠ [] ∧ e.t.joins = [] ∧ checkGlobal e (lsMode f != 2) true (ws e) = .ok gs)
      (fun e => e.stores e.s (f.smod.toNat % 4) true (fun l => storeFit e (lsSize f) (e.a l)) gs))

/-! ## Ordering and barriers -/

/-- R240, R241, R251, R252: `rel` makes the release and its completion counts as a result, `acq` and the second half of `fence` make
the acquire once the reads before them are bound, and `ogq` returns the groups with a write not yet performed. The model's own
choices that show in it: log entry 18. -/
def Obligations.OrderingInstructions : Prop := ∀ f : Fields,
  EndsBy (formRel f) true false f (.rel f) Env.on (fun e => release e e.s (simm14 f.b).toNat f.md)
    (fun e r => holdJoin e ((e.upd r.1).pendL .none 1).2 f.md ((e.upd r.1).pendL .none 1).1 r.2) ∧
  Ends (formAcq f) true false f (.acq f) (fun e => e.on ∧ readsBound e.t = true) (fun e => acquire e.s e.eid e.slot f.md) ∧
  (∀ ids : List Nat, Ends (formRel f) true false f (.fence f)
    (fun e => e.on ∧ e.t.phase = some (.join ids) ∧ outstanding e.s0 f.md ids = false ∧ readsBound e.t = true)
    (fun e => acquire e.s e.eid e.slot f.md)) ∧
  (let join (e : Env) : Except Stop (State × List Nat) := release e e.s0 (simm14 f.b).toNat f.md
   (∀ s : State, Ends (formRel f) true false f (.fence f)
     (fun e => e.on ∧ e.t.phase = none ∧ join e = .ok (s, []) ∧ readsBound e.t = true)
     (fun e => acquire e.s e.eid e.slot f.md)) ∧
   StartsBy (formRel f) true false f (.fence f) (fun e => e.on ∧ e.t.phase = none)
     (fun e => do let r ← join e; if r.2 = [] ∧ readsBound e.t = true then .error .block else pure r)
     (fun e r => e.begun (.join r.2) r.1)) ∧
  Ends (formOgq f) true false f (.ogq f) (fun e => e.on) (fun e => e.doneL [(0, fitRaw e.od.w (ogqVal e))] 0)

/-- R266 to R272: the barrier instructions on an object in own LM send their one update (`binit`, `barv`, `bexp`), `bwait` completes
at once when PHASE differs from P(B) and waits otherwise, and `btest` returns a doubleword of the object. An update waits for the
join of an earlier release. The model's own choices that show in it: log entries 40 and 72. -/
def Obligations.BarrierInstructions : Prop := ∀ (f : Fields) (key : Nat),
  let own (e : Env) : Prop := e.on ∧ ownBar e e.a0 = .ok key
  let sees (e : Env) : Prop := e.on ∧ ownBar e e.a0 false = .ok key
  Ends (formBinit f) true false f (.binit f)
    (fun e => own e ∧ ¬ (e.b0 = 0 ∧ e.c0 = 0) ∧ e.b0 ≤ 65535 ∧ e.c0 < 2 ^ 32 ∧ e.t.joins = [])
    (fun e => sendUpdate e e.s key 4 (e.c0 * 65536 + e.b0) 0 []) ∧
  Traps (formBinit f) true false f (.binit f) (fun e => own e ∧ (e.b0 = 0 ∧ e.c0 = 0 ∨ 65535 < e.b0)) (fun e => e.info 2) ∧
  EndsBy (formBarv f) true false f (.barv f) (fun e => e.on ∧ barvKey e = .ok key ∧ e.t.joins = [] ∧ e.od.isZero = true)
    (fun e => sendRelease e e.s (bit f.md 1) (scopeTo e.eid (keyCore key)))
    (fun e r => sendUpdate e r.1 key 1 0 0 r.2) ∧
  EndsBy (formBarv f) true false f (.barv f) (fun e => e.on ∧ barvKey e = .ok key ∧ e.t.joins = [] ∧ e.od.isZero = false)
    (fun e => sendRelease e e.s (bit f.md 1) (scopeTo e.eid (keyCore key)))
    (fun e r => sendUpdate e ((e.upd r.1).pendL e.od.target 1).2 key 1 0 ((e.upd r.1).pendL e.od.target 1).1 r.2) ∧
  Ends (formBexp f) true false f (.bexp f) (fun e => own e ∧ bit f.md 0 = false ∧ e.t.joins = [])
    (fun e => sendUpdate e e.s key 2 e.b0 0 []) ∧
  EndsBy (formBexp f) true false f (.bexp f) (fun e => own e ∧ bit f.md 0 = true ∧ e.t.joins = [])
    (fun e => sendRelease e e.s (bit f.md 1) 0) (fun e r => sendUpdate e r.1 key 3 e.b0 0 r.2) ∧
  (∀ o : BarObj,
    Ends (formBwait f) false false f (.bwait f)
      (fun e => sees e ∧ readBar e key = .ok o ∧ readsBound e.t = true ∧ o.phase ≠ bit e.b0 0)
      (fun e => acquire (e.doneL [(0, 0)] 0) e.eid e.slot 2) ∧
    Waits (formBwait f) false false f (.bwait f)
      (fun e => sees e ∧ readBar e key = .ok o ∧ readsBound e.t = true ∧ o.phase = bit e.b0 0)
      (fun e => { what := .barrier e.a0 f.imm.toNat, f := f, issued := e.s0.cycle e.eid }) ∧
    Ends (formBtest f) true false f (.btest f) (fun e => sees e ∧ readBar e key = .ok o)
      (fun e => e.doneL [(0, fitRaw e.od.w (if f.md = 1 then o.expb + o.rcvb * 2 ^ 32 else o.dw1))] 0))

/-- R273: once the join of its release is done, an arrival at a group's barrier is recorded in the group's table and the thread waits
for the episode; a group that the context does not have, or that does not hold the issuing core, is the illegal-operand trap. R266 and
R267: an update of a barrier object completes its phase exactly when no arrival is pending and the bytes expected have come: PHASE
turns, the surplus of bytes and of early arrivals counts toward the next phase, and OVER is set by a surplus. The model's own choices
that show in it: log entry 46. -/
def Obligations.GroupBarriersAndPhases : Prop :=
  (∀ (f : Fields) (s : State) (th : Thread) (g : Group),
    Issues (formGbar f) false false f s th →
    let e := hand (formGbar f) f s th
    let n := (simm14 f.b).toNat
    let key := groupKey e.dev e.asid n
    let scope := groupScope e.eid g.eids
    let waits : Host.Outcome State Fault Refusal :=
      .next ((grant { s with groups := Keyed.put s.groups key (g.arrive e.eid e.slot) }
        s.cur.1 s.cur.2 th (crossings ((formGbar f).getD {}) f)).modThr s.cur.1 s.cur.2 fun t =>
          { t with status := .waiting { what := .group e.asid n, f := f, issued := s.cycle e.eid } })
    e.on →
    (Keyed.get? s.groups key = some g → g.eids.contains e.eid = true →
      (e.t.joins = [] → e.t.phase = none → release e s 15 scope = .ok (s, []) → readsBound e.t = true → exec (.gbar f) s = waits) ∧
      (∀ s' ids, e.t.joins = [] → e.t.phase = none → release e s 15 scope = .ok (s', ids) → (ids ≠ [] ∨ readsBound e.t = false) →
        exec (.gbar f) s = .next (holdAt (e.begun (.join ids) s') s.cur.1 s.cur.2
          (((e.begun (.join ids) s').thr? s.cur.1 s.cur.2).getD th) .blocked)) ∧
      (∀ ids, e.t.phase = some (.join ids) → outstanding s scope ids = false → readsBound e.t = true → exec (.gbar f) s = waits)) ∧
    ((Keyed.get? s.groups key = none ∨ Keyed.get? s.groups key = some g ∧ g.eids.contains e.eid = false) →
      exec (.gbar f) s = .next (takeTrap (grant s s.cur.1 s.cur.2 th (crossings ((formGbar f).getD {}) f)) s.cur.1 s.cur.2 (e.info 2)))) ∧
  (∀ o : BarObj,
    (o.pendarr = 0 → o.expb ≤ o.rcvb →
      o.updateEnd = ({ o with
        surplus := o.surplus || decide (o.expb < o.rcvb) || decide (0 < o.early)
        rcvb := o.rcvb - o.expb
        pendarr := o.exparr - o.early
        early := o.early - o.exparr
        phase := !o.phase }, true)) ∧
    (¬ (o.pendarr = 0 ∧ o.expb ≤ o.rcvb) → o.updateEnd = (o, false)))
/-! ## Matrix units -/

/-- R152 to R160 and R167 to R171: when the slot is allotted and not faulted, the operands' formats, strides and spans are as the
rules ask and the queue has room, `mma`, `mmaz`, `mld`, `mst`, `msteer` and `mclr` queue their command with its range locks. The
model's own choices that show in it: log entry 49. -/
def Obligations.MatrixCommandsQueue : Prop := ∀ (f : Fields) (p : Nat),
  let slot (e : Env) : Prop := e.on ∧ slotOf e = .ok p
  (∀ (d : Nat) (x y : Int × Int) (kind : Nat) (i : Instr), (kind = 1 ∧ i = .mma f ∨ kind = 2 ∧ i = .mmaz f) →
    Ends (formMma f) false false f i
      (fun e =>
        let a := FatPtr.of e.a0
        let b := FatPtr.of e.b0
        let k := f.imm.toNat % 2 ^ 16
        slot e ∧ a.ok = true ∧ b.ok = true ∧ mxPair a.fmt b.fmt = true ∧ a.blen = b.blen ∧
        mxDepth (isWTile e.eid) a.fmt (blenOf a.blen) = some d ∧ (kind = 2 ∨ (a.fmt == 7) = e.c.modeOf p) ∧
        k ≠ 0 ∧ k % d = 0 ∧
        mxAligned e.a0 (e.c0 % 2 ^ 32) = true ∧ mxAligned e.b0 (bits e.c0 63 32) = true ∧
        mxSpan e.a0 (e.c0 % 2 ^ 32) (if a.fmt = 7 then 16 else 32) k = some x ∧ mxSpan e.b0 (bits e.c0 63 32) 32 k = some y ∧
        e.mxRoom [(bit f.md 0, x), (bit f.md 1, y)])
      (fun e => e.queued { (default : MxCmd) with
        kind := kind, phys := p, logical := f.d.toNat, pa := e.a0, pb := e.b0, sa := e.c0 % 2 ^ 32, sb := bits e.c0 63 32
        k := f.imm.toNat % 2 ^ 16, la := bit f.md 0, lb := bit f.md 1 } [(bit f.md 0, x), (bit f.md 1, y)])) ∧
  (∀ x : Int × Int, Ends (formMld f) false false f (.mld f)
    (fun e =>
      let a := FatPtr.of e.a0
      slot e ∧ a.ok = true ∧ (a.fmt = 4 ∨ a.fmt = 5 ∨ a.fmt = 6 ∨ a.fmt = 7 ∧ isWTile e.eid = true) ∧
      mxSpan e.a0 e.b0 (if a.fmt = 7 then 16 else 32) 32 = some x ∧ e.mxRoom [(bit f.md 0, x)])
    (fun e => e.queued { (default : MxCmd) with
      kind := 3, phys := p, logical := f.d.toNat, pa := e.a0, sa := e.b0, la := bit f.md 0 } [(bit f.md 0, x)])) ∧
  (∀ x : Int × Int, Ends (formMst f) false false f (.mst f)
    (fun e =>
      let a := FatPtr.of e.a0
      slot e ∧ a.ok = true ∧ mxOutOk (e.c.modeOf p) a.fmt = true ∧
      mxSpan e.a0 e.b0 (if e.c.modeOf p then 16 else 32) 32 = some x ∧ e.mxRoom [(bit f.md 0, x)])
    (fun e => e.queued { (default : MxCmd) with
      kind := 4, phys := p, logical := f.d.toNat, pa := e.a0, sa := e.b0, rnd := f.rnd.toNat, sat := f.sat
      grp := f.smod.toNat % 4, la := bit f.md 0 } [(bit f.md 0, x)])) ∧
  (∀ g : Edge, Ends (formMsteer f) false false f (.msteer f)
    (fun e => slot e ∧ bits e.a0 63 9 = 0 ∧ mxOutOk (e.c.modeOf p) (bits e.a0 7 3) = true ∧
      outPort? e.s0 e.eid e.t.task.toNat (e.a0 % 8) = some g ∧ g.tsize = 32 * fmtBits (bits e.a0 7 3) / 8 ∧ e.mxRoom [])
    (fun e => e.queued { (default : MxCmd) with
      kind := 5, phys := p, logical := f.d.toNat, pa := e.a0 % 8, pb := e.a0, sb := g.id, rnd := f.rnd.toNat, sat := f.sat } [])) ∧
  Ends (formMclr f) false false f (.mclr f)
    (fun e => (f.md ≠ 1 ∨ isWTile e.eid = true) ∧ e.on ∧ physOf e f.d.toNat = .ok p ∧
      (e.c.accs.getD p default).fault = none ∧ e.mxRoom [])
    (fun e => e.queued { (default : MxCmd) with kind := 6, phys := p, logical := f.d.toNat, k := f.md } [])

/-- R163 and R171 to R174: `mclr` on a faulted slot discards the faulted command, `mwait` completes when no command names a masked
slot, `mprog` returns the progress word, and `mweight` sets the core's weight or traps for a value outside 1 to 15. The model's own
choices that show in it: log entry 49. -/
def Obligations.MatrixStatusInstructions : Prop := ∀ (f : Fields) (p : Nat),
  let m : MxCmd := { (default : MxCmd) with kind := 6, phys := p, logical := f.d.toNat, k := f.md }
  Ends (formMclr f) false false f (.mclr f)
    (fun e => (f.md ≠ 1 ∨ isWTile e.eid = true) ∧ e.on ∧ physOf e f.d.toNat = .ok p ∧
      (e.c.accs.getD p default).fault.isSome = true)
    (fun e => match e.c.mxq.find? (·.phys == p) with
      | some x => dropMx (modAcc e.s e.eid p fun a => { m.start a with fault := none }) e.eid x.id
      | none => modAcc e.s e.eid p fun a => { m.start a with fault := none }) ∧
  (∀ ps : List (Nat × Nat), Ends (formMwait f) false false f (.mwait f)
    (fun e => e.on ∧ maskSlots e (simm14 f.b).toNat = .ok ps ∧
      (∀ x ∈ ps, (e.c.accs.getD x.2 default).fault = none) ∧ (e.c.mxq.any fun m => ps.any fun x => x.2 == m.phys) = false)
    (fun e => e.s)) ∧
  Ends (formMprog f) false false f (.mprog f) (fun e => e.on ∧ physOf e (simm14 f.b).toNat = .ok p)
    (fun e => e.doneL [(0, fitRaw e.od.w (progress e.c p))] 0) ∧
  (∀ w : Nat,
    Ends (formMweight f) false false f (.mweight f)
      (fun e => e.on ∧ w = (if f.md = 0 then e.a0 else (simm14 f.b).toNat) ∧ 1 ≤ w ∧ w ≤ 15)
      (fun e => e.s.modCore e.eid fun c => { c with mxw := BitVec.ofNat 8 w }) ∧
    Traps (formMweight f) false false f (.mweight f)
      (fun e => e.on ∧ w = (if f.md = 0 then e.a0 else (simm14 f.b).toNat) ∧ (w = 0 ∨ 15 < w)) (fun e => e.info 2))

/-- R156 to R170: the stager reads the next row of the quantum, or notes at which step its access faults; the array runs a k-step of
the quantum in progress, or of the one that R157 grants once it is free; the accumulator port loads a row of `mld`, stores one of
`mst` or clears for `mclr`; a drain sends its next row once the ring has a place; an access that faults marks the slot; and a
command whose last effect is performed leaves the queue with its locks. The model's own choices that show in it: log entries 43, 50
and 99. -/
def Obligations.MatrixEvents : Prop := ∀ (s : State) (e : Nat) (m : MxCmd),
  let c := s.core e
  let fmt := (FatPtr.of m.pa).fmt
  let step (s : State) (e left : Nat) (m : MxCmd) : State :=
    let per := m.depth (isWTile e) + if (Bx.ofCode m.fa).isSome then 1 else 0
    let s := modAcc (startMx s e m) e m.phys (mxStep m.fa m.fb (m.stage.map (·.take per)))
    let s := modMx s e m.id fun m => { m with stage := if left ≤ 1 ∧ m.lim = none then [] else m.stage.map (·.drop per) }
    s.modTile (eidTile e) fun x => { x with run := if left ≤ 1 then none else some (e, left - 1) }
  (∀ t left, s.who = [t] → (s.tile t).run = some (e, left) → mxHead s e = some m →
    exec .mxuArbitrate s = .next (step s e left m)) ∧
  (∀ t s' p k, s.who = [t] → (s.tile t).run = none → s' = (rotation t (s.tile t).ptr).foldl stageResident s →
    (mxReady s' (t * 8 + (s'.tile t).ptr) = true → 0 < (s'.tile t).credit →
      e = t * 8 + (s'.tile t).ptr ∧ p = (s'.tile t).ptr ∧ k = (s'.tile t).credit - 1) →
    (mxReady s' (t * 8 + (s'.tile t).ptr) = false ∨ (s'.tile t).credit = 0 →
      (rotation t (s'.tile t).ptr).find? (mxReady s') = some e ∧ p = e % 8 ∧ k = (s'.core e).mxw.toNat - 1) →
    mxHead (s'.modTile t fun x => { x with ptr := p, credit := k }) e = some m →
    let u := s'.modTile t fun x => { x with ptr := p, credit := k }
    exec .mxuArbitrate s = .next (step u e ((u.core e).grantSteps (isWTile e) m) m)) ∧
  (s.who = [e] →
    (stagerCore s (eidTile e) = some e → mxHead s e = some m →
      let r := m.stage.length
      let reads := if r < m.rowsA then readSteps s e m m.pa m.la m.sa (m.depth (isWTile e)) r (c.mxPos m) (c.quantum (isWTile e) m)
        else readSteps s e m m.pb m.lb m.sb (m.depth (isWTile e)) (r - m.rowsA) (c.mxPos m) (c.quantum (isWTile e) m)
      (∀ cs, reads = (cs, none) →
        exec .stagerFetch s = .next (modMx (farDone s e m.thread m.id) e m.id fun m => { m with stage := m.stage ++ [cs] })) ∧
      (∀ cs t s' cause va, reads = (cs, some (t, .fault s' cause va)) → m.lim = none →
        exec .stagerFetch s = .next (modMx (farDone s' e m.thread m.id) e m.id fun m => { m with
          stage := m.stage ++ [cs]
          lim := match m.lim with
            | some (t', c', va') => some (if t < t' then (t, cause, va) else (t', c', va'))
            | none => some (t, cause, va) }))) ∧
    (portRun s (eidTile e) = some (e, m) →
      let u := startMx s e m
      let a := (u.core e).acc m
      (m.kind = 5 ∨ m.kind = 6 → exec .accPortCommand s = .next u) ∧
      (∀ bs, m.kind = 3 → a.pos < a.rows → engineAll u e m.thread m.id ((u.core e).ctx.getD 0) m.la
          (((FatPtr.of m.pa).addr + a.pos * m.sa : Nat) : Int) (32 * m.esz) = .ok bs →
        let row := (splitCodes fmt bs).map fun c =>
          ((roundTo a.fmt .rne false 0 (floatValue (fmtOf fmt) c).x).1, (floatValue (fmtOf fmt) c).snan)
        exec .accPortCommand s = .next (modAcc (farDone u e m.thread m.id) e m.phys fun a => { a with
          val := a.val.take (32 * a.pos) ++ (row.map fun x => BitVec.ofNat 64 x.1) ++ a.val.drop (32 * (a.pos + 1))
          flags := row.foldl (fun f x => f ||| slotFlags x.2) a.flags
          pos := a.pos + 1 })) ∧
      (∀ ks bs fl sr, m.kind = 4 → a.pos < a.rows → convRow a m.fa m = (bs, fl, sr) →
        let at_ := (FatPtr.of m.pa).addr + a.pos * m.sa
        storeKeys u e m.la at_ (32 * m.esz) = .ok ks →
        exec .accPortCommand s = .next (addAccess
          (modAcc u e m.phys fun a => { a with flags := fl, srgen := sr, pos := a.pos + 1 })
          { (default : Access) with
            eid := e, slot := m.thread, op := .store (ofBytes bs), va := engineVa e m.la at_, keys := ks
            pieces := piecesOf at_ (32 * m.esz) 0 (32 * m.esz), grp := m.grp, inst := m.id, regs := false })) ∧
      (∀ g bs fl sr, m.kind = 5 → m.started = true → (c.acc m).pos < (c.acc m).rows → m.ring s = some g →
        convRow (c.acc m) m.steerFmt m = (bs, fl, sr) → g.full = false → g.waiting s = [] → asked s e g.id = false →
        exec .msteerTokenWrite s = .next (sendPacket
          ((modAcc s e m.phys fun a => { a with flags := fl, srgen := sr, pos := a.pos + 1 }).setEdge { g with resv := g.resv + 1 })
          { (default : Packet) with
            asid := c.ctx.getD 0, src := e, slot := 28, dst := g.core, cls := 1, body := .edgeToken g.id bs, ipc := m.id })) ∧
      (∀ s' cause va, m.kind = 3 → a.pos < a.rows → mxHead s e = none → engineAll u e m.thread m.id ((u.core e).ctx.getD 0) m.la
          (((FatPtr.of m.pa).addr + a.pos * m.sa : Nat) : Int) (32 * m.esz) = .error (.fault s' cause va) →
        exec .mxuFault s = .next (modMx (modAcc u e m.phys fun a =>
          { a with fault := some (cause, va), logical := m.logical }) e m.id fun m => { m with stage := [], lim := none }))) ∧
    (∀ t cause va, mxHead s e = some m → m.lim = some (t, cause, va) → m.staged = true → c.mxPos m = t →
      exec .mxuFault s = .next (modMx (modAcc (startMx s e m) e m.phys fun a =>
        { a with fault := some (cause, va), logical := m.logical }) e m.id fun m => { m with stage := [], lim := none })) ∧
    (c.mxq.find? (mxDone s e) = some m →
      exec .mxuCommandComplete s = .next (if m.kind = 5 ∧ m.steerClr = true then
        modAcc (dropMx s e m.id) e m.phys fun a => { a.zero a.fp64 with flags := a.flags } else dropMx s e m.id)))

/-! ## Copy engines -/

/-- R255, R256 and R259: `cpy`, `cpyg` and `cpyf` read their descriptor from own LM, take the range locks and start the command on
an idle channel or park it in the shadow; D is the SEQ that it will have. `cpw` completes when its channels are idle, `cpw.drop`
discards a faulted command, and `cpq` returns the channel's state. The model's own choices that show in it: log entries 41 and 42. -/
def Obligations.CopyInstructions : Prop := ∀ (f : Fields) (h : Chan),
  let seq (e : Env) (s : State) : State := (e.upd s).doneL [(0, fitRaw e.od.w (h.seq + 1).toNat)] 0
  let lock (e : Env) (m : CopyCmd) : State := e.s.fresh.2.modCore e.eid fun c =>
    { c with rlocks := c.rlocks ++ (m.locks e.s0).map fun l => { l with owner := e.s.nextId } }
  let ok (kind : Env → CopyKind) (e : Env) (m : CopyCmd) : Prop :=
    e.on ∧ chanTrap e e.ch = .ok () ∧ copyCmd e (kind e) = .ok m ∧ e.t.joins = [] ∧ e.noPops ∧
      e.c.rlocks.length + (m.locks e.s0).length ≤ 32 ∧ e.c.chan[e.ch]? = some h
  (∀ (kind : Env → CopyKind) (form : Option Form) (i : Instr) (m : CopyCmd),
    (kind = (fun _ => .plain) ∧ form = formCpy f ∧ i = .cpy f ∨ kind = (fun _ => .gather) ∧ form = formCpy f ∧ i = .cpyg f ∨
      kind = (fun e => .format e.f.rnd.toNat e.f.sat) ∧ form = formCpyf f ∧ i = .cpyf f) →
    Ends form true false f i (fun e => ok kind e m ∧ h.cmd = none ∧ e.c.shadowFor e.ch = false)
      (fun e => seq e (modChan (lock e m) e.eid e.ch (·.start { m with id := e.s.nextId }))) ∧
    Ends form true false f i (fun e => ok kind e m ∧ (h.cmd ≠ none ∨ e.c.shadowFor e.ch = true) ∧ e.c.shadow = none)
      (fun e => seq e ((lock e m).modCore e.eid fun c => { c with shadow := some (e.ch, { m with id := e.s.nextId }) }))) ∧
  Ends (formCpw f) false false f (.cpw f)
    (fun e => e.on ∧ (∀ ch ∈ (if f.md = 1 then [0, 1] else [e.ch]), chanTrap e ch = .ok () ∧ chanBusy e.c ch = false) ∧
      readsBound e.t = true)
    (fun e => acquire e.s e.eid e.slot 2) ∧
  Ends (formCpwDrop f) false false f (.cpwDrop f)
    (fun e => e.on ∧ e.c.chan[e.ch]? = some h ∧ h.fault.isSome = true)
    (fun e =>
      let gone := (h.cmd.map (·.id)).toList ++
        (match e.c.shadow with | some (k, m) => if k = e.ch then [m.id] else [] | none => [])
      (modChan e.s e.eid e.ch fun h => { h with cmd := none, fault := none, buf := [], index := none }).modCore e.eid fun c =>
        { c with
          rlocks := c.rlocks.filter fun l => !gone.contains l.owner
          shadow := if c.shadowFor e.ch then none else c.shadow }) ∧
  Ends (formCpq f) true false f (.cpq f) (fun e => e.on) (fun e => e.doneL [(0, fitRaw e.od.w (cpqVal e))] 0)

/-- R254 to R260: a parked command swaps in when its channel is idle; a request of `cpy` reads the next aligned unit of its source, or
delivers of the bytes at hand what it can within one destination line, and counts them on the barrier object; an access that faults, a
write among them, stops the command before the byte; and a command whose bytes are performed and counted ends and releases its locks.
The model's own choices that show in it: log entries 42 and 103. -/
def Obligations.CopyEvents : Prop := ∀ (s : State) (e ch : Nat) (h : Chan) (m : CopyCmd),
  s.who = [e, ch] → (s.core e).chan[ch]? = some h →
  let x := m.at_ h.bytes
  let d := m.dstRow x.2.1 x.2.2 + (x.1 : Nat)
  let a := m.srcRow x.2.1 x.2.2 0 + (x.1 : Nat)
  let moves : Prop := h.cmd = some m ∧ m.kind = .plain ∧ h.fault = none ∧ (s.core e).frozen = false ∧ h.bytes < m.total
  let want (s : State) (buf : List Byte) : Nat :=
    (m.sent s).getD (1 + Config.choose s.free % min (min buf.length (m.row - x.1)) (64 - (d % 64).toNat))
  let put (s : State) (buf : List Byte) (kss : List (List Nat)) : Except EngineStep State :=
    m.put s (engineVa m.eid m.ld d) ((kss.zip buf).flatMap fun (ks, v) => ks.map (·, v))
  let done (s : State) (n : Nat) (objs : List Nat) : State :=
    farDone (m.count n (modChan s m.eid ch fun h => { h with bytes := h.bytes + n, buf := h.buf.drop n }) objs) m.eid m.slot m.id
  ((s.core e).shadow = some (ch, m) → h.cmd = none → (s.core e).frozen = false →
    exec .copyCommandStart s = .next (modChan (s.setCore e { s.core e with shadow := none }) e ch (·.start m))) ∧
  (∀ kss objs t, moves → h.buf ≠ [] → m.dstSome s d (want s h.buf) = .ok kss → m.objects s (kss.headD []) = .ok objs →
    put s h.buf kss = .ok t → exec .copyRequest s = .next (done t kss.length objs)) ∧
  (∀ bs s' kss objs t, moves → h.buf = [] →
    engineReads s m.eid m.slot m.id m.asid m.ls a (unitAt (a % 8).toNat (m.row - x.1)) = .ok bs →
    s' = modChan s m.eid ch (fun _ => { h with buf := bs }) →
    m.dstSome s' d (want s' bs) = .ok kss → m.objects s' (kss.headD []) = .ok objs → put s' bs kss = .ok t →
    exec .copyRequest s = .next (done t kss.length objs)) ∧
  (∀ s' c va, moves → h.buf = [] →
    engineReads s m.eid m.slot m.id m.asid m.ls a (unitAt (a % 8).toNat (m.row - x.1)) = .error (.fault s' c va) →
    exec .copyFault s = .next (modChan s' e ch fun h => { h with fault := some (c, va) })) ∧
  (∀ s' c va, moves → h.buf ≠ [] → m.dstSome s d (want s h.buf) = .error (.fault s' c va) →
    exec .copyFault s = .next (modChan s' e ch fun h => { h with fault := some (c, va) })) ∧
  (∀ kss objs s' c va, moves → h.buf ≠ [] → m.dstSome s d (want s h.buf) = .ok kss → m.objects s (kss.headD []) = .ok objs →
    put s h.buf kss = .error (.fault s' c va) →
    exec .copyFault s = .next (modChan s' e ch fun h => { h with fault := some (c, va) })) ∧
  (∀ s', copyStep s e ch = .go s' → exec .copyRequest s = .next s') ∧
  (h.cmd = some m → m.total ≤ h.bytes → h.fault = none → countsOut s m.id = false →
    exec .copyCommandComplete s = .next ((modChan s e ch fun h => { h with cmd := none }).modCore e fun c =>
      { c with rlocks := c.rlocks.filter (·.owner != m.id) }))

/-! ## Tasks and rings -/

/-- R304 to R312: when lane 0 is active, no join is open and the handles name devices that are there, `tkmk`, `tkarm`, `tksucc`,
`tkcan`, `tkst` and `tkres` send their operation to the dispatcher of the die that holds the record, `tkcan.g` and `tkres` to their
own die's, each with its result still to come; `tkdec` sends a decrement after a release unless its form says `.nr`. The model's own
choices that show in it: log entries 51 and 53. -/
def Obligations.TaskRequests : Prop := ∀ f : Fields,
  let free (e : Env) : Prop := e.on ∧ e.t.joins = []
  let req (form : Option Form) (hOk : Bool) (i : Instr) (p : Env → Prop) (dst : Env → Nat) (op : Nat) (args : Env → List Nat) : Prop :=
    Ends form hOk false f i (fun e => free e ∧ p e) (fun e => e.asked (dst e) 3 (.taskOp op (args e)) (e.s, []))
  let home (e : Env) : Nat := dieUnit (State.hDie e.a0)
  EndsBy (formTkmk f) true false f (.tkmk f) (fun e => free e ∧ (f.md = 0 ∨ e.b0 < 4)) (fun e => ownWords e e.a0 8 32)
    (fun e img => e.asked (dieUnit (if f.md = 0 then eidDie e.eid else e.dev * 4 + e.b0)) 3 (.taskOp 1 (e.gid :: img)) (e.s, [])) ∧
  req (formTkarm f) true (.tkarm f) (fun e => e.handleOk e.a0) home 2
    (fun e => [e.a0, if f.md = 1 then pat 32 (simm14 f.b) else e.b0 % 2 ^ 32]) ∧
  req (formTksucc f) true (.tksucc f) (fun e => e.handleOk e.a0 ∧ e.handleOk e.b0) home 3
    (fun e => [e.a0, e.b0, f.imm.toNat % 16]) ∧
  req (formResA f 0) false (.tkcan f) (fun e => e.handleOk e.a0) home 4 (fun e => [e.a0]) ∧
  req (formResA f 1) false (.tkcanG f) anyEnv (fun e => dieUnit (eidDie e.eid)) 5 (fun e => [e.a0]) ∧
  req (formResA f 0) true (.tkst f) (fun e => e.handleOk e.a0) home 6 (fun e => [e.a0]) ∧
  req (formResA f 0) false (.tkres f) (fun e => e.a0 < 256) (fun e => dieUnit (eidDie e.eid)) 8 (fun e => [e.a0]) ∧
  EndsBy (formTkdec f) true false f (.tkdec f) (fun e => free e ∧ e.handleOk e.a0)
    (fun e => sendRelease e e.s (bit f.md 1) (dieScope e.eid e.a0))
    (fun e r => e.send r.1 (home e) 3 r.2 0
      (.decr e.a0 (simm14 f.b).toNat (if bit f.md 0 then f.imm.toNat % 16 else 0) 0 0)) ∧
  Ends (formTkdone f) false false f (.tkdone f)
    (fun e => free e ∧ e.t.allLanded = true ∧ exitFault e = none ∧ e.t.deferred = [])
    (fun e =>
      let s := if f.md = 1 then e.s.modRec e.t.task.toNat fun r => { r with fire := r.fire &&& e.a0 % 256 } else e.s
      endThread s e.eid e.slot (match s.binding? e.eid e.t.task.toNat with | some b => b.sawDrain | none => false))

/-- R306 to R312: an operation on a record that reaches its die: STALE for a handle that names no live record, or one of another
context; a count or successor for a record that is not MADE, or a count that leaves 32 signed bits, is STATE; else the count is added,
the successor is appended up to eight, the status word is returned. R293: the decrements of one completion that are there are applied
together; one for a record that is MADE, ARMED or AHEAD lowers its count and sets its operands' ready bits, and at 0 an ARMED record
becomes a candidate and an AHEAD one goes to STAGING with its operands ready; one that an ARMED or AHEAD record cannot hold, or for a
record in another state or none, is STRAY-DECREMENT and changes no count. The model's own choices that show in it: log entries 51, 54
and 114. -/
def Obligations.RecordOperationsAndDecrements : Prop :=
  let absent (s : State) (p : Packet) (h : Nat) : Prop := s.rec? h = none ∨ ∃ r, s.rec? h = some r ∧ r.asid ≠ p.asid
  (∀ (s : State) (p : Packet) (h : Nat),
    (∀ op args, (op = 2 ∨ op = 3 ∨ op = 4 ∨ op = 6) → (op = 2 ∧ (∃ b, args = [h, b]) ∨ op = 3 ∧ (∃ x m, args = [h, x, m]) ∨
        (op = 4 ∨ op = 6) ∧ args = [h]) → p.body = .taskOp op args → absent s p h →
      unitArrive s p = answerWord s p (resWord stSTALE 0)) ∧
    (∀ (r : Rec), recOf s p.asid h = some r →
      (∀ b, p.body = .taskOp 2 [h, b] → r.state ≠ .made → unitArrive s p = answerWord s p (resWord stSTATE 0)) ∧
      (∀ b, p.body = .taskOp 2 [h, b] → r.state = .made → -(2 ^ 31) ≤ r.count + signed 32 b → r.count + signed 32 b < 2 ^ 31 →
        unitArrive s p = answerWord (s.setRec { r with count := r.count + signed 32 b }) p (resWord stOK 0)) ∧
      (∀ b, p.body = .taskOp 2 [h, b] → r.count + signed 32 b < -(2 ^ 31) ∨ 2 ^ 31 ≤ r.count + signed 32 b →
        unitArrive s p = answerWord s p (resWord stSTATE 0)) ∧
      (∀ x m, p.body = .taskOp 3 [h, x, m] → r.state ≠ .made → unitArrive s p = answerWord s p (resWord stSTATE 0)) ∧
      (∀ x m, p.body = .taskOp 3 [h, x, m] → r.state = .made → r.succ.length = 8 →
        unitArrive s p = answerWord s p (resWord stFULL 0)) ∧
      (∀ x m, p.body = .taskOp 3 [h, x, m] → r.state = .made → r.succ.length < 8 →
        unitArrive s p = answerWord (s.setRec { r with succ := r.succ ++ [{ handle := x, opmask := m }] }) p
          (resWord stOK r.succ.length)) ∧
      (p.body = .taskOp 6 [h] → unitArrive s p = answerWord s p (resWord stOK
        (pat 32 r.count + r.state.num * 2 ^ 32 + rdyBits r * 2 ^ 36 + prioOf s r * 2 ^ 40 + r.queue * 2 ^ 43))) ∧
      (p.body = .taskOp 4 [h] → r.state = .done →
        ∀ r', s.rec? h = some r' → r'.state = .done → unitArrive s p = answerWord s p (resWord stOK 0)))) ∧
  (∀ (s : State) (p : Packet) (h n mask q i : Nat),
    (p.body = .decr h n mask q i → readyPkt? s = some p →
      exec .decrementApply s = .next ((companions s p).foldl applyPkt s)) ∧
    (p.body = .decr h n mask q i → absent s p h →
      applyPkt s p = answer (strayDecrement s (State.hDie h) p.asid h 0 0) p .quiet) ∧
    (∀ r : Rec,
      let r' (c : Int) : Rec :=
        { r with count := c, ops := r.ops.mapIdx fun j o => if bit mask j = true ∧ o.v = true then { o with rdy := true } else o }
      p.body = .decr h n mask q i → recOf s p.asid h = some r →
      (r.state = .made → applyPkt s p = answer (s.setRec (r' (r.count - n))) p .quiet) ∧
      (r.state = .armed → n < r.count → applyPkt s p = answer (s.setRec (r' (r.count - n))) p .quiet) ∧
      (r.state = .armed → r.count = n → applyPkt s p = answer (enterTable (s.setRec (r' 0)) h) p .quiet) ∧
      (r.state = .ahead → n < r.count → applyPkt s p = answer (startFetches (s.setRec (r' (r.count - n))) h) p .quiet) ∧
      (r.state = .ahead → r.count = n →
        applyPkt s p = answer (startFetches ((s.setRec (r' 0)).setRec { (r' 0).allReady with state := .staging }) h) p .quiet) ∧
      (r.state = .armed ∨ r.state = .ahead → r.count < n →
        applyPkt s p = answer (strayDecrement s (State.hDie h) p.asid h 0 0) p .quiet) ∧
      (r.state ≠ .made → r.state ≠ .armed → r.state ≠ .ahead →
        applyPkt s p = answer (strayDecrement s (State.hDie h) p.asid h 0 0) p .quiet)))

/-- R310: `ginst` reads its rename words and its template and answers the status of the first check that fails, or makes the
instance and answers OK with its GID. The model's own choices that show in it: log entries 54 and 100. -/
def Obligations.InstancesAreMade : Prop := ∀ (f : Fields) (t : Tmpl),
  let q := f.imm.toNat % 256
  let ok (e : Env) : Prop := e.on ∧ (queueRing e.s0 (eidDie e.eid) e.asid q).isSome = true ∧
    readTemplate e.s0 e.eid e.slot e.asid (addrOf e.a0) = .ok t
  (∀ st, EndsBy (formGinst f) false false f (.ginst f)
    (fun e => ok e ∧ checkTemplate e.s0 e.dev e.asid (eidDie e.eid) t none = .error st)
    (fun e => ownWords e e.b0 8 16) (fun e _ => e.answers (farDone e.s e.eid e.slot 0) st 0)) ∧
  (∀ g, EndsBy (formGinst f) false false f (.ginst f)
    (fun e => ok e ∧ checkTemplate e.s0 e.dev e.asid (eidDie e.eid) t none = .ok g)
    (fun e => ownWords e e.b0 8 16)
    (fun e ren => e.answers (makeInst (farDone e.s e.eid e.slot 0) e.dev e.asid (eidDie e.eid) g q t ren none) stOK g))

/-- R303, R313 to R316: `tksub` and `rgtake` send their request and wait at their issue for its answer, which they complete with:
`tksub` to its own die's dispatcher, `rgtake` to the unit at the descriptor's home, as `rgres` and `rgpub` do; `arrm` and
`arrm.free` set and clear an entry of the core's arrival-match table. At its ring a submission reserves an index, writes the entry
there and publishes it; a take copies the next published entry to the issuing core's LM and advances TAKE, or answers the ring's
status. The model's own choices that show in it: log entries 52 and 53. -/
def Obligations.QueueAndRingInstructions : Prop := (∀ f : Fields,
  let free (e : Env) : Prop := e.on ∧ e.t.joins = []
  let answer (e : Env) (w : Nat) : State := (e.upd e.s).doneL [(0, fitRaw e.od.w w)] 0
  let sub (e : Env) : Prop := e.on ∧ e.a0 < 256 ∧ e.handleOk e.b0 ∧ (queueRing e.s0 (eidDie e.eid) e.asid e.a0).isSome = true
  let room (e : Env) : Prop := e.on ∧ e.b0 % 8 = 0 ∧ e.b0 + 256 ≤ 0x80000 ∧ e.c.lmOk e.b0 256 = true ∧
    e.s0.inHeader e.eid e.b0 256 = false
  let ring (e : Env) : Except Stop Nat := do
    waitFill e 255 (windowVa e.eid e.b0) ((List.range 256).map (lmKey e.eid e.b0 + ·))
    ringKey e
  StartsBy (formTksub f) true false f (.tksub f)
    (fun e => sub e ∧ e.t.joins = [] ∧ (e.t.phase = none ∨ ∃ i, e.t.phase = some (.begun i)))
    (fun e => sendRelease e e.s0 false 3)
    (fun e r => e.begun .asked (e.send r.1 (dieUnit (eidDie e.eid)) 3 r.2 0
      (.taskOp 7 [e.a0, e.b0, match subIndex e.t with | some i => i + 1 | none => 0]))) ∧
  (∀ w sc : Nat, Ends (formTksub f) true false f (.tksub f) (fun e => sub e ∧ e.t.phase = some (.told w sc))
    (fun e => e.doneL [(0, fitRaw e.od.w w)] 0)) ∧
  EndsBy (formRgres f) true false f (.rgres f) free ringKey
    (fun e k => e.asked (ringUnit k) 3 (.taskOp 9 [k]) (e.s, [])) ∧
  EndsBy (formRgpub f) true false f (.rgpub f) free
    (fun e => do
      let k ← ringKey e
      let r ← sendRelease e e.s false (min 5 (ringAt e.s0 k).scope)
      .ok (k, r))
    (fun e x => e.asked (ringUnit x.1) 3 (.taskOp 10 [x.1, e.b0]) x.2) ∧
  StartsBy (formRgpub f) true false f (.rgtake f)
    (fun e => room e ∧ e.t.joins = [] ∧ e.t.phase = none ∧ ownPending e e.b0 256 = false) ring
    (fun e k => e.begun .asked (e.send e.s0 (ringUnit k) 3 [] 0 (.taskOp 13 [k, e.b0, e.a0 % 2 ^ 56]))) ∧
  (∀ w sc : Nat,
    EndsBy (formRgpub f) true false f (.rgtake f)
      (fun e => room e ∧ e.t.phase = some (.told w sc) ∧ w / 2 ^ 56 = stOK ∧ readsBound e.t = true) ring
      (fun e _ => acquire (answer e w) e.eid e.slot sc) ∧
    EndsBy (formRgpub f) true false f (.rgtake f)
      (fun e => room e ∧ e.t.phase = some (.told w sc) ∧ w / 2 ^ 56 ≠ stOK) ring (fun e _ => answer e w)) ∧
  Ends (formArrm f) true false f (.arrm f) (fun e => e.on ∧ e.a0 < 65536 ∧ e.handleOk e.b0 ∧ e.c0 = 0)
    (fun e => e.answers e.s stSTATE 0) ∧
  Ends (formArrm f) true false f (.arrm f)
    (fun e => e.on ∧ e.a0 < 65536 ∧ e.handleOk e.b0 ∧ e.c0 ≠ 0 ∧
      (firstIdx 64 fun i => (Keyed.get? e.c.match_ i).isNone) = none)
    (fun e => e.answers e.s stNOMEM 0) ∧
  (∀ i : Nat, Ends (formArrm f) true false f (.arrm f)
    (fun e => e.on ∧ e.a0 < 65536 ∧ e.handleOk e.b0 ∧ e.c0 ≠ 0 ∧
      (firstIdx 64 fun i => (Keyed.get? e.c.match_ i).isNone) = some i)
    (fun e =>
      let a : ArrMatch := { tag := e.a0, handle := e.b0, target := e.c0, opmask := f.imm.toNat % 16, count := 0 }
      e.answers (e.s.modCore e.eid fun c => { c with match_ := Keyed.put c.match_ i a }) stOK i)) ∧
  Ends (formResA f 1) true false f (.arrmFree f) (fun e => e.on ∧ e.a0 < 64)
    (fun e => e.answers (e.s.modCore e.eid fun c => { c with match_ := Keyed.del c.match_ e.a0 }) stOK
      (b2n (Keyed.get? e.c.match_ e.a0).isSome))) ∧
  (∀ (s : State) (p : Packet) (k : Nat),
    (∀ q h va ek, p.body = .taskOp 7 [q, h, 0] → queueRing s (p.dst / 1024) p.asid q = some va →
      xlBlock s (p.dst / 1024 / 4) p.asid va 64 true = .ok k → (ringRes s k).1 / 2 ^ 56 = stOK →
      xlBlock (ringRes s k).2 (p.dst / 1024 / 4) p.asid ((ringAt s k).entry (ringAt s k).res) 8 true = .ok ek →
      unitArrive s p = answerTold (ringPub (putNum (ringRes s k).2 ek 8 (h % 2 ^ 32)) k (ringAt s k).res).2 p (resWord stOK 0) 0) ∧
    (∀ off va, p.body = .taskOp 13 [k, off, va] → s.badAt k 64 = false →
      emptyGran s (((List.range 64).map (k + ·)) ++ (List.range 256).map (lmKey p.src off + ·)) = none →
      (takeStatus (ringAt s k) ≠ stOK → unitArrive s p = answerTold s p (resWord (takeStatus (ringAt s k)) 0) 0) ∧
      (∀ bs, takeStatus (ringAt s k) = stOK →
        entryBytes s p ((ringAt s k).entry (ringAt s k).take) (2 ^ (ringAt s k).loge) = .ok bs →
        unitArrive s p = answerTold (takeDone (putBytes s (((List.range 256).map (lmKey p.src off + ·)).zip bs)) k) p
          (resWord stOK (ringAt s k).take) (min 5 (ringAt s k).scope))))

/-! ## Messages, mailboxes and queues -/

/-- R323 to R329: `am`, `am.d`, `amr` and `mbsend` send to the core that A names after a release unless their form says `.nr`: a
message waits for one answer, `amr` for two, and a handler's `mbsend` never blocks. `hend` frees its slot, with the reply for an
`amr`. The model's own choices that show in it: log entries 59 and 93. -/
def Obligations.MessagesAreSent : Prop := ∀ f : Fields,
  let free (e : Env) : Prop := e.on ∧ e.t.joins = [] ∧ e.a0 < 2 ^ 22
  let rel (e : Env) := sendRelease e e.s (bit f.md 1) (scopeTo e.eid e.a0)
  EndsBy (formAm f false) true false f (.am f) free rel (fun e r => e.told e.a0 1 .none (.am e.b0 (quad e) false) r) ∧
  EndsBy (formAm f true) true false f (.amD f) (fun e => free e ∧ e.b0 % 8 = 0 ∧ e.b0 + 31 ≤ 0x7FFFF) rel
    (fun e r => e.told e.a0 1 .none (.deposit e.b0 (quad e) (f.imm.toNat % 65536)) r) ∧
  EndsBy (formAmr f) false false f (.amr f) free rel (fun e r => e.told e.a0 2 e.od.target (.am e.b0 (quad e) true) r) ∧
  EndsBy (formMbsend f) true false f (.mbsend f) free rel
    (fun e r => e.asked e.a0 2 (.mbox (f.imm.toNat % 4) e.b0 (bit f.md 0 || decide (16 ≤ e.slot))) r) ∧
  Ends (formHend f) true false f (.hend f)
    (fun e => e.on ∧ 16 ≤ e.slot ∧ e.t.allLanded = true ∧ e.t.deferred = [] ∧ ownWrites e.s0 e.eid e.slot 15 0 = [])
    (fun e =>
      let s := tryFreeze ((orphan e.s e.eid e.slot).modCore e.eid fun c => { c with threads := Keyed.del c.threads e.slot }) e.eid
      match e.t.replyTo with
      | none => s
      | some r => sendPacket s { (default : Packet) with
          asid := e.asid, src := e.eid, dst := r.eid, slot := r.slot, pend := r.pend, cls := 6
          body := .amrReply (if f.md = 1 then e.a0 else 0), ipc := r.ipc, word := r.word })

/-- R332, whole: `mbcnt` writes the count of entries in mailbox k of its own core under the raw rule of R69, `mbcnt.all` the four
counts, mailbox j's in bits 8j + 7 to 8j; neither changes anything but D and the issue itself. -/
def Obligations.MailboxCounts : Prop := ∀ f : Fields,
  (f.md = 0 → Ends (formMbcnt f) true false f (.mbcnt f) (fun e => e.on)
    (fun e => e.doneL [(0, fitRaw e.od.w (e.c.mboxes.getD (simm14 f.b).toNat []).length)] 0)) ∧
  (f.md ≠ 0 → Ends (formMbcnt f) true false f (.mbcnt f) (fun e => e.on)
    (fun e => e.doneL [(0, fitRaw e.od.w ((e.c.mboxes.getD 0 []).length + (e.c.mboxes.getD 1 []).length * 2 ^ 8 +
      (e.c.mboxes.getD 2 []).length * 2 ^ 16 + (e.c.mboxes.getD 3 []).length * 2 ^ 24))] 0))

/-- R317 to R320, R324 and R325: the core that a message reaches refuses it for the first check that fails, queues a handler message
while its queue of 64 has room, and writes a deposit as four stores, word 0 first; a reply lands at its sender. R92, R320 and R328 to
R331: the head of a core's handler queue starts in the lowest free handler slot with its four arguments; places reserved 512 cycles
ago lapse; a mailbox takes an entry while it has room, refuses it for a later try, and past its budget answers FULL or records its
sender, of whom there are at most 16. The model's own choices that show in it: log entries 51, 54, 59, 101 and 114. -/
def Obligations.MessagesAndHandlersArrive : Prop :=
  (∀ (s : State) (p : Packet), readyPkt? s = some p →
    let c := s.core p.dst
    (∀ r, refusalOf s p = some r →
      ((∃ a w b, p.body = .am a w b) → exec .activeMessageArrival s = .next (answer s p (.refuse r))) ∧
      ((∃ o w g, p.body = .deposit o w g ∧ 4 ≤ w.length) → exec .depositArrival s = .next (answer s p (.refuse r)))) ∧
    (∀ addr args b, p.body = .am addr args b → refusalOf s p = none →
      (handlerOk s (eidDev p.dst) p.asid addr = false → exec .activeMessageArrival s = .next (answer s p (.refuse 3))) ∧
      (handlerOk s (eidDev p.dst) p.asid addr = true → c.handlerQ.length < 64 →
        let r : Option ReplyTo :=
          if b then some { eid := p.src, slot := p.slot, pend := p.pend, ipc := p.ipc, word := p.word } else none
        exec .activeMessageArrival s = .next (answer (s.setCore p.dst { c with
          handlerQ := c.handlerQ ++ [.am addr args r] }) p .quiet))) ∧
    (∀ off args tag, p.body = .deposit off args tag →
      let ks := (List.range 32).map (lmKey p.dst off + ·)
      let stored := putNum s (lmKey p.dst off) 8 (args.headD 0)
      let goesOn := stored.setPkt { p with body := .deposit (off + 8) (args.drop 1) tag }
      (4 ≤ args.length → refusalOf s p = none → ¬ (c.lmOk off 32 = true ∧ s.inHeader p.dst off 32 = false) →
        exec .depositArrival s = .next (answer s p (.refuse 4))) ∧
      (4 ≤ args.length → refusalOf s p = none → c.lmOk off 32 = true → s.inHeader p.dst off 32 = false → emptyGran s ks = none →
        exec .depositArrival s = .next goesOn) ∧
      (args.length = 2 ∨ args.length = 3 → exec .depositArrival s = .next goesOn) ∧
      (args.length = 1 → exec .depositArrival s = .next (answer (countTag stored p.dst tag 32) p .quiet))) ∧
    (∀ v, p.body = .amrReply v →
      exec .amrReply s = .next (reply (s.dropPkt p.id) p.dst p.slot p.pend [(0, fitPend s p.dst p.slot p.pend v)])) ∧
    (∀ r ipc, p.body = .refusal r ipc → exec .messageRefused s = .next (deferTrap
      (nackNote ((s.dropPkt p.id).modThr p.dst p.slot fun t =>
        { t with pend := t.pend.map fun x => if x.id = p.pend then { x with need := 0, vals := [] } else x }) p.dst p.src)
      p.dst p.slot p.pend { code := 10, cause := r, lane := 255, ipc := ipc, rpc := ipc, word := p.word, defer := true })) ∧
    (∀ h n mask q i, p.body = .decr h n mask q i → recOf s p.asid h = none → ∃ l, companions s p = p :: l ∧
      exec .decrementApply s = .next (l.foldl applyPkt (answer (strayDecrement s (State.hDie h) p.asid h 0 0) p .quiet)))) ∧
  ((∀ (s : State) (eid addr slot : Nat) (args : List Nat) (r : Option ReplyTo) (rest : List HMsg), s.who = [eid] →
      (s.core eid).handlerQ = .am addr args r :: rest → freeHandler (s.core eid) = some slot →
      (s.core eid).frozen = false → (s.core eid).freezing = none →
      exec .handlerStart s = .next (startThread
        ((acquire s eid slot 4).modCore eid fun c => { c with handlerQ := rest, startNo := c.startNo + 1 }) eid slot
        { newThread addr 64 [] 0 0xFFFFFFFF (args.map (BitVec.ofNat 64)) with
          hslot := true, startNo := (s.core eid).startNo, replyTo := r })) ∧
    (∀ (s : State) (p : Packet) (k v : Nat) (nb : Bool), readyPkt? s = some p → p.body = .mbox k v nb →
      boxTurn s p = true →
      let lapsed := ((s.core p.dst).mbResv.any fun r => r.pkt == p.id && decide (r.until_ ≤ s.cycle p.dst)) = true
      let t := lapseDue s p.dst
      let c := t.core p.dst
      let full (q : Packet) : State := t.setPkt (if q.crosses = true then q.withReply .full
        else { q with state := .refused, due := t.cycle q.src + (if q.tries < 17 then 64 else 256) })
      (lapsed → exec .mailboxEntryArrival s = .next t) ∧
      (¬ lapsed → t.hasCore p.dst = false ∨ c.ctx ≠ some p.asid →
        exec .mailboxEntryArrival s = .next (answerWord t p (resWord stSTATE 0))) ∧
      (¬ lapsed → t.hasCore p.dst = true → c.ctx = some p.asid → mbRoom c k p.id = true →
        exec .mailboxEntryArrival s = .next (answerWord (t.setCore p.dst { c with
          mboxes := c.mboxes.set k (c.mboxes.getD k [] ++ [BitVec.ofNat 64 v])
          mbAt := (t.cycle p.dst, k)
          mbResv := c.mbResv.filter (·.pkt != p.id) }) p (resWord stOK 0))) ∧
      (¬ lapsed → t.hasCore p.dst = true → c.ctx = some p.asid → mbRoom c k p.id = false →
        (p.tries < 16 → exec .mailboxEntryArrival s = .next (full { p with tries := p.tries + 1 })) ∧
        (16 ≤ p.tries → nb = true → exec .mailboxEntryArrival s = .next (answerWord t p (resWord stFULL 0))) ∧
        (16 ≤ p.tries → nb = false → 16 ≤ recordedAt c k →
          exec .mailboxEntryArrival s = .next (full { p with tries := p.tries + 1 })) ∧
        (16 ≤ p.tries → nb = false → recordedAt c k < 16 → exec .mailboxEntryArrival s =
          .next ((t.setPkt { p with state := .recorded, tries := p.tries + 1 }).setCore p.dst
            { c with mbRec := c.mbRec.set k (c.mbRec.getD k [] ++ [p.id]) })))) ∧
    (∀ (s : State) (id : Nat) (p : Packet) (k v : Nat) (nb : Bool), s.who = [id] → s.pkt? id = some p → p.body = .mbox k v nb →
      p.state = .refused → p.due ≤ s.cycle p.src →
      (p.tries < 17 → exec .mbsendRetry s = .next (renewPkt s p.id)) ∧
      (17 ≤ p.tries → exec .mbsendRecordRetry s = .next (renewPkt s p.id))) ∧
    (∀ (s : State) (eid id : Nat) (r : MbResv), s.who = [eid, id] → (s.core eid).mbResv.find? (·.pkt == id) = some r →
      r.until_ ≤ s.cycle eid →
      exec .mailboxReservationExpiry s = .next (offerPlace
        (let s' := s.modCore eid fun c => { c with
          mbResv := c.mbResv.filter (·.pkt != id)
          mbRec := c.mbRec.set r.box (c.mbRec.getD r.box [] ++ [id]) }
         { s' with net := s'.net.map fun q => if q.id = id then { q with state := .recorded } else q }) eid r.box)))

/-- R334 to R336 and R342: `push`, `pop` and `pop.w` send their operation to the Yard at the queue's home, with the result still to
come, a pop's with an acquire; `qmk` and `qmk.free` send theirs, or `qmk` answers STATE for a place that can hold no queue. That `qmk` and
`qmk.free` travel as class 4 requests is the model's choice: log entry 53. Its other choices that show here: log entry 60. -/
def Obligations.QueueInstructions : Prop := ∀ f : Fields,
  let free (e : Env) : Prop := e.on ∧ e.t.joins = []
  let sent (e : Env) (nr : Bool) (dev : Nat) := sendRelease e e.s nr (scopeYard e.eid dev)
  let pops (form : Option Form) (hOk : Bool) (i : Instr) (p : Env → Prop) (lim : Env → Option Nat) : Prop :=
    EndsBy form hOk false f i (fun e => free e ∧ p e) queueHome (fun e x =>
      match (e.upd e.s).pendL (Env.wide e.od 2).target 1 with
      | (n, s) => e.send (s.modThr e.eid e.slot fun t => { t with
          pend := t.pend.map fun x => if x.id = n then { x with acq := true } else x }) (yardUnit x.1) 4 [] n (.pop x.2 (lim e)))
  EndsBy (formPush f) true false f (.push f) free
    (fun e => do
      let h ← queueHome e
      let r ← sent e (bit f.md 1) h.1
      .ok (h, r))
    (fun e x => match (e.upd x.2.1).pendL e.od.target 1 with
      | (n, s) => e.send (s.modThr e.eid e.slot fun t => { t with
          pend := t.pend.map fun x => if x.id = n then { x with acq := false } else x }) (yardUnit x.1.1) 4 x.2.2 n (.push x.1.2 e.b0)) ∧
  pops (formPop f) true (.pop f) anyEnv (fun _ => none) ∧
  pops (formPopW f) false (.popW f) (fun e => e.b0 < 2 ^ 32) (fun e => some e.b0) ∧
  (∀ (k : Nat) (ks : List Nat) (c : Bool),
    let good (e : Env) : Prop := free e ∧ addrOf e.a0 % 64 = 0 ∧ bits e.b0 7 1 = 0 ∧ bits e.b0 15 13 = 0 ∧ bits e.b0 63 29 = 0 ∧
      bits e.b0 12 8 ≤ 20 ∧ xlThread e 255 (addrOf e.a0) 1 true = .ok (k :: ks, c)
    let fits (e : Env) : Prop := keyIsHost k = false ∧ keyIsLm k = false ∧ e.s0.hasDev (k / 2 ^ 39) = true ∧
      addrOf e.a0 + 64 + 8 * 2 ^ bits e.b0 12 8 ≤ (pageSpan e (addrOf e.a0)).2
    Ends (formQmk f) true false f (.qmk f) (fun e => good e ∧ fits e)
      (fun e => e.asked (yardUnit (k / 2 ^ 39)) 4 (.taskOp 11 [k % 2 ^ 39, e.b0]) (e.s, [])) ∧
    Ends (formQmk f) true false f (.qmk f) (fun e => good e ∧ ¬ fits e) (fun e => e.answers e.s stSTATE 0)) ∧
  EndsBy (formQmkFree f) true false f (.qmkFree f) free queueHome
    (fun e h => e.asked (yardUnit h.1) 4 (.taskOp 12 [h.2]) (e.s, []))

/-- R337 to R342: at the home Yard, once what is due has expired, a push meets the first waiting pop, a pop the first waiting push
or the oldest stored entry, and what meets nothing is stored, waits for its window, or is answered; a wait that expires falls
through, and a cancelled pop is answered EMPTY. The model's own choices that show in it: log entries 45 and 60. -/
def Obligations.QueueOperationsArrive : Prop :=
  (∀ (s : State) (p : Packet) (pa v : Nat), readyPkt? s = some p → p.body = .push pa v →
    let dev := eidDev p.dst
    let t := expireDue dev (s.dev dev).qops.length s
    (queueAt t dev pa = none → exec .pushArrival s = .next (answer t p (.result (pushVal stSTATE)))) ∧
    (∀ q, queueAt t dev pa = some q →
      (∀ o, q.nosplice = false → (waiting t dev pa false).head? = some o → exec .pushArrival s =
        .next (answer (answerOp t dev o.pkt (popVal stOK v)) p (.result (pushVal stOK)))) ∧
      (q.nosplice = true ∨ waiting t dev pa false = [] ∧ (q.fifo = true ∧ 0 < q.shadow ∨ 8192 ≤ tableUsed t dev) →
        exec .pushArrival s = .next (toMemory t dev pa p.id v)) ∧
      (q.nosplice = false → waiting t dev pa false = [] → (q.fifo = false ∨ q.shadow = 0) → tableUsed t dev < 8192 →
        exec .pushArrival s = .next (waitOp t dev p pa (some v) q.window)))) ∧
  (∀ (s : State) (p : Packet) (pa : Nat) (lim : Option Nat), readyPkt? s = some p → p.body = .pop pa lim →
    let dev := eidDev p.dst
    let t := expireDue dev (s.dev dev).qops.length s
    (queueAt t dev pa = none → exec .popArrival s = .next (answer t p (.result (popVal stSTATE 0)))) ∧
    (∀ q, queueAt t dev pa = some q →
      (∀ o, (waiting t dev pa true).head? = some o → exec .popArrival s =
        .next (answer (answerOp t dev o.pkt (pushVal stOK)) p (.result (popVal stOK (o.push.getD 0))))) ∧
      (waiting t dev pa true = [] → 0 < q.shadow → exec .popArrival s = .next (fromMemory t dev q p.id)) ∧
      (waiting t dev pa true = [] → q.shadow = 0 → tableUsed t dev < 8192 → (lim = none → q.nosplice = false) →
        exec .popArrival s = .next (waitOp t dev p pa none
          (match lim with | some n => if n = 0 then q.window else n | none => q.window))) ∧
      (waiting t dev pa true = [] → q.shadow = 0 → (8192 ≤ tableUsed t dev ∨ lim = none ∧ q.nosplice = true) →
        exec .popArrival s = .next (answer t p (.result (popVal stEMPTY 0)))))) ∧
  (∀ (s : State) (dev id : Nat) (o : QOp), s.who = [dev, id] → firstDue s dev = some o → o.pkt = id →
    (∀ v, o.push = some v → exec .pushWindowExpiry s = .next (toMemory s dev o.pa o.pkt v)) ∧
    (o.push = none → exec .popWindowExpiry s = .next (answerOp s dev o.pkt (popVal stEMPTY 0)))) ∧
  (∀ (s : State) (p : Packet) (n pend : Nat) (o : QOp), readyPkt? s = some p → p.body = .popCancel n pend → popUnderWay s p pend = false →
    ((s.dev (eidDev p.dst)).qops.find? fun o => o.push.isNone && o.src.eid == p.src && o.src.pend == pend) = some o →
    exec .popWCancel s = .next (answer (answerOp s (eidDev p.dst) o.pkt (popVal stEMPTY 0)) { p with pend := 0 } .quiet))

/-! ## Collectives -/

/-- R362, R371, R372 and R374: `red`, `cbcast` and `cgath` read their call block, check the handle and the spans, and are accepted
when the plan and the block allow the call and three locks are free: the release is made, the call is posted with its locks, and D
says OK. A call that the plan turns away changes only D, and one on a plan that is not there is STALE. The model's own choices that
show in it: log entries 61 and 64. -/
def Obligations.CollectiveCalls : Prop := ∀ (f : Fields) (kind : Nat) (i : Instr) (w : List Nat),
  (kind = 0 ∧ i = .red f ∨ kind = 1 ∧ i = .cbcast f ∨ kind = 2 ∧ i = .cgath f) →
  let d (n : Nat) : Nat := w.getD n 0
  let good (e : Env) : Prop := e.on ∧ bits e.a0 15 6 = 0 ∧ e.a0 < 2 ^ 24 ∧ ownWords e e.b0 64 32 = .ok w
  let call (p : Plan) (m : Nat) (e : Env) : Call := { (default : Call) with
    member := m, epoch := (p.member m).next, block := e.b0, src := bits (d 0) 55 0, dst := bits (d 1) 55 0, len := bits (d 2) 31 0
    root := bits (d 2) 57 48, deadline := d 3, st := 1 }
  let reads (m : Nat) : Bool := kind != 1 || some m == some (bits (d 2) 57 48)
  let span (p : Plan) (m : Nat) (e : Env) : Prop := callSpan e p.inBytes (reads m) (bits (d 0) 55 0)
    (min (bits (d 2) 31 0) 65536) (bits (d 1) 55 0) (p.resultLen (min (bits (d 2) 31 0) 65536)) = .ok ()
  let found (k : Nat) (p : Plan) (m : Nat) (e : Env) : Prop :=
    planFind e.s0 e.asid e.a0 e.dev = some (k, p) ∧
    (firstIdx p.members.length fun i => (p.member i).eid == e.eid) = some m ∧ span p m e
  (∀ k p m, EndsBy (formRed f) false false f i
    (fun e => good e ∧ found k p m e ∧ callStatus p kind (some m) (call p m e) (bits (d 2) 47 32) = stOK ∧ e.t.joins = [] ∧
      e.c.rlocks.length + 1 + b2n (reads m) ≤ 32)
    (fun e => sendRelease e e.s (bit f.md 1) (p.members.foldl (fun a x => max a (scopeTo e.eid x.eid)) 2))
    (fun e r => e.answers (postCall e k p m (call p m e) (reads m) r.1 r.2) stOK 0)) ∧
  (∀ k p m st, st ≠ stOK → Ends (formRed f) false false f i
    (fun e => good e ∧ found k p m e ∧ callStatus p kind (some m) (call p m e) (bits (d 2) 47 32) = st)
    (fun e => e.answers e.s st 0)) ∧
  Ends (formRed f) false false f i
    (fun e => good e ∧ planFind e.s0 e.asid e.a0 e.dev = none ∧
      callSpan e 1 (kind != 1) (bits (d 0) 55 0) (min (bits (d 2) 31 0) 65536) (bits (d 1) 55 0)
        ((default : Plan).resultLen (min (bits (d 2) 31 0) 65536)) = .ok ())
    (fun e => e.answers e.s stSTALE 0)

/-- R356, R373 and R375 to R377: `redw` answers STATE for a block without a call, waits while the call is posted, and else returns
its state and present count with an acquire; `redr` writes each lane of D and steps the seeds; `redfix` says why no correction is
applied, or applies one or all and returns how many are left; `cplan` asks every node device to prepare a plan that is valid, and
`cplan.free` frees one without posted calls. That the prepare requests of `cplan` travel in class 3 is the model's choice: log entry
119. Its other choices that show here: log entries 64, 66 and 97. -/
def Obligations.CallResults : Prop := ∀ (f : Fields) (w : List Nat),
  let st : Nat := w.getD 8 0 % 16
  let block (e : Env) : Prop := e.on ∧ ownWords e e.a0 64 32 = .ok w
  let calm (e : Env) : Prop := e.t.collFault.find? (·.1 == e.a0) = none
  Ends (formRedw f) false false f (.redw f) (fun e => block e ∧ calm e ∧ st = 0) (fun e => e.answers e.s stSTATE 0) ∧
  Waits (formRedw f) false false f (.redw f) (fun e => block e ∧ calm e ∧ st = 1 ∧ readsBound e.t = true)
    (fun e => { what := .call e.a0 f.imm.toNat, f := f, issued := e.s0.cycle e.eid }) ∧
  Ends (formRedw f) false false f (.redw f) (fun e => block e ∧ calm e ∧ 2 ≤ st ∧ readsBound e.t = true)
    (fun e => acquire (e.answers e.s stOK (st + bits (w.getD 9 0) 10 0 * 2 ^ 16)) e.eid e.slot 4) ∧
  (∀ t : Ty, Ty.ofCode (if f.etype.toNat = 0 then 6 else f.etype.toNat) = some t →
    Ends (formRedr f) true true f (.redr f) anyEnv (fun e =>
      let r (l : Nat) : Nat × Flags := redrLane e t (if f.etype.toNat = 0 then 6 else f.etype.toNat) (bits e.b0 10 0)
        (bits e.b0 26 16) (e.t.seed.getD l 1).toNat (e.a l)
      stepSeeds e 1 (e.doneL (e.dlanes.map fun l => (l, (r l).1)) ((e.dlanes.map r).foldl (fun fl x => fl ||| x.2) 0)))) ∧
  Ends (formRedfix f) false false f (.redfix f) (fun e => block e ∧ callAt e.s0 e.asid e.eid e.a0 = none)
    (fun e => e.answers (dropFix e.s e.eid e.slot) stSTATE 0) ∧
  (∀ k p c,
    let found (e : Env) : Prop := block e ∧ callAt e.s0 e.asid e.eid e.a0 = some (k, p, c)
    let live (e : Env) : Prop := p.freed = false ∧ e.s0.holdsPlan p e.dev = true
    let fixable (e : Env) : Prop := live e ∧ p.kind ≠ 1 ∧ p.mode = 2 ∧ (c.st = 2 ∨ c.st = 3)
    Ends (formRedfix f) false false f (.redfix f) (fun e => found e ∧ ¬ live e)
      (fun e => e.answers (dropFix e.s e.eid e.slot) stSTALE 0) ∧
    Ends (formRedfix f) false false f (.redfix f) (fun e => found e ∧ live e ∧ ¬ fixable e)
      (fun e => e.answers (dropFix e.s e.eid e.slot) stSTATE 0) ∧
    Ends (formRedfix f) false false f (.redfix f) (fun e => found e ∧ fixable e ∧ heldFor p c = [])
      (fun e => e.answers (dropFix e.s e.eid e.slot) stEMPTY 0) ∧
    (∀ s' : State, Ends (formRedfix f) false false f (.redfix f)
      (fun e => found e ∧ fixable e ∧ heldFor p c ≠ [] ∧ p.op ≠ 7 ∧ readsBound e.t = true ∧ e.c.rlocks.length < 32 ∧
        applyFixes k c.id (if bit f.md 0 then (heldFor p c).length else 1) e.s0 = (s', none))
      (fun e => let n := if bit f.md 0 then (heldFor p c).length else 1
        e.answers (acquire (applyFixes k c.id n e.s).1 e.eid e.slot 4) stOK ((heldFor p c).length - n)))) ∧
  Ends (formCplan f) false false f (.cplan f) (fun e => e.on ∧ readPlan e (addrOf e.a0) = .ok none)
    (fun e => e.answers (farDone e.s e.eid e.slot 0) stSTATE 0) ∧
  (∀ p, Ends (formCplan f) false false f (.cplan f)
    (fun e => e.on ∧ readPlan e (addrOf e.a0) = .ok (some p) ∧ e.t.joins = [])
    (fun e => match (e.upd (farDone e.s e.eid e.slot 0)).pendL e.od.target 1 with
      | (id, s) => p.devs.foldl (fun x d => e.send x (yardUnit d) 3 [] 0 (.planPrep s.nextId))
          { s.fresh.2 with plans := Keyed.put s.plans s.nextId { p with
              prep := p.devs, src := some { eid := e.eid, slot := e.slot, pend := id, ipc := e.pc, word := e.t.word } } })) ∧
  (∀ k p,
    let named (e : Env) : Prop := e.on ∧ bits e.a0 15 6 = 0 ∧ e.a0 < 2 ^ 24 ∧
      (planFind e.s0 e.asid e.a0 e.dev = some (k, p) ∨
        planFind e.s0 e.asid e.a0 e.dev = none ∧ planAny e.s0 e.asid e.a0 = some (k, p))
    Ends (formCplanFree f) false false f (.cplanFree f) (fun e => named e ∧ (p.calls.any (·.st == 1)) = true)
      (fun e => e.answers e.s stSTATE 0) ∧
    Ends (formCplanFree f) false false f (.cplanFree f) (fun e => named e ∧ (p.calls.any (·.st == 1)) = false)
      (fun e => e.answers (modPlan e.s k Plan.discard) stOK 0)) ∧
  Ends (formCplanFree f) false false f (.cplanFree f)
    (fun e => e.on ∧ bits e.a0 15 6 = 0 ∧ e.a0 < 2 ^ 24 ∧ planFind e.s0 e.asid e.a0 e.dev = none ∧
      planAny e.s0 e.asid e.a0 = none)
    (fun e => e.answers e.s stSTALE 0)

/-- R358, R361, R363 to R370 and R375: what follows a call. A contribution or a forward reaches its node; a node learns that an
epoch is open, or forwards it when it is complete or due; a user routine starts on a yard core, ends with a combination or aborts
its epoch, and its watchdog traps with 0x09; a result reaches a node, goes on to its child nodes, and is delivered to its members'
posted calls; corrections are committed at the root, go down the tree, and wait for `redfix` or are discarded; a device that loses
the root has its pending epochs aborted; a plan without a member device is dead under the strict mode and goes on without it under
any other; the last device to prepare commits a plan; and `redw` ends EMPTY at its limit. The model's own choices that show in it:
log entries 62, 63, 65, 66, 106, 107, 108, 118 and 119. -/
def Obligations.CollectiveEvents : Prop := ∀ (s : State) (k : Nat) (p : Plan), Keyed.get? s.plans k = some p →
  (∀ pk, readyPkt? s = some pk →
    (∀ id c, pk.body = .contrib k id → p.calls.find? (·.id == id) = some c →
      (s.nodeOpen p (p.member c.member).node = false ∨ c.st = 4 ∧ c.abort ≠ 4) →
      exec .contributionArrival s = .next ((dropLock s pk.src c.id).dropPkt pk.id)) ∧
    (∀ id c bs, pk.body = .contrib k id → p.calls.find? (·.id == id) = some c → s.nodeOpen p (p.member c.member).node = true →
      (c.st = 4 → c.abort = 4) →
      let data : Prop := p.kind ≠ 1 ∨ c.root = c.member
      let len : Nat := if data then c.len else 0
      stagingUsed s (eidDev pk.src) + (if p.kind = 0 then p.resultLen c.len else len) ≤ 2 ^ 24 →
      engineAll s pk.src (unitSlot pk.id) s.nextId pk.asid false (c.src : Int) len = .ok bs →
      exec .contributionArrival s = .next (admitAll (placeShare
        (answer (dropLock (farDone s pk.src (unitSlot pk.id) 0) pk.src c.id) pk .quiet) k
        (p.member c.member).node (p.member c.member).slot c.epoch
        { bitmap := if data then [c.member] else [], len := c.len, root := c.root, deadline := c.deadline,
          elems := (piecesBy p.inBytes bs (bs.length / p.inBytes)).map p.elemOf }) k)) ∧
    (∀ node epoch r j, pk.body = .forward k node epoch r → (p.node node).parent = some j → s.nodeOpen p j = true →
      p.nodeGone node = false → stagingUsed s (p.node j).dev + p.shareLen r ≤ 2 ^ 24 →
      exec .contributionArrival s = .next (admitAll (placeShare (answer s pk .quiet) k j (p.node node).pslot epoch r) k)) ∧
    (pk.body = .planPrep k → Keyed.get? (answer s pk .quiet).plans k = some p →
      let s' := answer s pk .quiet
      let p' : Plan := { p with prep := p.prep.filter (· != eidDev pk.dst) }
      let t : State := { s' with plans := Keyed.put s'.plans k p' }
      (p'.prep ≠ [] → exec .planPrepare s = .next t) ∧
      (p'.prep = [] → p.src.isSome = true → exec .planPrepare s = .next (planCommit t k p')))) ∧
  (∀ node epoch x, s.who = [k, node, epoch] → p.epochAt node epoch = some x →
    (x.forwarded = false → s.nodeOpen p node = true →
      (p.complete x = true ∨ p.due x (nodeTick s p node) = true) →
      exec .forwardTickExpiry s = .next (admitAll (forwardNode s k x) k)) ∧
    (x.forwarded = true → exec .forwardTickExpiry s = .next (admitAll s k))) ∧
  (∀ node epoch, s.who = [k, node, epoch] → s.nodeOpen p node = true → (p.opened.any (·.1 == epoch)) = true → p.epochAt node epoch = none →
    let mine := (List.range p.nodes.length).filter fun i => (p.node i).dev == (p.node node).dev
    let maxd := p.nodes.foldl (fun m x => max m x.depth) 0
    let deepest := (List.range (maxd + 1)).flatMap fun d => mine.filter fun i => (p.node i).depth + d == maxd
    exec .epochOpen s = .next (admitAll (deepest.foldl (fun s i => learn s k i epoch) s) k)) ∧
  (∀ node epoch n j, s.who = [k, node, epoch, n] → p.jobs.find? (fun j => j.named node epoch n) = some j →
    (∀ slot v rest y, j.core = none → j.rest = (slot, v) :: rest → freeYard s (p.node j.node).dev = some y →
      exec .userRoutineRun s = .next (startRoutine s k p j slot v y)) ∧
    (∀ y, j.core = some y → s.thr? y 0 = none →
      let acc : Share := { j.acc with
        bitmap := match j.rest with | (_, v) :: _ => j.acc.bitmap ++ v.bitmap | [] => j.acc.bitmap
        elems := ((List.range j.acc.len).map fun i => s.byte (lmKey y (0x10000 + i))).map fun b => .pat b.toNat }
      (j.rest.length ≤ 1 → j.member = none → exec .userRoutineRun s = .next
        (admitAll (sendUp (modPlan s k fun p => { p with jobs := p.jobs.filter fun x => x != j }) k j.node j.epoch acc) k)) ∧
      (1 < j.rest.length ∨ j.member ≠ none → exec .userRoutineRun s = .next (modPlan s k fun p => { p with
        jobs := p.jobs.map fun x => if x = j then { j with acc := acc, rest := j.rest.drop 1, core := none } else x }))) ∧
    (∀ y t i, j.core = some y → s.thr? y 0 = some t → t.status = .trapped i → j.member = none →
      exec .userRoutineRun s = .next (abortEpoch (modPlan (s.modCore y fun c => { c with threads := [] }) k
        fun p => { p with jobs := p.jobs.filter fun x => x != j }) k j.epoch 6)) ∧
    (∀ y t i m c, j.core = some y → s.thr? y 0 = some t → t.status = .trapped i → j.member = some m →
      (p.calls.find? fun c => c.member == m && c.epoch == j.epoch) = some c →
      let u := abortEpoch (modPlan (s.modCore y fun c => { c with threads := [] }) k
        fun p => { p with jobs := p.jobs.filter fun x => x != j }) k j.epoch 6
      exec .userRoutineRun s = .next (blkPut (modPlan (dropLock u (p.member m).eid j.lock) k fun p =>
        p.setCall { c with st := 4, abort := 6 }) (p.member m).eid c.block 64 8 (4 + 6 * 256)))) ∧
  (∀ eid t, s.who = [eid] → s.thr? eid 0 = some t → isYard eid = true → 65536 ≤ t.issued → t.status = .ready →
    exec .yardRoutineWatchdog s = .next (takeTrap s eid 0 { code := 9, ipc := t.pc.toNat, rpc := t.pc.toNat, word := t.word })) ∧
  (∀ w pk i r, s.who = [w] → readyBody? s = some (pk, .planResult k i r) →
    let ms := p.awaiting i r.epoch
    let n := ((ms.filter fun m => !p.posted m r.epoch).map fun _ => p.shareLen r.share).sum
    (s.nodeOpen p i = false → exec .resultDelivery s = .next (answer s pk .quiet)) ∧
    (s.nodeOpen p i = true → n = 0 ∨ stagingUsed s (eidDev pk.dst) + n ≤ 2 ^ 24 →
      exec .resultDelivery s = .next (sendDown (modPlan (answer s pk .quiet) k fun p =>
        { p with results := p.results ++ ms.map fun m => (m, r) }) p i fun j => .planResult k j r))) ∧
  (∀ m epoch n r c, s.who = [k, m, epoch] → p.results.find? (fun x => x.1 == m && x.2.epoch == epoch) = some (n, r) →
    p.freed = false →
    (p.reaches m = true ∨ p.cutOff.contains (p.node (p.member m).node).dev = true) →
    p.calls.find? (fun c => c.member == m && c.epoch == r.epoch && c.st == 1) = some c → (s.core (p.member m).eid).ctx = some p.asid →
    blkOpen s (p.member m).eid c.block = none →
    (r.abort ≠ 0 → exec .resultDelivery s = .next (putStatus s k p c r r.abort)) ∧
    (r.abort = 0 → c.wrote = false →
      exec .resultDelivery s = .next (putStatus (putResult s p c r).1 k p c r (putResult s p c r).2))) ∧
  (∀ pk node epoch r, readyBody? s = some (pk, .shake k node epoch r) → p.nodeGone node = false →
    (answer s pk .quiet).nodeOpen p p.root = true → Keyed.get? (answer s pk .quiet).plans k = some p →
    let t := modPlan (answer s pk .quiet) k fun p => { p with shakes := p.shakes ++ [(epoch, r)] }
    exec .shakeOutCommit s = .next (if p.sent epoch then sendShakes t k epoch else t)) ∧
  (∀ w pk i epoch r, s.who = [w] → readyBody? s = some (pk, .planFix k i epoch r) →
    let ms := p.membersOf i
    (s.nodeOpen p i = false → exec .correctionArrival s = .next (answer s pk .quiet)) ∧
    (s.nodeOpen p i = true → ms = [] ∨ stagingUsed s (eidDev pk.dst) + ms.length * p.shareLen r ≤ 2 ^ 24 →
      exec .correctionArrival s = .next (sendDown (modPlan (answer s pk .quiet) k fun p =>
        { p with fixes := p.fixes ++ ms.map fun m => (m, epoch, r) }) p i fun j => .planFix k j epoch r))) ∧
  (∀ m i e r c, s.who = [k, m] → dueFix s p m = some (i, e, r, c) →
    let gone := modPlan s k fun p => { p with fixes := p.fixes.eraseIdx i }
    (c.discard = true ∨ c.st = 4 ∧ c.abort ≠ 4 → exec .correctionArrival s = .next gone) ∧
    (c.discard = false → (c.st = 4 → c.abort = 4) → blkOpen s (p.member m).eid c.block = none →
      exec .correctionArrival s = .next (blkAdd (modPlan gone k fun p => { p with held := p.held ++ [(m, e, r)] })
        (p.member m).eid c.block 80 2 1))) ∧
  (∀ x d, s.who = [k, x, d] → p.freed = false → p.devs.contains x = true → p.devs.contains d = true →
    (s.dev x).unreachable.contains d = true →
    let t := modPlan s k fun p => { p with lost := d :: p.lost }
    let posted := ((p.calls.filter fun c => c.st == 1).map (·.epoch)).eraseDups
    ((p.node p.root).dev = d → p.cutOff.contains x = false → exec .planDeviceLost s = .next (modPlan s k fun p => { p with
      cutOff := x :: p.cutOff
      jobs := p.jobs.filter fun j => (p.node j.node).dev != x || j.member.isSome
      results := p.results ++ (p.calls.filter fun c => c.st == 1 && (p.node (p.member c.member).node).dev == x &&
        !p.results.any fun r => r.1 == c.member && r.2.epoch == c.epoch).map fun c => (c.member, RResult.aborted c.epoch 2) })) ∧
    ((p.node p.root).dev = x → x ≠ d → p.lost.contains d = false → p.mode = 0 → exec .planDeviceLost s = .next (modPlan
      (posted.foldl (fun s e => abortEpoch s k e 1) t) k fun p => { p with dead := true })) ∧
    ((p.node p.root).dev = x → x ≠ d → p.lost.contains d = false → p.mode ≠ 0 →
      exec .planDeviceLost s = .next (admitAll (p.epochs.foldl (fun s x => pokeNode s k x.node x.epoch) t) k))) ∧
  (∀ eid slot t w b lim, s.who = [eid, slot] → s.thr? eid slot = some t → t.status = .waiting w → w.what = .call b lim →
    (t.collFault.any fun x => x.1 == b) = false → (t.drainReq = true ∨ 0 < lim ∧ w.issued + lim ≤ s.cycle eid) →
    exec .redwTimeout s = .next (endWait s eid slot w (some (resWord stEMPTY 0))))

/-! ## System -/

/-- R398, whole: `trap` raises trap 0x0E and `brk` trap 0x0D with TCODE n, and neither traps when lane 0 is inactive. -/
def Obligations.ExplicitTraps : Prop := ∀ (f : Fields) (i : Instr) (code : Nat),
  (i = .trap f ∧ code = 14 ∨ i = .brk f ∧ code = 13) →
  Traps (formTrap f) true false f i (fun e => e.on)
    (fun e => { e.info code with rpc := e.pc + e.len, tcode := (simm14 f.b).toNat, lane := 255 }) ∧
  Ends (formTrap f) true false f i (fun e => ¬ e.on) (fun e => e.s)

/-- R354, R384, R388, R392 to R394 and R399 to R401: `eret` sends its request to the core that A names, `drain` marks the instances
it names and returns how many, `drain.res` resumes them, `frz` begins to freeze a core, which `frz.res` thaws with its caught
arrivals replayed, and each answers STATE where there is nothing to act on; toward a device that counts as unreachable `frz` and
`frz.res` are told at the marker. `gang` answers STATE or NOMEM, or begins the first round. The model's own choices that show in it:
log entries 25, 67, 68, 69 and 117. -/
def Obligations.SystemInstructions : Prop := ∀ (f : Fields) (w : List Nat),
  let all (e : Env) (live : Inst → Bool) : List Nat :=
    instsOf e.s0 e.dev e.asid fun i => i.committed && live i && (f.md == 0 || i.gid == e.a0)
  let cut (e : Env) : Prop := (e.s0.dev e.dev).unreachable.contains (eidDev e.a0) = true
  let named (e : Env) : Prop := e.on ∧ e.a0 < 2 ^ 22 ∧
    (eidDev e.a0 = e.dev ∨ e.s0.hasDev (eidDev e.a0) = false ∨ ¬ cut e ∧ e.s0.reaches e.dev (eidDev e.a0) = true)
  let lost (e : Env) : Prop := e.on ∧ e.a0 < 2 ^ 22 ∧ eidDev e.a0 ≠ e.dev ∧ e.s0.hasDev (eidDev e.a0) = true ∧ cut e
  let told (e : Env) : State := deferTrap { e.s with nextId := e.s.nextId + 1 } e.eid e.slot e.s.nextId
    { e.info 10 with cause := 6, lane := 255, defer := true }
  let gang (e : Env) : Prop := e.on ∧ ownWords e e.a0 64 20 = .ok w
  let good : Prop := bits (w.getD 0 0) 63 56 = 0 ∧ bits (w.getD 1 0) 63 56 = 0 ∧ bits (w.getD 2 0) 63 8 = 0 ∧ gangDevs w ≠ []
  Ends (formEret f) false false f (.eret f)
    (fun e => e.on ∧ bits e.a0 31 22 = 0 ∧ bits e.a0 63 37 = 0 ∧ bits e.b0 31 2 = 0 ∧ bits e.b0 63 51 = 0 ∧ e.t.joins = [])
    (fun e => e.asked (bits e.a0 21 0) 3 (.eret (bits e.a0 36 32) (bits e.b0 1 0) (bits e.b0 50 32)) (e.s, [])) ∧
  Ends (formDrain f) false false f (.drain f)
    (fun e => e.on ∧ (f.md = 1 → e.a0 < 2 ^ 16 ∧ all e (fun _ => true) ≠ []))
    (fun e =>
      let new := all e fun i => !i.draining
      e.answers (new.foldl (fun s g => drainInst s e.dev e.asid g) e.s) stOK new.length) ∧
  Ends (formDrain f) false false f (.drain f)
    (fun e => e.on ∧ f.md = 1 ∧ e.a0 < 2 ^ 16 ∧ all e (fun _ => true) = []) (fun e => e.answers e.s stSTATE 0) ∧
  Traps (formDrain f) false false f (.drain f) (fun e => e.on ∧ f.md = 1 ∧ 2 ^ 16 ≤ e.a0) (fun e => e.info 2) ∧
  Ends (formDrainRes f) false false f (.drainRes f) (fun e => e.on)
    (fun e =>
      let gs := instsOf e.s0 e.dev e.asid fun i => i.draining
      let s := gs.foldl (fun s g => unmark (setDrainReq s e.dev e.asid g false) e.dev e.asid g) e.s
      e.answers { s with insts := s.insts.map fun (d, i) =>
        (d, if d = e.dev ∧ i.asid = e.asid then { i with draining := false, suspended := false } else i) } stOK gs.length) ∧
  Ends (formResA f 0) false false f (.frz f)
    (fun e => named e ∧ (frzBad e = true ∨ (e.s0.core e.a0).frozen = true ∨ (e.s0.core e.a0).freezing.isSome = true))
    (fun e => e.answers e.s stSTATE 0) ∧
  Ends (formResA f 0) false false f (.frz f)
    (fun e => named e ∧ frzBad e = false ∧ (e.s0.core e.a0).frozen = false ∧ (e.s0.core e.a0).freezing = none)
    (fun e => match e.pendL e.od.target 1 with
      | (p, s) => tryFreeze (s.modCore e.a0 fun c => { c with freezing := some { eid := e.eid, slot := e.slot, pend := p } }) e.a0) ∧
  Ends (formResA f 1) false false f (.frzRes f)
    (fun e => named e ∧ (frzBad e = true ∨ (e.s0.core e.a0).frozen = false)) (fun e => e.answers e.s stSTATE 0) ∧
  Ends (formResA f 1) false false f (.frzRes f) (fun e => named e ∧ frzBad e = false ∧ (e.s0.core e.a0).frozen = true)
    (fun e =>
      let c := e.s0.core e.a0
      let s := c.spill.foldl replay (reloadImage (e.s.modCore e.a0 fun c => { c with frozen := false, spill := [] }) e.a0)
      e.answers (c.threads.foldl (fun s (i, _) =>
        match s.thr? e.a0 i with | some t => thawThread s e.a0 i t | none => s) s) stOK c.spill.length) ∧
  Ends (formResA f 0) false false f (.frz f) lost told ∧
  Ends (formResA f 1) false false f (.frzRes f) lost told ∧
  Ends (formGang f) false false f (.gang f) (fun e => gang e ∧ ¬ good) (fun e => e.answers e.s stSTATE 0) ∧
  EndsBy (formGang f) false false f (.gang f)
    (fun e => gang e ∧ good ∧ gangGid e.s0 e.dev e.asid [] = none ∧ e.t.joins = [])
    (fun e => sendRelease e e.s false 4) (fun e r => e.answers r.1 stNOMEM 0) ∧
  (∀ n, EndsBy (formGang f) false false f (.gang f)
    (fun e => gang e ∧ good ∧ gangGid e.s0 e.dev e.asid [] = some n ∧ e.t.joins = [])
    (fun e => sendRelease e e.s false 4)
    (fun e r => match (e.upd r.1).pendL e.od.target 1 with
      | (pid, s) =>
        let g : Gang :=
          { id := s.nextId, asid := e.asid, src := { eid := e.eid, slot := e.slot, pend := pid, ipc := e.pc, word := e.t.word }
            template := w.getD 0 0, rename := w.getD 1 0, queue := w.getD 2 0
            tstart := if w.getD 3 0 = 0 then (e.s0.dev e.dev).tick + 100000 else w.getD 3 0
            devs := gangDevs w, gid := n, die := eidDie e.eid % 4, refusedG := [], round := 1, prepared := []
            refusals := [], waits := [] }
        let s' := gangRound s.fresh.2 g r.2
        match s'.gangs.find? (·.id == s.nextId) with
        | some g => if g.waits = [] then gangDecide s' g else s'
        | none => s'))

/-- R380 and R389 to R391: `ctxsv` writes the image of its thread, or answers STATE for a faulted slot, or traps for a live slice or
a predicate that holds an uncorrectable error, and `ctxld` restores the thread and
its slots from an image and clears its first doubleword, or answers EMPTY, STATE or NOMEM. The model's own choices that show in it:
log entry 67. -/
def Obligations.ContextImages : Prop := ∀ (f : Fields) (ks : List Nat),
  let mask := (simm14 f.b).toNat
  let va (e : Env) := addrOf e.a0
  let now (e : Env) : Thread := (((e.s.thr? e.eid e.slot).getD e.t).flush e.s0.free).write e.od fun l => if l = 0 then some 0 else none
  let saves (e : Env) : Prop :=
    let t := now e
    e.on ∧ e.t.imageEcc = none ∧ e.t.allLanded = true ∧ e.t.joins = [] ∧ va e % 64 = 0 ∧ mask / 2 ^ min e.slots 4 = 0 ∧
    areaKeys e (va e) (imageOf e.c t (e.pc + e.len) mask (imageSlots e mask)).length true = .ok ks ∧
    (∀ m ∈ e.c.mxq, m.phys ∈ (imageSlots e mask).map (·.2) → (e.c.accs.getD m.phys default).fault ≠ none)
  let far (e : Env) (k : Nat) : Option Byte := farSeen e.s0 e.eid e.slot e.s0.nextId k
  let seen (e : Env) (l : List Nat) : List Byte := l.map fun k => (far e k).getD 0
  let reads (e : Env) (l : List Nat) : Prop := (∀ k ∈ l, k ∈ e.s0.bad → keyIsLm k = true → e.s0.far e.dev k = true) ∧
    (∀ k ∈ l, e.s0.cutKey e.dev k = false) ∧ (∃ x, farRead e.s0 e.asid e.eid e.slot e.s0.nextId l = .ok x) ∧ (∀ k ∈ l, far e k ≠ none)
  let off (e : Env) : State := farDone e.s e.eid e.slot 0
  let head (e : Env) : Nat := ofBytes (seen e ks)
  let loads (e : Env) : Prop := e.on ∧ e.t.allLanded = true ∧ e.t.joins = [] ∧ va e % 64 = 0 ∧ areaKeys e (va e) 8 false = .ok ks ∧
    reads e ks
  let legal (e : Env) : Prop := bits (head e) 51 48 / 2 ^ min e.slots 4 = 0 ∧ (bits (head e) 51 48 ||| mask) = mask ∧
    (bits (head e) 55 52 = 0 ∨ isWTile (eidEp e.eid) = true) ∧ bits (head e) 47 32 % 64 = 0 ∧ bits (head e) 47 32 ≠ 0 ∧
    bits (head e) 47 32 ≤ 512
  let room (e : Env) : Prop := bits (head e) 47 32 / 64 ≤ e.t.units.length + (freeUnits e.c).length
  (∀ c, Traps (formCtxsv f) false false f (.ctxsv f)
    (fun e => e.on ∧ e.t.allLanded = true ∧ e.t.joins = [] ∧ e.t.imageEcc = some c) (fun e => { e.info 11 with cause := c })) ∧
  Ends (formCtxsv f) false false f (.ctxsv f)
    (fun e => saves e ∧ ∃ x ∈ imageSlots e mask, (e.c.accs.getD x.2 default).fault ≠ none) (fun e => e.answers e.s stSTATE 0) ∧
  Ends (formCtxsv f) false false f (.ctxsv f)
    (fun e => saves e ∧ ∀ x ∈ imageSlots e mask, (e.c.accs.getD x.2 default).fault = none)
    (fun e =>
      let img := imageOf e.c (now e) (e.pc + e.len) mask (imageSlots e mask)
      match e.pendL e.od.target 1 with
      | (pid, s) =>
        let s := s.modThr e.eid e.slot fun t => { t with pend := t.pend.map fun (x : Pend) =>
          if x.id = pid then { x with vals := [(0, fitRaw e.od.w (resWord stOK img.length))] } else x }
        holdJoin e (issueImage e s.nextId (va e) ks img s) 3 pid [s.nextId]) ∧
  Ends (formCtx f) false false f (.ctxld f) (fun e => loads e ∧ head e % 2 ^ 32 = 0) (fun e => e.answers (off e) stEMPTY 0) ∧
  Ends (formCtx f) false false f (.ctxld f) (fun e => loads e ∧ head e % 2 ^ 32 ≠ 0 ∧ ¬ legal e)
    (fun e => e.answers (off e) stSTATE 0) ∧
  Ends (formCtx f) false false f (.ctxld f) (fun e => loads e ∧ head e % 2 ^ 32 ≠ 0 ∧ legal e ∧ ¬ room e)
    (fun e => e.answers (unitsAsked (off e) e.eid rankSwin) stNOMEM 0) ∧
  (∀ bs wk : List Nat, Ends (formCtx f) false false f (.ctxld f)
    (fun e => loads e ∧ head e % 2 ^ 32 ≠ 0 ∧ legal e ∧ room e ∧ areaKeys e (va e) (head e % 2 ^ 32) false = .ok bs ∧
      areaKeys e (va e) 8 true = .ok wk ∧ reads e bs ∧
      (∀ m ∈ e.c.mxq, m.phys ∉ (imageSlots e (bits (head e) 51 48)).map (·.2)))
    (fun e =>
      let k := bits (head e) 47 32 / 64
      let sl := imageSlots e (bits (head e) 51 48)
      let units := if k ≤ e.t.units.length then e.t.units.take k
        else e.t.units ++ (freeUnits e.c).take (k - e.t.units.length)
      let nb := (head e % 2 ^ 32 - 384 - 4104 * sl.length) / 256
      let s := (sl.zipIdx).foldl (fun s ((j, p), i) => modAcc s e.eid p fun a =>
          restoreSlot a (bit (bits (head e) 55 52) j) ((seen e bs).drop (384 + 256 * nb + 4104 * i)))
        ((unitsAsked (off e) e.eid rankSwin).modThr e.eid e.slot fun t => restoreThread (t.resize (64 * k) units) (seen e bs))
      issueStore (e.upd (off e)) s.nextId 0 true s { lane := 0, va := va e, keys := wk, cache := false } 0))

/-- R354, R393 and R400: an `eret` resumes a trapped thread of its context, once its joins are when it ends it, or answers STATE, a
frozen core's spill ring catches what arrives, which a thawed core still gets when the ring was full, and the requests of a gang are
prepared, committed or aborted, and armed at the start tick. The model's own choices that show in it: log entries 67 and 69. -/
def Obligations.SystemEvents : Prop := ∀ (s : State) (p : Packet),
  (∀ slot act target, readyPkt? s = some p → p.body = .eret slot act target →
    (s.hasCore p.dst = false ∨ isYard p.dst = true ∨ (s.core p.dst).ctx ≠ some p.asid ∨ 16 ≤ slot →
      exec .eretRequestArrival s = .next (answerWord s p (resWord stSTATE 0))) ∧
    (s.hasCore p.dst = true → isYard p.dst = false → (s.core p.dst).ctx = some p.asid → slot < 16 →
      endWaits s p.dst slot act = true → exec .eretRequestArrival s = .next s) ∧
    (s.hasCore p.dst = true → isYard p.dst = false → (s.core p.dst).ctx = some p.asid → slot < 16 →
      endWaits s p.dst slot act = false → exec .eretRequestArrival s = .next (match resume s p.dst slot act target with
        | (s', true) => answerWord s' p (resWord stOK 0)
        | (_, false) => answerWord s p (resWord stSTATE 0)))) ∧
  (∀ id, s.who = [id] → s.pkt? id = some p → p.here s = true → (s.core p.dst).frozen = true → p.body.caught = true →
    exec .spillRingCatch s = .next (spillPkt s p.dst p)) ∧
  (∀ id, s.who = [id] → s.pkt? id = some p → p.here s = true → (s.core p.dst).frozen = false → p.body.caught = true →
    p.body.own = true → exec .spillRingCatch s = .next (replay s id)) ∧
  (∀ id g, readyPkt? s = some p → s.gangs.find? (·.id == id) = some g →
    let dev := eidDev p.dst
    let rest := g.waits.filter (· != dev)
    let told (s : State) (g : Gang) : State := answer (modGang s id fun _ => g) p .quiet
    let die := dev * 4 + g.die
    let off : State := farDone s (dieUnit die) (unitSlot g.id) 0
    let up : Prop := (s.ctx? dev g.asid).isSome = true ∧ (s.dev dev).locked = true ∧
      (queueRing s die g.asid g.queue).isSome = true
    let read (t : Tmpl) (rb : List Byte) : Prop := readTemplate s (dieUnit die) (unitSlot g.id) g.asid g.template = .ok t ∧
      engineAll s (dieUnit die) (unitSlot g.id) s.nextId g.asid false (g.rename : Int) 128 = .ok rb
    let refused (st : Nat) : Prop :=
      let g' := { g with refusals := g.refusals ++ [(dev, st)], waits := rest }
      exec .gangPrepare s = .next (if rest = [] then gangDecide (told off g') g' else told off g')
    (p.body = .gangPrep id → ¬ up → refused stSTATE) ∧
    (∀ t rb st, p.body = .gangPrep id → up → read t rb → checkTemplate off dev g.asid die t (some g.gid) = .error st → refused st) ∧
    (∀ t rb x, p.body = .gangPrep id → up → read t rb → checkTemplate off dev g.asid die t (some g.gid) = .ok x →
      let s' := makeInst off dev g.asid die g.gid g.queue t (words rb 16) (some g.tstart)
      let g' := { g with prepared := g.prepared ++ [dev], waits := rest }
      exec .gangPrepare s = .next (if rest = [] then gangDecide (told s' g') g' else told s' g')) ∧
    (p.body = .gangCommit id → rest ≠ [] → g.phase ≠ 2 →
      exec .gangCommit s = .next (told (gangAbort s dev g.asid g.gid) { g with waits := rest })) ∧
    (p.body = .gangCommit id → g.phase = 2 →
      let g' := { g with waits := rest }
      let t := told { s with insts := s.insts.map fun (d, i) =>
        (d, if d = dev ∧ i.asid = g.asid ∧ i.gid = g.gid then { i with committed := true } else i) } g'
      exec .gangCommit s = .next (if rest = [] then gangAnswer t g' (resWord stOK (g.gid + 2 ^ 16 * g.devs.length)) else t))) ∧
  (∀ dev asid gid d i t, s.who = [dev, asid, gid] →
    s.insts.find? (fun (d, i) => d == dev && i.asid == asid && i.gid == gid) = some (d, i) → i.armAt = some t →
    i.committed = true → t ≤ (s.dev dev).tick →
    exec .gangArm s = .next (let s' : State := { s with insts := s.insts.map fun (d, x) =>
        (d, if d = dev ∧ x.asid = asid ∧ x.gid = gid then { x with armAt := none, since := dieCycle s x.die } else x) }
      ((instRecs s' dev asid gid).map (·.handle)).foldl (armInst i.queue) s'))

/-! ## Steps of the dispatchers and of memory -/

/-- R281, R283 to R296, R302 and R311: a queue's next entry is taken or its fault freezes the queue; a table entry ages; two
selections bind the best tasks; a line of an operand or of text is read, with all that merged reads, and written one destination line
at a time, or its fault is posted; a runnable task gets its threads; a completion goes on once threads and commands have ended; an
instance that has been quiet for its window is reported, with its snapshot. That the records' EID is that of the dispatcher with
QENTRY 0 is the model's choice: log entry 54; that a freeze sets FROZEN in the ring: log entry 22. Its other choices that show here:
log entries 55, 56, 57, 58 and 114. -/
def Obligations.DispatcherEvents : Prop := ∀ s : State,
  (∀ die asid q k r, s.who = [die, asid, q] → takeable s die asid q = some (k, r) →
    (∀ c, xlBlock s (die / 4) asid (r.entry r.take) 8 false = .error c → exec .queueRingTake s = .next
      (freezeQueue (postDispatch s (die / 4) asid { code := 12, cause := c, unit := 5, lane := 255, va := r.entry r.take }
        { eid := dieEid die, queue := q }) die asid q)) ∧
    (∀ ek, xlBlock s (die / 4) asid (r.entry r.take) 8 false = .ok ek → exec .queueRingTake s = .next
      (submitTaken (takeDone s k) die asid q (s.rd ek 8 % 2 ^ 32) r.take))) ∧
  (∀ h r, s.who = [h] → s.rec? h = some r → r.tabled = true →
    exec .priorityAging s = .next (s.modRec h fun r => if r.tabled then { r with prio := prioOf s r } else r)) ∧
  (∀ die, s.who = [die] → exec .dispatchSelection s = .next (selectOnce (selectOnce s die) die)) ∧
  (∀ die r b ahead, selection s die = some (r, b, ahead) → selectOnce s die = bindTask (leaveTable
    (s.modDie die fun d => { d with grants := d.grants.set (prioOf s r) ((r.queue + 1) % 256) }) r.handle) r.handle b ahead) ∧
  (∀ h j r o, s.who = [h, j] → s.rec? h = some r → r.ops[j]? = some o → j ≠ 4 → o.fetch = 1 →
    (∀ q bs rest, o.buf = (q, bs) :: rest →
      let n := 64 - (o.lmofs + q) % 64
      let t := (opCores r o).foldl (fun s e =>
        match s.binding? e r.handle with
        | some b => putBytes s (((List.range (min n bs.length)).map fun i => lmKey e (b.dataLo + o.lmofs + q + i)).zip bs)
        | none => s) s
      exec .operandPrefetch s = .next (t.setRec { r with ops := r.ops.set j (TaskOp.settled { o with
        buf := if n < bs.length then (q + n, bs.drop n) :: rest else rest }) })) ∧
    (∀ bs, o.buf = [] → fetchLine s r (addrOf o.src) o.len o.got = .ok bs → exec .operandPrefetch s = .next (fetchDone
      (((h, j) :: fellows s h j o.got o).foldl (fun s x => takeLine s x.1 x.2 o.got bs) s) r (addrOf o.src) o.got)) ∧
    (∀ s' c va, o.buf = [] → fetchLine s r (addrOf o.src) o.len o.got = .error (.fault s' c va) → exec .prefetchFault s = .next
      (taskFault (postDispatch (s'.setRec { r with ops := r.ops.set j { o with fetch := 3 } }) (State.hDev h) r.asid
        { code := 12, cause := c, unit := 5, index := j, lane := 255, va := va } (taskOrigin r (r.berth.getD 0))) h))) ∧
  (∀ h r s' c va, s.who = [h, 4] → s.rec? h = some r → r.text = 1 →
    textLine s r = .error (.fault s' c va) →
    exec .prefetchFault s = .next (taskFault (postDispatch (s'.setRec { r with text := 3 }) (State.hDev h) r.asid
      { code := 12, cause := c, unit := 6, lane := 255, va := va } (taskOrigin r (r.berth.getD 0))) h)) ∧
  (∀ h r bs, s.who = [h, 4] → s.rec? h = some r → r.text = 1 → textLine s r = .ok bs →
    let n := r.textGot + bs.length
    exec .operandPrefetch s = .next ((fetchDone (r.loads.foldl (fun s e =>
      match codeAt (s.core e) r.code r.codegr with
      | some g => putBytes s (((List.range bs.length).map fun i => lmKey e (4096 * g + r.textGot + i)).zip bs)
      | none => s) s) r r.code r.textGot).setRec { r with textGot := n, text := if r.codegr * 4096 ≤ n then 2 else 1 })) ∧
  (∀ h r, s.who = [h] → s.rec? h = some r → runnable r = true →
    exec .threadCreation s = .next ((State.berthCores r).foldl (createOn r) (s.setRec { r with state := .running }))) ∧
  (∀ h r, s.who = [h] → s.rec? h = some r → s.taskThreads h = [] → commandsOf s r = false →
    (r.state = .cancelling → leftWrites s r = false → exec .taskCompletion s = .next (cancelDone s r)) ∧
    (r.state = .done → (State.ranOn r).find? (fun e => (s.core e).stash.any (dirtyIn s e h (doneScope s r))) = none →
      leftWrites s r = false →
      (suspends s r = false → exec .taskCompletion s = .next (freeRec ((freeBerth ((fired r).foldl (fun s' x =>
        sendDecr s' (dieUnit (State.hDie r.handle)) r.asid x.handle 1 x.opmask r.queue r.qentry
          (completionJoin s r (fireScope r (fired r)))) s) r).touchInst (State.hDev r.handle) r.asid r.gid) r.handle)) ∧
      (suspends s r = true → outstanding s 3 (completionJoin s r 3) = false →
        exec .taskCompletion s = .next (suspendCheck (suspendTask s r) (State.hDev h) r.asid r.gid)))) ∧
  (∀ dev asid gid d i, s.who = [dev, asid, gid] →
    s.insts.find? (fun (d, i) => d == dev && i.asid == asid && i.gid == gid) = some (d, i) → i.told = false → i.armAt = none →
    2 ^ i.qexp ≤ dieCycle s i.die - i.since →
    ∀ s' n f, writeSnap dev asid (if i.snap = 0 then [] else (snapshot s dev asid gid).take (i.snapLen / 16)) i.snap 0 s = (s', n, f) →
    exec .quiescenceExpiry s = .next (postDispatch { s' with insts := s'.insts.map fun (d, x) =>
        (d, if d = dev ∧ x.asid = asid ∧ x.gid = gid then { x with told := true } else x) }
      dev asid { code := 0x20, cause := (f.map (·.1)).getD 0, lane := 255, va := (f.map (·.2)).getD 0 }
      { eid := dieEid i.die, queue := i.queue, gid := gid, aux := n }))

/-- R187, R188, R206, R213, R214, R219, R231 and R240: an access whose turn has come is performed at its home, or ends with the
uncorrectable error that it meets, an atomic on LM in a handler slot of its core; a byte, slice or predicate takes an uncorrectable
error; a walk starts and ends; a join, a drain of the TLBs, a stash fill and a write-back complete. That the old value of a `cas`
extends by the sign of its type is the model's choice: log entry 35; that a write clears an uncorrectable error, and what an access
that meets one does: log entry 21; that a fill no one wants does nothing: log entry 27; and the fill of a granule that an acquire
has made stale: log entry 111. Its other choices that show here: log entries 13, 16, 18 and 19. -/
def Obligations.MemoryEvents : Prop := ∀ s : State,
  (∀ id a, s.who = [id] → s.accs.find? (·.id == id) = some a → mayPerform s a = true → (s.core a.eid).frozen = false →
    (a.atomic = false →
      (a.isNear = true → exec .homeAccess s = .next (nearStep s a)) ∧
      (∀ o n rest, a.isNear = false → a.pieces = (o, n) :: rest →
        let ks := (List.range n).map fun i => a.keys.getD (o + i) 0
        let err : Prop := homeError s a ks = true
        let later (s : State) (b : Access) : State := { s with accs := s.accs.map fun x => if x.id = a.id then b else x }
        let stored (d : Nat) : State := putBytes s (ks.zip (toBytes n (d / 2 ^ (8 * o))))
        let v := a.got + pieceNum s a ks * 2 ^ (8 * o)
        let read : State :=
          if a.fill then l1dFill s a (a.keys.getD o 0) else if a.drop then dropOwn s a.eid (a.keys.getD o 0) else s
        let old := seenNum s a.eid a.slot a.id ks
        (∀ d, a.op = .store d →
          (rest = [] → err → exec .homeAccess s = .next (failHome (stored d) a)) ∧
          (rest = [] → ¬ err → exec .homeAccess s = .next (endHome (stored d) a none)) ∧
          (rest ≠ [] → exec .homeAccess s = .next (later (stored d) { a with pieces := rest }))) ∧
        (a.op = .load →
          (err → exec .homeAccess s = .next (failHome s a)) ∧
          (¬ err → rest = [] → exec .homeAccess s = .next
            (endHome read a (some (if a.ty = 99 then v else loadFit a.ty a.dw a.keys.length v)))) ∧
          (¬ err → rest ≠ [] → exec .homeAccess s = .next (later read { a with pieces := rest, got := v }))) ∧
        (∀ hi w, a.op = .nibble hi w →
          (err → exec .homeAccess s = .next (failHome s a)) ∧
          (¬ err → exec .homeAccess s = .next (later s { a with
            op := .store (if hi then old % 16 + 16 * (w % 16) else old / 16 * 16 + w % 16) }))))) ∧
    (∀ k ks, a.atomic = true → a.keys = k :: ks → keyIsLm k = false → homeError s a a.keys = true →
      exec .atomicAtHome s = .next (failHome s a)) ∧
    (∀ k ks, a.atomic = true → a.keys = k :: ks → keyIsLm k = false → homeError s a a.keys = false →
      let o := s.numAt a.keys
      let t := dropOwn (dropLine s (eidTile a.eid) a.eid k) a.eid k
      let old := if codeSgn a.ty then loadFit a.ty a.dw a.keys.length o else fitRaw a.dw o
      let told (t : State) : State :=
        if (t.core a.eid).frozen ∧ (a.pkt? t).isNone then reply (endAccess t a.id) a.eid a.slot a.pend [(a.lane, old)]
        else endHome t a (some old)
      let put (v : Nat) : State := putBytes t (a.keys.zip (toBytes a.keys.length v))
      (∀ op ty b, a.op = .amo op ty b → exec .atomicAtHome s = .next (told (put (amoNew op ty o b)))) ∧
      (∀ cmp v, a.op = .cas cmp v → exec .atomicAtHome s = .next (told (if o = cmp then put v else t)))) ∧
    (∀ k ks, a.atomic = true → a.keys = k :: ks → keyIsLm k = true → (s.core (keyCore k)).frozen = false →
      ((s.core (keyCore k)).handlerQ.contains (.atomic a.id) || s.net.any fun p => p.body == .lmAtomic a.id) = false →
      (s.core (keyCore k)).handlerQ.length < 64 →
      exec .atomicAtHome s = .next (s.setCore (keyCore k) { s.core (keyCore k) with
        handlerQ := (s.core (keyCore k)).handlerQ ++ [.atomic a.id] }))) ∧
  (∀ eid id rest slot a, s.who = [eid] → (s.core eid).handlerQ = .atomic id :: rest → freeHandler (s.core eid) = some slot →
    (s.core eid).frozen = false → s.accs.find? (·.id == id) = some a →
    exec .lmAtomicMicrocode s = .next (performAtomic (s.setCore eid { s.core eid with handlerQ := rest }) a)) ∧
  (∀ key, key < 2 ^ 70 → s.bad.contains key = false → exec (.uncorrectableError key) s = .next { s with bad := s.bad ++ [key] }) ∧
  (∀ eid slot k, slot < 32 → k < 2 ^ 15 → exec (.uncorrectableError (2 ^ 70 + (32 * eid + slot) * 2 ^ 15 + k)) s =
    .next (s.modThr eid slot fun t => { t with ecc := k :: t.ecc.filter (· != k) })) ∧
  (∀ die i, s.who = [die] → (firstIdx (s.die die).walks.length fun i => ((s.die die).walks[i]?).any fun w => !w.running) = some i →
    ((s.die die).walks.filter (·.running)).length < 64 →
    exec .walkStart s = .next (s.modDie die fun d => { d with walks := d.walks.modify i fun w => { w with running := true } })) ∧
  (∀ die asid vpn w, s.who = [die, asid, vpn] →
    ((s.die die).walks.find? fun w => w.asid == asid && w.vpn == vpn && w.running) = some w →
    let s' := s.modDie die fun d => { d with walks := d.walks.filter fun x => !(x.asid == asid && x.vpn == vpn) }
    (∀ t, walk s' (die / 4) asid vpn = .ok t → exec .pageWalk s = .next (w.slots.foldl (fun s (e, i) =>
      let x := engineWalked s e asid vpn (.ok t)
      if i = engineSlot then x else x.modCore e fun c => { c with tlb := tlbPut 64 c.tlb t }) s')) ∧
    (∀ c, walk s' (die / 4) asid vpn = .error c → exec .pageWalk s = .next (w.slots.foldl (fun s (e, i) =>
      if i = engineSlot then engineWalked s e asid vpn (.error c)
      else s.modThr e i fun t => { t with walkFault := some (asid, vpn, c) }) s'))) ∧
  (∀ eid slot id t j, s.who = [eid, slot, id] → s.thr? eid slot = some t → t.joins.find? (·.id == id) = some j → j.complete s = true →
    let s' := tryFreeze (s.modThr eid slot fun t => { t with joins := t.joins.filter (·.id != id) }) eid
    exec .joinComplete s = .next (if j.pend = 0 then s' else finishPend s' eid slot j.pend [])) ∧
  (∀ eid slot id t p, s.who = [eid, slot, id] → s.thr? eid slot = some t → t.pend.find? (·.id == id) = some p → p.tlb = true →
    p.need ≠ 0 →
    (s.accs.any fun a => decide (a.id < id) && eidDev a.eid == eidDev eid && (s.core a.eid).ctx == (s.core eid).ctx) = false →
    exec .tlbinvAck s = .next (reply s eid slot id [(0, 0)])) ∧
  (∀ eid gran i g, s.who = [eid, gran] → (s.core eid).stashOf (4096 * gran) = some (i, g) →
    (∀ w x, (s.core eid).stash[i]? = some w → granOf s eid i g = some x →
      let inUse : Bool := granInUse s eid (w.lo / 4096 + g)
      let due : Prop := (x.filled = false ∨ x.stale = true) ∧ x.want = true ∧ (x.stale = true → inUse = false)
      let slot := fillSlot (w.lo / 4096 + g)
      let asid := (s.core eid).ctx.getD 0
      let seen (k : Nat) : Option Byte := farSeen s eid slot s.nextId k
      let fails (s : State) (c : Nat) : State := modGran s eid i g fun x => { x with want := false, fault := some c }
      (¬ due → exec .stashFill s = .next s) ∧
      (due → x.stale = true → x.dirty ≠ 0 →
        exec .stashFill s = .next (modGran s eid i g fun x => { x with stale := false, want := false })) ∧
      (due → (x.stale = true → x.dirty = 0) →
        (∀ k n, xlCore s eid asid (w.va + 4096 * g) false = .ok k n →
          let ks := (List.range 4096).map (k + ·)
          let lo := lmKey eid (w.lo + 4096 * g)
          (s.cutKey (eidDev eid) k = true → exec .stashFill s = .next (fails s 10)) ∧
          (∀ u, s.cutKey (eidDev eid) k = false → farRead s asid eid slot 0 ks = .ok u → (ks.any fun k => (seen k).isNone) = true →
            exec .stashFill s = .next (farDone (fails s 11) eid slot 0)) ∧
          (∀ u, s.cutKey (eidDev eid) k = false → farRead s asid eid slot 0 ks = .ok u → (ks.any fun k => (seen k).isNone) = false →
            let bs := ((List.range 4096).filter fun o => !x.dirty.getLsbD o).map fun o => (lo + o, (seen (k + o)).getD 0)
            exec .stashFill s = .next (modGran (farDone ((s.setBytes bs).mend lo 4096) eid slot 0) eid i g fun x =>
              { x with filled := true, stale := false, want := false, fault := none }))) ∧
        (∀ c, xlCore s eid asid (w.va + 4096 * g) false = .fault c → exec .stashFill s = .next (fails s c))) ∧
      exec .stashWriteback s = .next (wbBytes eid ((s.core eid).ctx.getD 0) i g (w.lo + 4096 * g) (w.va + 4096 * g)
        (runsOf (dirtyOffs x)) s).1))

/-- R193 to R197, R229, R267, R271, R273 and R385: an update reaches its barrier object and wakes its waiters, `sta` arrives when
its bytes are performed, `bwait` ends with 1 at its limit, a group's episode completes; an edge's reservation waits until the ring is
placed and is then granted in order, a token and an end-of-stream mark reach the ring, and a draining ring gets its marker. The
model's own choices that show in it: log entries 40, 71 and 112, and 46 (DESIGN CHOICE, unsafe: one step combines the group tables of
the members' devices when each of them has a route). -/
def Obligations.BarrierAndEdgeEvents : Prop := ∀ s : State,
  (∀ p key kind n, readyPkt? s = some p → p.body = .barrier key kind n → barHeld s p key = false → emptyGran s [key] = none →
    let r := (barAt s key).update kind n
    let t := putBar s key r.1
    let u := if r.2 then wakeBarrier t (keyCore key) (keyOff key) else t
    exec .barrierUpdate s = .next (if p.pend = 0 then answer u p .quiet else answerWord u p (b2n (barAt s key).phase))) ∧
  (∀ eid slot id a, s.who = [eid, slot, id] → s.acks.find? (fun a => a.id == id && a.eid == eid && a.slot == slot) = some a →
    outstanding s a.scope a.after = false → outstanding s 2 a.own = false →
    exec .staAck s = .next (barUpdate { s with acks := s.acks.filter (·.id != id) } (lmKey eid a.obj) 1 0).2) ∧
  (∀ eid slot t w o lim, s.who = [eid, slot] → s.thr? eid slot = some t → t.status = .waiting w → w.what = .barrier o lim →
    (t.drainReq = true ∨ 0 < lim ∧ w.issued + lim ≤ s.cycle eid) →
    exec .bwaitTimeout s = .next (endWait s eid slot w (some 1))) ∧
  (∀ key g, s.who = [key] → Keyed.get? s.groups key = some g → g.eids ≠ [] →
    (∀ e ∈ g.eids, (memberGroup s key e).arrived.contains e = true) → groupJoined s g = true →
    exec .gbarEpisodeComplete s = .next (g.eids.foldl (fun x e =>
        gbarWake x key (groupScope e g.eids) e (memberGroup s key e).early)
      ((g.eids.map eidDev).eraseDups.foldl (fun x d =>
        let k := groupKey d (key / 256 % 65536) (key % 256)
        match Keyed.get? x.groups k with
        | some g => { x with groups := Keyed.put x.groups k g.next }
        | none => x) s))) ∧
  (∀ p g, reservation? s = some (p, g.id) → s.edge? g.id = some g → g.ntok ≠ 0 →
    (g.placed = false → exec .edgeReservation s = .next s) ∧
    (g.placed = true → (g.waiting s).headD p.id = p.id → g.full = false → exec .edgeReservation s =
      .next (answer (s.setEdge { g with resv := g.resv + 1, waitq := (g.waiting s).filter (· != p.id) }) p .quiet)) ∧
    (g.placed = true → (g.waiting s).headD p.id ≠ p.id ∨ g.full = true → (g.waiting s).contains p.id = false → exec .edgeReservation s =
      .next ((s.setPkt { p with state := .recorded }).setEdge { g with waitq := g.waiting s ++ [p.id] }))) ∧
  (∀ p g, readyPkt? s = some p → s.edge? g.id = some g → g.ntok ≠ 0 →
    (∀ bs, p.body = .edgeToken g.id bs → exec .edgeTokenArrival s = .next (answer (putToken s g bs) p .quiet)) ∧
    (∀ n, p.body = .eosMark g.id n → g.nprod ≠ 0 → exec .eosMarkArrival s = .next (answer (putEos s g) p .quiet))) ∧
  (∀ id g, s.who = [id] → s.edge? id = some g → markerDue s g = true →
    exec .drainMarkerInject s = .next (s.setEdge { g with queue := g.queue ++ [.drain], marker := true }))

/-! ## The fabric -/

/-- R344, R348 to R353: a packet that may leave goes to its port, leaves it and reaches its unit, which serves a request once (a
cached reply answers a repeated one, one that is too old is refused, a full cache has it sent later); a reply travels back; a request
is sent again, given up, or held for a later try; a port's threshold and escapes; links, routes and unreachable devices; the tick, its
master and its lock; a device that joins and its number. The model's own choices that show in it: log entries 4, 26, 73, 75, 77, 78,
104, 116 and 118, 76 (DEDUCED: the records of a lock and of a new master have a free TYPE and free arguments), and 115 (DEDUCED:
under which key a device stands that has no number). -/
def Obligations.FabricEvents : Prop := ∀ s : State,
  (∀ id p, s.who = [id] → s.pkt? id = some p →
    (p.mayQueue s = true →
      exec .fabricRequestArrival s = .next (s.setPkt { p with queued := some (s.tickOf p.tail) })) ∧
    (∀ i, p.mayLeave s = true → waitPort s p = some i →
      let now := s.tickOf p.src
      let t := noteWait s p i
      (p.crosses = false ∨ p.state = .answered → exec .fabricRequestArrival s = .next (t.setPkt { p with out := true })) ∧
      (p.crosses = true → p.state ≠ .answered →
        (p.tick0.isSome = true → exec .fabricRequestArrival s = .next (t.setPkt { p with out := true })) ∧
        (p.tick0 = none → exec .fabricRequestArrival s =
          .next (({ t with used := (p.key, p.seq, now) :: t.used.filter fun x =>
              !(x.1.1 / 4096 == eidDev p.src && decide (x.2.2 + 4 * t.trt + 2000 ≤ now)) } : State).setPkt
            { p with tells := (t.gaps.filter fun g => g.2 == p.key).map (·.1), tick0 := some now, out := true })))) ∧
    (p.mayLeave s = false → p.mayArrive s = true → p.state ≠ .answered →
      let h : State := { s with gaps := s.gaps.filter fun g => !p.tells.contains g.1 }
      let old := s.cache.find? fun c => c.unit == p.unit && c.src == p.src && c.cls == p.cls && c.seq == p.seq
      (p.reads s = true ∨ p.crosses = false ∨ p.known s = false →
        exec .fabricRequestArrival s = .next (h.setPkt { p with state := .arrived })) ∧
      (p.reads s = false → p.crosses = true → p.known s = true →
        (∀ c, old = some c → exec .fabricRequestArrival s = .next (h.setPkt (p.withReply c.reply))) ∧
        (old = none →
          (p.stale s = true → exec .fabricRequestArrival s =
            .next ((nackNote h p.dst p.src).setPkt (p.withReply .stale))) ∧
          (p.stale s = false →
            (64 ≤ cacheUsed s p.unit → exec .fabricRequestArrival s = .next (retryLater h p p.dst)) ∧
            (cacheUsed s p.unit < 64 → exec .fabricRequestArrival s = .next (h.setPkt { p with state := .arrived })))))) ∧
    (p.mayLeave s = false → p.mayArrive s = true → p.state = .answered → replyLost s p = false →
      (p.ans = .later → exec .fabricRequestArrival s = .next (retryTaken s p p.dst)) ∧
      (p.ans = .stale → exec .fabricRequestArrival s = .next (giveUp (nackNote s p.src p.dst) p)) ∧
      (p.ans = .full → exec .fabricRequestArrival s = .next (fullTaken s p)) ∧
      (p.ans ≠ .later → p.ans ≠ .stale → p.ans ≠ .full →
        exec .fabricRequestArrival s = .next (takeAnswer (s.dropPkt p.id) p p.ans))) ∧
    (p.mayLeave s = false → p.mayArrive s = true → p.state = .answered → replyLost s p = true →
      exec .fabricRequestArrival s = .next { s.setPkt { p with state := .done } with
        accs := s.accs.map fun a => if p.body = .access a.id ∧ a.op = .load then a.again else a }) ∧
    (p.state = .arrived → p.stale s = true →
      exec .fabricRequestArrival s = .next ((nackNote s p.dst p.src).setPkt (p.withReply .stale))) ∧
    (p.abroad = false → p.stale s = false → p.ready s = true →
      (∀ op args, p.body = .taskOp op args → exec .fabricRequestArrival s = .next (unitArrive s p)) ∧
      (∀ f, p.body = .engine → s.fars.find? (·.pkt == p.id) = some f →
        (f.write = true → emptyGran s (f.bytes.map (·.1)) = none →
          ((f.bytes.any fun x => s.bad.contains x.1 && !keyIsLm x.1) = true →
            exec .fabricRequestArrival s = .next (answer s p (.result []))) ∧
          ((f.bytes.any fun x => s.bad.contains x.1 && !keyIsLm x.1) = false →
            exec .fabricRequestArrival s = .next (answer (putBytes s f.bytes) p .quiet))) ∧
        (f.write = false → emptyGran s ((List.range 64).map (64 * f.line + ·)) = none →
          let bs := (((List.range 64).map (64 * f.line + ·)).filter fun k => !s.bad.contains k).map fun k =>
            (k, seenByte s f.eid (min f.slot 31) (if f.id = 0 then s.nextId else f.id) k)
          exec .fabricRequestArrival s = .next (answer
            { s with fars := s.fars.map fun x => if x.pkt = p.id then { x with bytes := bs } else x } p .quiet)))) ∧
    (resendDue s p = true → exec .retransmitTimer s = .next (s.setPkt
      (if p.state = .done then { p with resent := p.resent + 1, state := .flying, out := false, queued := none, escape := false }
       else { p with resent := p.resent + 1 }))) ∧
    (giveUpDue s p = true → exec .requestAbandon s = .next (giveUp s p)) ∧
    (∀ id' a, giveUpDue s p = true → p.body = .access id' → s.accs.find? (·.id == id') = some a →
      exec .requestAbandon s = .next (loseAccess (noteGap s p) a (if cutOff s p.src p.dst ∨ p.known s = false then 7 else 6))) ∧
    (p.state = .later → p.due ≤ s.tickOf p.src → exec .retryLaterResend s = .next
      (s.setPkt { p with state := .flying, out := false, queued := none, escape := false })) ∧
    (∀ i, waitPort s p = some i → escapeDue s p i = true →
      let n := (portOf s (eidDev p.tail) i).moved + 1
      exec .escapeMove s = .next (((modPort s (eidDev p.tail) i fun x => { x with moved := n }).setPkt
        { p with escape := true }).record (eidDev p.tail) 4 10 0 (some i) (some n)))) ∧
  (∀ id a, s.who = [id] → s.pkt? id = none → s.accs.find? (·.id == id) = some a → accessDue s a = true →
    exec .requestAbandon s = .next (loseAccess s a 7)) ∧
  (∀ unit seq, s.who = [unit, seq] → exec .replyCacheExpiry s = .next { s with
    cache := s.cache.filter fun c => !(c.unit == unit && c.seq == seq && decide (c.freeAt ≤ s.tickOf (unit % 2 ^ 22))) }) ∧
  (∀ dev port, s.who = [dev, port] → thresholdDue s dev port = true →
    exec .thresholdRecompute s = .next (modPort s dev port fun p => { p with
      vcs := p.vcs.map fun v => { v with threshold := max 2000 (min 200000 (4 * wait99 v.waits)) }
      computed := (s.dev dev).yard })) ∧
  (∀ dev port, exec (.linkFailure dev port) s = .next (modPort s dev port fun p => { p with up := false })) ∧
  (∀ dev port, port < 24 → exec (.linkRetrain dev port) s = .next (retrain s dev port)) ∧
  (∀ dev port, s.who = [dev, port] → (portOf s dev port).routed = true → (portOf s dev port).up = false →
    exec .routeRemoval s =
      .next ((noteRoutes (modPort s dev port fun p => { p with routed := false })).record dev 4 5 0 (some port) none)) ∧
  (∀ dev other, s.who = [dev, other] →
    (lostDue s dev other = true → exec .deviceUnreachable s = .next ((s.modDev dev fun d =>
      { d with unreachable := d.unreachable ++ [other]
               adrift := d.adrift || (s.dev other).master }).record dev 4 5 (other * 4096) none none)) ∧
    (foundDue s dev other = true → exec .routeFound s = .next (s.modDev dev fun d =>
      { d with unreachable := d.unreachable.filter (· != other), noRoute := Keyed.del d.noRoute other }))) ∧
  (∀ dev, s.who = [dev] →
    (s.accels ≠ [] → exec .apertureWriteDiscard s = .next ((s.modDev dev fun d =>
      { d with discarded := (s.dev dev).discarded + 1 }).record dev 4 11 0 none (some ((s.dev dev).discarded + 1)))) ∧
    (∀ mdev m, (s.dev dev).master = false → (s.dev dev).linked = true →
      s.devs.find? (fun x => x.2.master && x.2.linked && !(s.dev dev).unreachable.contains x.1) = some (mdev, m) →
      let n := Config.passed s.free 62
      exec .tickMeasurement s = .next (setLock (s.modDev dev fun d =>
        { d with err := n, measured := d.tick, adrift := false
                 slew := slewFor d.tick m.tick n (Config.passed s.free 63) (Config.happens s.free 1) }) dev (decide (n ≤ 15)))) ∧
    (lockLossDue s dev = true → exec .lossOfLock s = .next (setLock s dev false)) ∧
    (masterDue s dev = true →
      let s' : State := { s with devs := s.devs.map fun (d, v) =>
        (d, if d = dev then { v with master := true, slew := 0, adrift := false, err := 0 } else { v with master := false }) }
      exec .newTickMaster s = .next (setLock (s'.devs.foldl (fun x y =>
        x.record y.1 4 ((Config.freeWord x.free (2 ^ 72)).toNat % 256) (dev * 4096) none none) s') dev true))) ∧
  (∀ dev, (s.dev dev).master = true → exec (.tickMasterFailure dev) s = .next { s with devs := s.devs.map fun (d, v) =>
    (d, if d = dev then { v with master := false, measured := v.tick, err := 0, slew := 0 } else { v with adrift := true }) }) ∧
  (∀ dev ticks, (s.ctxs.any fun (k, _) => k / 65536 == dev) = false → s.accels.contains dev = false →
    (s.who ≠ [1] → (s.dev dev).joined = false → dev < 1024 →
      exec (.deviceJoin dev ticks) s = .next (s.modDev dev fun d => { d with tick := d.tick + ticks, joined := true })) ∧
    (s.who = [1] → s.hasDev dev = false → dev < 1024 → exec (.deviceJoin dev ticks) s = .next { s with accels := s.accels ++ [dev] }) ∧
    (∀ num, num < 1024 → s.hasDev dev = true → (s.dev dev).linked = true → (s.dev dev).numbered = false →
      (num ≠ dev → s.hasDev num = false ∧ s.accels.contains num = false) →
      let t := s.modDev dev fun d => { d with numbered := true }
      let u : State := match s.who with | [x] => if 256000 ≤ x ∧ x ≤ 16000000 then { t with trt := x } else t | _ => t
      exec (.deviceNumberSet dev num) s = .next (if num = dev then u else noteRoutes (renumber u dev num))))

/-! ## The platform -/

/-- R395, R402 to R413: while the PCIe link is up, the host's registers perform their ring operations, keep what is written to them,
and start the switch of a core in or out, which ends in an event of its own; BAR2 reads and writes memory; the loop sets a die's clock
and its stop; resets, link training, attestation and scrubbing do what their rules say. The model's own choices that show in it: log
entries 79, 80, 81, 82, 83, 84, 92 and 115, 85 (DESIGN CHOICE, unsafe: the event that ends a switch-out drains, writes back and saves at
once), 25 (what a save block holds), 21 (a write clears an uncorrectable error) and 76 (DEDUCED: the record of a cutoff has a free
TYPE). -/
def Obligations.PlatformEvents : Prop := ∀ (s : State) (dev : Nat),
  let reg (fn : Nat) (g : HostFn → HostFn) (s : State) : State :=
    s.modDev dev fun d => { d with fns := d.fns.mapIdx fun i h => if i = fn then g h else h }
  (hostUp s dev = true →
    (∀ fn val off, exec (.hostRegisterWrite dev fn off val) s = .next (reg fn (writeReg fn off (BitVec.ofNat 64 val)) s) ∧
      exec (.pwrcap dev val) s = .next (reg 0 (fun h => { h with pwrcap := BitVec.ofNat 64 (capOf val) }) s) ∧
      exec (.recsel dev val) s = .next (reg 0 (fun h => { h with recsel := BitVec.ofNat 64 (recselOf val) }) s) ∧
      (∀ k, fnRing s dev fn = some k →
        exec (.rres dev fn) s = .next (modFn (ringRes s k).2 dev fn fun h => { h with read := BitVec.ofNat 64 (ringRes s k).1 }) ∧
        exec (.rpub dev fn val) s = .next (modFn (ringPub s k (val % 2 ^ 64)).2 dev fn fun h =>
          { h with rpubRes := BitVec.ofNat 64 (ringPub s k (val % 2 ^ 64)).1 }) ∧
        (takeStatus (ringAt s k) = 0 → exec (.rtake dev fn) s =
          .next (reg fn (fun h => { h with read := BitVec.ofNat 64 (resWord stOK (ringAt s k).take) }) s)) ∧
        ((ringAt s k).ok = true → (ringAt s k).take = val → exec (.rdone dev fn val) s = .next (takeDone s k)))) ∧
    (∀ fn off n ks v, fn < 17 →
      (barKeys s dev fn off n true = some ks → exec (.bar2Access dev fn off n (some v)) s =
        .next { putBytes s (ks.zip (toBytes n v)) with
          bad := s.bad.filter fun k => !ks.contains k }) ∧
      (barKeys s dev fn off n false = some ks → (ks.any s.bad.contains) = false → exec (.bar2Access dev fn off n none) s =
        .next (reg fn (fun h => { h with read := BitVec.ofNat 64 (s.numAt ks) }) s)) ∧
      (barKeys s dev fn off n true = none → exec (.bar2Access dev fn off n (some v)) s =
        .next ((s.modDev dev fun d => { d with refusedBar := d.refusedBar + 1 }).record dev 4 12 (hostEid dev fn) none (some off)))) ∧
    (∀ core, s.who ≠ [1] →
      ((s.core (coreIndexEid dev core)).switching.isSome = true →
        exec (.ctxswSwitchOut dev core) s = .next (ctxAnswer s dev stRETRY 0) ∧
        exec (.ctxswSwitchIn dev core) s = .next (ctxAnswer s dev stRETRY 0)) ∧
      ((s.core (coreIndexEid dev core)).switching = none → mayCtxsw s dev core = true →
        exec (.ctxswSwitchOut dev core) s =
          .next (s.modCore (coreIndexEid dev core) fun c => { c with switching := some none }) ∧
        ((s.core (coreIndexEid dev core)).ctx = none → exec (.ctxswSwitchIn dev core) s =
          .next (s.modCore (coreIndexEid dev core) fun c => { c with switching := some (some (fnOf s dev 0).ctxdesc.toNat) })) ∧
        ((s.core (coreIndexEid dev core)).ctx ≠ none →
          exec (.ctxswSwitchIn dev core) s = .next (ctxAnswer s dev stSTATE 0))) ∧
      ((s.core (coreIndexEid dev core)).switching = none → mayCtxsw s dev core = false →
        exec (.ctxswSwitchOut dev core) s = .next (ctxAnswer s dev stSTATE 0) ∧
        exec (.ctxswSwitchIn dev core) s = .next (ctxAnswer s dev stSTATE 0)))) ∧
  (∀ core, s.who = [1] →
    let eid := coreIndexEid dev core
    let e : State := s.modCore eid fun c => { c with switching := none }
    ((s.core eid).switching = some none → mayCtxsw e dev core = true → ∀ asid x t, (e.core eid).ctx = some asid →
      e.ctx? dev asid = some x →
      (∀ cause va, writeBack e eid asid (fun _ => true) = (t, some (cause, va)) → exec (.ctxswSwitchOut dev core) s =
        .next (ctxAnswer (postRecord (drainWb t eid) dev asid { code := 12, cause := cause, unit := 3, lane := 255, va := va }
          { eid := eid }) dev stSTATE 1)) ∧
      (∀ u, writeBack e eid asid (fun _ => true) = (t, none) → saveCore (drainWb t eid) eid asid x = .ok u →
        exec (.ctxswSwitchOut dev core) s = .next (ctxAnswer (reapPlans (u.modCore eid Core.unload)) dev stOK 0))) ∧
    (∀ pa asid x u, (s.core eid).switching = some (some pa) → mayCtxsw e dev core = true → (e.core eid).ctx = none →
      readCtx e dev pa = some (asid, x) → switchIn (loadCtx e dev asid x) eid asid = .ok u →
      exec (.ctxswSwitchIn dev core) s = .next (ctxAnswer
        (bindFns (u.modDie (eidDie eid) fun d => { d with grants := List.replicate 8 0 }) dev asid) dev stOK 0)) ∧
    (mayCtxsw e dev core = false →
      ((s.core eid).switching = some none → exec (.ctxswSwitchOut dev core) s = .next (ctxAnswer e dev stSTATE 0)) ∧
      (∀ pa, (s.core eid).switching = some (some pa) →
        exec (.ctxswSwitchIn dev core) s = .next (ctxAnswer e dev stSTATE 0)))) ∧
  (∀ die power temp,
    let m := (s.die die).mhz
    let n := nextMhz m power temp (dieBudget s (die / 4))
    let s' := s.modDie die fun d => { d with mhz := n, power := power, temp := temp }
    exec (.dvfsLoop die power temp) s = .next (if n = m then s' else s'.record (die / 4) (die % 4) 6 (die * 1024) (some n) none)) ∧
  (∀ die, s.who = [die] →
    (1100 ≤ (s.die die).temp → exec .thermalStop s = .next (s.modDie die fun d => { d with stopped := true })) ∧
    ((s.die die).stopped = true → (s.die die).temp < 1000 →
      exec .thermalIssueResume s = .next (s.modDie die fun d => { d with stopped := false }))) ∧
  (s.hasDev dev = true →
    ((s.dev dev).stage ≠ 9 → (s.dev dev).stage ≠ 0 →
      exec (.warmReset dev) s = .next ((clearDevice s dev).record dev 4 7 0 none none)) ∧
    (1150 ≤ hottest s dev →
      let c := clearDevice (loseMaster s dev) dev
      exec (.thermalCutoff dev) s = .next ((c.modDev dev fun d => { d with stage := 0, cutoff := true }).record dev 4
        ((Config.freeWord c.free (2 ^ 74)).toNat % 256) 0 none none)) ∧
    (∀ ok ver digest,
      let c := clearDevice (loseMaster s dev) dev
      let c : State := { c with recorders := c.recorders.filter fun (k, _) => k / 8 != dev }
      ((banksOf ok ver digest c.who).find? (c.dev dev).accepts = none → exec (.coldReset dev ok ver digest) s =
        .next (noteRoutes (unnumber ((c.modDev dev fun d => { d with stage := 9 }).record dev 4 13 0 none none) dev))) ∧
      (∀ b, (banksOf ok ver digest c.who).find? (c.dev dev).accepts = some b → exec (.coldReset dev ok ver digest) s =
        .next (noteRoutes (unnumber ((c.modDev dev fun d =>
          { d with image := BitVec.ofNat 64 b.digest
                   fuseVer := if Config.happens c.free 0 then b.ver else d.fuseVer }).record dev 4 7 0 none none) dev)))) ∧
    (∀ width rate, mayTrain (s.dev dev) = true → 1 ≤ width → width ≤ 16 → 1 ≤ rate → rate ≤ 128 →
      exec (.pcieLinkTraining dev width rate) s = .next (s.modDev dev fun d =>
        { d with stage := 5, linkWidth := width, linkRate := rate }))) ∧
  ((s.dev dev).stage = 5 ∨ (s.dev dev).stage = 9 →
    (∀ i code, (i, code) ∈ [(Instr.getVersion dev, 0), (.getCapabilities dev, 1), (.negotiateAlgorithms dev, 2), (.getDigests dev, 3),
        (.getCertificate dev, 4), (.challenge dev, 5), (.keyExchange dev, 7), (.finish dev, 8)] →
      exec i s = .next (s.modDev dev fun d => { d with spdm := some (code, [Config.freeWord s.free (2 ^ 75)]) })) ∧
    exec (.getMeasurements dev) s = .next (s.modDev dev fun d => { d with spdm := some (6, measurements s dev) })) ∧
  (∀ die word, exec (.scrubPass die word) s = .next (scrub s die (Config.sramOf word + 1))) ∧
  (∀ die page,
    let now := (s.dev (die / 8)).tick
    let l := ((Keyed.get? (s.recorder die).pages page).getD []).filter fun x => decide (now < x + 86400 * 10 ^ 9)
    l.length < 15 → exec (.dramPatrol die page) s =
      .next (scrub (s.modRecorder die fun r => { r with pages := Keyed.put r.pages page (now :: l) }) die 0))

/-! ## The whole machine -/

/-- R36 to R58, on worked examples of the spec: the words of one instruction of each family decode to it, field by field. -/
def Obligations.WorkedWordsDecode : Prop :=
  let o : Fields := default
  Reads 0xA206203890E28381 0x161C000000011800
    (.fma { o with m := true, psel := 2, d := 0x407, a := 0x487, b := 0x507, x := true, c := 0x587, lrb := true, etype := 6 }) ∧
  Reads 0x0016043800E0008A 0 (.shfl { o with d := 0x087, a := 0x007, b := 1, mod := 5 }) ∧
  Reads 0x008B2018001FFE80 0 (.loop { o with d := 0x2403, b := 0x3FFD }) ∧
  Reads 0x00CA000000000000 0 (.nop o) ∧
  Reads 0x0100003810E08385 0x0000000000000440
    (.add { o with d := 0x007, a := 0x087, b := 0x107, mod := 2, x := true, etype := 1, sat := true }) ∧
  Reads 0x8016103830E00000 0 (.shfl { o with m := true, d := 0x207, a := 0x187 }) ∧
  Reads 0x840A000000000080 0 (.mwait { o with m := true, b := 1 }) ∧
  Reads 0x0402 0 (.unassignedOpcode 0 { o with b := 8, mod := 1 }) ∧
  Reads 0x048E000001E00182 0 (.ewrite { o with a := 0x00F, b := 3, mod := 1 }) ∧
  Reads 0x8490000000000000 0 (.eos { o with m := true }) ∧
  Reads 0x0501207800128797 0x0000000000200000
    (.ld { o with d := 0x240F, b := 0x250F, mod := 0x0B, x := true, imm := 8 }) ∧
  Reads 0x850F187C41F087B1 0x000000000000240C (.amo { o with
    m := true, d := 0x230F, a := 0x220F, b := 0x210F, mod := 0x18, x := true, etype := 9, smod := 0x0C }) ∧
  Reads 0x0600000000000286 0 (.rel { o with b := 5, mod := 3 }) ∧
  Reads 0x0604000000000788 0 (.fence { o with b := 15, mod := 4 }) ∧
  Reads 0x0667041C80928001 0x000000000FA00000 (.bwait { o with d := 0x2083, a := 0x2404, b := 0x2500, x := true, imm := 1000 }) ∧
  Reads 0x06D1041C80728380 0 (.tksub { o with d := 0x2083, a := 0x2403, b := 0x2507 }) ∧
  Reads 0x0747047C81F28780 0 (.push { o with d := 0x208F, a := 0x240F, b := 0x250F }) ∧
  Reads 0x07ED047C80600000 0 (.gang { o with d := 0x208F, a := 0x2403 }) ∧
  Reads 0x07A3047C80F28180 0 (.red { o with d := 0x208F, a := 0x2407, b := 0x2503 }) ∧
  Reads 0x07E9007C81E00080 0 (.ctxsv { o with d := 0x200F, a := 0x240F, b := 1 }) ∧
  Reads 0x07E0000000001500 0 (.trap { o with b := 42 })

/-- R36 to R38, R48 and R50: decoding undoes encoding for every well-formed instruction of every family, with every operand field at
every value. -/
def Obligations.DecodeUndoesEncode : Prop := ∀ (i : Instr) (ws : List (BitVec 64)),
  i.wf = true → encode i = some ws → decode (wordBytes ws) = .ok (i, 8 * ws.length)

/-- R98: a thread effect does not happen when lane 0 is inactive.  Each of these instructions then only issues: it reads its sources, its
marks are applied, the mailboxes that it reads are popped, and it raises none of the traps of its own description. -/
def Obligations.InactiveThreadEffects : Prop := ∀ (f : Fields) (form : Option Form) (hOk yOk : Bool) (i : Instr),
  (form, hOk, yOk, i) ∈ ([
    (formBr f, true, true, .br f), (formBra f, true, true, .bra f), (formBra f, true, true, .ret f),
    (formCall f, true, true, .call f), (formCalla f, true, true, .calla f), (formLoop f, true, true, .loop f),
    (formSwin f, false, true, .swin f), (formSpawn f, true, false, .spawn f), (formPlain f, false, true, .exit f),
    (formPlain f, false, true, .yield f), (formWait f, false, false, .wait f), (formSleep f, false, false, .sleep f),
    (formIsync f, true, true, .isync f), (formTick f, true, true, .tick f), (formTickAt f, false, true, .tickAt f),
    (formMma f, false, false, .mma f), (formMma f, false, false, .mmaz f), (formMld f, false, false, .mld f),
    (formMst f, false, false, .mst f), (formMsteer f, false, false, .msteer f), (formMwait f, false, false, .mwait f),
    (formMprog f, false, false, .mprog f), (formMweight f, false, false, .mweight f), (formStash f, true, false, .stash f),
    (formUnstash f, true, false, .unstash f), (formWptr f, f.md == 0, false, .wptr f), (formEread f, false, false, .eread f),
    (formEreadRel f, false, false, .ereadRel f), (formEwrite f, false, false, .ewrite f), (formEos f, false, false, .eos f),
    (formCas f, true, false, .cas f), (formInv f, true, false, .inv f), (formTlbinv f, true, false, .tlbinv f),
    (formRel f, true, false, .rel f), (formAcq f, true, false, .acq f), (formRel f, true, false, .fence f),
    (formOgq f, true, false, .ogq f), (formCpy f, true, false, .cpy f), (formCpy f, true, false, .cpyg f),
    (formCpyf f, true, false, .cpyf f), (formCpw f, false, false, .cpw f), (formCpwDrop f, false, false, .cpwDrop f),
    (formCpq f, true, false, .cpq f), (formBinit f, true, false, .binit f), (formBarv f, true, false, .barv f),
    (formBexp f, true, false, .bexp f), (formBwait f, false, false, .bwait f), (formBtest f, true, false, .btest f),
    (formGbar f, false, false, .gbar f), (formTkmk f, true, false, .tkmk f), (formTkarm f, true, false, .tkarm f),
    (formTksucc f, true, false, .tksucc f), (formTkdec f, true, false, .tkdec f), (formTkdone f, false, false, .tkdone f),
    (formGinst f, false, false, .ginst f), (formResA f 0, false, false, .tkcan f), (formResA f 1, false, false, .tkcanG f),
    (formResA f 0, true, false, .tkst f), (formTksub f, true, false, .tksub f), (formResA f 0, false, false, .tkres f),
    (formArrm f, true, false, .arrm f), (formResA f 1, true, false, .arrmFree f), (formRgres f, true, false, .rgres f),
    (formRgpub f, true, false, .rgpub f), (formRgpub f, true, false, .rgtake f), (formAm f false, true, false, .am f),
    (formAm f true, true, false, .amD f), (formAmr f, false, false, .amr f), (formPush f, true, false, .push f),
    (formPop f, true, false, .pop f), (formPopW f, false, false, .popW f), (formQmk f, true, false, .qmk f),
    (formQmkFree f, true, false, .qmkFree f), (formMbsend f, true, false, .mbsend f), (formMbcnt f, true, false, .mbcnt f),
    (formCplan f, false, false, .cplan f), (formCplanFree f, false, false, .cplanFree f), (formRed f, false, false, .red f),
    (formRed f, false, false, .cbcast f), (formRed f, false, false, .cgath f), (formRedw f, false, false, .redw f),
    (formRedfix f, false, false, .redfix f), (formTrap f, true, false, .trap f), (formEret f, false, false, .eret f),
    (formTrap f, true, false, .brk f), (formDrain f, false, false, .drain f), (formDrainRes f, false, false, .drainRes f),
    (formResA f 0, false, false, .frz f), (formResA f 1, false, false, .frzRes f), (formCtxsv f, false, false, .ctxsv f),
    (formCtx f, false, false, .ctxld f), (formGang f, false, false, .gang f)] : List (Option Form × Bool × Bool × Instr)) →
  Ends form hOk yOk f i (fun e => ¬ e.on) (fun e => e.s)

/-- R48, R51, R52, R322, R361 and R372: an encoded instruction that is not legal traps with 0x01 at its own offset, under every
predicate, once its task is not cancelled, no mailbox entry holds its thread and no watchdog or fetch error comes first: one whose form
is not legal, as that of an unassigned opcode never is; one with an extension word that would lie outside LM; in a handler slot, one
that is barred there or reads a mailbox, and in a thread slot `hend`; on a yard core, one that is not legal there. The model's own
choices that show in it: log entries 91 and 120 (DEDUCED: `redr` is legal on a yard core). -/
def Obligations.IllegalInstructionsTrap : Prop := ∀ (i : Instr) (f : Fields) (s : State) (th : Thread),
  i.fields? = some f →
  ((match formOf i with | some fm => fm.legal f | none => false) = false ∨ (f.x = true ∧ th.pc.toNat = 0x7FFF8) ∨
    (16 ≤ s.cur.2 ∧ (barredInHandler (i.opc.getD 0).toNat f.md = true ∨ mboxesOf ((formOf i).getD {}) f ≠ [])) ∨
    (s.cur.2 < 16 ∧ i = .hend f) ∨ (isYard s.cur.1 = true ∧ legalInYard (i.opc.getD 0).toNat = false)) →
  s.thr? s.cur.1 s.cur.2 = some th → cancelled s s.cur.2 th = false → mbHeld s s.cur.1 s.cur.2 = false →
  ((16 ≤ s.cur.2 → th.issued < 4096) ∧ (isYard s.cur.1 = true → th.issued < 65536)) →
  ((List.range (if f.x then 2 else 1)).any fun i => th.ecc.contains (1024 + (th.pc.toNat + 8 * i) / 32)) = false →
  exec i s = .next (takeTrap (grant s s.cur.1 s.cur.2 th (crossings ((formOf i).getD {}) f)) s.cur.1 s.cur.2
    { code := 1, ipc := th.pc.toNat, rpc := th.pc.toNat, word := th.word })

/-- R91 and R95, with the model's way of taking steps (log entries 3 and 4): the thread that a core grants may issue the instruction
that its bytes decode to, and where the next step is that issue, the step runs it, remembers the fetch blocks of LM that it wrote and
the events that threads wait for, and then lets time pass; a step in which nothing can happen only lets time pass; and every step
answers a next state. -/
def Obligations.StepRunsTheDecodedInstruction : Prop := ∀ s : State,
  (∀ (e slot n : Nat) (c : Core) (t : Thread) (i : Instr),
    let m : Move := { i := i, cur := (e, slot) }
    (e, c) ∈ (refresh s).cores → c.issues (refresh s) e = true → grantOf c = some (slot, t) → decode t.code = .ok (i, n) →
    m ∈ moves (refresh s) ∧
    (pickMove (refresh s) (moves (refresh s)) = some m → ∀ u,
      exec i { refresh s with cur := (e, slot), who := [] } = .next u →
        step s = .next (passTime (noteWakes (notePast (refresh s) u))))) ∧
  (moves (refresh s) = [] → step s = .next (passTime (refresh s))) ∧
  (∃ t, step s = .next t)

/-- R95: of a core's ready slots a handler slot is granted first, the one whose handler started first and 16 on a tie; else the thread
slot with the smallest stamp, among equal ones the first from the pointer on; and the grant moves the pointer past a thread slot only,
stamps the slot with the next cycle and keeps the port for one cycle and one for each operand that crosses a bank. -/
def Obligations.TheSelectorGrants : Prop :=
  (∀ c : Core, (c.threads.map (·.1)).Nodup → (∀ x ∈ c.threads, x.1 < 18) →
    let ready (k : Nat) (u : Thread) : Prop := (k, u) ∈ c.slots ∧ u.status = .ready
    (grantOf c = none ↔ ∀ k u, ¬ ready k u) ∧
    (∀ slot t, grantOf c = some (slot, t) → ready slot t ∧
      (16 ≤ slot → ∀ k u, ready k u → 16 ≤ k → t.startNo < u.startNo ∨ t.startNo = u.startNo ∧ slot ≤ k) ∧
      (slot < 16 → ∀ k u, ready k u → k < 16 ∧
        (t.stamp < u.stamp ∨ t.stamp = u.stamp ∧ (slot + 16 - c.ptr) % 16 ≤ (k + 16 - c.ptr) % 16)))) ∧
  (∀ (s : State) (eid slot k : Nat) (t : Thread),
    let s' := grant s eid slot t k
    (s'.core eid).busy = s.cycle eid + 1 + k ∧ s'.thr? eid slot = some { t with stamp := s.cycle eid + 1 } ∧
    (slot < 16 → (s'.core eid).ptr = (slot + 1) % 16) ∧ (16 ≤ slot → (s'.core eid).ptr = (s.core eid).ptr))

/-- R75, R117, R379, R383 and R400: a trap waits until the run's results have landed; then TRAPCNT rises by one up to its maximum,
LASTTRAP is the code, what the instruction had asked of other devices is over, the record is posted, and a thread of a thread slot is
blocked with its task FAULTED, while a handler ends. A
trapped thread resumes at RPC, where a faulted accumulator slot, channel or contribution that the trap reported restarts, after the
instruction, or at a target that may be one, or ends; what else its last run met comes first, a marked `trap` or `brk` ends its run
when the thread goes on behind it, and what it waited for is taken back unless it goes on where it stopped; with any other status
nothing happens. The model's own choices that show in it: log entries 14 and 116. -/
def Obligations.TrapsAreTaken : Prop := ∀ (s : State) (eid slot : Nat) (t : Thread) (i : TrapInfo), s.thr? eid slot = some t →
  let t' : Thread := Thread.flush
    { t with trapCnt := if t.trapCnt = 0xFFFF then 0xFFFF else t.trapCnt + 1, lastTrap := BitVec.ofNat 8 i.code, status := .trapped i }
    s.free
  let s' := postRecord ((farDone s eid slot 0).setThr eid slot t') (eidDev eid) ((s.core eid).ctx.getD 0) i (originOf s eid slot t')
  (t.allLanded = false → takeTrap s eid slot i = s.setThr eid slot { t with walkFault := none, status := .trapPark i }) ∧
  (t.allLanded = true → t.walkFault = none → takeTrap s eid slot i = deliverTrap (s.setThr eid slot t) eid slot i) ∧
  (slot < 16 → isYard eid = false → deliverTrap s eid slot i = taskFault s' t.task.toNat) ∧
  (slot < 16 → isYard eid = true → deliverTrap s eid slot i = s') ∧
  (16 ≤ slot → deliverTrap s eid slot i = endHandler s' eid slot t') ∧
  (∀ act target, (∀ j, t.status ≠ .trapped j) → resume s eid slot act target = (s, false)) ∧
  (t.status = .trapped i →
    let back := takeBack s eid slot
    let go (s : State) (u : Thread) : State × Bool :=
      (unfault (if i.defer then nextRun s eid slot u else enterReady s eid slot u) t.task.toNat, true)
    let behind (s : State) (u : Thread) : State × Bool :=
      if 13 ≤ i.code ∧ bit i.word 63 then (unfault (retire (s.setThr eid slot u) eid slot true) t.task.toNat, true) else go s u
    let u (pc : Nat) : Thread := { t with phase := none, pc := BitVec.ofNat 20 pc }
    let h := t.task.toNat
    (∀ target x, restartEngine s eid h i = x → resume s eid slot 0 target =
      behind x { t with pc := BitVec.ofNat 20 i.rpc, collFault := t.collFault.filter fun x => some x.1 != i.blk }) ∧
    (i.unit ≠ 1 → i.unit ≠ 2 → i.unit ≠ 4 → restartEngine s eid h i = s) ∧
    (i.unit = 1 → restartEngine s eid h i = s.modCore eid fun c =>
      { c with accs := c.accs.map fun a => (if a.reported h i (c.accs.any (·.reported h i true)) then { a with fault := none } else a) }) ∧
    (i.unit = 2 → restartEngine s eid h i = s.modCore (eid / 8 * 8 + i.index / 2) fun c =>
      { c with chan := c.chan.mapIdx fun k x => (if k = i.index % 2 then { x with fault := none } else x) }) ∧
    (∀ p, i.unit = 4 → p ∈ (restartEngine s eid h i).net → ∃ q ∈ s.net, p = q ∨
      (p = { q with state := .flying } ∧ q.state = .refused ∧ q.src = eid ∧ ∃ k id, q.body = .contrib k id ∧
        ((Keyed.get? s.plans k).bind fun y => (y.calls.find? (·.id == id)).map (·.block)) = i.blk)) ∧
    (∀ target, resume s eid slot 1 target =
      behind back (u (if i.defer then i.rpc else i.ipc + (if i.word % 2 = 1 then 16 else 8)))) ∧
    (∀ target, resume s eid slot 2 target = (unfault (endThread back eid slot false) t.task.toNat, true)) ∧
    (∀ target, target ≤ 0x7FFF8 → target % 8 = 0 → resume s eid slot 3 target = go back (u target)) ∧
    (∀ target, 0x7FFF8 < target ∨ target % 8 ≠ 0 → resume s eid slot 3 target = (s, false)))

/-! ## Frames -/

/-- R71, R73, R76, R82 to R86, R125 to R131 and R135 to R142: an unmarked instruction of the slice, integer or float groups that
writes D alone and reads no mailbox changes no slice outside D and the operands that it reads for the last time, no predicate, no
special register but the float ones' FPSR and generators and TSTAT.DEADREAD, which a read of a dead slice sets and nothing clears
(R78), and nothing outside its thread but the issue port, the quiet window of the instance (R302) and the counts of the model; of
`padd` when no lane traps, of `sclr` in MOD 0. -/
def Obligations.RegisterInstructionsFrame : Prop := ∀ (f : Fields) (form : Option Form) (i : Instr) (isFloat : Bool) (s t : State)
    (th u : Thread),
  (form, i, isFloat) ∈ [
    (formMov f, Instr.mov f, false), (formMovi f, .movi f, false), (formMovhi f, .movhi f, false), (formExt f, .sext f, false),
    (formExt f, .zext f, false), (formPack f, .pack f, false), (formField f, .xtr f, false), (formIns f, .ins f, false),
    (formBcast f, .bcast f, false), (formLane f, .lane f, false), (formShfl f, .shfl f, false), (formShfli f, .shfli f, false),
    (formArith f, .add f, false), (formArith f, .sub f, false), (formArith f, .mul f, false), (formMulh f, .mulh f, false),
    (formMad f, .mad f, false), (formArith f, .min f, false), (formArith f, .max f, false), (formUnary f, .abs f, false),
    (formUnary f, .neg f, false), (formLogic f, .and f, false), (formLogic f, .or f, false), (formLogic f, .xor f, false),
    (formLogic f, .andn f, false), (formBitUn f, .not f, false), (formBitUn f, .popc f, false), (formBitUn f, .clz f, false),
    (formBitUn f, .brev f, false), (formLogic f, .shl f, false), (formLogic f, .shr f, false), (formLogic f, .sar f, false),
    (formLogic f, .rot f, false), (formDiv f, .div f, false), (formLogic f, .rem f, false), (formSel f, .sel f, false),
    (formIred f, .ired f, false), (formIscan f, .iscan f, false), (formSad f, .sad f, false), (formDp f [1, 2], .dp4 f, false),
    (formDp f [15, 16], .dp8 f, false), (formPmk f, .pmk f, false), (formPfmt f, .pfmt f, false),
    (formFarith f, .fadd f, true), (formFarith f, .fsub f, true), (formFarith f, .fmul f, true), (formFarith f, .fdiv f, true),
    (formFma f, .fma f, true), (formFminmax f, .fmin f, true), (formFminmax f, .fmax f, true), (formFsign f, .fabs f, true),
    (formFsign f, .fneg f, true), (formFclass f, .fclass f, true), (formFrint f, .frint f, true), (formFn f, .frcp f, true),
    (formFn f, .frsq f, true), (formFn f, .fsqrt f, true), (formFn f, .fexp2 f, true), (formFn f, .flog2 f, true),
    (formFn f, .fsin f, true), (formFn f, .fcos f, true), (formFscale f, .fscale f, true), (formFdot2 f, .fdot2 f, true),
    (formFred f, .fred f, true), (formFsplit f, .fsplit f, true), (formPadd f, .padd f, false), (formSclr f, .sclr f, false)] →
  (i = .padd f → ∀ l ∈ (hand form f s th).dlanes, paddBad (hand form f s th) l = false ∧ (paddOff (hand form f s th) l).isSome = true) →
  (i = .sclr f → f.md = 0) →
  Issues form true true f s th → mboxesOf (form.getD {}) f = [] → f.m = false →
  exec i s = .next t → t.thr? s.cur.1 s.cur.2 = some u →
  KeepsRest s.cur.1 s.cur.2 s t ∧ KeepsThread (touched (form.getD {}) f) th u ∧
    u.deadRead = (th.deadRead || th.readsDead (form.getD {}) f) ∧
    (isFloat = false → u.fpsr = th.fpsr ∧ u.seed = th.seed) ∧ (∀ b, th.fpsr.getLsbD b = true → u.fpsr.getLsbD b = true)

/-- R87, R180, R199, R206, R222 to R229, R234 and R235: an unmarked load, store, spill, fill, prefetch, atomic or `sta` that takes no
trap changes no byte of memory when it issues, nor does a store before it is performed at its home, at core or at tile scope; there a
load changes none, a store only the bytes of the piece performed, each to its byte of the data, and an atomic only its own bytes. -/
def Obligations.MemoryAccessesFrame : Prop :=
  (∀ (f : Fields) (form : Option Form) (yOk : Bool) (eff : Env → Except Stop State) (i : Instr) (s t : State) (th : Thread),
    (form, yOk, eff, i) ∈ ([
      (formLdl f, true, fun e => localLoad e e.mode (lsSize e.f), .ldl f),
      (formStl f, true, fun e => localStore e e.mode (lsSize e.f) (e.f.smod.toNat % 4), .stl f),
      (formSspill f, true, fun e => localStore e (if e.oa.isVec then 0 else 2) 8 0, .sspill f),
      (formSfill f, true, fun e => localLoad e (if e.od.isVec then 0 else 2) 8, .sfill f),
      (formLd f, false, fun e => globalLoad e (e.mode != 2) e.gwants, .ld f),
      (formSt f, false, fun e => globalStore e (e.mode != 2) (lsSize e.f) e.gwants, .st f),
      (formGather f, false, fun e => globalLoad e true e.iwants, .gather f),
      (formScatter f, false, fun e => globalStore e true (lsSize e.f) e.iwants, .scatter f),
      (formLdf f, false, ldfEff, .ldf f), (formStf f, false, stfEff, .stf f), (formPrf f, false, fun e => .ok (prfEff e), .prf f),
      (formAmo f, false, amoEff, .amo f), (formCas f, false, casEff, .cas f), (formSta f, false, staEff, .sta f)] :
        List (Option Form × Bool × (Env → Except Stop State) × Instr)) →
    f.m = false → Issues form true yOk f s th → Calm (eff (hand form f s th)) → exec i s = .next t → t.mem = s.mem) ∧
  (∀ (s t : State) (id o n : Nat) (a : Access) (rest : List (Nat × Nat)), MemOk s → s.who = [id] →
    s.accs.find? (·.id == id) = some a → mayPerform s a = true → (a.op = .load → (s.core a.eid).frozen = false) →
    a.pieces = (o, n) :: rest → exec .homeAccess s = .next t →
    let ks := (List.range n).map fun i => a.keys.getD (o + i) 0
    (a.op = .load → t.mem = s.mem) ∧ (∀ hi v, a.op = .nibble hi v → t.mem = s.mem) ∧
    (∀ d, a.op = .store d →
      (a.isNear = true → t.mem = s.mem) ∧ (∀ k, k ∉ ks → t.byte k = s.byte k) ∧
      (a.isNear = false → ks.Nodup → ∀ i < n,
        t.byte (a.keys.getD (o + i) 0) = BitVec.ofNat 8 (d / 2 ^ (8 * (o + i)))))) ∧
  (∀ (s : State) (a : Access), MemOk s → ∀ k, k ∉ a.keys → (performAtomic s a).byte k = s.byte k)

/-! ## Reset and the canonical memory -/

/-- R65, R92, R95, R115, R153, R194, R275, R343, R352 and R413, with the model's own choices of log entries 1 and 5 where the spec
gives no value: after reset one device is there, with number 0, no context, thread, task or packet, memory reads as zero everywhere,
and its form is canonical; a new thread starts at its entry with every slice of its windows live, its vector slices zero, its
predicates and flags clear. -/
def Obligations.TheStateAfterReset : Prop :=
  State.reset.devs.map (·.1) = [0] ∧ State.reset.cores = [] ∧ State.reset.ctxs = [] ∧ State.reset.recs = [] ∧
  State.reset.net = [] ∧ State.reset.accs = [] ∧ State.reset.edges = [] ∧ State.reset.plans = [] ∧ State.reset.bad = [] ∧
  (∀ k, State.reset.byte k = 0) ∧ MemOk State.reset ∧
  (∀ e, let c := State.reset.core e
    c.ctx = none ∧ c.threads = [] ∧ c.limit = 2 ∧ c.mxw = 1 ∧ c.rlocks = [] ∧ c.mboxes = [[], [], [], []] ∧ c.stash = [] ∧
    c.ptr = 0 ∧ c.frozen = false ∧ c.accs.length = 4 ∧
    c.accs.all (fun a => decide (a.val = List.replicate 1024 0) && a.fault.isNone) = true ∧
    c.chan.map (·.srgen) = [BitVec.ofNat 16 (2 * eidPos e + 1), BitVec.ofNat 16 (2 * eidPos e + 2)]) ∧
  (∀ pc swinv units scal task targ, let t := newThread pc swinv units scal task targ
    t.pc.toNat = pc % 2 ^ 20 ∧ t.swinv = swinv ∧ t.fpsr = 0 ∧ t.trapCnt = 0 ∧ t.lastTrap = 0 ∧
    (∀ n, n < 512 → t.vlive.getLsbD n = decide (n < swinv)) ∧ (∀ n, n < 256 → t.slive.getLsbD n = true) ∧
    (∀ l, l < 32 → t.lane l = 0) ∧ t.scal.toNat = scal % 2 ^ 1024 ∧
    (∀ k, 1 ≤ k → k ≤ 7 → t.pred k = 0) ∧ t.pend = [] ∧ t.joins = [])

/-- Memory keeps its canonical form (entries in rising order of their keys, none that reads as an unlisted byte does) through every
step, whatever the state. -/
def Obligations.MemoryStaysCanonical : Prop := Invariant MemOk
end

