-- ==== Sys2Proof/Laws/Code.lean ====
section
/-! SUPPORT. The words of an instruction as they are read back: bytes of a word, fields of a base and an extension word. -/

namespace Sys2Proof

open Sys2Proof.Machine

theorem ofBytes_toBytes (n v : Nat) : ofBytes (toBytes n v) = v % 256 ^ n := by
  induction n generalizing v with
  | zero => simp [toBytes, ofBytes, Nat.mod_one]
  | succ n ih =>
    have h := ih (v / 256)
    rw [toBytes, ofBytes, h, Nat.pow_succ', Nat.mod_mul]
    simp [BitVec.toNat_ofNat]

theorem length_toBytes (n v : Nat) : (toBytes n v).length = n := by
  induction n generalizing v with
  | zero => rfl
  | succ n ih => simp [toBytes, ih]

/-- Eight bytes of a word give the word. -/
theorem word_of_bytes (w : BitVec 64) : BitVec.ofNat 64 (ofBytes (toBytes 8 w.toNat)) = w := by
  rw [ofBytes_toBytes]
  apply BitVec.eq_of_toNat_eq
  have := w.isLt
  simp only [BitVec.toNat_ofNat]
  omega

/-- A field that lies in the low part of two parts joined. -/
theorem field_low {a b : Nat} (x : BitVec a) (y : BitVec b) (s n : Nat) (h : s + n ≤ b) :
    (x ++ y).extractLsb' s n = y.extractLsb' s n := by
  apply BitVec.eq_of_getLsbD_eq
  intro i hi
  simp only [BitVec.getLsbD_extractLsb', BitVec.getLsbD_append]
  simp [show s + i < b by omega]

/-- A field that lies in the high part. -/
theorem field_high {a b : Nat} (x : BitVec a) (y : BitVec b) (s n : Nat) (h : b ≤ s) :
    (x ++ y).extractLsb' s n = x.extractLsb' (s - b) n := by
  apply BitVec.eq_of_getLsbD_eq
  intro i hi
  simp only [BitVec.getLsbD_extractLsb', BitVec.getLsbD_append]
  simp [show ¬ s + i < b by omega, show s + i - b = s - b + i by omega]

theorem field_all {a : Nat} (x : BitVec a) : x.extractLsb' 0 a = x := by
  apply BitVec.eq_of_getLsbD_eq
  intro i hi
  simp [hi]

theorem bit_low {a b : Nat} (x : BitVec a) (y : BitVec b) (s : Nat) (h : s < b) :
    (x ++ y).getLsbD s = y.getLsbD s := by
  simp [BitVec.getLsbD_append, h]

theorem bit_high {a b : Nat} (x : BitVec a) (y : BitVec b) (s : Nat) (h : b ≤ s) :
    (x ++ y).getLsbD s = x.getLsbD (s - b) := by
  simp [BitVec.getLsbD_append, show ¬ s < b by omega]

theorem bit_ofBool (b : Bool) : (BitVec.ofBool b).getLsbD 0 = b := by cases b <;> rfl

/-- The opcode of a base word. -/
theorem opcOf_baseWord (opc : BitVec 10) (f : Fields) : opcOf (baseWord opc f) = opc := by
  unfold opcOf baseWord
  change BitVec.extractLsb' (n := 1 + 3 + 1 + 10 + 14 + 14 + 14 + 6 + 1) 49 10 _ = _
  repeat rw [field_high _ _ _ _ (by decide)]
  rw [field_low _ _ _ _ (by decide)]
  exact field_all _

/-- X of a base word. -/
theorem x_baseWord (opc : BitVec 10) (f : Fields) : (baseWord opc f).getLsbD 0 = f.x := by
  unfold baseWord
  change BitVec.getLsbD (w := 1 + 3 + 1 + 10 + 14 + 14 + 14 + 6 + 1) _ 0 = _
  rw [bit_low _ _ _ (by decide)]
  exact bit_ofBool _

/-- The fields of the two words are the fields that they were made of. -/
theorem fieldsOf_words (opc : BitVec 10) (f : Fields) : fieldsOf (baseWord opc f) (extWord f) = f := by
  have low : ∀ g : Fields, f.m = g.m → f.psel = g.psel → f.psense = g.psense → f.d = g.d → f.a = g.a → f.b = g.b →
      f.mod = g.mod → f.x = g.x → f.c = g.c → f.imm = g.imm → f.lra = g.lra → f.lrb = g.lrb → f.lrc = g.lrc →
      f.etype = g.etype → f.rnd = g.rnd → f.sat = g.sat → f.smod = g.smod → g = f := by
    intro g
    cases f
    cases g
    simp only
    intros
    subst_vars
    rfl
  apply low
  all_goals
    unfold fieldsOf baseWord extWord
    symm
    first
    | change BitVec.extractLsb' (n := 1 + 3 + 1 + 10 + 14 + 14 + 14 + 6 + 1) _ _ _ = _
    | change BitVec.getLsbD (w := 1 + 3 + 1 + 10 + 14 + 14 + 14 + 6 + 1) _ _ = _
    | change BitVec.extractLsb' (n := 14 + 32 + 1 + 1 + 1 + 5 + 3 + 1 + 6) _ _ _ = _
    | change BitVec.getLsbD (w := 14 + 32 + 1 + 1 + 1 + 5 + 3 + 1 + 6) _ _ = _
    repeat first
    | rw [field_high _ _ _ _ (by decide)]
    | rw [field_low _ _ _ _ (by decide)]
    | rw [bit_high _ _ _ (by decide)]
    | rw [bit_low _ _ _ (by decide)]
    first
    | exact field_all _
    | exact bit_ofBool _

/-- With no extension word its fields are zero. -/
theorem fieldsOf_short (opc : BitVec 10) (f : Fields) (hx : f.x = false) (h : f.extOk = true) :
    fieldsOf (baseWord opc f) 0 = f := by
  have he : extWord f = 0 := by
    simp only [Fields.extOk, hx, Bool.false_or, Bool.and_eq_true, beq_iff_eq, Bool.not_eq_true'] at h
    obtain ⟨⟨⟨⟨⟨⟨⟨⟨h1, h2⟩, h3⟩, h4⟩, h5⟩, h6⟩, h7⟩, h8⟩, h9⟩ := h
    unfold extWord
    rw [h1, h2, h3, h4, h5, h6, h7, h8, h9]
    rfl
  rw [← he]
  exact fieldsOf_words opc f

/-- The bytes of one word decode to its instruction. -/
theorem decode_one (w : BitVec 64) (h : w.getLsbD 0 = false) : decode (wordBytes [w]) = .ok (decodeWords w 0, 8) := by
  have e : wordBytes [w] = toBytes 8 w.toNat := by simp [wordBytes]
  unfold decode
  rw [e]
  simp only [length_toBytes, Nat.lt_irrefl, if_false]
  rw [List.take_of_length_le (by simp [length_toBytes]), word_of_bytes]
  simp only [h, Bool.false_eq_true, if_false]

theorem decode_two (w e : BitVec 64) (h : w.getLsbD 0 = true) :
    decode (wordBytes [w, e]) = .ok (decodeWords w e, 16) := by
  have e1 : wordBytes [w, e] = toBytes 8 w.toNat ++ toBytes 8 e.toNat := by simp [wordBytes]
  unfold decode
  rw [e1]
  have h1 : (toBytes 8 w.toNat ++ toBytes 8 e.toNat).take 8 = toBytes 8 w.toNat := by
    rw [List.take_append_of_le_length (by simp [length_toBytes]), List.take_of_length_le (by simp [length_toBytes])]
  have h2 : ((toBytes 8 w.toNat ++ toBytes 8 e.toNat).drop 8).take 8 = toBytes 8 e.toNat := by
    rw [List.drop_append_of_le_length (by simp [length_toBytes]), List.drop_of_length_le (by simp [length_toBytes]),
      List.nil_append, List.take_of_length_le (by simp [length_toBytes])]
  rw [h1, h2, word_of_bytes, word_of_bytes]
  simp [length_toBytes, h]

/-- The words that fields make under an opcode decode to the instruction of the opcode with those fields. -/
theorem decode_words (opc : BitVec 10) (f : Fields) (h : f.extOk = true) :
    decode (wordBytes (if f.x then [baseWord opc f, extWord f] else [baseWord opc f])) =
      .ok (instrOf opc f, if f.x then 16 else 8) := by
  cases hx : f.x with
  | true =>
    simp only [if_true]
    rw [decode_two _ _ (by rw [x_baseWord, hx])]
    simp only [decodeWords, x_baseWord, hx, if_true, opcOf_baseWord, fieldsOf_words]
  | false =>
    simp only [Bool.false_eq_true, if_false]
    rw [decode_one _ (by rw [x_baseWord, hx])]
    simp only [decodeWords, x_baseWord, hx, Bool.false_eq_true, if_false, opcOf_baseWord, fieldsOf_short opc f hx h]

end Sys2Proof
end

