-- ==== Sys2Proof/Laws/Mem.lean ====
section
/-! SUPPORT. Memory: reading what was written, other bytes unchanged, and the canonical form kept by every write. -/

namespace Sys2Proof.Machine

theorem Memory.get_cons_self (n : Nat) (b : Byte) (l : List Host.Cell) (h : Memory.wfFrom (n + 1) l = true) :
    Memory.get (Memory.cons n b l) n = b := by
  unfold Memory.cons
  split
  · subst_vars
    cases l with
    | nil => rfl
    | cons c r =>
      obtain ⟨k, v⟩ := c
      simp only [Memory.wfFrom, Bool.and_eq_true, decide_eq_true_eq] at h
      have h1 : n ≠ k := by omega
      have h2 : n < k := by omega
      simp [Memory.get, h1, h2]
  · simp [Memory.get]

theorem Memory.get_below (l : List Host.Cell) (lo n : Nat) (h : Memory.wfFrom lo l = true) (hn : n < lo) :
    Memory.get l n = Memory.blank := by
  cases l with
  | nil => rfl
  | cons c r =>
    obtain ⟨k, v⟩ := c
    simp only [Memory.wfFrom, Bool.and_eq_true, decide_eq_true_eq] at h
    have h1 : n ≠ k := by omega
    have h2 : n < k := by omega
    simp [Memory.get, h1, h2]

theorem Memory.wfFrom_mono {l : List Host.Cell} {lo lo' : Nat} (h : Memory.wfFrom lo l = true) (hl : lo' ≤ lo) :
    Memory.wfFrom lo' l = true := by
  cases l with
  | nil => rfl
  | cons c r =>
    obtain ⟨k, v⟩ := c
    simp only [Memory.wfFrom, Bool.and_eq_true, decide_eq_true_eq] at h ⊢
    exact ⟨⟨by omega, h.1.2⟩, h.2⟩

theorem Memory.wfFrom_cons {lo n : Nat} {b : Byte} {l : List Host.Cell} (hl : Memory.wfFrom (n + 1) l = true)
    (hn : lo ≤ n) : Memory.wfFrom lo (Memory.cons n b l) = true := by
  unfold Memory.cons
  split
  · exact Memory.wfFrom_mono hl (by omega)
  · rename_i hb
    simp only [Memory.wfFrom, Bool.and_eq_true, decide_eq_true_eq]
    exact ⟨⟨hn, by simpa using hb⟩, hl⟩

theorem Memory.wfFrom_put {l : List Host.Cell} {lo n : Nat} (b : Byte) (h : Memory.wfFrom lo l = true) (hn : lo ≤ n) :
    Memory.wfFrom lo (Memory.put l n b) = true := by
  induction l generalizing lo with
  | nil => exact Memory.wfFrom_cons rfl hn
  | cons c r ih =>
    obtain ⟨k, v⟩ := c
    have h0 := h
    simp only [Memory.wfFrom, Bool.and_eq_true, decide_eq_true_eq] at h
    unfold Memory.put
    split
    · subst_vars
      exact Memory.wfFrom_cons h.2 hn
    · split
      · refine Memory.wfFrom_cons ?_ hn
        simp only [Memory.wfFrom, Bool.and_eq_true, decide_eq_true_eq]
        exact ⟨⟨by omega, h.1.2⟩, h.2⟩
      · simp only [Memory.wfFrom, Bool.and_eq_true, decide_eq_true_eq]
        exact ⟨h.1, ih h.2 (by omega)⟩

/-- Writing a byte keeps the canonical form. -/
theorem Memory.wf_put {l : List Host.Cell} (n : Nat) (b : Byte) (h : Memory.wf l = true) :
    Memory.wf (Memory.put l n b) = true := Memory.wfFrom_put b h (Nat.zero_le _)

theorem Memory.get_put_from {l : List Host.Cell} {lo : Nat} (n m : Nat) (b : Byte) (h : Memory.wfFrom lo l = true) :
    Memory.get (Memory.put l n b) m = if m = n then b else Memory.get l m := by
  induction l generalizing lo with
  | nil =>
    by_cases hm : m = n
    · subst hm
      simpa [Memory.put] using Memory.get_cons_self m b [] rfl
    · simp only [Memory.put, Memory.cons, hm, if_false, Memory.get]
      split
      · rfl
      · simp [Memory.get, hm]
  | cons c r ih =>
    obtain ⟨k, v⟩ := c
    simp only [Memory.wfFrom, Bool.and_eq_true, decide_eq_true_eq] at h
    by_cases h1 : n = k
    · subst h1
      simp only [Memory.put, if_true]
      by_cases hm : m = n
      · subst hm
        simpa using Memory.get_cons_self m b r h.2
      · simp only [hm, if_false, Memory.get, Memory.cons]
        split
        · split
          · exact Memory.get_below r (n + 1) m h.2 (by omega)
          · rfl
        · simp [Memory.get, hm]
    · by_cases h2 : n < k
      · simp only [Memory.put, h1, h2, if_false, if_true]
        have hw : Memory.wfFrom (n + 1) ((k, v) :: r) = true := by
          simp only [Memory.wfFrom, Bool.and_eq_true, decide_eq_true_eq]
          exact ⟨⟨by omega, h.1.2⟩, h.2⟩
        by_cases hm : m = n
        · subst hm
          simpa using Memory.get_cons_self m b _ hw
        · simp only [hm, if_false, Memory.cons]
          split
          · rfl
          · rw [Memory.get, if_neg hm]
            split
            · exact (Memory.get_below _ (n + 1) m hw (by omega)).symm
            · rfl
      · simp only [Memory.put, h1, h2, if_false]
        by_cases hm : m = k
        · subst hm
          have : m ≠ n := fun e => h1 e.symm
          simp [Memory.get, this]
        · simp only [Memory.get, hm, if_false]
          split
          · split
            · omega
            · rfl
          · exact ih h.2

/-- A read after a write of one byte. -/
theorem Memory.get_put {l : List Host.Cell} (n m : Nat) (b : Byte) (h : Memory.wf l = true) :
    Memory.get (Memory.put l n b) m = if m = n then b else Memory.get l m := Memory.get_put_from n m b h

/-- Every pair of a list passes a test that the list passed before. -/
theorem Memory.wfFrom_filter {l : List Host.Cell} {lo : Nat} (p : Host.Cell → Bool) (h : Memory.wfFrom lo l = true) :
    Memory.wfFrom lo (l.filter p) = true := by
  induction l generalizing lo with
  | nil => rfl
  | cons c r ih =>
    obtain ⟨k, v⟩ := c
    simp only [Memory.wfFrom, Bool.and_eq_true, decide_eq_true_eq] at h
    rw [List.filter_cons]
    split
    · simp only [Memory.wfFrom, Bool.and_eq_true, decide_eq_true_eq]
      exact ⟨h.1, ih h.2⟩
    · exact Memory.wfFrom_mono (ih h.2) (by omega)

theorem Memory.wf_filter {l : List Host.Cell} (p : Host.Cell → Bool) (h : Memory.wf l = true) :
    Memory.wf (l.filter p) = true := Memory.wfFrom_filter p h

/-- Writing bytes in order, from a list of cells, keeps the canonical form. -/
theorem Memory.wf_foldl_put (ks : List Host.Cell) (g : Nat → Nat) (l : List Host.Cell) (h : Memory.wf l = true) :
    Memory.wf (ks.foldl (fun m x => Memory.put m (g x.1) x.2) l) = true := by
  induction ks generalizing l with
  | nil => exact h
  | cons x r ih => exact ih _ (Memory.wf_put _ _ h)

namespace State

@[simp] theorem setByte_mem (s : State) (k : Nat) (b : Byte) : (s.setByte k b).mem = Memory.put s.mem k b := rfl

/-- A byte written is read back, every other byte reads as before. -/
theorem byte_setByte (s : State) (k n : Nat) (b : Byte) (h : Memory.wf s.mem = true) :
    (s.setByte k b).byte n = if n = k then b else s.byte n := Memory.get_put k n b h

theorem setByte_wf (s : State) (k : Nat) (b : Byte) (h : Memory.wf s.mem = true) :
    Memory.wf (s.setByte k b).mem = true := Memory.wf_put k b h

theorem setBytes_wf (l : List (Nat × Byte)) (s : State) (h : Memory.wf s.mem = true) :
    Memory.wf (s.setBytes l).mem = true := by
  induction l generalizing s with
  | nil => exact h
  | cons c r ih => exact ih (s.setByte c.1 c.2) (setByte_wf s _ _ h)

theorem wr_wf (s : State) (k n v : Nat) (h : Memory.wf s.mem = true) : Memory.wf (s.wr k n v).mem = true :=
  setBytes_wf _ _ h

/-- Bytes outside those written read as before. -/
theorem byte_setBytes (l : List (Nat × Byte)) (s : State) (n : Nat) (h : Memory.wf s.mem = true)
    (hn : ∀ x ∈ l, x.1 ≠ n) : (s.setBytes l).byte n = s.byte n := by
  induction l generalizing s with
  | nil => rfl
  | cons c r ih =>
    have h1 : n ≠ c.1 := fun e => hn c (by simp) e.symm
    show ((s.setByte c.1 c.2).setBytes r).byte n = _
    rw [ih (s.setByte c.1 c.2) (setByte_wf s _ _ h) (fun x hx => hn x (by simp [hx]))]
    simp [byte_setByte s c.1 n c.2 h, h1]

/-- The memory after reset is canonical. -/
theorem reset_wf : Memory.wf State.reset.mem = true := rfl

end State

end Sys2Proof.Machine
end

