-- ==== Sys2Proof/Laws/State.lean ====
section
/-! SUPPORT. What each update of the state leaves as it was: one lemma for a field and an update. -/

namespace Sys2Proof.Machine.State

@[simp] theorem setByte_cores (s : State) (k : Nat) (b : Byte) : (s.setByte k b).cores = s.cores := rfl
@[simp] theorem setByte_tiles (s : State) (k : Nat) (b : Byte) : (s.setByte k b).tiles = s.tiles := rfl
@[simp] theorem setByte_dies (s : State) (k : Nat) (b : Byte) : (s.setByte k b).dies = s.dies := rfl
@[simp] theorem setByte_devs (s : State) (k : Nat) (b : Byte) : (s.setByte k b).devs = s.devs := rfl
@[simp] theorem setByte_recorders (s : State) (k : Nat) (b : Byte) : (s.setByte k b).recorders = s.recorders := rfl
@[simp] theorem setByte_ctxs (s : State) (k : Nat) (b : Byte) : (s.setByte k b).ctxs = s.ctxs := rfl
@[simp] theorem setByte_recs (s : State) (k : Nat) (b : Byte) : (s.setByte k b).recs = s.recs := rfl
@[simp] theorem setByte_gens (s : State) (k : Nat) (b : Byte) : (s.setByte k b).gens = s.gens := rfl
@[simp] theorem setByte_insts (s : State) (k : Nat) (b : Byte) : (s.setByte k b).insts = s.insts := rfl
@[simp] theorem setByte_groups (s : State) (k : Nat) (b : Byte) : (s.setByte k b).groups = s.groups := rfl
@[simp] theorem setByte_edges (s : State) (k : Nat) (b : Byte) : (s.setByte k b).edges = s.edges := rfl
@[simp] theorem setByte_accs (s : State) (k : Nat) (b : Byte) : (s.setByte k b).accs = s.accs := rfl
@[simp] theorem setByte_acks (s : State) (k : Nat) (b : Byte) : (s.setByte k b).acks = s.acks := rfl
@[simp] theorem setByte_net (s : State) (k : Nat) (b : Byte) : (s.setByte k b).net = s.net := rfl
@[simp] theorem setByte_cache (s : State) (k : Nat) (b : Byte) : (s.setByte k b).cache = s.cache := rfl
@[simp] theorem setByte_fars (s : State) (k : Nat) (b : Byte) : (s.setByte k b).fars = s.fars := rfl
@[simp] theorem setByte_gaps (s : State) (k : Nat) (b : Byte) : (s.setByte k b).gaps = s.gaps := rfl
@[simp] theorem setByte_seqs (s : State) (k : Nat) (b : Byte) : (s.setByte k b).seqs = s.seqs := rfl
@[simp] theorem setByte_used (s : State) (k : Nat) (b : Byte) : (s.setByte k b).used = s.used := rfl
@[simp] theorem setByte_accels (s : State) (k : Nat) (b : Byte) : (s.setByte k b).accels = s.accels := rfl
@[simp] theorem setByte_plans (s : State) (k : Nat) (b : Byte) : (s.setByte k b).plans = s.plans := rfl
@[simp] theorem setByte_gangs (s : State) (k : Nat) (b : Byte) : (s.setByte k b).gangs = s.gangs := rfl
@[simp] theorem setByte_bad (s : State) (k : Nat) (b : Byte) : (s.setByte k b).bad = s.bad := rfl
@[simp] theorem setByte_trt (s : State) (k : Nat) (b : Byte) : (s.setByte k b).trt = s.trt := rfl
@[simp] theorem setByte_past (s : State) (k : Nat) (b : Byte) : (s.setByte k b).past = s.past := rfl
@[simp] theorem setByte_cur (s : State) (k : Nat) (b : Byte) : (s.setByte k b).cur = s.cur := rfl
@[simp] theorem setByte_who (s : State) (k : Nat) (b : Byte) : (s.setByte k b).who = s.who := rfl
@[simp] theorem setByte_inputs (s : State) (k : Nat) (b : Byte) : (s.setByte k b).inputs = s.inputs := rfl
@[simp] theorem setByte_nextId (s : State) (k : Nat) (b : Byte) : (s.setByte k b).nextId = s.nextId := rfl
@[simp] theorem setByte_steps (s : State) (k : Nat) (b : Byte) : (s.setByte k b).steps = s.steps := rfl

@[simp] theorem setCore_mem (s : State) (e : Nat) (c : Core) : (s.setCore e c).mem = s.mem := rfl
@[simp] theorem setCore_tiles (s : State) (e : Nat) (c : Core) : (s.setCore e c).tiles = s.tiles := rfl
@[simp] theorem setCore_dies (s : State) (e : Nat) (c : Core) : (s.setCore e c).dies = s.dies := rfl
@[simp] theorem setCore_devs (s : State) (e : Nat) (c : Core) : (s.setCore e c).devs = s.devs := rfl
@[simp] theorem setCore_recorders (s : State) (e : Nat) (c : Core) : (s.setCore e c).recorders = s.recorders := rfl
@[simp] theorem setCore_ctxs (s : State) (e : Nat) (c : Core) : (s.setCore e c).ctxs = s.ctxs := rfl
@[simp] theorem setCore_recs (s : State) (e : Nat) (c : Core) : (s.setCore e c).recs = s.recs := rfl
@[simp] theorem setCore_gens (s : State) (e : Nat) (c : Core) : (s.setCore e c).gens = s.gens := rfl
@[simp] theorem setCore_insts (s : State) (e : Nat) (c : Core) : (s.setCore e c).insts = s.insts := rfl
@[simp] theorem setCore_groups (s : State) (e : Nat) (c : Core) : (s.setCore e c).groups = s.groups := rfl
@[simp] theorem setCore_edges (s : State) (e : Nat) (c : Core) : (s.setCore e c).edges = s.edges := rfl
@[simp] theorem setCore_accs (s : State) (e : Nat) (c : Core) : (s.setCore e c).accs = s.accs := rfl
@[simp] theorem setCore_acks (s : State) (e : Nat) (c : Core) : (s.setCore e c).acks = s.acks := rfl
@[simp] theorem setCore_net (s : State) (e : Nat) (c : Core) : (s.setCore e c).net = s.net := rfl
@[simp] theorem setCore_cache (s : State) (e : Nat) (c : Core) : (s.setCore e c).cache = s.cache := rfl
@[simp] theorem setCore_fars (s : State) (e : Nat) (c : Core) : (s.setCore e c).fars = s.fars := rfl
@[simp] theorem setCore_gaps (s : State) (e : Nat) (c : Core) : (s.setCore e c).gaps = s.gaps := rfl
@[simp] theorem setCore_seqs (s : State) (e : Nat) (c : Core) : (s.setCore e c).seqs = s.seqs := rfl
@[simp] theorem setCore_used (s : State) (e : Nat) (c : Core) : (s.setCore e c).used = s.used := rfl
@[simp] theorem setCore_accels (s : State) (e : Nat) (c : Core) : (s.setCore e c).accels = s.accels := rfl
@[simp] theorem setCore_plans (s : State) (e : Nat) (c : Core) : (s.setCore e c).plans = s.plans := rfl
@[simp] theorem setCore_gangs (s : State) (e : Nat) (c : Core) : (s.setCore e c).gangs = s.gangs := rfl
@[simp] theorem setCore_bad (s : State) (e : Nat) (c : Core) : (s.setCore e c).bad = s.bad := rfl
@[simp] theorem setCore_trt (s : State) (e : Nat) (c : Core) : (s.setCore e c).trt = s.trt := rfl
@[simp] theorem setCore_past (s : State) (e : Nat) (c : Core) : (s.setCore e c).past = s.past := rfl
@[simp] theorem setCore_cur (s : State) (e : Nat) (c : Core) : (s.setCore e c).cur = s.cur := rfl
@[simp] theorem setCore_who (s : State) (e : Nat) (c : Core) : (s.setCore e c).who = s.who := rfl
@[simp] theorem setCore_inputs (s : State) (e : Nat) (c : Core) : (s.setCore e c).inputs = s.inputs := rfl
@[simp] theorem setCore_nextId (s : State) (e : Nat) (c : Core) : (s.setCore e c).nextId = s.nextId := rfl
@[simp] theorem setCore_steps (s : State) (e : Nat) (c : Core) : (s.setCore e c).steps = s.steps := rfl

@[simp] theorem modCore_mem (s : State) (e : Nat) (g : Core → Core) : (s.modCore e g).mem = s.mem := rfl
@[simp] theorem modCore_tiles (s : State) (e : Nat) (g : Core → Core) : (s.modCore e g).tiles = s.tiles := rfl
@[simp] theorem modCore_dies (s : State) (e : Nat) (g : Core → Core) : (s.modCore e g).dies = s.dies := rfl
@[simp] theorem modCore_devs (s : State) (e : Nat) (g : Core → Core) : (s.modCore e g).devs = s.devs := rfl
@[simp] theorem modCore_recorders (s : State) (e : Nat) (g : Core → Core) : (s.modCore e g).recorders = s.recorders := rfl
@[simp] theorem modCore_ctxs (s : State) (e : Nat) (g : Core → Core) : (s.modCore e g).ctxs = s.ctxs := rfl
@[simp] theorem modCore_recs (s : State) (e : Nat) (g : Core → Core) : (s.modCore e g).recs = s.recs := rfl
@[simp] theorem modCore_gens (s : State) (e : Nat) (g : Core → Core) : (s.modCore e g).gens = s.gens := rfl
@[simp] theorem modCore_insts (s : State) (e : Nat) (g : Core → Core) : (s.modCore e g).insts = s.insts := rfl
@[simp] theorem modCore_groups (s : State) (e : Nat) (g : Core → Core) : (s.modCore e g).groups = s.groups := rfl
@[simp] theorem modCore_edges (s : State) (e : Nat) (g : Core → Core) : (s.modCore e g).edges = s.edges := rfl
@[simp] theorem modCore_accs (s : State) (e : Nat) (g : Core → Core) : (s.modCore e g).accs = s.accs := rfl
@[simp] theorem modCore_acks (s : State) (e : Nat) (g : Core → Core) : (s.modCore e g).acks = s.acks := rfl
@[simp] theorem modCore_net (s : State) (e : Nat) (g : Core → Core) : (s.modCore e g).net = s.net := rfl
@[simp] theorem modCore_cache (s : State) (e : Nat) (g : Core → Core) : (s.modCore e g).cache = s.cache := rfl
@[simp] theorem modCore_fars (s : State) (e : Nat) (g : Core → Core) : (s.modCore e g).fars = s.fars := rfl
@[simp] theorem modCore_gaps (s : State) (e : Nat) (g : Core → Core) : (s.modCore e g).gaps = s.gaps := rfl
@[simp] theorem modCore_seqs (s : State) (e : Nat) (g : Core → Core) : (s.modCore e g).seqs = s.seqs := rfl
@[simp] theorem modCore_used (s : State) (e : Nat) (g : Core → Core) : (s.modCore e g).used = s.used := rfl
@[simp] theorem modCore_accels (s : State) (e : Nat) (g : Core → Core) : (s.modCore e g).accels = s.accels := rfl
@[simp] theorem modCore_plans (s : State) (e : Nat) (g : Core → Core) : (s.modCore e g).plans = s.plans := rfl
@[simp] theorem modCore_gangs (s : State) (e : Nat) (g : Core → Core) : (s.modCore e g).gangs = s.gangs := rfl
@[simp] theorem modCore_bad (s : State) (e : Nat) (g : Core → Core) : (s.modCore e g).bad = s.bad := rfl
@[simp] theorem modCore_trt (s : State) (e : Nat) (g : Core → Core) : (s.modCore e g).trt = s.trt := rfl
@[simp] theorem modCore_past (s : State) (e : Nat) (g : Core → Core) : (s.modCore e g).past = s.past := rfl
@[simp] theorem modCore_cur (s : State) (e : Nat) (g : Core → Core) : (s.modCore e g).cur = s.cur := rfl
@[simp] theorem modCore_who (s : State) (e : Nat) (g : Core → Core) : (s.modCore e g).who = s.who := rfl
@[simp] theorem modCore_inputs (s : State) (e : Nat) (g : Core → Core) : (s.modCore e g).inputs = s.inputs := rfl
@[simp] theorem modCore_nextId (s : State) (e : Nat) (g : Core → Core) : (s.modCore e g).nextId = s.nextId := rfl
@[simp] theorem modCore_steps (s : State) (e : Nat) (g : Core → Core) : (s.modCore e g).steps = s.steps := rfl

@[simp] theorem setThr_mem (s : State) (e i : Nat) (t : Thread) : (s.setThr e i t).mem = s.mem := rfl
@[simp] theorem setThr_tiles (s : State) (e i : Nat) (t : Thread) : (s.setThr e i t).tiles = s.tiles := rfl
@[simp] theorem setThr_dies (s : State) (e i : Nat) (t : Thread) : (s.setThr e i t).dies = s.dies := rfl
@[simp] theorem setThr_devs (s : State) (e i : Nat) (t : Thread) : (s.setThr e i t).devs = s.devs := rfl
@[simp] theorem setThr_recorders (s : State) (e i : Nat) (t : Thread) : (s.setThr e i t).recorders = s.recorders := rfl
@[simp] theorem setThr_ctxs (s : State) (e i : Nat) (t : Thread) : (s.setThr e i t).ctxs = s.ctxs := rfl
@[simp] theorem setThr_recs (s : State) (e i : Nat) (t : Thread) : (s.setThr e i t).recs = s.recs := rfl
@[simp] theorem setThr_gens (s : State) (e i : Nat) (t : Thread) : (s.setThr e i t).gens = s.gens := rfl
@[simp] theorem setThr_insts (s : State) (e i : Nat) (t : Thread) : (s.setThr e i t).insts = s.insts := rfl
@[simp] theorem setThr_groups (s : State) (e i : Nat) (t : Thread) : (s.setThr e i t).groups = s.groups := rfl
@[simp] theorem setThr_edges (s : State) (e i : Nat) (t : Thread) : (s.setThr e i t).edges = s.edges := rfl
@[simp] theorem setThr_accs (s : State) (e i : Nat) (t : Thread) : (s.setThr e i t).accs = s.accs := rfl
@[simp] theorem setThr_acks (s : State) (e i : Nat) (t : Thread) : (s.setThr e i t).acks = s.acks := rfl
@[simp] theorem setThr_net (s : State) (e i : Nat) (t : Thread) : (s.setThr e i t).net = s.net := rfl
@[simp] theorem setThr_cache (s : State) (e i : Nat) (t : Thread) : (s.setThr e i t).cache = s.cache := rfl
@[simp] theorem setThr_fars (s : State) (e i : Nat) (t : Thread) : (s.setThr e i t).fars = s.fars := rfl
@[simp] theorem setThr_gaps (s : State) (e i : Nat) (t : Thread) : (s.setThr e i t).gaps = s.gaps := rfl
@[simp] theorem setThr_seqs (s : State) (e i : Nat) (t : Thread) : (s.setThr e i t).seqs = s.seqs := rfl
@[simp] theorem setThr_used (s : State) (e i : Nat) (t : Thread) : (s.setThr e i t).used = s.used := rfl
@[simp] theorem setThr_accels (s : State) (e i : Nat) (t : Thread) : (s.setThr e i t).accels = s.accels := rfl
@[simp] theorem setThr_plans (s : State) (e i : Nat) (t : Thread) : (s.setThr e i t).plans = s.plans := rfl
@[simp] theorem setThr_gangs (s : State) (e i : Nat) (t : Thread) : (s.setThr e i t).gangs = s.gangs := rfl
@[simp] theorem setThr_bad (s : State) (e i : Nat) (t : Thread) : (s.setThr e i t).bad = s.bad := rfl
@[simp] theorem setThr_trt (s : State) (e i : Nat) (t : Thread) : (s.setThr e i t).trt = s.trt := rfl
@[simp] theorem setThr_past (s : State) (e i : Nat) (t : Thread) : (s.setThr e i t).past = s.past := rfl
@[simp] theorem setThr_cur (s : State) (e i : Nat) (t : Thread) : (s.setThr e i t).cur = s.cur := rfl
@[simp] theorem setThr_who (s : State) (e i : Nat) (t : Thread) : (s.setThr e i t).who = s.who := rfl
@[simp] theorem setThr_inputs (s : State) (e i : Nat) (t : Thread) : (s.setThr e i t).inputs = s.inputs := rfl
@[simp] theorem setThr_nextId (s : State) (e i : Nat) (t : Thread) : (s.setThr e i t).nextId = s.nextId := rfl
@[simp] theorem setThr_steps (s : State) (e i : Nat) (t : Thread) : (s.setThr e i t).steps = s.steps := rfl

@[simp] theorem modTile_mem (s : State) (t : Nat) (g : Tile → Tile) : (s.modTile t g).mem = s.mem := rfl
@[simp] theorem modTile_cores (s : State) (t : Nat) (g : Tile → Tile) : (s.modTile t g).cores = s.cores := rfl
@[simp] theorem modTile_dies (s : State) (t : Nat) (g : Tile → Tile) : (s.modTile t g).dies = s.dies := rfl
@[simp] theorem modTile_devs (s : State) (t : Nat) (g : Tile → Tile) : (s.modTile t g).devs = s.devs := rfl
@[simp] theorem modTile_recorders (s : State) (t : Nat) (g : Tile → Tile) : (s.modTile t g).recorders = s.recorders := rfl
@[simp] theorem modTile_ctxs (s : State) (t : Nat) (g : Tile → Tile) : (s.modTile t g).ctxs = s.ctxs := rfl
@[simp] theorem modTile_recs (s : State) (t : Nat) (g : Tile → Tile) : (s.modTile t g).recs = s.recs := rfl
@[simp] theorem modTile_gens (s : State) (t : Nat) (g : Tile → Tile) : (s.modTile t g).gens = s.gens := rfl
@[simp] theorem modTile_insts (s : State) (t : Nat) (g : Tile → Tile) : (s.modTile t g).insts = s.insts := rfl
@[simp] theorem modTile_groups (s : State) (t : Nat) (g : Tile → Tile) : (s.modTile t g).groups = s.groups := rfl
@[simp] theorem modTile_edges (s : State) (t : Nat) (g : Tile → Tile) : (s.modTile t g).edges = s.edges := rfl
@[simp] theorem modTile_accs (s : State) (t : Nat) (g : Tile → Tile) : (s.modTile t g).accs = s.accs := rfl
@[simp] theorem modTile_acks (s : State) (t : Nat) (g : Tile → Tile) : (s.modTile t g).acks = s.acks := rfl
@[simp] theorem modTile_net (s : State) (t : Nat) (g : Tile → Tile) : (s.modTile t g).net = s.net := rfl
@[simp] theorem modTile_cache (s : State) (t : Nat) (g : Tile → Tile) : (s.modTile t g).cache = s.cache := rfl
@[simp] theorem modTile_fars (s : State) (t : Nat) (g : Tile → Tile) : (s.modTile t g).fars = s.fars := rfl
@[simp] theorem modTile_gaps (s : State) (t : Nat) (g : Tile → Tile) : (s.modTile t g).gaps = s.gaps := rfl
@[simp] theorem modTile_seqs (s : State) (t : Nat) (g : Tile → Tile) : (s.modTile t g).seqs = s.seqs := rfl
@[simp] theorem modTile_used (s : State) (t : Nat) (g : Tile → Tile) : (s.modTile t g).used = s.used := rfl
@[simp] theorem modTile_accels (s : State) (t : Nat) (g : Tile → Tile) : (s.modTile t g).accels = s.accels := rfl
@[simp] theorem modTile_plans (s : State) (t : Nat) (g : Tile → Tile) : (s.modTile t g).plans = s.plans := rfl
@[simp] theorem modTile_gangs (s : State) (t : Nat) (g : Tile → Tile) : (s.modTile t g).gangs = s.gangs := rfl
@[simp] theorem modTile_bad (s : State) (t : Nat) (g : Tile → Tile) : (s.modTile t g).bad = s.bad := rfl
@[simp] theorem modTile_trt (s : State) (t : Nat) (g : Tile → Tile) : (s.modTile t g).trt = s.trt := rfl
@[simp] theorem modTile_past (s : State) (t : Nat) (g : Tile → Tile) : (s.modTile t g).past = s.past := rfl
@[simp] theorem modTile_cur (s : State) (t : Nat) (g : Tile → Tile) : (s.modTile t g).cur = s.cur := rfl
@[simp] theorem modTile_who (s : State) (t : Nat) (g : Tile → Tile) : (s.modTile t g).who = s.who := rfl
@[simp] theorem modTile_inputs (s : State) (t : Nat) (g : Tile → Tile) : (s.modTile t g).inputs = s.inputs := rfl
@[simp] theorem modTile_nextId (s : State) (t : Nat) (g : Tile → Tile) : (s.modTile t g).nextId = s.nextId := rfl
@[simp] theorem modTile_steps (s : State) (t : Nat) (g : Tile → Tile) : (s.modTile t g).steps = s.steps := rfl

@[simp] theorem modDie_mem (s : State) (d : Nat) (g : Die → Die) : (s.modDie d g).mem = s.mem := rfl
@[simp] theorem modDie_cores (s : State) (d : Nat) (g : Die → Die) : (s.modDie d g).cores = s.cores := rfl
@[simp] theorem modDie_tiles (s : State) (d : Nat) (g : Die → Die) : (s.modDie d g).tiles = s.tiles := rfl
@[simp] theorem modDie_devs (s : State) (d : Nat) (g : Die → Die) : (s.modDie d g).devs = s.devs := rfl
@[simp] theorem modDie_recorders (s : State) (d : Nat) (g : Die → Die) : (s.modDie d g).recorders = s.recorders := rfl
@[simp] theorem modDie_ctxs (s : State) (d : Nat) (g : Die → Die) : (s.modDie d g).ctxs = s.ctxs := rfl
@[simp] theorem modDie_recs (s : State) (d : Nat) (g : Die → Die) : (s.modDie d g).recs = s.recs := rfl
@[simp] theorem modDie_gens (s : State) (d : Nat) (g : Die → Die) : (s.modDie d g).gens = s.gens := rfl
@[simp] theorem modDie_insts (s : State) (d : Nat) (g : Die → Die) : (s.modDie d g).insts = s.insts := rfl
@[simp] theorem modDie_groups (s : State) (d : Nat) (g : Die → Die) : (s.modDie d g).groups = s.groups := rfl
@[simp] theorem modDie_edges (s : State) (d : Nat) (g : Die → Die) : (s.modDie d g).edges = s.edges := rfl
@[simp] theorem modDie_accs (s : State) (d : Nat) (g : Die → Die) : (s.modDie d g).accs = s.accs := rfl
@[simp] theorem modDie_acks (s : State) (d : Nat) (g : Die → Die) : (s.modDie d g).acks = s.acks := rfl
@[simp] theorem modDie_net (s : State) (d : Nat) (g : Die → Die) : (s.modDie d g).net = s.net := rfl
@[simp] theorem modDie_cache (s : State) (d : Nat) (g : Die → Die) : (s.modDie d g).cache = s.cache := rfl
@[simp] theorem modDie_fars (s : State) (d : Nat) (g : Die → Die) : (s.modDie d g).fars = s.fars := rfl
@[simp] theorem modDie_gaps (s : State) (d : Nat) (g : Die → Die) : (s.modDie d g).gaps = s.gaps := rfl
@[simp] theorem modDie_seqs (s : State) (d : Nat) (g : Die → Die) : (s.modDie d g).seqs = s.seqs := rfl
@[simp] theorem modDie_used (s : State) (d : Nat) (g : Die → Die) : (s.modDie d g).used = s.used := rfl
@[simp] theorem modDie_accels (s : State) (d : Nat) (g : Die → Die) : (s.modDie d g).accels = s.accels := rfl
@[simp] theorem modDie_plans (s : State) (d : Nat) (g : Die → Die) : (s.modDie d g).plans = s.plans := rfl
@[simp] theorem modDie_gangs (s : State) (d : Nat) (g : Die → Die) : (s.modDie d g).gangs = s.gangs := rfl
@[simp] theorem modDie_bad (s : State) (d : Nat) (g : Die → Die) : (s.modDie d g).bad = s.bad := rfl
@[simp] theorem modDie_trt (s : State) (d : Nat) (g : Die → Die) : (s.modDie d g).trt = s.trt := rfl
@[simp] theorem modDie_past (s : State) (d : Nat) (g : Die → Die) : (s.modDie d g).past = s.past := rfl
@[simp] theorem modDie_cur (s : State) (d : Nat) (g : Die → Die) : (s.modDie d g).cur = s.cur := rfl
@[simp] theorem modDie_who (s : State) (d : Nat) (g : Die → Die) : (s.modDie d g).who = s.who := rfl
@[simp] theorem modDie_inputs (s : State) (d : Nat) (g : Die → Die) : (s.modDie d g).inputs = s.inputs := rfl
@[simp] theorem modDie_nextId (s : State) (d : Nat) (g : Die → Die) : (s.modDie d g).nextId = s.nextId := rfl
@[simp] theorem modDie_steps (s : State) (d : Nat) (g : Die → Die) : (s.modDie d g).steps = s.steps := rfl

@[simp] theorem modDev_mem (s : State) (d : Nat) (g : Device → Device) : (s.modDev d g).mem = s.mem := rfl
@[simp] theorem modDev_cores (s : State) (d : Nat) (g : Device → Device) : (s.modDev d g).cores = s.cores := rfl
@[simp] theorem modDev_tiles (s : State) (d : Nat) (g : Device → Device) : (s.modDev d g).tiles = s.tiles := rfl
@[simp] theorem modDev_dies (s : State) (d : Nat) (g : Device → Device) : (s.modDev d g).dies = s.dies := rfl
@[simp] theorem modDev_recorders (s : State) (d : Nat) (g : Device → Device) : (s.modDev d g).recorders = s.recorders := rfl
@[simp] theorem modDev_ctxs (s : State) (d : Nat) (g : Device → Device) : (s.modDev d g).ctxs = s.ctxs := rfl
@[simp] theorem modDev_recs (s : State) (d : Nat) (g : Device → Device) : (s.modDev d g).recs = s.recs := rfl
@[simp] theorem modDev_gens (s : State) (d : Nat) (g : Device → Device) : (s.modDev d g).gens = s.gens := rfl
@[simp] theorem modDev_insts (s : State) (d : Nat) (g : Device → Device) : (s.modDev d g).insts = s.insts := rfl
@[simp] theorem modDev_groups (s : State) (d : Nat) (g : Device → Device) : (s.modDev d g).groups = s.groups := rfl
@[simp] theorem modDev_edges (s : State) (d : Nat) (g : Device → Device) : (s.modDev d g).edges = s.edges := rfl
@[simp] theorem modDev_accs (s : State) (d : Nat) (g : Device → Device) : (s.modDev d g).accs = s.accs := rfl
@[simp] theorem modDev_acks (s : State) (d : Nat) (g : Device → Device) : (s.modDev d g).acks = s.acks := rfl
@[simp] theorem modDev_net (s : State) (d : Nat) (g : Device → Device) : (s.modDev d g).net = s.net := rfl
@[simp] theorem modDev_cache (s : State) (d : Nat) (g : Device → Device) : (s.modDev d g).cache = s.cache := rfl
@[simp] theorem modDev_fars (s : State) (d : Nat) (g : Device → Device) : (s.modDev d g).fars = s.fars := rfl
@[simp] theorem modDev_gaps (s : State) (d : Nat) (g : Device → Device) : (s.modDev d g).gaps = s.gaps := rfl
@[simp] theorem modDev_seqs (s : State) (d : Nat) (g : Device → Device) : (s.modDev d g).seqs = s.seqs := rfl
@[simp] theorem modDev_used (s : State) (d : Nat) (g : Device → Device) : (s.modDev d g).used = s.used := rfl
@[simp] theorem modDev_accels (s : State) (d : Nat) (g : Device → Device) : (s.modDev d g).accels = s.accels := rfl
@[simp] theorem modDev_plans (s : State) (d : Nat) (g : Device → Device) : (s.modDev d g).plans = s.plans := rfl
@[simp] theorem modDev_gangs (s : State) (d : Nat) (g : Device → Device) : (s.modDev d g).gangs = s.gangs := rfl
@[simp] theorem modDev_bad (s : State) (d : Nat) (g : Device → Device) : (s.modDev d g).bad = s.bad := rfl
@[simp] theorem modDev_trt (s : State) (d : Nat) (g : Device → Device) : (s.modDev d g).trt = s.trt := rfl
@[simp] theorem modDev_past (s : State) (d : Nat) (g : Device → Device) : (s.modDev d g).past = s.past := rfl
@[simp] theorem modDev_cur (s : State) (d : Nat) (g : Device → Device) : (s.modDev d g).cur = s.cur := rfl
@[simp] theorem modDev_who (s : State) (d : Nat) (g : Device → Device) : (s.modDev d g).who = s.who := rfl
@[simp] theorem modDev_inputs (s : State) (d : Nat) (g : Device → Device) : (s.modDev d g).inputs = s.inputs := rfl
@[simp] theorem modDev_nextId (s : State) (d : Nat) (g : Device → Device) : (s.modDev d g).nextId = s.nextId := rfl
@[simp] theorem modDev_steps (s : State) (d : Nat) (g : Device → Device) : (s.modDev d g).steps = s.steps := rfl

@[simp] theorem modRecorder_mem (s : State) (k : Nat) (g : Recorder → Recorder) : (s.modRecorder k g).mem = s.mem := rfl
@[simp] theorem modRecorder_cores (s : State) (k : Nat) (g : Recorder → Recorder) : (s.modRecorder k g).cores = s.cores := rfl
@[simp] theorem modRecorder_tiles (s : State) (k : Nat) (g : Recorder → Recorder) : (s.modRecorder k g).tiles = s.tiles := rfl
@[simp] theorem modRecorder_dies (s : State) (k : Nat) (g : Recorder → Recorder) : (s.modRecorder k g).dies = s.dies := rfl
@[simp] theorem modRecorder_devs (s : State) (k : Nat) (g : Recorder → Recorder) : (s.modRecorder k g).devs = s.devs := rfl
@[simp] theorem modRecorder_ctxs (s : State) (k : Nat) (g : Recorder → Recorder) : (s.modRecorder k g).ctxs = s.ctxs := rfl
@[simp] theorem modRecorder_recs (s : State) (k : Nat) (g : Recorder → Recorder) : (s.modRecorder k g).recs = s.recs := rfl
@[simp] theorem modRecorder_gens (s : State) (k : Nat) (g : Recorder → Recorder) : (s.modRecorder k g).gens = s.gens := rfl
@[simp] theorem modRecorder_insts (s : State) (k : Nat) (g : Recorder → Recorder) : (s.modRecorder k g).insts = s.insts := rfl
@[simp] theorem modRecorder_groups (s : State) (k : Nat) (g : Recorder → Recorder) : (s.modRecorder k g).groups = s.groups := rfl
@[simp] theorem modRecorder_edges (s : State) (k : Nat) (g : Recorder → Recorder) : (s.modRecorder k g).edges = s.edges := rfl
@[simp] theorem modRecorder_accs (s : State) (k : Nat) (g : Recorder → Recorder) : (s.modRecorder k g).accs = s.accs := rfl
@[simp] theorem modRecorder_acks (s : State) (k : Nat) (g : Recorder → Recorder) : (s.modRecorder k g).acks = s.acks := rfl
@[simp] theorem modRecorder_net (s : State) (k : Nat) (g : Recorder → Recorder) : (s.modRecorder k g).net = s.net := rfl
@[simp] theorem modRecorder_cache (s : State) (k : Nat) (g : Recorder → Recorder) : (s.modRecorder k g).cache = s.cache := rfl
@[simp] theorem modRecorder_fars (s : State) (k : Nat) (g : Recorder → Recorder) : (s.modRecorder k g).fars = s.fars := rfl
@[simp] theorem modRecorder_gaps (s : State) (k : Nat) (g : Recorder → Recorder) : (s.modRecorder k g).gaps = s.gaps := rfl
@[simp] theorem modRecorder_seqs (s : State) (k : Nat) (g : Recorder → Recorder) : (s.modRecorder k g).seqs = s.seqs := rfl
@[simp] theorem modRecorder_used (s : State) (k : Nat) (g : Recorder → Recorder) : (s.modRecorder k g).used = s.used := rfl
@[simp] theorem modRecorder_accels (s : State) (k : Nat) (g : Recorder → Recorder) : (s.modRecorder k g).accels = s.accels := rfl
@[simp] theorem modRecorder_plans (s : State) (k : Nat) (g : Recorder → Recorder) : (s.modRecorder k g).plans = s.plans := rfl
@[simp] theorem modRecorder_gangs (s : State) (k : Nat) (g : Recorder → Recorder) : (s.modRecorder k g).gangs = s.gangs := rfl
@[simp] theorem modRecorder_bad (s : State) (k : Nat) (g : Recorder → Recorder) : (s.modRecorder k g).bad = s.bad := rfl
@[simp] theorem modRecorder_trt (s : State) (k : Nat) (g : Recorder → Recorder) : (s.modRecorder k g).trt = s.trt := rfl
@[simp] theorem modRecorder_past (s : State) (k : Nat) (g : Recorder → Recorder) : (s.modRecorder k g).past = s.past := rfl
@[simp] theorem modRecorder_cur (s : State) (k : Nat) (g : Recorder → Recorder) : (s.modRecorder k g).cur = s.cur := rfl
@[simp] theorem modRecorder_who (s : State) (k : Nat) (g : Recorder → Recorder) : (s.modRecorder k g).who = s.who := rfl
@[simp] theorem modRecorder_inputs (s : State) (k : Nat) (g : Recorder → Recorder) : (s.modRecorder k g).inputs = s.inputs := rfl
@[simp] theorem modRecorder_nextId (s : State) (k : Nat) (g : Recorder → Recorder) : (s.modRecorder k g).nextId = s.nextId := rfl
@[simp] theorem modRecorder_steps (s : State) (k : Nat) (g : Recorder → Recorder) : (s.modRecorder k g).steps = s.steps := rfl

@[simp] theorem setRec_mem (s : State) (r : Rec) : (s.setRec r).mem = s.mem := rfl
@[simp] theorem setRec_cores (s : State) (r : Rec) : (s.setRec r).cores = s.cores := rfl
@[simp] theorem setRec_tiles (s : State) (r : Rec) : (s.setRec r).tiles = s.tiles := rfl
@[simp] theorem setRec_dies (s : State) (r : Rec) : (s.setRec r).dies = s.dies := rfl
@[simp] theorem setRec_devs (s : State) (r : Rec) : (s.setRec r).devs = s.devs := rfl
@[simp] theorem setRec_recorders (s : State) (r : Rec) : (s.setRec r).recorders = s.recorders := rfl
@[simp] theorem setRec_ctxs (s : State) (r : Rec) : (s.setRec r).ctxs = s.ctxs := rfl
@[simp] theorem setRec_gens (s : State) (r : Rec) : (s.setRec r).gens = s.gens := rfl
@[simp] theorem setRec_insts (s : State) (r : Rec) : (s.setRec r).insts = s.insts := rfl
@[simp] theorem setRec_groups (s : State) (r : Rec) : (s.setRec r).groups = s.groups := rfl
@[simp] theorem setRec_edges (s : State) (r : Rec) : (s.setRec r).edges = s.edges := rfl
@[simp] theorem setRec_accs (s : State) (r : Rec) : (s.setRec r).accs = s.accs := rfl
@[simp] theorem setRec_acks (s : State) (r : Rec) : (s.setRec r).acks = s.acks := rfl
@[simp] theorem setRec_net (s : State) (r : Rec) : (s.setRec r).net = s.net := rfl
@[simp] theorem setRec_cache (s : State) (r : Rec) : (s.setRec r).cache = s.cache := rfl
@[simp] theorem setRec_fars (s : State) (r : Rec) : (s.setRec r).fars = s.fars := rfl
@[simp] theorem setRec_gaps (s : State) (r : Rec) : (s.setRec r).gaps = s.gaps := rfl
@[simp] theorem setRec_seqs (s : State) (r : Rec) : (s.setRec r).seqs = s.seqs := rfl
@[simp] theorem setRec_used (s : State) (r : Rec) : (s.setRec r).used = s.used := rfl
@[simp] theorem setRec_accels (s : State) (r : Rec) : (s.setRec r).accels = s.accels := rfl
@[simp] theorem setRec_plans (s : State) (r : Rec) : (s.setRec r).plans = s.plans := rfl
@[simp] theorem setRec_gangs (s : State) (r : Rec) : (s.setRec r).gangs = s.gangs := rfl
@[simp] theorem setRec_bad (s : State) (r : Rec) : (s.setRec r).bad = s.bad := rfl
@[simp] theorem setRec_trt (s : State) (r : Rec) : (s.setRec r).trt = s.trt := rfl
@[simp] theorem setRec_past (s : State) (r : Rec) : (s.setRec r).past = s.past := rfl
@[simp] theorem setRec_cur (s : State) (r : Rec) : (s.setRec r).cur = s.cur := rfl
@[simp] theorem setRec_who (s : State) (r : Rec) : (s.setRec r).who = s.who := rfl
@[simp] theorem setRec_inputs (s : State) (r : Rec) : (s.setRec r).inputs = s.inputs := rfl
@[simp] theorem setRec_nextId (s : State) (r : Rec) : (s.setRec r).nextId = s.nextId := rfl
@[simp] theorem setRec_steps (s : State) (r : Rec) : (s.setRec r).steps = s.steps := rfl

@[simp] theorem setEdge_mem (s : State) (g : Edge) : (s.setEdge g).mem = s.mem := rfl
@[simp] theorem setEdge_cores (s : State) (g : Edge) : (s.setEdge g).cores = s.cores := rfl
@[simp] theorem setEdge_tiles (s : State) (g : Edge) : (s.setEdge g).tiles = s.tiles := rfl
@[simp] theorem setEdge_dies (s : State) (g : Edge) : (s.setEdge g).dies = s.dies := rfl
@[simp] theorem setEdge_devs (s : State) (g : Edge) : (s.setEdge g).devs = s.devs := rfl
@[simp] theorem setEdge_recorders (s : State) (g : Edge) : (s.setEdge g).recorders = s.recorders := rfl
@[simp] theorem setEdge_ctxs (s : State) (g : Edge) : (s.setEdge g).ctxs = s.ctxs := rfl
@[simp] theorem setEdge_recs (s : State) (g : Edge) : (s.setEdge g).recs = s.recs := rfl
@[simp] theorem setEdge_gens (s : State) (g : Edge) : (s.setEdge g).gens = s.gens := rfl
@[simp] theorem setEdge_insts (s : State) (g : Edge) : (s.setEdge g).insts = s.insts := rfl
@[simp] theorem setEdge_groups (s : State) (g : Edge) : (s.setEdge g).groups = s.groups := rfl
@[simp] theorem setEdge_accs (s : State) (g : Edge) : (s.setEdge g).accs = s.accs := rfl
@[simp] theorem setEdge_acks (s : State) (g : Edge) : (s.setEdge g).acks = s.acks := rfl
@[simp] theorem setEdge_net (s : State) (g : Edge) : (s.setEdge g).net = s.net := rfl
@[simp] theorem setEdge_cache (s : State) (g : Edge) : (s.setEdge g).cache = s.cache := rfl
@[simp] theorem setEdge_fars (s : State) (g : Edge) : (s.setEdge g).fars = s.fars := rfl
@[simp] theorem setEdge_gaps (s : State) (g : Edge) : (s.setEdge g).gaps = s.gaps := rfl
@[simp] theorem setEdge_seqs (s : State) (g : Edge) : (s.setEdge g).seqs = s.seqs := rfl
@[simp] theorem setEdge_used (s : State) (g : Edge) : (s.setEdge g).used = s.used := rfl
@[simp] theorem setEdge_accels (s : State) (g : Edge) : (s.setEdge g).accels = s.accels := rfl
@[simp] theorem setEdge_plans (s : State) (g : Edge) : (s.setEdge g).plans = s.plans := rfl
@[simp] theorem setEdge_gangs (s : State) (g : Edge) : (s.setEdge g).gangs = s.gangs := rfl
@[simp] theorem setEdge_bad (s : State) (g : Edge) : (s.setEdge g).bad = s.bad := rfl
@[simp] theorem setEdge_trt (s : State) (g : Edge) : (s.setEdge g).trt = s.trt := rfl
@[simp] theorem setEdge_past (s : State) (g : Edge) : (s.setEdge g).past = s.past := rfl
@[simp] theorem setEdge_cur (s : State) (g : Edge) : (s.setEdge g).cur = s.cur := rfl
@[simp] theorem setEdge_who (s : State) (g : Edge) : (s.setEdge g).who = s.who := rfl
@[simp] theorem setEdge_inputs (s : State) (g : Edge) : (s.setEdge g).inputs = s.inputs := rfl
@[simp] theorem setEdge_nextId (s : State) (g : Edge) : (s.setEdge g).nextId = s.nextId := rfl
@[simp] theorem setEdge_steps (s : State) (g : Edge) : (s.setEdge g).steps = s.steps := rfl

@[simp] theorem modThr_mem (s : State) (e i : Nat) (g : Thread → Thread) : (s.modThr e i g).mem = s.mem := by
  unfold modThr
  split <;> rfl
@[simp] theorem modThr_tiles (s : State) (e i : Nat) (g : Thread → Thread) : (s.modThr e i g).tiles = s.tiles := by
  unfold modThr
  split <;> rfl
@[simp] theorem modThr_dies (s : State) (e i : Nat) (g : Thread → Thread) : (s.modThr e i g).dies = s.dies := by
  unfold modThr
  split <;> rfl
@[simp] theorem modThr_devs (s : State) (e i : Nat) (g : Thread → Thread) : (s.modThr e i g).devs = s.devs := by
  unfold modThr
  split <;> rfl
@[simp] theorem modThr_recorders (s : State) (e i : Nat) (g : Thread → Thread) : (s.modThr e i g).recorders = s.recorders := by
  unfold modThr
  split <;> rfl
@[simp] theorem modThr_ctxs (s : State) (e i : Nat) (g : Thread → Thread) : (s.modThr e i g).ctxs = s.ctxs := by
  unfold modThr
  split <;> rfl
@[simp] theorem modThr_recs (s : State) (e i : Nat) (g : Thread → Thread) : (s.modThr e i g).recs = s.recs := by
  unfold modThr
  split <;> rfl
@[simp] theorem modThr_gens (s : State) (e i : Nat) (g : Thread → Thread) : (s.modThr e i g).gens = s.gens := by
  unfold modThr
  split <;> rfl
@[simp] theorem modThr_insts (s : State) (e i : Nat) (g : Thread → Thread) : (s.modThr e i g).insts = s.insts := by
  unfold modThr
  split <;> rfl
@[simp] theorem modThr_groups (s : State) (e i : Nat) (g : Thread → Thread) : (s.modThr e i g).groups = s.groups := by
  unfold modThr
  split <;> rfl
@[simp] theorem modThr_edges (s : State) (e i : Nat) (g : Thread → Thread) : (s.modThr e i g).edges = s.edges := by
  unfold modThr
  split <;> rfl
@[simp] theorem modThr_accs (s : State) (e i : Nat) (g : Thread → Thread) : (s.modThr e i g).accs = s.accs := by
  unfold modThr
  split <;> rfl
@[simp] theorem modThr_acks (s : State) (e i : Nat) (g : Thread → Thread) : (s.modThr e i g).acks = s.acks := by
  unfold modThr
  split <;> rfl
@[simp] theorem modThr_net (s : State) (e i : Nat) (g : Thread → Thread) : (s.modThr e i g).net = s.net := by
  unfold modThr
  split <;> rfl
@[simp] theorem modThr_cache (s : State) (e i : Nat) (g : Thread → Thread) : (s.modThr e i g).cache = s.cache := by
  unfold modThr
  split <;> rfl
@[simp] theorem modThr_fars (s : State) (e i : Nat) (g : Thread → Thread) : (s.modThr e i g).fars = s.fars := by
  unfold modThr
  split <;> rfl
@[simp] theorem modThr_gaps (s : State) (e i : Nat) (g : Thread → Thread) : (s.modThr e i g).gaps = s.gaps := by
  unfold modThr
  split <;> rfl
@[simp] theorem modThr_seqs (s : State) (e i : Nat) (g : Thread → Thread) : (s.modThr e i g).seqs = s.seqs := by
  unfold modThr
  split <;> rfl
@[simp] theorem modThr_used (s : State) (e i : Nat) (g : Thread → Thread) : (s.modThr e i g).used = s.used := by
  unfold modThr
  split <;> rfl
@[simp] theorem modThr_accels (s : State) (e i : Nat) (g : Thread → Thread) : (s.modThr e i g).accels = s.accels := by
  unfold modThr
  split <;> rfl
@[simp] theorem modThr_plans (s : State) (e i : Nat) (g : Thread → Thread) : (s.modThr e i g).plans = s.plans := by
  unfold modThr
  split <;> rfl
@[simp] theorem modThr_gangs (s : State) (e i : Nat) (g : Thread → Thread) : (s.modThr e i g).gangs = s.gangs := by
  unfold modThr
  split <;> rfl
@[simp] theorem modThr_bad (s : State) (e i : Nat) (g : Thread → Thread) : (s.modThr e i g).bad = s.bad := by
  unfold modThr
  split <;> rfl
@[simp] theorem modThr_trt (s : State) (e i : Nat) (g : Thread → Thread) : (s.modThr e i g).trt = s.trt := by
  unfold modThr
  split <;> rfl
@[simp] theorem modThr_past (s : State) (e i : Nat) (g : Thread → Thread) : (s.modThr e i g).past = s.past := by
  unfold modThr
  split <;> rfl
@[simp] theorem modThr_cur (s : State) (e i : Nat) (g : Thread → Thread) : (s.modThr e i g).cur = s.cur := by
  unfold modThr
  split <;> rfl
@[simp] theorem modThr_who (s : State) (e i : Nat) (g : Thread → Thread) : (s.modThr e i g).who = s.who := by
  unfold modThr
  split <;> rfl
@[simp] theorem modThr_inputs (s : State) (e i : Nat) (g : Thread → Thread) : (s.modThr e i g).inputs = s.inputs := by
  unfold modThr
  split <;> rfl
@[simp] theorem modThr_nextId (s : State) (e i : Nat) (g : Thread → Thread) : (s.modThr e i g).nextId = s.nextId := by
  unfold modThr
  split <;> rfl
@[simp] theorem modThr_steps (s : State) (e i : Nat) (g : Thread → Thread) : (s.modThr e i g).steps = s.steps := by
  unfold modThr
  split <;> rfl

@[simp] theorem modCtx_mem (s : State) (d a : Nat) (g : Ctx → Ctx) : (s.modCtx d a g).mem = s.mem := by
  unfold modCtx
  split <;> rfl
@[simp] theorem modCtx_cores (s : State) (d a : Nat) (g : Ctx → Ctx) : (s.modCtx d a g).cores = s.cores := by
  unfold modCtx
  split <;> rfl
@[simp] theorem modCtx_tiles (s : State) (d a : Nat) (g : Ctx → Ctx) : (s.modCtx d a g).tiles = s.tiles := by
  unfold modCtx
  split <;> rfl
@[simp] theorem modCtx_dies (s : State) (d a : Nat) (g : Ctx → Ctx) : (s.modCtx d a g).dies = s.dies := by
  unfold modCtx
  split <;> rfl
@[simp] theorem modCtx_devs (s : State) (d a : Nat) (g : Ctx → Ctx) : (s.modCtx d a g).devs = s.devs := by
  unfold modCtx
  split <;> rfl
@[simp] theorem modCtx_recorders (s : State) (d a : Nat) (g : Ctx → Ctx) : (s.modCtx d a g).recorders = s.recorders := by
  unfold modCtx
  split <;> rfl
@[simp] theorem modCtx_recs (s : State) (d a : Nat) (g : Ctx → Ctx) : (s.modCtx d a g).recs = s.recs := by
  unfold modCtx
  split <;> rfl
@[simp] theorem modCtx_gens (s : State) (d a : Nat) (g : Ctx → Ctx) : (s.modCtx d a g).gens = s.gens := by
  unfold modCtx
  split <;> rfl
@[simp] theorem modCtx_insts (s : State) (d a : Nat) (g : Ctx → Ctx) : (s.modCtx d a g).insts = s.insts := by
  unfold modCtx
  split <;> rfl
@[simp] theorem modCtx_groups (s : State) (d a : Nat) (g : Ctx → Ctx) : (s.modCtx d a g).groups = s.groups := by
  unfold modCtx
  split <;> rfl
@[simp] theorem modCtx_edges (s : State) (d a : Nat) (g : Ctx → Ctx) : (s.modCtx d a g).edges = s.edges := by
  unfold modCtx
  split <;> rfl
@[simp] theorem modCtx_accs (s : State) (d a : Nat) (g : Ctx → Ctx) : (s.modCtx d a g).accs = s.accs := by
  unfold modCtx
  split <;> rfl
@[simp] theorem modCtx_acks (s : State) (d a : Nat) (g : Ctx → Ctx) : (s.modCtx d a g).acks = s.acks := by
  unfold modCtx
  split <;> rfl
@[simp] theorem modCtx_net (s : State) (d a : Nat) (g : Ctx → Ctx) : (s.modCtx d a g).net = s.net := by
  unfold modCtx
  split <;> rfl
@[simp] theorem modCtx_cache (s : State) (d a : Nat) (g : Ctx → Ctx) : (s.modCtx d a g).cache = s.cache := by
  unfold modCtx
  split <;> rfl
@[simp] theorem modCtx_fars (s : State) (d a : Nat) (g : Ctx → Ctx) : (s.modCtx d a g).fars = s.fars := by
  unfold modCtx
  split <;> rfl
@[simp] theorem modCtx_gaps (s : State) (d a : Nat) (g : Ctx → Ctx) : (s.modCtx d a g).gaps = s.gaps := by
  unfold modCtx
  split <;> rfl
@[simp] theorem modCtx_seqs (s : State) (d a : Nat) (g : Ctx → Ctx) : (s.modCtx d a g).seqs = s.seqs := by
  unfold modCtx
  split <;> rfl
@[simp] theorem modCtx_used (s : State) (d a : Nat) (g : Ctx → Ctx) : (s.modCtx d a g).used = s.used := by
  unfold modCtx
  split <;> rfl
@[simp] theorem modCtx_accels (s : State) (d a : Nat) (g : Ctx → Ctx) : (s.modCtx d a g).accels = s.accels := by
  unfold modCtx
  split <;> rfl
@[simp] theorem modCtx_plans (s : State) (d a : Nat) (g : Ctx → Ctx) : (s.modCtx d a g).plans = s.plans := by
  unfold modCtx
  split <;> rfl
@[simp] theorem modCtx_gangs (s : State) (d a : Nat) (g : Ctx → Ctx) : (s.modCtx d a g).gangs = s.gangs := by
  unfold modCtx
  split <;> rfl
@[simp] theorem modCtx_bad (s : State) (d a : Nat) (g : Ctx → Ctx) : (s.modCtx d a g).bad = s.bad := by
  unfold modCtx
  split <;> rfl
@[simp] theorem modCtx_trt (s : State) (d a : Nat) (g : Ctx → Ctx) : (s.modCtx d a g).trt = s.trt := by
  unfold modCtx
  split <;> rfl
@[simp] theorem modCtx_past (s : State) (d a : Nat) (g : Ctx → Ctx) : (s.modCtx d a g).past = s.past := by
  unfold modCtx
  split <;> rfl
@[simp] theorem modCtx_cur (s : State) (d a : Nat) (g : Ctx → Ctx) : (s.modCtx d a g).cur = s.cur := by
  unfold modCtx
  split <;> rfl
@[simp] theorem modCtx_who (s : State) (d a : Nat) (g : Ctx → Ctx) : (s.modCtx d a g).who = s.who := by
  unfold modCtx
  split <;> rfl
@[simp] theorem modCtx_inputs (s : State) (d a : Nat) (g : Ctx → Ctx) : (s.modCtx d a g).inputs = s.inputs := by
  unfold modCtx
  split <;> rfl
@[simp] theorem modCtx_nextId (s : State) (d a : Nat) (g : Ctx → Ctx) : (s.modCtx d a g).nextId = s.nextId := by
  unfold modCtx
  split <;> rfl
@[simp] theorem modCtx_steps (s : State) (d a : Nat) (g : Ctx → Ctx) : (s.modCtx d a g).steps = s.steps := by
  unfold modCtx
  split <;> rfl

@[simp] theorem modRec_mem (s : State) (h : Nat) (g : Rec → Rec) : (s.modRec h g).mem = s.mem := by
  unfold modRec
  split <;> rfl
@[simp] theorem modRec_cores (s : State) (h : Nat) (g : Rec → Rec) : (s.modRec h g).cores = s.cores := by
  unfold modRec
  split <;> rfl
@[simp] theorem modRec_tiles (s : State) (h : Nat) (g : Rec → Rec) : (s.modRec h g).tiles = s.tiles := by
  unfold modRec
  split <;> rfl
@[simp] theorem modRec_dies (s : State) (h : Nat) (g : Rec → Rec) : (s.modRec h g).dies = s.dies := by
  unfold modRec
  split <;> rfl
@[simp] theorem modRec_devs (s : State) (h : Nat) (g : Rec → Rec) : (s.modRec h g).devs = s.devs := by
  unfold modRec
  split <;> rfl
@[simp] theorem modRec_recorders (s : State) (h : Nat) (g : Rec → Rec) : (s.modRec h g).recorders = s.recorders := by
  unfold modRec
  split <;> rfl
@[simp] theorem modRec_ctxs (s : State) (h : Nat) (g : Rec → Rec) : (s.modRec h g).ctxs = s.ctxs := by
  unfold modRec
  split <;> rfl
@[simp] theorem modRec_gens (s : State) (h : Nat) (g : Rec → Rec) : (s.modRec h g).gens = s.gens := by
  unfold modRec
  split <;> rfl
@[simp] theorem modRec_insts (s : State) (h : Nat) (g : Rec → Rec) : (s.modRec h g).insts = s.insts := by
  unfold modRec
  split <;> rfl
@[simp] theorem modRec_groups (s : State) (h : Nat) (g : Rec → Rec) : (s.modRec h g).groups = s.groups := by
  unfold modRec
  split <;> rfl
@[simp] theorem modRec_edges (s : State) (h : Nat) (g : Rec → Rec) : (s.modRec h g).edges = s.edges := by
  unfold modRec
  split <;> rfl
@[simp] theorem modRec_accs (s : State) (h : Nat) (g : Rec → Rec) : (s.modRec h g).accs = s.accs := by
  unfold modRec
  split <;> rfl
@[simp] theorem modRec_acks (s : State) (h : Nat) (g : Rec → Rec) : (s.modRec h g).acks = s.acks := by
  unfold modRec
  split <;> rfl
@[simp] theorem modRec_net (s : State) (h : Nat) (g : Rec → Rec) : (s.modRec h g).net = s.net := by
  unfold modRec
  split <;> rfl
@[simp] theorem modRec_cache (s : State) (h : Nat) (g : Rec → Rec) : (s.modRec h g).cache = s.cache := by
  unfold modRec
  split <;> rfl
@[simp] theorem modRec_fars (s : State) (h : Nat) (g : Rec → Rec) : (s.modRec h g).fars = s.fars := by
  unfold modRec
  split <;> rfl
@[simp] theorem modRec_gaps (s : State) (h : Nat) (g : Rec → Rec) : (s.modRec h g).gaps = s.gaps := by
  unfold modRec
  split <;> rfl
@[simp] theorem modRec_seqs (s : State) (h : Nat) (g : Rec → Rec) : (s.modRec h g).seqs = s.seqs := by
  unfold modRec
  split <;> rfl
@[simp] theorem modRec_used (s : State) (h : Nat) (g : Rec → Rec) : (s.modRec h g).used = s.used := by
  unfold modRec
  split <;> rfl
@[simp] theorem modRec_accels (s : State) (h : Nat) (g : Rec → Rec) : (s.modRec h g).accels = s.accels := by
  unfold modRec
  split <;> rfl
@[simp] theorem modRec_plans (s : State) (h : Nat) (g : Rec → Rec) : (s.modRec h g).plans = s.plans := by
  unfold modRec
  split <;> rfl
@[simp] theorem modRec_gangs (s : State) (h : Nat) (g : Rec → Rec) : (s.modRec h g).gangs = s.gangs := by
  unfold modRec
  split <;> rfl
@[simp] theorem modRec_bad (s : State) (h : Nat) (g : Rec → Rec) : (s.modRec h g).bad = s.bad := by
  unfold modRec
  split <;> rfl
@[simp] theorem modRec_trt (s : State) (h : Nat) (g : Rec → Rec) : (s.modRec h g).trt = s.trt := by
  unfold modRec
  split <;> rfl
@[simp] theorem modRec_past (s : State) (h : Nat) (g : Rec → Rec) : (s.modRec h g).past = s.past := by
  unfold modRec
  split <;> rfl
@[simp] theorem modRec_cur (s : State) (h : Nat) (g : Rec → Rec) : (s.modRec h g).cur = s.cur := by
  unfold modRec
  split <;> rfl
@[simp] theorem modRec_who (s : State) (h : Nat) (g : Rec → Rec) : (s.modRec h g).who = s.who := by
  unfold modRec
  split <;> rfl
@[simp] theorem modRec_inputs (s : State) (h : Nat) (g : Rec → Rec) : (s.modRec h g).inputs = s.inputs := by
  unfold modRec
  split <;> rfl
@[simp] theorem modRec_nextId (s : State) (h : Nat) (g : Rec → Rec) : (s.modRec h g).nextId = s.nextId := by
  unfold modRec
  split <;> rfl
@[simp] theorem modRec_steps (s : State) (h : Nat) (g : Rec → Rec) : (s.modRec h g).steps = s.steps := by
  unfold modRec
  split <;> rfl

end Sys2Proof.Machine.State
end

