-- ==== Sys2Proof/Laws/Ops.lean ====
section
/-! SUPPORT. Keyed lists, cores and threads as they are read back, and what issuing an instruction does: one lemma for each way in
which its own description ends. -/

namespace Sys2Proof.Keyed

theorem get?_put {α : Type} (l : Keyed α) (k n : Nat) (x : α) :
    get? (put l k x) n = if n = k then some x else get? l n := by
  induction l with
  | nil => simp [put, get?]
  | cons c r ih =>
    obtain ⟨a, v⟩ := c
    by_cases h1 : k < a
    · simp [put, h1, get?]
    · by_cases h2 : k = a
      · subst h2
        by_cases hn : n = k <;> simp [put, get?, hn]
      · simp only [put, h1, h2, if_false, get?, ih]
        by_cases hn : n = a
        · have : n ≠ k := fun e => h2 (e.symm.trans hn)
          subst hn
          simp [this]
        · simp [hn]

@[simp] theorem get?_put_self {α : Type} (l : Keyed α) (k : Nat) (x : α) : get? (put l k x) k = some x := by
  simp [get?_put]

theorem get?_put_ne {α : Type} (l : Keyed α) (k n : Nat) (x : α) (h : n ≠ k) : get? (put l k x) n = get? l n := by
  simp [get?_put, h]

theorem get?_del {α : Type} (l : Keyed α) (k n : Nat) : get? (del l k) n = if n = k then none else get? l n := by
  induction l with
  | nil => simp [del, get?]
  | cons c r ih =>
    obtain ⟨a, v⟩ := c
    by_cases h2 : k = a
    · subst h2
      by_cases hn : n = k
      · subst hn
        simpa [del] using ih
      · simp [del, get?, hn, ih]
    · by_cases hn : n = a
      · have : ¬ n = k := fun e => h2 (e.symm.trans hn)
        subst hn
        simp [del, get?, h2, this]
      · simp [del, get?, h2, hn, ih]

end Sys2Proof.Keyed

namespace Sys2Proof.Machine

namespace State

theorem core_setCore (s : State) (e n : Nat) (c : Core) : (s.setCore e c).core n = if n = e then c else s.core n := by
  unfold core setCore
  simp only [Keyed.get?_put]
  split <;> rfl

@[simp] theorem core_setCore_self (s : State) (e : Nat) (c : Core) : (s.setCore e c).core e = c := by simp [core_setCore]

theorem core_modCore (s : State) (e n : Nat) (g : Core → Core) :
    (s.modCore e g).core n = if n = e then g (s.core e) else s.core n := core_setCore s e n _

@[simp] theorem thr?_setThr_self (s : State) (e i : Nat) (t : Thread) : (s.setThr e i t).thr? e i = some t := by
  unfold thr? setThr
  simp [core_modCore]

theorem thr?_setThr (s : State) (e i e' i' : Nat) (t : Thread) :
    (s.setThr e i t).thr? e' i' = if e' = e ∧ i' = i then some t else s.thr? e' i' := by
  unfold thr? setThr
  by_cases h : e' = e
  · subst h
    simp [core_modCore, Keyed.get?_put]
  · simp [core_modCore, h]

/-- A thread that is there is changed by what is asked for. -/
theorem modThr_eq (s : State) (e i : Nat) (g : Thread → Thread) (t : Thread) (h : s.thr? e i = some t) :
    s.modThr e i g = s.setThr e i (g t) := by
  unfold modThr
  rw [h]

end State

/-! ## Issue -/

/-- A thread whose instruction issues: what its description leaves is concluded. -/
theorem issueAt_of_issues {form : Option Form} {hOk yOk : Bool} {eff : Env → Except Stop State} {f : Fields} {s : State}
    {th : Thread} (h : Issues form hOk yOk f s th) :
    issueAt form hOk yOk eff f s s.cur.1 s.cur.2 = conclude s s.cur.1 s.cur.2 th (crossings (form.getD {}) f) f (eff (hand form f s th)) := by
  obtain ⟨h1, h2, h3, h4, h5⟩ := h
  unfold issueAt
  simp [h1, h2, h3, h4, h5, hand]

theorem issue_concludes {form : Option Form} {hOk yOk : Bool} {eff : Env → Except Stop State} {f : Fields} {s : State}
    {th : Thread} (h : Issues form hOk yOk f s th) :
    issue form hOk yOk eff f s = .next (conclude s s.cur.1 s.cur.2 th (crossings (form.getD {}) f) f (eff (hand form f s th))) := by
  unfold issue
  rw [issueAt_of_issues h]

/-- The description ends in a state: the instruction retires in it. -/
theorem issue_ends {form : Option Form} {hOk yOk : Bool} {eff : Env → Except Stop State} {f : Fields} {s s' : State}
    {th : Thread} (h : Issues form hOk yOk f s th) (he : eff (hand form f s th) = .ok s') :
    issue form hOk yOk eff f s = .next (retired s th f s') := by
  rw [issue_concludes h, he]
  rfl

/-- The description ends in a precise trap. -/
theorem issue_traps {form : Option Form} {hOk yOk : Bool} {eff : Env → Except Stop State} {f : Fields} {s : State}
    {th : Thread} {i : TrapInfo} (h : Issues form hOk yOk f s th) (he : eff (hand form f s th) = .error (.trap i)) :
    issue form hOk yOk eff f s = .next (takeTrap (grant s s.cur.1 s.cur.2 th (crossings (form.getD {}) f)) s.cur.1 s.cur.2 i) := by
  rw [issue_concludes h, he]
  rfl

/-- The description ends in a wait. -/
theorem issue_waits {form : Option Form} {hOk yOk : Bool} {eff : Env → Except Stop State} {f : Fields} {s : State}
    {th : Thread} {w : Waiting} (h : Issues form hOk yOk f s th) (he : eff (hand form f s th) = .error (.wait w)) :
    issue form hOk yOk eff f s = .next ((grant s s.cur.1 s.cur.2 th (crossings (form.getD {}) f)).modThr s.cur.1 s.cur.2 fun t =>
      { t with status := .waiting w }) := by
  rw [issue_concludes h, he]
  rfl

/-- An instruction completes when its description ends in the effect named, whatever the instruction in hand. -/
theorem ends_of {form : Option Form} {hOk yOk : Bool} {f : Fields} {i : Instr} {p : Env → Prop} {g : Env → State}
    (eff : Env → Except Stop State) (hx : ∀ s, exec i s = issue form hOk yOk eff f s)
    (he : ∀ e : Env, e.f = f → p e → eff e = .ok (g e)) : Ends form hOk yOk f i p g := by
  intro s th h hp
  rw [hx]
  exact issue_ends h (he _ rfl hp)

theorem endsBy_of {α : Type} {form : Option Form} {hOk yOk : Bool} {f : Fields} {i : Instr} {p : Env → Prop}
    {chk : Env → Except Stop α} {g : Env → α → State} (eff : Env → Except Stop State)
    (hx : ∀ s, exec i s = issue form hOk yOk eff f s)
    (he : ∀ (e : Env) (a : α), e.f = f → p e → chk e = .ok a → eff e = .ok (g e a)) :
    EndsBy form hOk yOk f i p chk g := by
  intro s th a h hp hc
  rw [hx]
  exact issue_ends h (he _ _ rfl hp hc)

theorem startsBy_of {α : Type} {form : Option Form} {hOk yOk : Bool} {f : Fields} {i : Instr} {p : Env → Prop}
    {chk : Env → Except Stop α} {g : Env → α → State} (eff : Env → Except Stop State)
    (hx : ∀ s, exec i s = issue form hOk yOk eff f s)
    (he : ∀ (e : Env) (a : α), e.f = f → p e → chk e = .ok a → eff e = .error (.start (g e a))) :
    StartsBy form hOk yOk f i p chk g := by
  intro s th a h hp hc
  rw [hx, issue_concludes h, he _ _ rfl hp hc]
  rfl

theorem waits_of {form : Option Form} {hOk yOk : Bool} {f : Fields} {i : Instr} {p : Env → Prop} {w : Env → Waiting}
    (eff : Env → Except Stop State) (hx : ∀ s, exec i s = issue form hOk yOk eff f s)
    (he : ∀ e : Env, e.f = f → p e → eff e = .error (.wait (w e))) : Waits form hOk yOk f i p w := by
  intro s th h hp
  rw [hx]
  exact issue_waits h (he _ rfl hp)

theorem traps_of {form : Option Form} {hOk yOk : Bool} {f : Fields} {i : Instr} {p : Env → Prop} {x : Env → TrapInfo}
    (eff : Env → Except Stop State) (hx : ∀ s, exec i s = issue form hOk yOk eff f s)
    (he : ∀ e : Env, e.f = f → p e → eff e = .error (.trap (x e))) : Traps form hOk yOk f i p x := by
  intro s th h hp
  rw [hx]
  exact issue_traps h (he _ rfl hp)

/-- A check of R52 that fails is a precise trap, whatever the instruction. -/
theorem issue_precheck {form : Option Form} {hOk yOk : Bool} {eff : Env → Except Stop State} {f : Fields} {s : State}
    {th : Thread} {i : TrapInfo} (h1 : s.thr? s.cur.1 s.cur.2 = some th) (h2 : cancelled s s.cur.2 th = false)
    (h3 : mbHeld s s.cur.1 s.cur.2 = false) (h4 : precheck form hOk yOk s.cur.1 s.cur.2 th f = some i) :
    issue form hOk yOk eff f s = .next (takeTrap (grant s s.cur.1 s.cur.2 th (crossings (form.getD {}) f)) s.cur.1 s.cur.2 i) := by
  unfold issue issueAt
  simp [h1, h2, h3, h4]

/-- An effect of the thread when lane 0 is active. -/
theorem thread_of_act {e : Env} (h : e.act 0 = true) (k : Unit → Except Stop State) : e.thread k = k () := by
  simp [Env.thread, h]

/-- An effect of the thread when lane 0 is inactive: nothing but the issue itself (R98). -/
theorem thread_of_inactive {e : Env} (h : e.act 0 = false) (k : Unit → Except Stop State) : e.thread k = .ok e.s := by
  simp [Env.thread, h]

theorem settled_ok {e : Env} (h : e.t.allLanded = true) : e.settled = .ok () := by simp [Env.settled, h]

theorem need_ok {e : Env} {ok : Bool} {c : Nat} (h : ok = true) : e.need ok c = .ok () := by simp [Env.need, h]

theorem noJoin_ok {e : Env} (h : e.t.joins = []) : e.noJoin = .ok () := by simp [Env.noJoin, h]

theorem noPop_ok {e : Env} (h : e.noPops) : e.noPop = .ok () := by
  have h' : popHeld e.s0 e.eid e.slot e.s0.nextId = false := h
  simp [Env.noPop, h']

theorem deferredFirst_ok {e : Env} (h : e.t.deferred = []) : e.deferredFirst = .ok () := by simp [Env.deferredFirst, h]

/-- The end of a thread whose run and joins are done and that no engine fault holds. -/
theorem exitEff_ends {e : Env} (h1 : e.act 0 = true) (h2 : e.t.allLanded = true) (h3 : e.t.joins = [])
    (h4 : exitFault e = none) (h5 : e.t.deferred = []) :
    exitEff e = .ok (endThread e.s e.eid e.slot
      (match e.s.binding? e.eid e.t.task.toNat with | some b => b.sawDrain | none => false)) := by
  unfold exitEff endSelf
  rw [thread_of_act h1]
  simp only [settled_ok h2, deferredFirst_ok h5, h3, h4, bind, Except.bind, List.isEmpty_nil, if_true]
  all_goals rfl

/-- The thread of an instruction in hand is there in the state that issue makes. -/
theorem grant_thr (s : State) (eid slot : Nat) (t : Thread) (k : Nat) :
    (grant s eid slot t k).thr? eid slot = some { t with stamp := s.cycle eid + 1 } := by
  have hc : ∀ (x : State) (d a g : Nat), (x.touchInst d a g).thr? eid slot = x.thr? eid slot := by
    intro x d a g
    unfold State.touchInst
    split <;> rfl
  have key : ∀ (x : State) (y : Thread), x.thr? eid slot = some y →
      (match x.rec? t.task.toNat with
        | some r => if slot < 16 then x.touchInst (State.hDev r.handle) r.asid r.gid else x
        | none => x).thr? eid slot = some y := by
    intro x y h
    split
    · split
      · rw [hc]; exact h
      · exact h
    · exact h
  exact key _ _ (by simp [grantPort, State.cycle, State.die])

/-- A mark that ends no run leaves the thread going on. -/
theorem retire_unmarked (s : State) (eid slot : Nat) (t : Thread) (h : s.thr? eid slot = some t) :
    retire s eid slot false = s.setThr eid slot t.goOn := by
  unfold retire
  simp [h]

/-- What is still to be delivered outlasts the settling of the slices. -/
@[simp] theorem settle_deferred (t : Thread) (n : Nat) : (t.settle n).deferred = t.deferred := rfl

/-- A marker with every result landed and no refusal to deliver: the slices settle and the thread enters the ready state. -/
theorem retire_marked (s : State) (eid slot : Nat) (t : Thread) (h : s.thr? eid slot = some t) (hl : t.allLanded = true)
    (hd : t.deferred = []) :
    retire s eid slot true = enterReady s eid slot (t.settle s.free) := by
  unfold retire
  simp only [h, hl, endRun, nextRun, settle_deferred, hd, if_true]

/-- `mbcnt` of all four mailboxes: the counts by bytes. -/
theorem mbcntVal_all (e : Env) (h : e.f.md ≠ 0) :
    mbcntVal e = (e.c.mboxes.getD 0 []).length + (e.c.mboxes.getD 1 []).length * 2 ^ 8 +
      (e.c.mboxes.getD 2 []).length * 2 ^ 16 + (e.c.mboxes.getD 3 []).length * 2 ^ 24 := by
  have key : ∀ n : Nat → Nat, ((List.range 4).map fun k => n k * 2 ^ (8 * k)).sum =
      n 0 + n 1 * 2 ^ 8 + n 2 * 2 ^ 16 + n 3 * 2 ^ 24 := by
    intro n
    have h4 : List.range 4 = [0, 1, 2, 3] := rfl
    have hs : ∀ a b c d : Nat, [a, b, c, d].sum = a + (b + (c + d)) := by intro a b c d; simp
    rw [h4, List.map_cons, List.map_cons, List.map_cons, List.map_cons, List.map_nil, hs]
    omega
  unfold mbcntVal
  rw [if_neg h]
  exact key fun k => (e.c.mboxes.getD k []).length

end Sys2Proof.Machine
end

