-- ==== Sys2Proof/Laws/Slices.lean ====
section
/-! SUPPORT. The slices that a write, a mark and a result still to land may change, and what issue and retirement leave of a thread. -/

namespace Sys2Proof.Machine

theorem bit_mod (x n i : Nat) : (x % 2 ^ n).testBit i = (decide (i < n) && x.testBit i) := Nat.testBit_mod_two_pow x n i

theorem testBit_slices (x st w i : Nat) : (slices x st w).testBit i = (decide (i < 4 * w) && x.testBit (4 * st + i)) := by
  unfold slices
  rw [bit_mod, Nat.testBit_div_two_pow, Nat.add_comm]

/-- A slice outside those put is what it was. -/
theorem slices_putSlices (x st w v n : Nat) (h : n < st ∨ st + w ≤ n) : slices (putSlices x st w v) n 1 = slices x n 1 := by
  apply Nat.eq_of_testBit_eq
  intro i
  rw [testBit_slices, testBit_slices]
  by_cases hi : i < 4 * 1
  · simp only [hi, decide_true, Bool.true_and]
    unfold putSlices
    rw [Nat.testBit_xor, Nat.testBit_mul_two_pow]
    by_cases h2 : 4 * st ≤ 4 * n + i
    · have : ¬ (4 * n + i - 4 * st < 4 * w) := by omega
      rw [Nat.testBit_xor, testBit_slices, bit_mod]
      simp [this]
    · simp [h2]
  · simp [hi]

theorem slices_ofNat (W x n : Nat) (h : 4 * n + 4 ≤ W) : slices (BitVec.ofNat W x).toNat n 1 = slices x n 1 := by
  apply Nat.eq_of_testBit_eq
  intro i
  rw [testBit_slices, testBit_slices, BitVec.toNat_ofNat, bit_mod]
  by_cases hi : i < 4 * 1
  · simp [show 4 * n + i < W by omega]
  · simp [hi]

theorem slices_of_lt (W x n : Nat) (hx : x < 2 ^ W) (h : W ≤ 4 * n) : slices x n 1 = 0 := by
  unfold slices
  rw [Nat.div_eq_of_lt (Nat.lt_of_lt_of_le hx (Nat.pow_le_pow_right (by decide) h)), Nat.zero_mod]

/-- The same in a file of a fixed width. -/
theorem slices_put_file (W : Nat) (x : BitVec W) (st w v n : Nat) (hW : W % 4 = 0) (h : n < st ∨ st + w ≤ n) :
    slices (BitVec.ofNat W (putSlices x.toNat st w v)).toNat n 1 = slices x.toNat n 1 := by
  by_cases hn : 4 * n + 4 ≤ W
  · rw [slices_ofNat _ _ _ hn, slices_putSlices _ _ _ _ _ h]
  · rw [slices_of_lt W _ n (BitVec.isLt _) (by omega), slices_of_lt W _ n (BitVec.isLt _) (by omega)]

theorem bit_span (W st w n : Nat) : (BitVec.ofNat W (span st w)).getLsbD n = (decide (n < W) && decide (st ≤ n ∧ n < st + w)) := by
  rw [BitVec.getLsbD_ofNat]
  unfold span
  rw [Nat.testBit_mul_two_pow, Nat.testBit_two_pow_sub_one]
  by_cases h1 : st ≤ n <;> by_cases h2 : n < st + w <;> simp [h1, h2] <;> omega

/-! ## Threads -/

theorem KeepsThread.refl (p : Bool → Nat → Prop) (t : Thread) : KeepsThread p t t :=
  ⟨fun _ _ => ⟨fun _ _ => rfl, rfl⟩, fun _ _ => ⟨rfl, rfl⟩, rfl, rfl, rfl, rfl, rfl, rfl, rfl, rfl, rfl, rfl⟩

theorem KeepsThread.trans {p : Bool → Nat → Prop} {t u v : Thread} (h : KeepsThread p t u) (k : KeepsThread p u v) :
    KeepsThread p t v := by
  obtain ⟨h1, h2, h3, h4, h5, h6, h7, h8, h9, h10, h11, h12⟩ := h
  obtain ⟨k1, k2, k3, k4, k5, k6, k7, k8, k9, k10, k11, k12⟩ := k
  exact ⟨fun n hn => ⟨fun l hl => ((k1 n hn).1 l hl).trans ((h1 n hn).1 l hl), ((k1 n hn).2).trans (h1 n hn).2⟩,
    fun n hn => ⟨(k2 n hn).1.trans (h2 n hn).1, (k2 n hn).2.trans (h2 n hn).2⟩, k3.trans h3, k4.trans h4, k5.trans h5, k6.trans h6,
    k7.trans h7, k8.trans h8, k9.trans h9, k10.trans h10, k11.trans h11, k12.trans h12⟩

/-- A change of neither file, no predicate and none of the special registers that are kept. -/
theorem KeepsThread.same {p : Bool → Nat → Prop} {t u : Thread} (h1 : (u.vec, u.vlive) = (t.vec, t.vlive))
    (h2 : (u.scal, u.slive) = (t.scal, t.slive)) (h3 : (u.preds, u.task, u.targ, u.swinv) = (t.preds, t.task, t.targ, t.swinv))
    (h4 : (u.units, u.trapCnt, u.lastTrap) = (t.units, t.trapCnt, t.lastTrap))
    (h5 : (u.drainReq, u.hslot, u.joins) = (t.drainReq, t.hslot, t.joins)) : KeepsThread p t u := by
  simp only [Prod.mk.injEq] at h1 h2 h3 h4 h5
  have hl : ∀ l, u.lane l = t.lane l := fun l => by unfold Thread.lane; rw [h1.1]
  exact ⟨fun _ _ => ⟨fun _ _ => by rw [hl], by rw [h1.2]⟩, fun _ _ => ⟨by rw [h2.1], by rw [h2.2]⟩, h3.1, h3.2.1, h3.2.2.1, h3.2.2.2,
    h4.1, h4.2.1, h4.2.2, h5.1, h5.2.1, h5.2.2⟩

/-- A write changes slices of its operand only. -/
theorem Thread.write_keeps (p : Bool → Nat → Prop) (t : Thread) (o : Opnd) (val : Nat → Option Nat)
    (h : ∀ b n, o.hits b 1 n → p b n) : KeepsThread p t (t.write o val) := by
  unfold Thread.write
  cases o with
  | vec st w =>
    simp only
    split
    · refine ⟨?_, fun _ _ => ⟨rfl, rfl⟩, rfl, rfl, rfl, rfl, rfl, rfl, rfl, rfl, rfl, rfl⟩
      intro n hn
      have out : n < st ∨ st + w ≤ n := Decidable.byContradiction fun hc =>
        hn (h true n ⟨rfl, by omega, by omega⟩)
      refine ⟨?_, ?_⟩
      · intro l hl
        have e : ∀ g : Nat → BitVec 2048, ((List.range 32).map g).getD l 0 = g l := by intro g; simp [hl]
        unfold Thread.lane
        rw [e]
        split
        · exact slices_put_file 2048 _ st w _ n (by decide) out
        · rfl
      · rw [BitVec.getLsbD_or, bit_span]
        have : ¬ (st ≤ n ∧ n < st + w) := by omega
        simp [this]
    · exact KeepsThread.refl p t
  | scal st w =>
    simp only
    split
    · refine ⟨fun _ _ => ⟨fun _ _ => rfl, rfl⟩, ?_, rfl, rfl, rfl, rfl, rfl, rfl, rfl, rfl, rfl, rfl⟩
      intro n hn
      have out : n < st ∨ st + w ≤ n := Decidable.byContradiction fun hc =>
        hn (h false n ⟨rfl, by omega, by omega⟩)
      refine ⟨slices_put_file 1024 _ st w _ n (by decide) out, ?_⟩
      rw [BitVec.getLsbD_or, bit_span]
      have : ¬ (st ≤ n ∧ n < st + w) := by omega
      simp [this]
    · exact KeepsThread.refl p t
  | zero _ => exact KeepsThread.refl p t
  | mbox _ => exact KeepsThread.refl p t
  | bad => exact KeepsThread.refl p t

/-- A mark changes slices of its operand only. -/
theorem Thread.kill_keeps (p : Bool → Nat → Prop) (t : Thread) (o : Opnd) (sp : Nat) (h : ∀ b n, o.hits b sp n → p b n) :
    KeepsThread p t (t.kill o sp) := by
  unfold Thread.kill
  cases o with
  | vec st w =>
    refine ⟨?_, fun _ _ => ⟨rfl, rfl⟩, rfl, rfl, rfl, rfl, rfl, rfl, rfl, rfl, rfl, rfl⟩
    intro n hn
    have out : n < st ∨ st + w * sp ≤ n := Decidable.byContradiction fun hc =>
        hn (h true n ⟨rfl, by omega, by omega⟩)
    refine ⟨?_, ?_⟩
    · intro l hl
      have e : (t.vec.map fun x => BitVec.ofNat 2048 (putSlices x.toNat st (w * sp) 0)).getD l 0 =
          BitVec.ofNat 2048 (putSlices (t.vec.getD l 0).toNat st (w * sp) 0) := by
        simp only [List.getD_eq_getElem?_getD, List.getElem?_map]
        cases t.vec[l]? with
        | some x => rfl
        | none => simp [putSlices, slices]
      unfold Thread.lane
      rw [e]
      exact slices_put_file 2048 _ st _ _ n (by decide) out
    · rw [BitVec.getLsbD_and, BitVec.getLsbD_not, bit_span]
      have : ¬ (st ≤ n ∧ n < st + w * sp) := by omega
      by_cases hl : n < 512
      · simp [this, hl]
      · simp [hl, BitVec.getLsbD_of_ge t.vlive n (by omega)]
  | scal st w =>
    refine ⟨fun _ _ => ⟨fun _ _ => rfl, rfl⟩, ?_, rfl, rfl, rfl, rfl, rfl, rfl, rfl, rfl, rfl, rfl⟩
    intro n hn
    have out : n < st ∨ st + w * sp ≤ n := Decidable.byContradiction fun hc =>
        hn (h false n ⟨rfl, by omega, by omega⟩)
    refine ⟨slices_put_file 1024 _ st _ _ n (by decide) out, ?_⟩
    rw [BitVec.getLsbD_and, BitVec.getLsbD_not, bit_span]
    have : ¬ (st ≤ n ∧ n < st + w * sp) := by omega
    by_cases hl : n < 256
    · simp [this, hl]
    · simp [hl, BitVec.getLsbD_of_ge t.slive n (by omega)]
  | zero _ => exact KeepsThread.refl p t
  | mbox _ => exact KeepsThread.refl p t
  | bad => exact KeepsThread.refl p t

/-- A result still to land makes slices of its target live and changes nothing else that is kept. -/
theorem Thread.addPend_keeps (p : Bool → Nat → Prop) (t : Thread) (x : Pend) (o : Opnd) (wr : Bool) (ht : x.target = o.target)
    (h : ∀ b n, o.hits b 1 n → p b n) : KeepsThread p t (t.addPend x wr) := by
  unfold Thread.addPend
  cases wr with
  | false => exact KeepsThread.same rfl rfl rfl rfl rfl
  | true =>
    simp only [not_true_eq_false, if_false]
    rw [ht]
    cases o with
    | vec st w =>
      refine ⟨?_, fun _ _ => ⟨rfl, rfl⟩, rfl, rfl, rfl, rfl, rfl, rfl, rfl, rfl, rfl, rfl⟩
      intro n hn
      refine ⟨fun _ _ => rfl, ?_⟩
      have : ¬ (st ≤ n ∧ n < st + w) := fun hc => hn (h true n ⟨rfl, by omega, by omega⟩)
      show (t.vlive ||| BitVec.ofNat 512 (span st w)).getLsbD n = _
      rw [BitVec.getLsbD_or, bit_span]
      simp [this]
    | scal st w =>
      refine ⟨fun _ _ => ⟨fun _ _ => rfl, rfl⟩, ?_, rfl, rfl, rfl, rfl, rfl, rfl, rfl, rfl, rfl, rfl⟩
      intro n hn
      refine ⟨rfl, ?_⟩
      have : ¬ (st ≤ n ∧ n < st + w) := fun hc => hn (h false n ⟨rfl, by omega, by omega⟩)
      show (t.slive ||| BitVec.ofNat 256 (span st w)).getLsbD n = _
      rw [BitVec.getLsbD_or, bit_span]
      simp [this]
    | zero _ => exact KeepsThread.same rfl rfl rfl rfl rfl
    | mbox _ => exact KeepsThread.same rfl rfl rfl rfl rfl
    | bad => exact KeepsThread.same rfl rfl rfl rfl rfl

/-- Where later results of a run go changes nothing that is kept. -/
theorem Thread.renew_keeps (p : Bool → Nat → Prop) (t u : Thread) (d : Use) (f : Fields) (sp : Nat) :
    KeepsThread p t (t.renew u d f sp) := by
  unfold Thread.renew
  simp only
  split
  · exact KeepsThread.same rfl rfl rfl rfl rfl
  · split <;> exact KeepsThread.same rfl rfl rfl rfl rfl
  · exact KeepsThread.same rfl rfl rfl rfl rfl
  · exact KeepsThread.same rfl rfl rfl rfl rfl

/-- Issue changes slices of the marked operands only. -/
theorem Thread.issue_keeps (fm : Form) (f : Fields) (t : Thread) (len : Nat) : KeepsThread (touched fm f) t (t.issue fm f len) := by
  have k1 : ∀ (u : Thread) (b : Bool), b = f.lra → KeepsThread (touched fm f) u
      (if b then u.kill (Opnd.ofField f.a) fm.aspan else u) := by
    intro u b hb
    cases b with
    | false => exact KeepsThread.refl _ u
    | true => exact u.kill_keeps _ _ _ fun b n h => .inr (.inl ⟨hb.symm, h⟩)
  have k2 : ∀ (u : Thread) (b : Bool), b = f.lrb → KeepsThread (touched fm f) u
      (if b then u.kill (Opnd.ofField f.b) fm.bspan else u) := by
    intro u b hb
    cases b with
    | false => exact KeepsThread.refl _ u
    | true => exact u.kill_keeps _ _ _ fun b n h => .inr (.inr (.inl ⟨hb.symm, h⟩))
  have k3 : ∀ (u : Thread) (b : Bool), b = f.lrc → KeepsThread (touched fm f) u
      (if b then u.kill (Opnd.ofField f.c) fm.cspan else u) := by
    intro u b hb
    cases b with
    | false => exact KeepsThread.refl _ u
    | true => exact u.kill_keeps _ _ _ fun b n h => .inr (.inr (.inr ⟨hb.symm, h⟩))
  unfold Thread.issue
  refine KeepsThread.trans ?_ (k3 _ _ rfl)
  refine KeepsThread.trans ?_ (k2 _ _ rfl)
  refine KeepsThread.trans ?_ (k1 _ _ rfl)
  exact KeepsThread.same rfl rfl rfl rfl rfl

end Sys2Proof.Machine
end

