-- ==== Sys2Proof/Laws/Frame.lean ====
section
/-! SUPPORT. What the operations that end an instruction leave of the machine outside its thread. -/

namespace Sys2Proof.Machine

/-- Another state that differs from `s` in one thread, the issue port of its core and the counts of the model. -/
theorem KeepsRest.refl (e i : Nat) (s : State) : KeepsRest e i s s := by
  exact ⟨fun _ => rfl, rfl, fun _ _ => rfl, fun _ _ => rfl, rfl, rfl⟩

theorem KeepsRest.trans {e i : Nat} {s t u : State} (h : KeepsRest e i s t) (k : KeepsRest e i t u) : KeepsRest e i s u := by
  obtain ⟨h1, h2, h3, h4, h5, h6⟩ := h
  obtain ⟨k1, k2, k3, k4, k5, k6⟩ := k
  refine ⟨fun n => (k1 n).trans (h1 n), ?_, fun n hn => (k3 n hn).trans (h3 n hn), fun n hn => (k4 n hn).trans (h4 n hn),
    k5.trans h5, k6.trans h6⟩
  rw [h2] at k2
  exact k2

/-- Writing the thread. -/
theorem State.setThr_keeps (s : State) (e i : Nat) (t : Thread) : KeepsRest e i s (s.setThr e i t) := by
  have hc : (s.setThr e i t).core e = { s.core e with threads := Keyed.put (s.core e).threads i t } := by
    unfold State.setThr
    simp [State.core_modCore]
  refine ⟨fun _ => rfl, rfl, ?_, ?_, ?_, rfl⟩
  · intro n hn
    unfold State.setThr
    simp [State.core_modCore, hn]
  · intro k hk
    rw [State.thr?_setThr]
    simp [hk]
  · rw [hc]
    rfl

theorem State.modThr_keeps (s : State) (e i : Nat) (g : Thread → Thread) : KeepsRest e i s (s.modThr e i g) := by
  unfold State.modThr
  split
  · exact s.setThr_keeps e i _
  · exact KeepsRest.refl e i s

theorem State.fresh_keeps (s : State) (e i : Nat) : KeepsRest e i s s.fresh.2 :=
  ⟨fun _ => rfl, rfl, fun _ _ => rfl, fun _ _ => rfl, rfl, rfl⟩

/-- An event of an instance changes its quiet window alone. -/
theorem State.touchInst_keeps (s : State) (e i d a g : Nat) : KeepsRest e i s (s.touchInst d a g) := by
  unfold State.touchInst
  split
  · exact KeepsRest.refl e i s
  · refine ⟨fun _ => rfl, rfl, fun _ _ => rfl, fun _ _ => rfl, rfl, ?_⟩
    show (s.insts.map _).map _ = _
    rw [List.map_map]
    refine List.map_congr_left fun x _ => ?_
    simp only [Function.comp]
    split <;> rfl

/-- The grant of the issue port. -/
theorem grant_keeps (s : State) (e i : Nat) (t : Thread) (k : Nat) : KeepsRest e i s (grant s e i t k) := by
  have h1 : KeepsRest e i s (s.modCore e fun c =>
      { c with ptr := if i < 16 then (i + 1) % 16 else c.ptr, busy := s.cycle e + 1 + k }) := by
    refine ⟨fun _ => rfl, rfl, ?_, ?_, ?_, rfl⟩
    · intro n hn
      simp [State.core_modCore, hn]
    · intro n _
      unfold State.thr?
      simp [State.core_modCore]
    · simp [State.core_modCore, Core.rest]
  have key : ∀ y : State, KeepsRest e i s y → KeepsRest e i s
      (match y.rec? t.task.toNat with
       | some r => if i < 16 then y.touchInst (State.hDev r.handle) r.asid r.gid else y
       | none => y) := by
    intro y hy
    split
    · split
      · exact hy.trans (y.touchInst_keeps _ _ _ _ _)
      · exact hy
    · exact hy
  exact key _ (h1.trans (State.setThr_keeps _ e i _))

/-- The state of an instruction in hand that reads no mailbox: its thread, and what it leaves of the rest. -/
theorem issueEnv_thr (fm : Form) (f : Fields) (s : State) (e i : Nat) (t : Thread) (hm : mboxesOf fm f = []) :
    (issueEnv fm f s e i t).s.thr? e i = some (((({ t with stamp := s.cycle e + 1 } : Thread)).issue fm f (if f.x then 16 else 8)).renew (t.seen s.free) fm.d f fm.dspan) := by
  unfold issueEnv
  simp only [hm, List.foldl_nil, List.isEmpty_nil, if_true]
  rw [State.modThr_eq _ _ _ _ _ (grant_thr s e i t _)]
  simp

theorem issueEnv_keeps (fm : Form) (f : Fields) (s : State) (e i : Nat) (t : Thread) (hm : mboxesOf fm f = []) :
    KeepsRest e i s (issueEnv fm f s e i t).s := by
  unfold issueEnv
  simp only [hm, List.foldl_nil, List.isEmpty_nil, if_true]
  exact (grant_keeps s e i t _).trans (State.modThr_keeps _ e i _)

/-- An instruction whose run goes on, once its thread has been changed by `g`. -/
theorem retired_go (s : State) (th : Thread) (f : Fields) (s' : State) (u : Thread) (hm : f.m = false)
    (hu : s'.thr? s.cur.1 s.cur.2 = some u) :
    retired s th f s' = s'.setThr s.cur.1 s.cur.2 u.goOn := by
  unfold retired conclude
  simp only [hu, hm]
  exact retire_unmarked s' _ _ u hu

/-! ## Instructions that write D alone -/

/-- The state `r` that an instruction leaves: its thread is there, and keeps what `p` and the flag `z` (FPSR and the generators, too)
say, with DEADREAD as `d` says; the rest of the machine is as it was. -/
def Leaves (p : Bool → Nat → Prop) (z d : Bool) (e i : Nat) (t : Thread) (s r : State) : Prop :=
  KeepsRest e i s r ∧ ∃ u, r.thr? e i = some u ∧ KeepsThread p t u ∧ u.deadRead = d ∧
    (z = true → u.fpsr = t.fpsr ∧ u.seed = t.seed) ∧ ∀ b, t.fpsr.getLsbD b = true → u.fpsr.getLsbD b = true

theorem Leaves.modThr {p : Bool → Nat → Prop} {z d : Bool} {e i : Nat} {t : Thread} {s r : State} (h : Leaves p z d e i t s r)
    (g : Thread → Thread) (hk : ∀ u, KeepsThread p u (g u)) (hd : ∀ u, (g u).deadRead = u.deadRead)
    (hz : z = true → ∀ u, (g u).fpsr = u.fpsr ∧ (g u).seed = u.seed)
    (hf : ∀ u b, u.fpsr.getLsbD b = true → (g u).fpsr.getLsbD b = true) : Leaves p z d e i t s (r.modThr e i g) := by
  obtain ⟨h1, u, h2, h3, h4, h5, h6⟩ := h
  refine ⟨h1.trans (r.modThr_keeps e i g), g u, ?_, h3.trans (hk u), (hd u).trans h4, ?_, fun b hb => hf u b (h6 b hb)⟩
  · rw [State.modThr_eq r e i g u h2]
    simp
  · intro hz'
    exact ⟨((hz hz' u).1).trans (h5 hz').1, ((hz hz' u).2).trans (h5 hz').2⟩

theorem Leaves.fresh {p : Bool → Nat → Prop} {z d : Bool} {e i : Nat} {t : Thread} {s r : State} (h : Leaves p z d e i t s r) :
    Leaves p z d e i t s r.fresh.2 := by
  obtain ⟨h1, u, h2, h3⟩ := h
  exact ⟨h1.trans (r.fresh_keeps e i), u, h2, h3⟩

/-- The slices of a destination operand are among those that an instruction touches. -/
theorem hits_dest (fm : Form) (f : Fields) (hd : 1 ≤ fm.dspan) (b : Bool) (n : Nat) (h : (Opnd.ofField f.d).hits b 1 n) :
    touched fm f b n := by
  refine .inl ?_
  revert h
  cases Opnd.ofField f.d with
  | vec st w =>
    rintro ⟨h1, h2, h3⟩
    have : w * 1 ≤ w * fm.dspan := Nat.mul_le_mul_left w hd
    exact ⟨h1, h2, by omega⟩
  | scal st w =>
    rintro ⟨h1, h2, h3⟩
    have : w * 1 ≤ w * fm.dspan := Nat.mul_le_mul_left w hd
    exact ⟨h1, h2, by omega⟩
  | zero _ => exact fun h => h
  | mbox _ => exact fun h => h
  | bad => exact fun h => h

/-- What the small changes of a thread leave of its FPSR, generators and DEADREAD. -/
theorem Thread.kill_flags (u : Thread) (o : Opnd) (sp : Nat) :
    (u.kill o sp).fpsr = u.fpsr ∧ (u.kill o sp).seed = u.seed ∧ (u.kill o sp).deadRead = u.deadRead := by
  unfold Thread.kill
  cases o <;> exact ⟨rfl, rfl, rfl⟩

theorem Thread.issue_flags (u : Thread) (fm : Form) (f : Fields) (len : Nat) :
    (u.issue fm f len).fpsr = u.fpsr ∧ (u.issue fm f len).seed = u.seed ∧
      (u.issue fm f len).deadRead = (u.deadRead || u.readsDead fm f) := by
  unfold Thread.issue
  simp only
  split <;> split <;> split <;> simp only [Thread.kill_flags, and_self]

theorem Thread.renew_flags (t u : Thread) (d : Use) (f : Fields) (sp : Nat) :
    (t.renew u d f sp).fpsr = t.fpsr ∧ (t.renew u d f sp).seed = t.seed ∧ (t.renew u d f sp).deadRead = t.deadRead := by
  unfold Thread.renew
  simp only
  split
  · exact ⟨rfl, rfl, rfl⟩
  · split <;> exact ⟨rfl, rfl, rfl⟩
  · exact ⟨rfl, rfl, rfl⟩
  · exact ⟨rfl, rfl, rfl⟩

theorem Thread.write_flags (u : Thread) (o : Opnd) (v : Nat → Option Nat) :
    (u.write o v).fpsr = u.fpsr ∧ (u.write o v).seed = u.seed ∧ (u.write o v).deadRead = u.deadRead := by
  unfold Thread.write
  cases o with
  | vec _ _ => simp only; split <;> exact ⟨rfl, rfl, rfl⟩
  | scal _ _ => simp only; split <;> exact ⟨rfl, rfl, rfl⟩
  | zero _ => exact ⟨rfl, rfl, rfl⟩
  | mbox _ => exact ⟨rfl, rfl, rfl⟩
  | bad => exact ⟨rfl, rfl, rfl⟩

theorem Thread.addPend_flags (u : Thread) (x : Pend) (w : Bool) :
    (u.addPend x w).fpsr = u.fpsr ∧ (u.addPend x w).seed = u.seed ∧ (u.addPend x w).deadRead = u.deadRead := by
  unfold Thread.addPend
  split
  · exact ⟨rfl, rfl, rfl⟩
  · split <;> exact ⟨rfl, rfl, rfl⟩

/-- The state of an instruction in hand. -/
theorem issueEnv_leaves (z : Bool) (fm : Form) (f : Fields) (s : State) (e i : Nat) (t : Thread) (hm : mboxesOf fm f = []) :
    Leaves (touched fm f) z (t.deadRead || t.readsDead fm f) e i t s (issueEnv fm f s e i t).s := by
  have h := issueEnv_thr fm f s e i t hm
  generalize hv : ({ t with stamp := s.cycle e + 1 } : Thread) = v at h
  generalize hw : v.issue fm f (if f.x then 16 else 8) = w at h
  have hk : KeepsThread (touched fm f) t w := by
    rw [← hw]
    exact KeepsThread.trans (by rw [← hv]; exact KeepsThread.same rfl rfl rfl rfl rfl) (Thread.issue_keeps fm f v _)
  have hf : w.fpsr = t.fpsr ∧ w.seed = t.seed ∧ w.deadRead = (t.deadRead || t.readsDead fm f) := by
    rw [← hw]
    refine ⟨(Thread.issue_flags v fm f _).1.trans ?_, (Thread.issue_flags v fm f _).2.1.trans ?_,
      (Thread.issue_flags v fm f _).2.2.trans ?_⟩ <;> rw [← hv] <;> rfl
  obtain ⟨g1, g2, g3⟩ := Thread.renew_flags w (t.seen s.free) fm.d f fm.dspan
  refine ⟨issueEnv_keeps fm f s e i t hm, _, h, hk.trans (Thread.renew_keeps _ _ _ _ _ _), g3.trans hf.2.2,
    fun _ => ⟨g1.trans hf.1, g2.trans hf.2.1⟩, fun b hb => ?_⟩
  rw [g1, hf.1]
  exact hb

/-- The class I and class L ends of an instruction. -/
theorem doneI_leaves {z d : Bool} {fm : Form} {e : Env} {t : Thread} {s : State}
    (h : Leaves (touched fm e.f) z d e.eid e.slot t s e.s) (hd : 1 ≤ fm.dspan) (vals : List (Nat × Nat)) (fl : BitVec 6)
    (hz : z = true → fl = 0) : Leaves (touched fm e.f) z d e.eid e.slot t s (e.doneI vals fl) := by
  refine h.modThr _ ?_ ?_ ?_ ?_
  · intro u
    exact KeepsThread.trans (Thread.write_keeps _ u e.od (fun l => Keyed.get? vals l) fun b n hh => hits_dest fm e.f hd b n hh)
      (KeepsThread.same rfl rfl rfl rfl rfl)
  · exact fun u => (Thread.write_flags u _ _).2.2
  · intro hz' u
    rw [hz hz']
    exact ⟨by simp, (Thread.write_flags u _ _).2.1⟩
  · intro u b hb
    show (u.fpsr ||| fl).getLsbD b = true
    rw [BitVec.getLsbD_or, hb, Bool.true_or]

theorem doneL_leaves {z d : Bool} {fm : Form} {e : Env} {t : Thread} {s : State}
    (h : Leaves (touched fm e.f) z d e.eid e.slot t s e.s) (hd : 1 ≤ fm.dspan) (vals : List (Nat × Nat)) (fl : BitVec 6) :
    Leaves (touched fm e.f) z d e.eid e.slot t s (e.doneL vals fl) := by
  refine h.fresh.modThr _ ?_ ?_ ?_ ?_
  · intro u
    exact Thread.addPend_keeps _ u _ e.od _ rfl fun b n hh => hits_dest fm e.f hd b n hh
  · exact fun u => (Thread.addPend_flags u _ _).2.2
  · exact fun _ u => ⟨(Thread.addPend_flags u _ _).1, (Thread.addPend_flags u _ _).2.1⟩
  · intro u b hb
    rw [(Thread.addPend_flags u _ _).1]
    exact hb

theorem seed_leaves {p : Bool → Nat → Prop} {d : Bool} {e i : Nat} {t : Thread} {s r : State} (h : Leaves p false d e i t s r)
    (g : Thread → List (BitVec 16)) : Leaves p false d e i t s (r.modThr e i fun t => { t with seed := g t }) :=
  h.modThr _ (fun _ => KeepsThread.same rfl rfl rfl rfl rfl) (fun _ => rfl) (fun h => absurd h (by simp)) fun _ _ hb => hb

theorem stepSeeds_leaves {fm : Form} {d : Bool} {e : Env} {t : Thread} {s r : State}
    (h : Leaves (touched fm e.f) false d e.eid e.slot t s r) (n : Nat) :
    Leaves (touched fm e.f) false d e.eid e.slot t s (stepSeeds e n r) := by
  unfold stepSeeds
  split
  · exact h
  · exact seed_leaves h _

/-- Retirement with the run going on. -/
theorem retired_leaves {p : Bool → Nat → Prop} {z d : Bool} {th : Thread} {f : Fields} {s r : State} (hm : f.m = false)
    (h : Leaves p z d s.cur.1 s.cur.2 th s r) : Leaves p z d s.cur.1 s.cur.2 th s (retired s th f r) := by
  obtain ⟨h1, u, h2, h3, h4⟩ := h
  rw [retired_go s th f r u hm h2]
  exact ⟨h1.trans (r.setThr_keeps _ _ _), u.goOn, by simp, h3.trans (KeepsThread.same rfl rfl rfl rfl rfl), h4⟩

end Sys2Proof.Machine
end

