-- ==== Sys2Proof/Laws/PerInstr.lean ====
section
/-! SUPPORT. Instruction by instruction: the opcode and the fields of a well-formed instruction give the instruction back, and a step
that is no encoded instruction has no words. -/

namespace Sys2Proof.Laws.Coding

open Sys2Proof.Machine

/-- What holds of each instruction: it has fields exactly when it has an opcode, and the decoder chooses it for them when it is well
formed. -/
def Statement (i : Instr) : Prop :=
  i.opc.isSome = i.fields?.isSome ∧
    (i.wf = true → ∀ opc f, i.opc = some opc → i.fields? = some f → instrOf opc f = i)

theorem of_alone (i : Instr) (opc : BitVec 10) (f : Fields) (h1 : i.opc = some opc) (h2 : i.fields? = some f)
    (h3 : instrOf opc f = i) : Statement i := by
  refine ⟨by simp [h1, h2], ?_⟩
  intro _ o g ho hg
  have e1 : o = opc := Option.some.inj (ho.symm.trans h1)
  have e2 : g = f := Option.some.inj (hg.symm.trans h2)
  rw [e1, e2, h3]

theorem of_event (i : Instr) (h1 : i.opc = none) (h2 : i.fields? = none) : Statement i := by
  refine ⟨by simp [h1, h2], ?_⟩
  intro _ o g ho
  rw [h1] at ho
  cases ho

/-- An instruction that shares its opcode: its form, which a well-formed one has, settles MOD. -/
theorem of_form (i : Instr) (opc : BitVec 10) (f : Fields) (h1 : i.opc = some opc) (h2 : i.fields? = some f)
    (h3 : ∀ fm, formOf i = some fm → instrOf opc f = i) : Statement i := by
  refine ⟨by simp [h1, h2], ?_⟩
  intro hw o g ho hg
  have e1 : o = opc := Option.some.inj (ho.symm.trans h1)
  have e2 : g = f := Option.some.inj (hg.symm.trans h2)
  rw [e1, e2]
  cases h : formOf i with
  | some fm => exact h3 fm h
  | none => simp [Instr.wf, h2, h] at hw

theorem mov (f : Fields) : Statement (.mov f) := of_alone _ _ f rfl rfl rfl
theorem movi (f : Fields) : Statement (.movi f) := of_alone _ _ f rfl rfl rfl
theorem movhi (f : Fields) : Statement (.movhi f) := of_alone _ _ f rfl rfl rfl
theorem sext (f : Fields) : Statement (.sext f) := of_alone _ _ f rfl rfl rfl
theorem zext (f : Fields) : Statement (.zext f) := of_alone _ _ f rfl rfl rfl
theorem pack (f : Fields) : Statement (.pack f) := of_alone _ _ f rfl rfl rfl
theorem xtr (f : Fields) : Statement (.xtr f) := of_alone _ _ f rfl rfl rfl
theorem ins (f : Fields) : Statement (.ins f) := of_alone _ _ f rfl rfl rfl
theorem bcast (f : Fields) : Statement (.bcast f) := of_alone _ _ f rfl rfl rfl
theorem lane (f : Fields) : Statement (.lane f) := of_alone _ _ f rfl rfl rfl
theorem shfl (f : Fields) : Statement (.shfl f) := of_alone _ _ f rfl rfl rfl
theorem shfli (f : Fields) : Statement (.shfli f) := of_alone _ _ f rfl rfl rfl
theorem sspill (f : Fields) : Statement (.sspill f) := of_alone _ _ f rfl rfl rfl
theorem sfill (f : Fields) : Statement (.sfill f) := of_alone _ _ f rfl rfl rfl
theorem dead (f : Fields) : Statement (.dead f) := of_alone _ _ f rfl rfl rfl
theorem swin (f : Fields) : Statement (.swin f) := of_alone _ _ f rfl rfl rfl
theorem sclr (f : Fields) : Statement (.sclr f) := of_alone _ _ f rfl rfl rfl
theorem br (f : Fields) : Statement (.br f) := of_alone _ _ f rfl rfl rfl
theorem bra (f : Fields) : Statement (.bra f) := of_alone _ _ f rfl rfl rfl
theorem call (f : Fields) : Statement (.call f) := of_alone _ _ f rfl rfl rfl
theorem calla (f : Fields) : Statement (.calla f) := of_alone _ _ f rfl rfl rfl
theorem ret (f : Fields) : Statement (.ret f) := of_alone _ _ f rfl rfl rfl
theorem loop (f : Fields) : Statement (.loop f) := of_alone _ _ f rfl rfl rfl
theorem bany (f : Fields) : Statement (.bany f) := of_alone _ _ f rfl rfl rfl
theorem ball (f : Fields) : Statement (.ball f) := of_alone _ _ f rfl rfl rfl
theorem pand (f : Fields) : Statement (.pand f) := of_alone _ _ f rfl rfl rfl
theorem por (f : Fields) : Statement (.por f) := of_alone _ _ f rfl rfl rfl
theorem pxor (f : Fields) : Statement (.pxor f) := of_alone _ _ f rfl rfl rfl
theorem pnot (f : Fields) : Statement (.pnot f) := of_alone _ _ f rfl rfl rfl
theorem pmov (f : Fields) : Statement (.pmov f) := of_alone _ _ f rfl rfl rfl
theorem pcnt (f : Fields) : Statement (.pcnt f) := of_alone _ _ f rfl rfl rfl
theorem spawn (f : Fields) : Statement (.spawn f) := of_alone _ _ f rfl rfl rfl
theorem exit (f : Fields) : Statement (.exit f) := of_alone _ _ f rfl rfl rfl
theorem yield (f : Fields) : Statement (.yield f) := of_alone _ _ f rfl rfl rfl
theorem wait (f : Fields) : Statement (.wait f) := of_alone _ _ f rfl rfl rfl
theorem sleep (f : Fields) : Statement (.sleep f) := of_alone _ _ f rfl rfl rfl
theorem nop (f : Fields) : Statement (.nop f) := of_alone _ _ f rfl rfl rfl
theorem isync (f : Fields) : Statement (.isync f) := of_alone _ _ f rfl rfl rfl
theorem rdsr (f : Fields) : Statement (.rdsr f) := of_alone _ _ f rfl rfl rfl
theorem wrsr (f : Fields) : Statement (.wrsr f) := of_alone _ _ f rfl rfl rfl
theorem tick (f : Fields) : Statement (.tick f) := of_form _ _ f rfl rfl fun fm h => by
  have h1 : ¬ (f.md = 1) := by
    simp only [formOf, formTick] at h
    split at h <;> simp_all
  exact if_neg h1

theorem tickAt (f : Fields) : Statement (.tickAt f) := of_form _ _ f rfl rfl fun fm h => by
  have h1 : f.md = 1 := by
    simp only [formOf, formTickAt] at h
    split at h <;> simp_all
  exact if_pos h1

theorem add (f : Fields) : Statement (.add f) := of_alone _ _ f rfl rfl rfl
theorem sub (f : Fields) : Statement (.sub f) := of_alone _ _ f rfl rfl rfl
theorem addc (f : Fields) : Statement (.addc f) := of_alone _ _ f rfl rfl rfl
theorem subb (f : Fields) : Statement (.subb f) := of_alone _ _ f rfl rfl rfl
theorem mul (f : Fields) : Statement (.mul f) := of_alone _ _ f rfl rfl rfl
theorem mulh (f : Fields) : Statement (.mulh f) := of_alone _ _ f rfl rfl rfl
theorem mad (f : Fields) : Statement (.mad f) := of_alone _ _ f rfl rfl rfl
theorem min (f : Fields) : Statement (.min f) := of_alone _ _ f rfl rfl rfl
theorem max (f : Fields) : Statement (.max f) := of_alone _ _ f rfl rfl rfl
theorem abs (f : Fields) : Statement (.abs f) := of_alone _ _ f rfl rfl rfl
theorem neg (f : Fields) : Statement (.neg f) := of_alone _ _ f rfl rfl rfl
theorem and (f : Fields) : Statement (.and f) := of_alone _ _ f rfl rfl rfl
theorem or (f : Fields) : Statement (.or f) := of_alone _ _ f rfl rfl rfl
theorem xor (f : Fields) : Statement (.xor f) := of_alone _ _ f rfl rfl rfl
theorem not (f : Fields) : Statement (.not f) := of_alone _ _ f rfl rfl rfl
theorem andn (f : Fields) : Statement (.andn f) := of_alone _ _ f rfl rfl rfl
theorem shl (f : Fields) : Statement (.shl f) := of_alone _ _ f rfl rfl rfl
theorem shr (f : Fields) : Statement (.shr f) := of_alone _ _ f rfl rfl rfl
theorem sar (f : Fields) : Statement (.sar f) := of_alone _ _ f rfl rfl rfl
theorem rot (f : Fields) : Statement (.rot f) := of_alone _ _ f rfl rfl rfl
theorem popc (f : Fields) : Statement (.popc f) := of_alone _ _ f rfl rfl rfl
theorem clz (f : Fields) : Statement (.clz f) := of_alone _ _ f rfl rfl rfl
theorem brev (f : Fields) : Statement (.brev f) := of_alone _ _ f rfl rfl rfl
theorem sel (f : Fields) : Statement (.sel f) := of_alone _ _ f rfl rfl rfl
theorem cmp (f : Fields) : Statement (.cmp f) := of_alone _ _ f rfl rfl rfl
theorem sad (f : Fields) : Statement (.sad f) := of_alone _ _ f rfl rfl rfl
theorem dp4 (f : Fields) : Statement (.dp4 f) := of_alone _ _ f rfl rfl rfl
theorem dp8 (f : Fields) : Statement (.dp8 f) := of_alone _ _ f rfl rfl rfl
theorem div (f : Fields) : Statement (.div f) := of_alone _ _ f rfl rfl rfl
theorem rem (f : Fields) : Statement (.rem f) := of_alone _ _ f rfl rfl rfl
theorem ired (f : Fields) : Statement (.ired f) := of_alone _ _ f rfl rfl rfl
theorem iscan (f : Fields) : Statement (.iscan f) := of_alone _ _ f rfl rfl rfl
theorem padd (f : Fields) : Statement (.padd f) := of_alone _ _ f rfl rfl rfl
theorem pmk (f : Fields) : Statement (.pmk f) := of_alone _ _ f rfl rfl rfl
theorem pfmt (f : Fields) : Statement (.pfmt f) := of_alone _ _ f rfl rfl rfl
theorem fadd (f : Fields) : Statement (.fadd f) := of_alone _ _ f rfl rfl rfl
theorem fsub (f : Fields) : Statement (.fsub f) := of_alone _ _ f rfl rfl rfl
theorem fmul (f : Fields) : Statement (.fmul f) := of_alone _ _ f rfl rfl rfl
theorem fma (f : Fields) : Statement (.fma f) := of_alone _ _ f rfl rfl rfl
theorem fmin (f : Fields) : Statement (.fmin f) := of_alone _ _ f rfl rfl rfl
theorem fmax (f : Fields) : Statement (.fmax f) := of_alone _ _ f rfl rfl rfl
theorem fabs (f : Fields) : Statement (.fabs f) := of_alone _ _ f rfl rfl rfl
theorem fneg (f : Fields) : Statement (.fneg f) := of_alone _ _ f rfl rfl rfl
theorem fcmp (f : Fields) : Statement (.fcmp f) := of_alone _ _ f rfl rfl rfl
theorem fclass (f : Fields) : Statement (.fclass f) := of_alone _ _ f rfl rfl rfl
theorem frcp (f : Fields) : Statement (.frcp f) := of_alone _ _ f rfl rfl rfl
theorem frsq (f : Fields) : Statement (.frsq f) := of_alone _ _ f rfl rfl rfl
theorem fsqrt (f : Fields) : Statement (.fsqrt f) := of_alone _ _ f rfl rfl rfl
theorem fdiv (f : Fields) : Statement (.fdiv f) := of_alone _ _ f rfl rfl rfl
theorem fexp2 (f : Fields) : Statement (.fexp2 f) := of_alone _ _ f rfl rfl rfl
theorem flog2 (f : Fields) : Statement (.flog2 f) := of_alone _ _ f rfl rfl rfl
theorem fsin (f : Fields) : Statement (.fsin f) := of_alone _ _ f rfl rfl rfl
theorem fcos (f : Fields) : Statement (.fcos f) := of_alone _ _ f rfl rfl rfl
theorem fscale (f : Fields) : Statement (.fscale f) := of_alone _ _ f rfl rfl rfl
theorem frint (f : Fields) : Statement (.frint f) := of_alone _ _ f rfl rfl rfl
theorem fdot2 (f : Fields) : Statement (.fdot2 f) := of_alone _ _ f rfl rfl rfl
theorem fsplit (f : Fields) : Statement (.fsplit f) := of_alone _ _ f rfl rfl rfl
theorem fred (f : Fields) : Statement (.fred f) := of_alone _ _ f rfl rfl rfl
theorem cvt (f : Fields) : Statement (.cvt f) := of_alone _ _ f rfl rfl rfl
theorem lsmk (f : Fields) : Statement (.lsmk f) := of_alone _ _ f rfl rfl rfl
theorem bxq (f : Fields) : Statement (.bxq f) := of_alone _ _ f rfl rfl rfl
theorem bxd (f : Fields) : Statement (.bxd f) := of_alone _ _ f rfl rfl rfl
theorem lsadd (f : Fields) : Statement (.lsadd f) := of_alone _ _ f rfl rfl rfl
theorem lscvt (f : Fields) : Statement (.lscvt f) := of_alone _ _ f rfl rfl rfl
theorem mma (f : Fields) : Statement (.mma f) := of_alone _ _ f rfl rfl rfl
theorem mmaz (f : Fields) : Statement (.mmaz f) := of_alone _ _ f rfl rfl rfl
theorem mld (f : Fields) : Statement (.mld f) := of_alone _ _ f rfl rfl rfl
theorem mst (f : Fields) : Statement (.mst f) := of_alone _ _ f rfl rfl rfl
theorem msteer (f : Fields) : Statement (.msteer f) := of_alone _ _ f rfl rfl rfl
theorem mwait (f : Fields) : Statement (.mwait f) := of_alone _ _ f rfl rfl rfl
theorem mprog (f : Fields) : Statement (.mprog f) := of_alone _ _ f rfl rfl rfl
theorem mweight (f : Fields) : Statement (.mweight f) := of_alone _ _ f rfl rfl rfl
theorem mclr (f : Fields) : Statement (.mclr f) := of_alone _ _ f rfl rfl rfl
theorem ldl (f : Fields) : Statement (.ldl f) := of_alone _ _ f rfl rfl rfl
theorem stl (f : Fields) : Statement (.stl f) := of_alone _ _ f rfl rfl rfl
theorem stash (f : Fields) : Statement (.stash f) := of_alone _ _ f rfl rfl rfl
theorem unstash (f : Fields) : Statement (.unstash f) := of_alone _ _ f rfl rfl rfl
theorem wptr (f : Fields) : Statement (.wptr f) := of_alone _ _ f rfl rfl rfl
theorem eread (f : Fields) : Statement (.eread f) := of_form _ _ f rfl rfl fun fm h => by
  have h1 : ¬ (f.md = 1) := by
    simp only [formOf, formEread] at h
    split at h <;> simp_all
  exact if_neg h1

theorem ereadRel (f : Fields) : Statement (.ereadRel f) := of_form _ _ f rfl rfl fun fm h => by
  have h1 : f.md = 1 := by
    simp only [formOf, formEreadRel] at h
    split at h <;> simp_all
  exact if_pos h1

theorem ewrite (f : Fields) : Statement (.ewrite f) := of_alone _ _ f rfl rfl rfl
theorem eos (f : Fields) : Statement (.eos f) := of_alone _ _ f rfl rfl rfl
theorem ld (f : Fields) : Statement (.ld f) := of_alone _ _ f rfl rfl rfl
theorem st (f : Fields) : Statement (.st f) := of_alone _ _ f rfl rfl rfl
theorem ldf (f : Fields) : Statement (.ldf f) := of_alone _ _ f rfl rfl rfl
theorem stf (f : Fields) : Statement (.stf f) := of_alone _ _ f rfl rfl rfl
theorem gather (f : Fields) : Statement (.gather f) := of_alone _ _ f rfl rfl rfl
theorem scatter (f : Fields) : Statement (.scatter f) := of_alone _ _ f rfl rfl rfl
theorem prf (f : Fields) : Statement (.prf f) := of_alone _ _ f rfl rfl rfl
theorem amo (f : Fields) : Statement (.amo f) := of_alone _ _ f rfl rfl rfl
theorem cas (f : Fields) : Statement (.cas f) := of_alone _ _ f rfl rfl rfl
theorem sta (f : Fields) : Statement (.sta f) := of_alone _ _ f rfl rfl rfl
theorem inv (f : Fields) : Statement (.inv f) := of_alone _ _ f rfl rfl rfl
theorem tlbinv (f : Fields) : Statement (.tlbinv f) := of_alone _ _ f rfl rfl rfl
theorem rel (f : Fields) : Statement (.rel f) := of_alone _ _ f rfl rfl rfl
theorem acq (f : Fields) : Statement (.acq f) := of_alone _ _ f rfl rfl rfl
theorem fence (f : Fields) : Statement (.fence f) := of_alone _ _ f rfl rfl rfl
theorem ogq (f : Fields) : Statement (.ogq f) := of_alone _ _ f rfl rfl rfl
theorem cpy (f : Fields) : Statement (.cpy f) := of_alone _ _ f rfl rfl rfl
theorem cpyg (f : Fields) : Statement (.cpyg f) := of_alone _ _ f rfl rfl rfl
theorem cpyf (f : Fields) : Statement (.cpyf f) := of_alone _ _ f rfl rfl rfl
theorem cpw (f : Fields) : Statement (.cpw f) := of_form _ _ f rfl rfl fun fm h => by
  have h1 : ¬ (f.md = 2) := by
    simp only [formOf, formCpw] at h
    split at h <;> simp_all
  exact if_neg h1

theorem cpwDrop (f : Fields) : Statement (.cpwDrop f) := of_form _ _ f rfl rfl fun fm h => by
  have h1 : f.md = 2 := by
    simp only [formOf, formCpwDrop] at h
    split at h <;> simp_all
  exact if_pos h1

theorem cpq (f : Fields) : Statement (.cpq f) := of_alone _ _ f rfl rfl rfl
theorem binit (f : Fields) : Statement (.binit f) := of_alone _ _ f rfl rfl rfl
theorem barv (f : Fields) : Statement (.barv f) := of_alone _ _ f rfl rfl rfl
theorem bexp (f : Fields) : Statement (.bexp f) := of_alone _ _ f rfl rfl rfl
theorem bwait (f : Fields) : Statement (.bwait f) := of_alone _ _ f rfl rfl rfl
theorem btest (f : Fields) : Statement (.btest f) := of_alone _ _ f rfl rfl rfl
theorem gbar (f : Fields) : Statement (.gbar f) := of_alone _ _ f rfl rfl rfl
theorem tkmk (f : Fields) : Statement (.tkmk f) := of_alone _ _ f rfl rfl rfl
theorem tkarm (f : Fields) : Statement (.tkarm f) := of_alone _ _ f rfl rfl rfl
theorem tksucc (f : Fields) : Statement (.tksucc f) := of_alone _ _ f rfl rfl rfl
theorem tkdec (f : Fields) : Statement (.tkdec f) := of_alone _ _ f rfl rfl rfl
theorem tkdone (f : Fields) : Statement (.tkdone f) := of_alone _ _ f rfl rfl rfl
theorem ginst (f : Fields) : Statement (.ginst f) := of_alone _ _ f rfl rfl rfl
theorem tkcan (f : Fields) : Statement (.tkcan f) := of_form _ _ f rfl rfl fun fm h => by
  have h1 : ¬ (f.md = 1) := by
    simp only [formOf, formResA] at h
    split at h <;> simp_all
  exact if_neg h1

theorem tkcanG (f : Fields) : Statement (.tkcanG f) := of_form _ _ f rfl rfl fun fm h => by
  have h1 : f.md = 1 := by
    simp only [formOf, formResA] at h
    split at h <;> simp_all
  exact if_pos h1

theorem tkst (f : Fields) : Statement (.tkst f) := of_alone _ _ f rfl rfl rfl
theorem tksub (f : Fields) : Statement (.tksub f) := of_alone _ _ f rfl rfl rfl
theorem arrm (f : Fields) : Statement (.arrm f) := of_form _ _ f rfl rfl fun fm h => by
  have h1 : ¬ (f.md = 1) := by
    simp only [formOf, formArrm] at h
    split at h <;> simp_all
  exact if_neg h1

theorem arrmFree (f : Fields) : Statement (.arrmFree f) := of_form _ _ f rfl rfl fun fm h => by
  have h1 : f.md = 1 := by
    simp only [formOf, formResA] at h
    split at h <;> simp_all
  exact if_pos h1

theorem tkres (f : Fields) : Statement (.tkres f) := of_alone _ _ f rfl rfl rfl
theorem rgres (f : Fields) : Statement (.rgres f) := of_alone _ _ f rfl rfl rfl
theorem rgpub (f : Fields) : Statement (.rgpub f) := of_alone _ _ f rfl rfl rfl
theorem rgtake (f : Fields) : Statement (.rgtake f) := of_alone _ _ f rfl rfl rfl
theorem am (f : Fields) : Statement (.am f) := of_form _ _ f rfl rfl fun fm h => by
  have h1 : ¬ (f.mod.getLsbD 0 = true) := by
    simp only [formOf, formAm] at h
    split at h <;> simp_all
  exact if_neg h1

theorem amD (f : Fields) : Statement (.amD f) := of_form _ _ f rfl rfl fun fm h => by
  have h1 : f.mod.getLsbD 0 = true := by
    simp only [formOf, formAm] at h
    split at h <;> simp_all
  exact if_pos h1

theorem amr (f : Fields) : Statement (.amr f) := of_alone _ _ f rfl rfl rfl
theorem hend (f : Fields) : Statement (.hend f) := of_alone _ _ f rfl rfl rfl
theorem push (f : Fields) : Statement (.push f) := of_alone _ _ f rfl rfl rfl
theorem pop (f : Fields) : Statement (.pop f) := of_form _ _ f rfl rfl fun fm h => by
  have h1 : ¬ (f.md = 1) := by
    simp only [formOf, formPop] at h
    split at h <;> simp_all
  exact if_neg h1

theorem popW (f : Fields) : Statement (.popW f) := of_form _ _ f rfl rfl fun fm h => by
  have h1 : f.md = 1 := by
    simp only [formOf, formPopW] at h
    split at h <;> simp_all
  exact if_pos h1

theorem qmk (f : Fields) : Statement (.qmk f) := of_form _ _ f rfl rfl fun fm h => by
  have h1 : ¬ (f.md = 1) := by
    simp only [formOf, formQmk] at h
    split at h <;> simp_all
  exact if_neg h1

theorem qmkFree (f : Fields) : Statement (.qmkFree f) := of_form _ _ f rfl rfl fun fm h => by
  have h1 : f.md = 1 := by
    simp only [formOf, formQmkFree] at h
    split at h <;> simp_all
  exact if_pos h1

theorem mbsend (f : Fields) : Statement (.mbsend f) := of_alone _ _ f rfl rfl rfl
theorem mbcnt (f : Fields) : Statement (.mbcnt f) := of_alone _ _ f rfl rfl rfl
theorem cplan (f : Fields) : Statement (.cplan f) := of_form _ _ f rfl rfl fun fm h => by
  have h1 : ¬ (f.md = 1) := by
    simp only [formOf, formCplan] at h
    split at h <;> simp_all
  exact if_neg h1

theorem cplanFree (f : Fields) : Statement (.cplanFree f) := of_form _ _ f rfl rfl fun fm h => by
  have h1 : f.md = 1 := by
    simp only [formOf, formCplanFree, formResA] at h
    split at h <;> simp_all
  exact if_pos h1

theorem red (f : Fields) : Statement (.red f) := of_alone _ _ f rfl rfl rfl
theorem cbcast (f : Fields) : Statement (.cbcast f) := of_alone _ _ f rfl rfl rfl
theorem cgath (f : Fields) : Statement (.cgath f) := of_alone _ _ f rfl rfl rfl
theorem redw (f : Fields) : Statement (.redw f) := of_alone _ _ f rfl rfl rfl
theorem redr (f : Fields) : Statement (.redr f) := of_alone _ _ f rfl rfl rfl
theorem redfix (f : Fields) : Statement (.redfix f) := of_alone _ _ f rfl rfl rfl
theorem trap (f : Fields) : Statement (.trap f) := of_alone _ _ f rfl rfl rfl
theorem brk (f : Fields) : Statement (.brk f) := of_alone _ _ f rfl rfl rfl
theorem eret (f : Fields) : Statement (.eret f) := of_alone _ _ f rfl rfl rfl
theorem drain (f : Fields) : Statement (.drain f) := of_form _ _ f rfl rfl fun fm h => by
  have h1 : ¬ (f.md = 2) := by
    simp only [formOf, formDrain] at h
    split at h <;> simp_all
  exact if_neg h1

theorem drainRes (f : Fields) : Statement (.drainRes f) := of_form _ _ f rfl rfl fun fm h => by
  have h1 : f.md = 2 := by
    simp only [formOf, formDrainRes] at h
    split at h <;> simp_all
  exact if_pos h1

theorem frz (f : Fields) : Statement (.frz f) := of_form _ _ f rfl rfl fun fm h => by
  have h1 : ¬ (f.md = 1) := by
    simp only [formOf, formResA] at h
    split at h <;> simp_all
  exact if_neg h1

theorem frzRes (f : Fields) : Statement (.frzRes f) := of_form _ _ f rfl rfl fun fm h => by
  have h1 : f.md = 1 := by
    simp only [formOf, formResA] at h
    split at h <;> simp_all
  exact if_pos h1

theorem ctxsv (f : Fields) : Statement (.ctxsv f) := of_alone _ _ f rfl rfl rfl
theorem ctxld (f : Fields) : Statement (.ctxld f) := of_alone _ _ f rfl rfl rfl
theorem gang (f : Fields) : Statement (.gang f) := of_alone _ _ f rfl rfl rfl
theorem unassignedOpcode (opc : BitVec 10) (f : Fields) : Statement (.unassignedOpcode opc f) := by
  refine ⟨rfl, ?_⟩
  intro h
  simp [Instr.wf, Instr.fields?, formOf] at h

theorem linkFailure (dev : Nat) (port : Nat) : Statement (.linkFailure dev port) := of_event _ rfl rfl
theorem linkRetrain (dev : Nat) (port : Nat) : Statement (.linkRetrain dev port) := of_event _ rfl rfl
theorem tickMasterFailure (dev : Nat) : Statement (.tickMasterFailure dev) := of_event _ rfl rfl
theorem deviceJoin (dev : Nat) (ticks : Nat) : Statement (.deviceJoin dev ticks) := of_event _ rfl rfl
theorem deviceNumberSet (dev : Nat) (num : Nat) : Statement (.deviceNumberSet dev num) := of_event _ rfl rfl
theorem uncorrectableError (key : Nat) : Statement (.uncorrectableError key) := of_event _ rfl rfl
theorem ctxswSwitchOut (dev : Nat) (core : Nat) : Statement (.ctxswSwitchOut dev core) := of_event _ rfl rfl
theorem ctxswSwitchIn (dev : Nat) (core : Nat) : Statement (.ctxswSwitchIn dev core) := of_event _ rfl rfl
theorem rres (dev : Nat) (fn : Nat) : Statement (.rres dev fn) := of_event _ rfl rfl
theorem rpub (dev : Nat) (fn : Nat) (val : Nat) : Statement (.rpub dev fn val) := of_event _ rfl rfl
theorem rtake (dev : Nat) (fn : Nat) : Statement (.rtake dev fn) := of_event _ rfl rfl
theorem rdone (dev : Nat) (fn : Nat) (val : Nat) : Statement (.rdone dev fn val) := of_event _ rfl rfl
theorem pwrcap (dev : Nat) (val : Nat) : Statement (.pwrcap dev val) := of_event _ rfl rfl
theorem recsel (dev : Nat) (val : Nat) : Statement (.recsel dev val) := of_event _ rfl rfl
theorem hostRegisterWrite (dev : Nat) (fn : Nat) (off : Nat) (val : Nat) : Statement (.hostRegisterWrite dev fn off val) := of_event _ rfl rfl
theorem bar2Access (dev : Nat) (fn : Nat) (off : Nat) (n : Nat) (val : Option Nat) : Statement (.bar2Access dev fn off n val) := of_event _ rfl rfl
theorem dvfsLoop (die : Nat) (power : Nat) (temp : Nat) : Statement (.dvfsLoop die power temp) := of_event _ rfl rfl
theorem thermalCutoff (dev : Nat) : Statement (.thermalCutoff dev) := of_event _ rfl rfl
theorem coldReset (dev : Nat) (ok : Bool) (ver : Nat) (digest : Nat) : Statement (.coldReset dev ok ver digest) := of_event _ rfl rfl
theorem warmReset (dev : Nat) : Statement (.warmReset dev) := of_event _ rfl rfl
theorem pcieLinkTraining (dev : Nat) (width : Nat) (rate : Nat) : Statement (.pcieLinkTraining dev width rate) := of_event _ rfl rfl
theorem getVersion (dev : Nat) : Statement (.getVersion dev) := of_event _ rfl rfl
theorem getCapabilities (dev : Nat) : Statement (.getCapabilities dev) := of_event _ rfl rfl
theorem negotiateAlgorithms (dev : Nat) : Statement (.negotiateAlgorithms dev) := of_event _ rfl rfl
theorem getDigests (dev : Nat) : Statement (.getDigests dev) := of_event _ rfl rfl
theorem getCertificate (dev : Nat) : Statement (.getCertificate dev) := of_event _ rfl rfl
theorem challenge (dev : Nat) : Statement (.challenge dev) := of_event _ rfl rfl
theorem getMeasurements (dev : Nat) : Statement (.getMeasurements dev) := of_event _ rfl rfl
theorem keyExchange (dev : Nat) : Statement (.keyExchange dev) := of_event _ rfl rfl
theorem finish (dev : Nat) : Statement (.finish dev) := of_event _ rfl rfl
theorem scrubPass (die : Nat) (word : Nat) : Statement (.scrubPass die word) := of_event _ rfl rfl
theorem dramPatrol (die : Nat) (page : Nat) : Statement (.dramPatrol die page) := of_event _ rfl rfl
theorem classLResultWrite : Statement (.classLResultWrite) := of_event _ rfl rfl
theorem fetchBlockRead : Statement (.fetchBlockRead) := of_event _ rfl rfl
theorem handlerWatchdog : Statement (.handlerWatchdog) := of_event _ rfl rfl
theorem spawnArrival : Statement (.spawnArrival) := of_event _ rfl rfl
theorem waitWake : Statement (.waitWake) := of_event _ rfl rfl
theorem waitTimeout : Statement (.waitTimeout) := of_event _ rfl rfl
theorem sleepExpiry : Statement (.sleepExpiry) := of_event _ rfl rfl
theorem tickAtWake : Statement (.tickAtWake) := of_event _ rfl rfl
theorem coreSleepEntry : Statement (.coreSleepEntry) := of_event _ rfl rfl
theorem coreWake : Statement (.coreWake) := of_event _ rfl rfl
theorem activeMessageArrival : Statement (.activeMessageArrival) := of_event _ rfl rfl
theorem handlerStart : Statement (.handlerStart) := of_event _ rfl rfl
theorem depositArrival : Statement (.depositArrival) := of_event _ rfl rfl
theorem messageRefused : Statement (.messageRefused) := of_event _ rfl rfl
theorem amrReply : Statement (.amrReply) := of_event _ rfl rfl
theorem mailboxEntryArrival : Statement (.mailboxEntryArrival) := of_event _ rfl rfl
theorem mbsendRetry : Statement (.mbsendRetry) := of_event _ rfl rfl
theorem mbsendRecordRetry : Statement (.mbsendRecordRetry) := of_event _ rfl rfl
theorem mailboxReservationExpiry : Statement (.mailboxReservationExpiry) := of_event _ rfl rfl
theorem eretRequestArrival : Statement (.eretRequestArrival) := of_event _ rfl rfl
theorem pushArrival : Statement (.pushArrival) := of_event _ rfl rfl
theorem popArrival : Statement (.popArrival) := of_event _ rfl rfl
theorem pushWindowExpiry : Statement (.pushWindowExpiry) := of_event _ rfl rfl
theorem popWindowExpiry : Statement (.popWindowExpiry) := of_event _ rfl rfl
theorem popWCancel : Statement (.popWCancel) := of_event _ rfl rfl
theorem fabricRequestArrival : Statement (.fabricRequestArrival) := of_event _ rfl rfl
theorem retransmitTimer : Statement (.retransmitTimer) := of_event _ rfl rfl
theorem requestAbandon : Statement (.requestAbandon) := of_event _ rfl rfl
theorem replyCacheExpiry : Statement (.replyCacheExpiry) := of_event _ rfl rfl
theorem retryLaterResend : Statement (.retryLaterResend) := of_event _ rfl rfl
theorem escapeMove : Statement (.escapeMove) := of_event _ rfl rfl
theorem thresholdRecompute : Statement (.thresholdRecompute) := of_event _ rfl rfl
theorem routeRemoval : Statement (.routeRemoval) := of_event _ rfl rfl
theorem deviceUnreachable : Statement (.deviceUnreachable) := of_event _ rfl rfl
theorem routeFound : Statement (.routeFound) := of_event _ rfl rfl
theorem apertureWriteDiscard : Statement (.apertureWriteDiscard) := of_event _ rfl rfl
theorem tickMeasurement : Statement (.tickMeasurement) := of_event _ rfl rfl
theorem newTickMaster : Statement (.newTickMaster) := of_event _ rfl rfl
theorem homeAccess : Statement (.homeAccess) := of_event _ rfl rfl
theorem atomicAtHome : Statement (.atomicAtHome) := of_event _ rfl rfl
theorem lmAtomicMicrocode : Statement (.lmAtomicMicrocode) := of_event _ rfl rfl
theorem walkStart : Statement (.walkStart) := of_event _ rfl rfl
theorem pageWalk : Statement (.pageWalk) := of_event _ rfl rfl
theorem tlbinvAck : Statement (.tlbinvAck) := of_event _ rfl rfl
theorem joinComplete : Statement (.joinComplete) := of_event _ rfl rfl
theorem stashFill : Statement (.stashFill) := of_event _ rfl rfl
theorem stashWriteback : Statement (.stashWriteback) := of_event _ rfl rfl
theorem mxuArbitrate : Statement (.mxuArbitrate) := of_event _ rfl rfl
theorem stagerFetch : Statement (.stagerFetch) := of_event _ rfl rfl
theorem accPortCommand : Statement (.accPortCommand) := of_event _ rfl rfl
theorem msteerTokenWrite : Statement (.msteerTokenWrite) := of_event _ rfl rfl
theorem mxuCommandComplete : Statement (.mxuCommandComplete) := of_event _ rfl rfl
theorem mxuFault : Statement (.mxuFault) := of_event _ rfl rfl
theorem copyCommandStart : Statement (.copyCommandStart) := of_event _ rfl rfl
theorem copyRequest : Statement (.copyRequest) := of_event _ rfl rfl
theorem copyFault : Statement (.copyFault) := of_event _ rfl rfl
theorem copyCommandComplete : Statement (.copyCommandComplete) := of_event _ rfl rfl
theorem barrierUpdate : Statement (.barrierUpdate) := of_event _ rfl rfl
theorem staAck : Statement (.staAck) := of_event _ rfl rfl
theorem bwaitTimeout : Statement (.bwaitTimeout) := of_event _ rfl rfl
theorem gbarEpisodeComplete : Statement (.gbarEpisodeComplete) := of_event _ rfl rfl
theorem edgeReservation : Statement (.edgeReservation) := of_event _ rfl rfl
theorem edgeTokenArrival : Statement (.edgeTokenArrival) := of_event _ rfl rfl
theorem eosMarkArrival : Statement (.eosMarkArrival) := of_event _ rfl rfl
theorem drainMarkerInject : Statement (.drainMarkerInject) := of_event _ rfl rfl
theorem queueRingTake : Statement (.queueRingTake) := of_event _ rfl rfl
theorem dispatchSelection : Statement (.dispatchSelection) := of_event _ rfl rfl
theorem priorityAging : Statement (.priorityAging) := of_event _ rfl rfl
theorem operandPrefetch : Statement (.operandPrefetch) := of_event _ rfl rfl
theorem prefetchFault : Statement (.prefetchFault) := of_event _ rfl rfl
theorem threadCreation : Statement (.threadCreation) := of_event _ rfl rfl
theorem taskCompletion : Statement (.taskCompletion) := of_event _ rfl rfl
theorem decrementApply : Statement (.decrementApply) := of_event _ rfl rfl
theorem quiescenceExpiry : Statement (.quiescenceExpiry) := of_event _ rfl rfl
theorem gangPrepare : Statement (.gangPrepare) := of_event _ rfl rfl
theorem gangCommit : Statement (.gangCommit) := of_event _ rfl rfl
theorem gangArm : Statement (.gangArm) := of_event _ rfl rfl
theorem planPrepare : Statement (.planPrepare) := of_event _ rfl rfl
theorem contributionArrival : Statement (.contributionArrival) := of_event _ rfl rfl
theorem epochOpen : Statement (.epochOpen) := of_event _ rfl rfl
theorem forwardTickExpiry : Statement (.forwardTickExpiry) := of_event _ rfl rfl
theorem resultDelivery : Statement (.resultDelivery) := of_event _ rfl rfl
theorem shakeOutCommit : Statement (.shakeOutCommit) := of_event _ rfl rfl
theorem correctionArrival : Statement (.correctionArrival) := of_event _ rfl rfl
theorem userRoutineRun : Statement (.userRoutineRun) := of_event _ rfl rfl
theorem yardRoutineWatchdog : Statement (.yardRoutineWatchdog) := of_event _ rfl rfl
theorem planDeviceLost : Statement (.planDeviceLost) := of_event _ rfl rfl
theorem spillRingCatch : Statement (.spillRingCatch) := of_event _ rfl rfl
theorem thermalStop : Statement (.thermalStop) := of_event _ rfl rfl
theorem redwTimeout : Statement (.redwTimeout) := of_event _ rfl rfl
theorem lossOfLock : Statement (.lossOfLock) := of_event _ rfl rfl
theorem thermalIssueResume : Statement (.thermalIssueResume) := of_event _ rfl rfl

end Sys2Proof.Laws.Coding
end

