-- ==== Sys2Proof/Tests/Slice0.lean ====
section
/-! SUPPORT. Tests of the model's own: an ill-formed term for each check, words written out from the spec's encodings, and for each
statement with hypotheses a witness that meets them, clause by clause. -/

namespace Sys2Proof.Tests

open Sys2Proof.Machine

-- each theorem is checked before the next one is read
set_option Elab.async false

/-! ## Small states -/

/-- Fields with scalar quads 0, 1, 2, 3 (slices 0, 16, 32 and 48, width 16) as D, A, B and C. -/
def fS : Fields := { (default : Fields) with d := 0x200F, a := 0x210F, b := 0x220F, c := 0x230F, x := true }

/-- Fields with vector operands of width 8 at slices 0, 8, 16 and 24. -/
def fV : Fields := { (default : Fields) with d := 0x0007, a := 0x0087, b := 0x0107, c := 0x0187, x := true }

def f0 : Fields := default

/-- The scalar file with these quads, from slice 0 on. -/
def quads : List Nat → Nat
  | [] => 0
  | v :: r => v + 2 ^ 64 * quads r

/-- A core with one thread in slot 0 whose scalar quads are `r`, in a context whose range entry maps the first 4 GiB of addresses onto
the device's DRAM, as an entry of the tile's TLB does the first GiB. -/
def st (r : List Nat) : State :=
  { State.reset with
    devs := [(0, { stage := 5, numbered := true, master := true, locked := true })]
    ctxs := [(1, { ctxgr := 126, root := 0, fring := 0x100000, csv := 0, frz := 0, ranges := [(0, 0xFFFFF, 0x17, true)]
                   handlers := [(0, 0x7FFFF)], queues := [(0x200000, 3)] })]
    tiles := [(0, { tlb := [{ asid := 1, vpn := 0, pages := 0x40000, leaf := 0x17 }] })]
    cores := [(0, { codeCore [] with
      threads := (codeCore []).threads.map fun (i, t) => (i, { t with scal := BitVec.ofNat 1024 (quads r) }) })] }

/-- A state of one core with changes to its core and to its one thread. -/
def stC (r : List Nat) (g : Core → Core) : State := (st r).modCore 0 g
def stT (r : List Nat) (g : Thread → Thread) : State := (st r).modThr 0 0 g

/-- With a second device, whose DRAM the tile's TLB maps from 1 GiB on. -/
def peer (s : State) : State :=
  State.modTile { s with devs := s.devs ++ [(1, { stage := 5, numbered := true })] } 0 fun t =>
    { t with tlb := t.tlb ++ [{ asid := 1, vpn := 0x40000, pages := 0x1000, leaf := 0x57 + 2 ^ 54 }] }

/-- The thread in hand, its instruction with fields `f` goes on to its own description, and that description's conditions `p` hold. -/
def wit (form : Fields → Option Form) (hOk yOk : Bool) (f : Fields) (s : State) (p : Env → Bool) : Bool :=
  match s.thr? s.cur.1 s.cur.2 with
  | none => false
  | some th =>
    !cancelled s s.cur.2 th && !mbHeld s s.cur.1 s.cur.2 && (precheck (form f) hOk yOk s.cur.1 s.cur.2 th f).isNone &&
      headsReady (s.core s.cur.1) th (mboxesOf ((form f).getD {}) f) && p (hand (form f) f s th)

/-- What `wit` says. -/
theorem wit_issues {form : Fields → Option Form} {hOk yOk : Bool} {f : Fields} {s : State} {p : Env → Bool}
    (h : wit form hOk yOk f s p = true) : ∃ th, Issues (form f) hOk yOk f s th ∧ p (hand (form f) f s th) = true := by
  unfold wit at h
  split at h
  · cases h
  · rename_i th ht
    simp only [Bool.and_eq_true, Bool.not_eq_true', Option.isNone_iff_eq_none] at h
    exact ⟨th, ⟨ht, h.1.1.1.1, h.1.1.1.2, h.1.1.2, h.1.2⟩, h.2⟩

/-- A witness of a clause with no condition of the instruction's own. -/
def witA (form : Fields → Option Form) (f : Fields) : Bool := wit form true true f (st []) fun _ => true

/-- Lane 0 acts. -/
def on (e : Env) : Bool := e.act 0

/-- A request of class 1 of the thread in slot 0 of core 0 to its own core, and a state in which it is the step's subject. -/
def pkt0 : Packet := { (default : Packet) with id := 1, asid := 1, cls := 1 }
def withPkt (s : State) (p : Packet) : State := { s with net := [p], who := [1], nextId := 2 }

/-- A task's binding with one in-port. -/
def bindIn : Binding :=
  { handle := 0xFFFFFFFF, slots := [], units := [], accs := [], first := 0, dataLo := 0, dataN := 0, outs := [], ins := [some 1] }

/-- An edge with a ring of two tokens on core 0, and the binding of the thread's task that names it as out-port 0 and in-port 0. -/
def edge1 : Edge :=
  { id := 1, asid := 1, prod := 0xFFFFFFFF, cons := 0xFFFFFFFF, inPort := 0, core := 0, off := 0x4000, ntok := 2, tsize := 64,
    nprod := 1, placed := true }
def bindE : Binding := { bindIn with outs := [1] }
def stE (r : List Nat) (g : Edge) (h : Thread → Thread) : State :=
  { ((stT r h).modCore 0 fun c => { c with bindings := [bindE] }) with edges := [g] }

/-- What the thread holds in hand, for clauses about an `Env` alone. -/
def env (form : Fields → Option Form) (f : Fields) (s : State) : Env :=
  hand (form f) f s ((s.thr? s.cur.1 s.cur.2).getD default)

/-- No earlier `pop` still has its acquire to make. -/
def pops (e : Env) : Bool := !popHeld e.s0 e.eid e.slot e.s0.nextId

/-- A check that gives `v`. -/
def gives {α β : Type} [DecidableEq α] (x : Except β α) (v : α) : Bool := x.toOption == some v


/-! ## Well-formedness: an ill-formed term for each check -/

/-- Each of these is well formed. -/
theorem test_wellFormed :
    (([(.mov { f0 with d := 0x200F, a := 0x3C0F } : Instr), .mov { f0 with d := 0x007, a := 0x007, lra := true, x := true }, .mov { f0 with d := 0x007, a := 0x200F },
      .add { fV with c := 0, etype := 1 }, .fadd { fV with c := 0, rnd := 5 }, .and { fV with c := 0 }, .fma fV, .nop { f0 with psel := 7, psense := true },
      .pcnt { f0 with d := 0x200F, a := 1 }, .mma { fS with d := 3, imm := 0xFFFF }, .mov { f0 with imm := 0 }, .trap { f0 with b := 8191 }, .pand { f0 with d := 7, a := 1, b := 7 }, .resultDelivery] : List Instr).map (·.wf)).all id = true := by decide +kernel

/-- Each of these is ill formed: a mailbox as D; a mark on the zero slice; a field that is not used; a type, an SMOD value, a rounding
mode and a saturation that the instruction does not take; no extension word where one is required; PSENSE without a predicate; a
vector source with a scalar D; an immediate that is out of range; extension fields without an extension word; a slice that is not
there; a predicate that is not there; a reserved MOD value; a predicate on an instruction that takes none; an accumulator that is not there; an opcode that is not assigned. -/
theorem test_illFormed :
    (([(.mov { f0 with d := 0x3C0F, a := 0x200F } : Instr), .mov { f0 with d := 0x007, a := 0x3000, lra := true, x := true }, .mov { f0 with d := 0x007, a := 0x200F, b := 1 },
      .add { fV with c := 0, etype := 4 }, .add { fV with c := 0, smod := 1 }, .fadd { fV with c := 0, rnd := 6 }, .add { fV with c := 0, rnd := 1 }, .and { fV with c := 0, sat := true },
      .fma { fV with x := false, c := 0 }, .nop { f0 with psense := true }, .mov { f0 with d := 0x200F, a := 0x007 }, .mma { fS with d := 3, imm := 0x10000 },
      .trap { f0 with b := 0x3FFF }, .mov { f0 with imm := 1 }, .mov { f0 with a := 0x3010 }, .pand { f0 with d := 8, a := 1, b := 7 }, .pand { f0 with d := 0, a := 1, b := 7 },
      .mov { f0 with mod := 1 }, .pcnt { f0 with d := 0x200F, a := 1, psel := 1 }, .mma { fS with d := 4 }, .unassignedOpcode 0 f0] : List Instr).map fun i => !i.wf).all id = true := by decide +kernel

/-! ## Decoding: words of the spec's worked examples, and words written out by R36, R37 and R50 -/

/-- A base word and an extension word decode to an instruction. -/
def reads (w e : Nat) (i : Instr) : Bool := (decode (toBytes 8 w ++ toBytes 8 e)).toOption == some (i, if w % 2 = 1 then 16 else 8)

/-- `mma.la acc2, x64.16, x80.16, x96.16, 256` (chapter 06), `mmaz.la.lb acc0, x80.16, x96.16, x128.16, 32` (chapter 17). -/
theorem test_decodeMatrix :
    ([reads 0x0400001481F28783 0x983C000004000000 (.mma { f0 with d := 2, a := 0x240F, b := 0x250F, c := 0x260F, imm := 256, mod := 1, x := true }),
      reads 0x04020004A1F30787 0xA03C000000800000
      (.mmaz { f0 with a := 0x250F, b := 0x260F, c := 0x280F, imm := 32, mod := 3, x := true })] : List Bool).all id = true := by decide +kernel

/-- `fsplit v8.12, v0.8`, `lscvt.w.f32 x96.8, x192.16 ^` (chapters 17 and 19), and `cvt.sf32.bf16 v0.4, v8.8` by R36 and R143. -/
theorem test_decodeFloat :
    ([reads 0x022C045800E00000 0 (.fsplit { f0 with d := 0x08B, a := 0x007 }),
      reads 0x830D303D81E00003 0x1800 (.lscvt { f0 with m := true, d := 0x2607, a := 0x2C0F, mod := 1, x := true, etype := 6 }),
      reads 0x0300001810E00001 0x1406 (.cvt { f0 with d := 0x003, a := 0x087, x := true, etype := 5, smod := 6 })] : List Bool).all id = true := by decide +kernel

/-- `ldf v0.1, x64.16, 0`, `ewrite x64.5, 0 ^` (chapters 17 and 19), and an `ldl` by R36. -/
theorem test_decodeMemory :
    ([reads 0x0504000000120780 0 (.ldf { f0 with b := 0x240F }),
      reads 0x848E000480800000 0 (.ewrite { f0 with m := true, a := 0x2404 }),
      reads 0x048000380010878C 0 (.ldl { f0 with d := 0x007, b := 0x210F, mod := 6 })] : List Bool).all id = true := by decide +kernel

/-- `p2? am x0.16, x48.16, x192.16 ^`, `push x0.16, x192.16, x48.16`, `mbsend x16.16, x208.16, x32.16, 1 ^`, `pop x0.16, x176.16 ^`
(chapter 18). -/
theorem test_decodeMessages :
    ([reads 0xA740000401F18781 0xB03C000000000000 (.am { f0 with m := true, psel := 2, a := 0x200F, b := 0x230F, c := 0x2C0F, x := true }),
      reads 0x0747007D81F18780 0 (.push { f0 with d := 0x200F, a := 0x2C0F, b := 0x230F }),
      reads 0x874D087DA1F10781 0x40000 (.mbsend { f0 with m := true, d := 0x210F, a := 0x2D0F, b := 0x220F, x := true, imm := 1 }),
      reads 0x8749007D61E00000 0 (.pop { f0 with m := true, d := 0x200F, a := 0x2B0F })] : List Bool).all id = true := by decide +kernel

/-- `redr.f32 x192.8, x192.8, x80.16 ^`, `redfix.all x192.16, x32.16 ^` (chapter 19); a `mov` and a `cpy` by R36 and R37. -/
theorem test_decodeOthers :
    ([reads 0x87A7603D80F28781 0x1800 (.redr { f0 with m := true, d := 0x2C07, a := 0x2C07, b := 0x250F, x := true, etype := 6 }),
      reads 0x87A9607C41E00002 0 (.redfix { f0 with m := true, d := 0x2C0F, a := 0x220F, mod := 1 }),
      reads 0x0002003C00E00000 0 (.mov { f0 with d := 0x007, a := 0x2007 }),
      reads 0x0641000421F10781 0x8C3C000000000000 (.cpy { f0 with d := 0x2000, a := 0x210F, b := 0x220F, c := 0x230F, x := true })] : List Bool).all id = true := by decide +kernel

/-- The words that the spec gives encode the instruction that they stand for. -/
theorem test_encodeWorked :
    ([decide (encode (.mma { f0 with d := 2, a := 0x240F, b := 0x250F, c := 0x260F, imm := 256, mod := 1, x := true }) = some [0x0400001481F28783, 0x983C000004000000]),
      decide (encode (.nop f0) = some [0x00CA000000000000])] : List Bool).all id = true := by decide +kernel

/-! ## Witnesses: slices, control, integers, floats -/

theorem witness_SliceInstructionsWriteD :
    ([witA formMov { fV with b := 0, c := 0, x := false }, witA formMovi { f0 with d := 7, x := true, imm := 5 },
      witA formMovhi { f0 with d := 15, x := true, imm := 5 }, witA formExt { f0 with d := 7, a := 0x87 },
      witA formExt { f0 with d := 7, a := 0x87, b := 32, mod := 1 }, witA formPack { f0 with d := 15, a := 0x87, b := 0x107 },
      witA formField { f0 with d := 7, a := 0x87, b := 0x107 }, witA formIns { f0 with d := 7, a := 0x87, b := 63, mod := 1 },
      witA formBcast { f0 with d := 15, a := 0x83 }, witA formLane { f0 with d := 7, a := 0x87, b := 31, mod := 1 },
      witA formShfl { f0 with d := 7, a := 0x87, b := 0x107 }, witA formShfli { f0 with d := 7, a := 0x87, x := true, imm := 0xFFFFFF },
      -- `ins` and `bcast`, bit by bit
      decide (0 < 8 ∧ 0x5A < 2 ^ 8 ∧ 15 < 8 * 2)] : List Bool).all id = true := by decide +kernel

theorem witness_WindowInstructions :
    let f : Fields := { f0 with d := 0x200F, a := 0x210F }
    let w (s : State) (p : Env → Nat → Bool) : Bool := wit formSwin false true f s fun e => on e && e.t.allLanded && p e e.a0
    ([witA formDead { f0 with a := 7, b := 0x87, c := 0x107, x := true, mod := 2 },
      w (st [0, 100]) fun _ n => n % 64 != 0,
      w (st [0, 64]) fun e n => n % 64 == 0 && decide (64 ≤ n ∧ n ≤ 512) && decide (n / 64 ≤ e.t.units.length),
      w (stT [0, 128] fun t => { t with units := [0], swinv := 64 }) fun e n =>
        n % 64 == 0 && decide (64 ≤ n ∧ n ≤ 512) && decide (e.t.units.length < n / 64) &&
          decide (n / 64 - e.t.units.length ≤ (freeUnits (e.s.core e.eid)).length),
      w (stC [0, 512] fun c => { c with threads := (List.range 9).flatMap fun i => c.threads.map fun (_, t) =>
          (i, { t with units := if i = 0 then [0] else (List.range 7).map (7 * i - 6 + ·) }) })
        fun e n => n % 64 == 0 && decide (64 ≤ n ∧ n ≤ 512) && decide (e.t.units.length < n / 64) &&
          decide ((freeUnits (e.s.core e.eid)).length < n / 64 - e.t.units.length),
      witA formSclr { f0 with d := 7 },
      wit formSclr true true { f0 with mod := 3 } (st []) fun e => e.t.allLanded] : List Bool).all id = true := by decide +kernel

theorem witness_TransfersGoToTheirTarget :
    let inCode (t : Int) : Bool := decide (0 ≤ t) && decide (t ≤ 0x7FFF8) && t % 8 == 0
    let off (e : Env) : Int := (e.pc : Int) + (if e.f.md = 0 then 8 * simm14 e.f.b else e.f.imm.toInt)
    let left (e : Env) : Nat := pat (4 * e.od.w) ((e.d 0 : Int) - 1)
    let w (form : Fields → Option Form) (f : Fields) (r : List Nat) (p : Env → Bool) : Bool :=
      wit form true true f (stT r fun t => { t with preds := [1, 0xFFFFFFFF, 0, 0, 0, 0, 0] }) p
    ([w formBr { f0 with b := 2 } [] fun e => on e && inCode (off e),
      w formBr { f0 with b := 0x3C00 } [] fun e => on e && !inCode (off e),
      w formBra { f0 with a := 0x210F } [0, 0x7FFF8] fun e => on e && inCode e.a0,
      w formBra { f0 with a := 0x210F } [0, 0x80000] fun e => on e && !inCode e.a0,
      w formCall { f0 with d := 0x200F, x := true, imm := 16, mod := 1 } [] fun e => on e && inCode (off e),
      w formCall { f0 with d := 0x200F, x := true, imm := 0x100000, mod := 1 } [] fun e => on e && !inCode (off e),
      w formCalla { f0 with d := 0x200F, a := 0x210F } [0, 8] fun e => on e && inCode e.a0,
      w formCalla { f0 with d := 0x200F, a := 0x210F } [0, 4] fun e => on e && !inCode e.a0,
      w formLoop { f0 with d := 0x200F, b := 0x3FFF } [0] fun e => on e && left e != 0 && inCode (off e),
      w formLoop { f0 with d := 0x200F, b := 0x2000 } [5] fun e => on e && left e != 0 && !inCode (off e),
      w formLoop { f0 with d := 0x200F, b := 0x3FFF } [1] fun e => on e && left e == 0,
      w formBanyall { f0 with a := 1, b := 1 } [] fun e => predA e != 0 && predA e != 0xFFFFFFFF && inCode (off e),
      w formBanyall { f0 with a := 1, b := 0x3000 } [] fun e => predA e != 0 && !inCode (off e),
      w formBanyall { f0 with a := 2, b := 1 } [] fun e => predA e == 0xFFFFFFFF && inCode (off e),
      w formBanyall { f0 with a := 2, b := 0x3000 } [] fun e => predA e == 0xFFFFFFFF && !inCode (off e),
      w formBanyall { f0 with a := 3, b := 1 } [] fun e => predA e == 0] : List Bool).all id = true := by decide +kernel

theorem witness_PredicateInstructions :
    ([witA formPlog { f0 with d := 1, a := 2, b := 3 }, witA formPnot { f0 with d := 1, a := 7 }, witA formPmov { f0 with d := 7, a := 1 },
      witA formPmov { f0 with d := 1, a := 0x210F, mod := 1 }, witA formPmov { f0 with d := 0x200F, a := 1, mod := 2 },
      witA formPmov { f0 with d := 1, mod := 3 }, witA formPmov { f0 with d := 1, mod := 4 },
      witA formPcnt { f0 with d := 0x200F, a := 1 }] : List Bool).all id = true := by decide +kernel

theorem witness_SpecialRegisterInstructions :
    let w (form : Fields → Option Form) (f : Fields) : Bool := wit form true true f (st [0, 12]) on
    ([witA formRdsr { f0 with d := 0x200F, b := 14 }, witA formRdsr { f0 with d := 3, b := 15 },
      w formWrsr { f0 with a := 0x210F, b := 7 }, w formWrsr { f0 with a := 0x210F, b := 8 }, w formWrsr { f0 with a := 0x210F, b := 12 },
      witA formWrsr { f0 with a := 3, b := 15 }, w formTick { f0 with d := 0x200F }] : List Bool).all id = true := by decide +kernel

theorem witness_ThreadInstructions :
    let calm (e : Env) : Bool := on e && e.t.allLanded && e.t.deferred.isEmpty && e.t.joins.isEmpty
    let badScal (e : Env) : Bool := e.t.ecc.any fun k => decide (512 ≤ k) && decide (k < 576)
    ([witA formPlain f0, wit formPlain false true f0 (st []) fun e => on e && !e.t.drainReq,
      wit formPlain false true f0 ((stT [] fun t => { t with drainReq := true }).modCore 0 fun c => { c with bindings := [bindIn] })
        fun e => on e && e.t.drainReq && hasInPort e,
      wit formPlain false true f0 (stT [] fun t => { t with drainReq := true }) fun e => calm e && e.t.drainReq && !hasInPort e,
      wit formPlain false true f0 (st []) fun e => calm e && (exitFault e).isNone,
      wit formPlain false true f0 (stC [] fun c => { c with accs := c.accs.map fun a => { a with fault := some (5, 0) } })
        fun e => calm e && (exitFault e).isSome,
      wit formIsync true true { f0 with a := 0x210F, b := 0x220F } (st [0, 0x7F000, 0x1000]) fun e =>
        on e && decide (e.a0 + e.b0 ≤ 0x80000),
      wit formIsync true true { f0 with mod := 1 } (st []) on,
      wit formSpawn true false { f0 with d := 0x200F, a := 0x210F, b := 0x220F } (st [0, 9, 0x7FFF8]) fun e =>
        on e && !badScal e && e.t.joins.isEmpty && decide (e.a0 < 2 ^ 22) && decide (e.b0 ≤ 0x7FFF8) && e.b0 % 8 == 0 &&
          (sendRelease e e.s false (scopeTo e.eid e.a0)).toBool,
      wit formSpawn true false { f0 with d := 0x200F, a := 0x210F, b := 0x220F } (stT [0, 9, 0x7FFF8] fun t => { t with ecc := [575] }) fun e =>
        on e && badScal e] : List Bool).all id = true := by decide +kernel

theorem witness_WaitsBeginAndEnd :
    let wt (s : State) (w : Waiting) : Bool :=
      let s := { s.modThr 0 0 fun t => { t with status := .waiting w } with who := [0, 0] }
      !(s.core 0).frozen && awake s 0 && (s.thr? 0 0).any fun t => decide (t.status = .waiting w)
    let w (x : WaitFor) (h : Nat) : Waiting := { what := x, f := { f0 with d := 0x200F }, issued := 0, hit := h }
    let good (e : Env) : Bool := on e && e.t.allLanded && bits e.a0 63 5 == 0 && (e.a0 != 0 || e.f.imm.toNat != 0) &&
      (!bit e.a0 4 || (decide (e.b0 ≤ 0x7FFF8) && e.b0 % 8 == 0 && (emptyGran e.s0 [lmKey e.eid e.b0]).isNone))
    let hit (e : Env) : Nat :=
      waitHit e.s0 e.eid e.t (e.s0.cycle e.eid) e.a0 (if bit e.a0 4 then e.b0 else 0) e.c0 e.f.imm.toNat
    let mb (s : State) : State := s.modCore 0 fun c => { c with mboxes := [[5], [], [], []] }
    let late (s : State) : State := s.modDie 0 fun d => { d with cycles := 100 }
    let hitW (s : State) (m l : Nat) : Nat := match s.thr? 0 0 with | some t => waitHit s 0 t 0 m 0 0 l | none => 0
    ([wit formWait false false { fS with imm := 7 } (st [0, 0x1F, 0x7FFF8, 0]) fun e => good e && hit e == 0,
      wit formWait false false { fS with imm := 7 } (mb (st [0, 0x1F, 0x7FFF8, 0])) fun e => good e && hit e != 0,
      wit formWait false false { fS with imm := 7 } (st [0, 0, 0x7FFF9, 0]) good,
      wit formSleep false false { f0 with a := 0x210F, mod := 1 } (st [0, 10]) fun e => on e && e.t.allLanded,
      wit formTickAt false true { f0 with d := 0x200F, a := 0x210F, mod := 1 } (st [0, 10]) on,
      -- a mailbox entry, an event that held before, and the limit
      wt (mb (st [])) (w (.event 1 0 0 0) 0), hitW (mb (st [])) 1 0 != 0, wt (st []) (w (.event 1 0 0 0) 1),
      wt (late (st [])) (w (.event 1 0 0 50) 0), bit (hitW (late (st [])) 1 50) 15,
      wt (st []) (w (.sleep 0) 0) && decide (0 ≤ (st []).cycle 0), wt (st []) (w (.tick 0) 0) && decide (0 ≤ (st []).tickOf 0),
      -- a draining thread
      (stT [] fun t => { t with drainReq := true }).thr? 0 0 |>.any (·.drainReq)] : List Bool).all id = true := by decide +kernel

theorem witness_ThreadEvents :
    let t16 (c : Core) : Core := { c with threads := c.threads.map fun (_, t) => (16, { t with issued := 4096 }) }
    let fetch (s : State) (pc : Nat) (p : Bool → Bool) : Bool :=
      let s := { s.modThr 0 0 fun t => { t with fetch := [], status := .fetching, pc := BitVec.ofNat 20 pc } with who := [0, 0] }
      let ks := (List.range 32).map (lmKey 0 (pc / 32 * 32) + ·)
      (s.thr? 0 0).any (fun t => t.wantsBlock == some (pc / 32 * 32) && t.needsBlock (pc / 32 * 32) && t.status == .fetching) && !(s.core 0).frozen &&
        (emptyGran s ks).isNone && p ((s.core 0).lmOk (pc / 32 * 32) 32)
    let nap (u : Nat) : Core → Core := fun c =>
      { c with threads := c.threads.map fun (i, t) =>
          (i, { t with status := .waiting { what := .sleep u, f := f0, issued := 0, depth := 2 } }) }
    let deep (g : Core → Core) : State := stC [] fun c => g { c with depth := 2 }
    let spawned (n : Nat) : State :=
      withPkt ((st []).setCore 1 { codeCore [] with threads := [], unitsAt := (0, n) }) { pkt0 with dst := 1, body := .spawn 0x2000 64 0 0 [] }
    ([mayLand (stT [] fun t => { t with pend := [{ id := 1, target := .vec 0 8 }] }) 0 0 1,
      fetch (st []) 0x1000 id, fetch (stC [] fun c => { c with gran := [] }) 0x2000 (!·),
      -- a block that is read ahead
      (let s := stT [] fun t => { t with fetch := t.fetch.take 1, pc := BitVec.ofNat 20 0x1000 }
       !(s.core 0).frozen && (s.thr? 0 0).any fun t => t.wantsBlock == some 0x1020 && !t.needsBlock 0x1020),
      !((stC [] fun c => { c with gran := [] }).core 0).lmOk 0x1020 32,
      sleepsTo (stC [] (nap 9)) 0 == some 2,
      ((deep id).core 0).depth != 0 && ((deep id).core 0).woke == none && wakeEvent (deep id) 0 == some 0,
      (((deep fun c => { nap 9 c with woke := some 7 }).core 0).woke == some 7),
      ((stC [] t16).thr? 0 16).any fun t => decide (4096 ≤ t.issued) && t.status == .ready,
      (let s := spawned 0
       (readyPkt? s).isSome && s.hasCore 1 && (s.core 1).ctx == some 1 && unitsTurn s 1 (rankSpawn 0) && freeSlot (s.core 1) == some 0 &&
         decide (64 / 64 ≤ (freeUnits (s.core 1)).length)),
      -- the boundary of a core's turn
      unitsTurn (spawned (rankSpawn 0)) 1 (rankSpawn 0), !unitsTurn (spawned (rankSpawn 0 + 1)) 1 (rankSpawn 0)] : List Bool).all id = true := by decide +kernel

/-! ## Witnesses: integers, floats, conversions -/

theorem witness_IntegerArithmeticAndLogic :
    let f : Fields := { f0 with d := 7, a := 0x87, b := 0x107 }
    let u : Fields := { f0 with d := 7, a := 0x87 }
    ([witA formArith f, witA formArith { f with mod := 3, etype := 15, x := true, sat := true }, witA formMulh { f with mod := 4, b := 0x3FFF },
      witA formMad { f with c := 0x187, x := true }, witA formUnary u, witA formLogic f, witA formBitUn { u with mod := 1, x := true, etype := 17 }] : List Bool).all id = true := by decide +kernel

theorem witness_ShiftsOfIntegers : ([witA formLogic { fV with c := 0 }] : List Bool).all id = true := by decide +kernel

theorem witness_CarrySelectionAndPointers :
    ([witA formCarry { fV with c := 1 }, witA formSel { fV with c := 7 }, witA formCmp { fV with d := 1, c := 0, mod := 40 },
      witA formPmk { f0 with d := 15, a := 0x20F, x := true, imm := 255 },
      witA formPfmt { f0 with d := 15, a := 0x20F, mod := 24 }] : List Bool).all id = true := by decide +kernel

theorem witness_DivisionSumsAndPointers :
    let f : Fields := { f0 with d := 0x200F, a := 0x210F, b := 0x220F }
    let w (form : Fields → Option Form) (f : Fields) (r : List Nat) (p : Env → Bool) : Bool := wit form true true f (st r) p
    ([witA formDiv { fV with c := 0 }, witA formLogic { fV with c := 0 }, witA formIred { f0 with d := 0x2007, a := 7, mod := 40 },
      witA formIscan { f0 with d := 7, a := 0x87, x := true, smod := 1 }, witA formSad { fV with mod := 2, etype := 1 },
      witA (formDp · [1, 2]) { fV with etype := 1, mod := 8 }, witA (formDp · [15, 16]) { fV with etype := 16 },
      w formPadd f [0, 2 ^ 59 + 2 ^ 56 - 9, 8] fun e => e.dlanes.all fun l => !paddBad e l && (paddOff e l).isSome,
      w formPadd f [0, 2 ^ 59 + 2 ^ 56 - 9, 9] fun e => e.dlanes.find? (paddBad e) == some 0,
      w formPadd { f with mod := 8 } [0, 15 * 2 ^ 59 + 64, 3] fun e =>
        (e.dlanes.find? (paddBad e)).isNone && (e.dlanes.find? fun k => (paddOff e k).isNone) == some 0] : List Bool).all id = true := by decide +kernel

theorem witness_FloatArithmetic :
    let f : Fields := { fV with c := 0, x := false }
    let u : Fields := { f with b := 0 }
    ([witA formFarith f, witA formFarith { f with x := true, etype := 5, rnd := 5, sat := true, mod := 1 }, witA formFma fV,
      witA formFminmax f, witA formFsign u, witA formFclass u, witA formFrint u, witA formFn u,
      witA formFn { u with d := 15, a := 0x20F, x := true, etype := 7 }] : List Bool).all id = true := by decide +kernel

theorem witness_FloatComparisonsAndTrees :
    let f : Fields := { fV with c := 0 }
    ([wit formFcmp true true { f with d := 1 } (st []) fun e => !slowType e (floatType e.f),
      wit formFcmp true true { f with d := 1, a := 0x20F, b := 0x30F, etype := 7 } (st []) fun e => slowType e (floatType e.f),
      witA formFscale f, witA formFscale { f with mod := 4, b := 0x2000 }, witA formFdot2 fV,
      witA formFsplit { f0 with d := 0x0B, a := 0x87 },
      wit formFred true true { f0 with d := 0x2007, a := 7 } (st []) fun e => !e.dlanes.isEmpty,
      wit formFred true true { f0 with d := 0x2007, a := 7, psel := 1 } (st []) fun e => e.dlanes.isEmpty] : List Bool).all id = true := by decide +kernel

theorem witness_Conversions :
    let q : Fields := { f0 with d := 15, a := 0x20F }
    let bad (r : Nat) : State := stT [] fun t => { t with vec := t.vec.map fun _ => BitVec.ofNat 2048 (r * 2 ^ (4 * 32 + 252)) }
    ([witA formCvt { f0 with d := 7, a := 0x87, x := true, etype := 6, smod := 8 }, Ty.ofCode 6 != none && Ty.ofCode 8 != none,
      witA formCvt { f0 with d := 3, a := 0x87, x := true, etype := 10, smod := 5, mod := 1, b := 0 },
      witA formBxq { f0 with d := 7, a := 0x87, x := true, etype := 12, mod := 1 },
      witA formBxd { q with a := 0x207, x := true, etype := 14, mod := 3 }, Bx.ofCode 14 != none,
      witA formLsmk q, witA formLsadd { q with b := 0x40F },
      wit formLscvt true true { f0 with d := 7, a := 0x20F, mod := 1 } (bad 0) fun e =>
        e.dlanes.all fun l => bits (e.rd 1 (Env.wide e.oa 4) l) 255 244 == 0,
      wit formLscvt true true { f0 with d := 7, a := 0x20F, mod := 1 } (bad 8) fun e =>
        (e.dlanes.find? fun k => e.f.md == 1 && bits (e.rd 1 (Env.wide e.oa 4) k) 255 244 != 0) == some 0] : List Bool).all id = true := by decide +kernel

/-! ## Witnesses: memory, ordering, barriers -/

theorem witness_LocalLoadsAndStores :
    let w (form : Fields → Option Form) (f : Fields) (r : List Nat) (chk : Env → Bool) : Bool := wit form true true f (st r) chk
    let f : Fields := { f0 with d := 0x0007, b := 0x220F, mod := 3 }
    let g : Fields := { f0 with a := 0x0007, b := 0x220F, mod := 3 }
    let e : Env := env formLdl f (st [])
    let c (g : Core → Core) : Env := env formLdl f (stC [] g)
    let perm (e : Env) (off n : Nat) : Bool := e.c.lmOk off n && !e.s0.inHeader e.eid off n
    ([w formLdl f [0, 0, 0x100] fun e => (lmChecks e (lsMode f != 2) false (lsMode f == 1) (e.wants (lsMode f) (lsSize f) e.b)).toBool,
      w formSfill { f with mod := 0 } [0, 0, 0x100] fun e => (lmChecks e e.od.isVec false false (e.wants 0 8 e.b)).toBool,
      w formStl g [0, 0, 0x100] fun e => e.t.joins.isEmpty && !(e.wants (lsMode g) (lsSize g) e.b).isEmpty &&
        (lmChecks e (lsMode g != 2) true (lsMode g == 1) (e.wants (lsMode g) (lsSize g) e.b)).toBool,
      w formSspill { g with a := 0x200F, mod := 0 } [0, 0, 0x100] fun e => e.t.joins.isEmpty && !(e.wants 2 8 e.b).isEmpty &&
        (lmChecks e e.oa.isVec true false (e.wants 2 8 e.b)).toBool,
      -- the clauses of one lane: -1, past the end, an unallotted granule, misaligned, locked, free
      decide ((-1 : Int) < 0), decide (0x80000 < 0x7FFF9 + 8),
      decide (0x7FFF8 + 8 ≤ 0x80000) && !perm e 0x7FFF8 8, perm e 0x7EFFC 4 && decide (0x7EFFC % 8 ≠ 0),
      (let e := c fun c => { c with rlocks := [{ owner := 9, lm := true, lo := 0x107, hi := 0x107 }] }
       perm e 0x100 8 && locked e.c true 0x100 8),
      perm e 0x7EFF8 8 && !locked e.c true 0x7EFF8 8,
      (let e := env formLdl f (stE [] edge1 id)
       e.c.lmOk 0x403F 1 && e.s0.inHeader e.eid 0x403F 1)] : List Bool).all id = true := by decide +kernel

theorem witness_StashAndWritePointer :
    let good (e : Env) : Bool := on e && e.a0 % 4096 == 0 && e.b0 % 4096 == 0 && decide (1 ≤ e.c0) && decide (e.c0 ≤ 127)
    let x : Stash := { lo := 0x7E000, va := 0, grs := [{ filled := true, dirty := 0 }] }
    let d : Stash := { x with grs := [{ filled := true, dirty := 1 }] }
    let at_ (e : Env) : Option Nat := firstIdx e.c.stash.length fun i => (e.c.stash[i]?).any fun w => w.lo == e.a0
    let u : Fields := { f0 with d := 0x200F, a := 0x210F }
    let bound (r : List Nat) (h : Thread → Thread) : State :=
      (stT r h).modCore 0 fun c => { c with bindings := [{ bindIn with ins := [] }] }
    let ch (e : Env) : Bool := decide (e.a0 < 16) && holdsChan e e.a0 && (tileChan e e.a0).fault.isNone && readsBound e.t
    ([wit formStash true false fS (stC [0, 0x1000, 0, 1] fun c => { c with stash := List.replicate 8 x }) fun e =>
        good e && decide (8 ≤ e.c.stash.length),
      wit formStash true false fS (stC [0, 0x7E000, 0, 1] fun c => { c with stash := [x] }) fun e =>
        good e && decide (e.c.stash.length < 8) && !stashable e.c (e.a0 / 4096) e.c0,
      wit formStash true false fS (st [0, 0, 0, 127]) fun e => good e && decide (e.c.stash.length < 8) && stashable e.c (e.a0 / 4096) e.c0 && (List.range e.c0).all fun i => !granInUse e.s0 e.eid (e.a0 / 4096 + i),
      wit formUnstash true false u (st [0, 0x7E000]) fun e => on e && (at_ e).isNone,
      wit formUnstash true false u (stC [0, 0x7E000] fun c => { c with stash := [x] }) fun e =>
        on e && at_ e == some 0 && stashSettled e && x.grs.all (fun g => g.dirty == 0) && wbPending e.s0 e.eid == [],
      wit formUnstash true false { u with mod := 1 } (stC [0, 0x7E000] fun c => { c with stash := [d] }) fun e => on e && at_ e == some 0,
      wit formWptr true false u (bound [0, 1] id) fun e => on e && ch e,
      wit formWptr false false { u with b := 0x220F, mod := 1 } (bound [0, 1, 0] id) fun e =>
        on e && ch e && decide (e.b0 ≤ (tileChan e e.a0).bytes),
      wit formWptr false false { u with b := 0x220F, mod := 1 } (bound [0, 1, 5] fun t => { t with phase := some (.begun 7) }) fun e =>
        on e && ch e && decide ((tileChan e e.a0).bytes < e.b0) && decide (e.t.phase = some (.begun 7)) &&
          decide ((tileChan e e.a0).seq.toNat ≠ 7),
      wit formWptr true false u (st [0, 16]) fun e => on e && decide (16 ≤ e.a0),
      wit formWptr true false u (st [0, 15]) fun e => on e && decide (e.a0 < 16) && !holdsChan e e.a0] : List Bool).all id = true := by decide +kernel

theorem witness_EdgeInstructions :
    let q (i : EdgeItem) : Edge := { edge1 with queue := [i], held := some 1 }
    let rd (g : Edge) : Bool := wit formEread false false { f0 with d := 0x200F } (stE [] g id) fun e =>
      on e && gives (inPort e 0) g && readsBound e.t && !g.queue.isEmpty
    let wr (f : Fields) (r : List Nat) : Bool := wit formEwrite false false f (stE r edge1 id) fun e =>
      on e && gives (outPort e 0) edge1 && (tokenBytes e edge1).toBool && e.t.joins.isEmpty && e.t.phase.isNone && edge1.placed &&
        (sendRelease e e.s0 (bit e.f.md 1) (scopeTo e.eid edge1.core)).toBool
    let off : Edge := { edge1 with placed := false }
    ([wit formEwrite false false { f0 with a := 0x210F } (stE [0, 0x5000] off id) fun e =>
        on e && gives (outPort e 0) off && (tokenBytes e off).toBool && e.t.joins.isEmpty && e.t.phase.isNone && !off.placed &&
          (sendRelease e e.s0 (bit e.f.md 1) (max 2 (scopeTo e.eid (State.hDie off.cons * 1024)))).toBool,
      wr { f0 with a := 0x210F } [0, 0x5000], wr { f0 with a := 0x0003, mod := 1 } [],
      wit formEwrite false false { f0 with a := 0x210F } (stE [0, 0x5000] edge1 fun t => { t with phase := some (.edge true) }) fun e =>
        on e && decide (e.t.phase = some (.edge true)),
      rd (q (.data 0)), rd (q .eos), rd (q .drain),
      wit formEreadRel false false { f0 with mod := 1 } (stE [] edge1 id) fun e => on e && gives (inPort e 0) edge1,
      wit formEos false false f0 (stE [] edge1 id) fun e =>
        on e && gives (outPort e 0) edge1 && e.t.joins.isEmpty && !steering e.c e.t.task 0 && !edge1.full &&
          (sendRelease e e.s (bit e.f.md 1) (scopeTo e.eid edge1.core)).toBool,
      wit formEwrite false false { f0 with a := 0x210F, b := 7 } (stE [] edge1 id) fun e =>
        on e && e.t.phase.isNone && outPort? e.s0 e.eid e.t.task.toNat 7 == none,
      wit formEos false false { f0 with b := 1 } (stE [] edge1 id) fun e =>
        on e && outPort? e.s0 e.eid e.t.task.toNat 1 == none] : List Bool).all id = true := by decide +kernel

theorem witness_GlobalLoadsAndStores :
    let w (form : Fields → Option Form) (f : Fields) (r : List Nat) (chk : Env → Bool) : Bool := wit form true false f (st r) chk
    let at_ (e : Env) : List Want := e.wants (lsMode e.f) (lsSize e.f) fun l => e.b l % 2 ^ 56
    let ix (e : Env) : List Want := e.lanes.map fun l =>
      { lane := l, va := (e.b 0 % 2 ^ 56 : Nat) + srcInt true 32 e.oc.w (e.c_ l) * lsSize e.f, n := lsSize e.f }
    let ptr (fmt a : Nat) : Nat := fmt * 2 ^ 59 + a
    let hit (e : Env) (g : Got) : Bool := (hitsNow e.s0 e.eid e.slot (g.cache && !bit e.f.md 4) g.keys).isSome
    ([w formLd { f0 with d := 7, b := 0x220F, mod := 2 } [0, 0, 0x10FF] fun e => (checkGlobal e (lsMode e.f != 2) false (at_ e) (hit := hit e)).toBool,
      w formGather { f0 with d := 7, b := 0x220F, c := 0x0107, x := true, mod := 2 } [0, 0, 0xFFFFFF] fun e =>
        (checkGlobal e true false (ix e) (hit := hit e)).toBool,
      w formSt { f0 with a := 7, b := 0x220F, mod := 2 } [0, 0, 0x1000] fun e =>
        e.t.joins.isEmpty && !(at_ e).isEmpty && (checkGlobal e (lsMode e.f != 2) true (at_ e)).toBool,
      w formScatter { f0 with a := 7, b := 0x220F, c := 0x0107, x := true, mod := 2 } [0, 0, 0x1000] fun e =>
        e.t.joins.isEmpty && !(ix e).isEmpty && (checkGlobal e true true (ix e)).toBool,
      w formLdf { f0 with d := 7, b := 0x220F, x := true, etype := 6 } [0, 0, ptr 5 0x1000] fun e =>
        !(ldfLanes e).isEmpty && (ldfOk e (FatPtr.of (e.b 0))).toBool &&
          (do let es ← elemsOk e (elemsOf e.f (FatPtr.of (e.b 0)) (ldfLanes e))
              checkPlaces e e.od.isVec false 16 (ldfWants e.f (FatPtr.of (e.b 0)).fmt es) (hit e)).toBool,
      w formStf { f0 with a := 7, b := 0x220F, x := true, etype := 6 } [0, 0, ptr 5 0x1000] fun e =>
        !e.lanes.isEmpty && e.t.joins.isEmpty && (Bx.ofCode (FatPtr.of (e.b 0)).fmt).isNone && (stfOk e (FatPtr.of (e.b 0))).toBool &&
          (checkPlaces e true true 1 ((stfPlain e (FatPtr.of (e.b 0))).1.map fun x =>
            { lane := x.lane, va := x.at_, n := x.bytes.length })).toBool] : List Bool).all id = true := by decide +kernel

theorem witness_AtomicsAndCacheInstructions :
    let w (form : Fields → Option Form) (f : Fields) (s : State) (chk : Env → Bool) : Bool := wit form true false f s chk
    let n (e : Env) : Nat := codeBits e.f.etype.toNat / 8
    -- `prf`
    let line (e : Env) : Nat := ((e.b 0 % 2 ^ 56 : Nat) + e.imm).toNat / 64 * 64
    let found (e : Env) : Xl := lookup e.s0 e.dev e.asid (line e) (e.c.tlb ++ (e.s0.tile (eidTile e.eid)).tlb) true false
    let lines (e : Env) : Nat := (e.a 0 % 2 ^ 56 + e.b 0 + 63) / 64 - e.a 0 % 2 ^ 56 / 64
    -- `amo` and `cas`
    let lanes (e : Env) : List Nat := if bit e.f.md 5 then e.lanes else [0]
    let amo (e : Env) : Bool := (if bit e.f.md 5 then !e.lanes.isEmpty else on e) && e.t.joins.isEmpty && e.t.phase.isNone &&
      (lanes e).all (fun l => e.a l % 2 ^ 56 % n e == 0) &&
      (checkGlobal e (bit e.f.md 5) true ((lanes e).map fun l => { lane := l, va := (e.a l % 2 ^ 56 : Nat), n := n e })
        (each := fun g => hostAtomicOk e (bit e.f.md 5) ((e.f.md % 8 == 0 || e.f.md % 8 == 6) && (n e == 4 || n e == 8)) g
          (ual := e.f.md % 8 != 7 && (n e == 4 || n e == 8)))).toBool
    let cas (e : Env) : Bool :=
      let m := if bit e.f.md 0 then 16 else n e
      on e && e.t.joins.isEmpty && e.t.phase.isNone && e.a0 % 2 ^ 56 % m == 0 &&
      (checkGlobal e false true [{ lane := 0, va := (e.a0 % 2 ^ 56 : Nat), n := m }] (each := hostAtomicOk e false (m == 4 || m == 8))).toBool
    let live (e : Env) : Bool := !bit e.f.md 3 && (e.atomicRelease e.s).toBool
    let held (e : Env) : Bool := bit e.f.md 3 && (e.atomicRelease e.s0).toBool
    let begun (r : List Nat) : State := stT r fun t => { t with phase := some (.begun 4) }
    let ph (e : Env) : Bool := on e && decide (e.t.phase = some (.begun 4)) && readsBound e.t
    let a : Fields := { fS with c := 0, etype := 8 }
    let c : Fields := { fS with etype := 19 }
    let sta (e : Env) : Bool := e.t.joins.isEmpty && !(e.wants (lsMode e.f) (lsSize e.f) fun l => e.b l % 2 ^ 56).isEmpty
    ([w formPrf { f0 with b := 0x220F } (st [0, 0, 0x1000]) fun e =>
        on e && e.f.md == 0 && (match found e with | .ok _ c => c | _ => false) && decide (regsUsed e.s0 e.eid < 192),
      w formPrf { f0 with b := 0x220F, mod := 1 } (st []) fun e => e.f.md != 0,
      w formPrf { f0 with b := 0x220F } (st [0, 0, 2 ^ 45]) fun e => (match found e with | .ok _ c => !c | _ => true),
      w formInv { f0 with mod := 1 } (st []) on, w formInv { f0 with a := 0x210F, b := 0x220F } (st [0, 0, 2 ^ 40]) fun e =>
        on e && decide (6144 < lines e),
      w formInv { f0 with a := 0x210F, b := 0x220F } (st []) fun e => on e && e.f.md != 1 && e.b 0 == 0,
      w formInv { f0 with a := 0x210F, b := 0x220F } (st [0, 63, 2]) fun e => on e && e.f.md != 1 && lines e == 2 && e.b 0 != 0,
      w formTlbinv { f0 with d := 0x200F, a := 0x210F } (st [0, 0x1000]) on,
      w formAmo a (st [0, 0x1004, 3]) fun e => amo e && live e,
      w formAmo { a with d := 7, a := 0x0F, b := 0x107, mod := 34 } (st []) fun e => amo e && live e,
      w formAmo { a with mod := 8, smod := 8 } (st [0, 0x1004, 3]) fun e => amo e && held e,
      w formAmo { a with mod := 8, smod := 8 } (begun [0, 0x1004, 3]) ph,
      w formCas c (st [0, 0x1008, 3, 4]) fun e => cas e && live e,
      w formCas { c with etype := 0, mod := 1 } (st [0, 0x1010, 3, 4]) fun e => cas e && live e,
      w formCas { c with mod := 8, smod := 8 } (st [0, 0x1008]) fun e => cas e && held e,
      w formCas { c with mod := 8, smod := 8 } (begun [0, 0x1008]) ph,
      w formSta { fS with d := 0, mod := 10, imm := 8 } (st [0, 5, 0x1000, 0x7EFF0]) fun e => on e && sta e &&
        decide (e.c0 ≤ 0x7FFF0) && e.c0 % 16 == 0 &&
        (checkGlobal e (lsMode e.f != 2) true (e.wants (lsMode e.f) (lsSize e.f) fun l => e.b l % 2 ^ 56) (barrierPermOk e e.c0)).toBool && (emptyGran e.s0 [lmKey e.eid e.c0]).isNone &&
        (sendRelease e e.s (bit e.f.md 4) 0).toBool,
      w formSta { fS with d := 0, a := 0x0007, mod := 2, imm := 8, psel := 1 } (stT [0, 0, 0x1000, 0x7EFF0] fun t =>
          { t with preds := [2, 0, 0, 0, 0, 0, 0] }) fun e => !on e && sta e &&
        (checkGlobal e (lsMode e.f != 2) true (e.wants (lsMode e.f) (lsSize e.f) fun l => e.b l % 2 ^ 56)).toBool] : List Bool).all id = true := by decide +kernel

theorem witness_OrderingInstructions :
    let w (form : Fields → Option Form) (f : Fields) (s : State) (chk : Env → Bool) : Bool := wit form true false f s chk
    let f : Fields := { f0 with b := 15, mod := 3 }
    let join (e : Env) : Except Stop (State × List Nat) := release e e.s0 15 3
    let busy : State := { st [] with accs := [{ (default : Access) with id := 7, op := .store 0, keys := [0], pieces := [(0, 1)] }] }
    ([w formRel { f0 with b := 15, mod := 5 } (st []) fun e => on e && (release e e.s 15 5).toBool,
      w formAcq { f0 with mod := 5 } (st []) fun e => on e && readsBound e.t,
      w formRel { f with b := 1 } (stT [] fun t => { t with phase := some (.join [7]) }) fun e =>
        on e && decide (e.t.phase = some (.join [7])) && !outstanding e.s0 3 [7] && readsBound e.t,
      w formRel f (st []) fun e => on e && e.t.phase.isNone && (match join e with | .ok (_, []) => true | _ => false) && readsBound e.t,
      w formRel f busy fun e => on e && e.t.phase.isNone && (match join e with | .ok (_, [7]) => true | _ => false),
      w formOgq { f0 with d := 0x200F, b := 15 } (st []) on] : List Bool).all id = true := by decide +kernel

theorem witness_BarrierInstructions :
    let own (e : Env) : Bool := on e && gives (ownBar e e.a0) (lmKey 0 0x7EFF0)
    let sees (e : Env) : Bool := on e && gives (ownBar e e.a0 false) (lmKey 0 0x7EFF0)
    let w (form : Fields → Option Form) (h : Bool) (f : Fields) (r : List Nat) (chk : Env → Bool) : Bool := wit form h false f (st r) chk
    let x : Fields := { f0 with a := 0x210F, b := 0x220F }
    let o : BarObj := barAt (st []) (lmKey 0 0x7EFF0)
    ([w formBinit true { fS with d := 0 } [0, 0x7EFF0, 65535, 0] fun e =>
        own e && !(e.b0 == 0 && e.c0 == 0) && decide (e.b0 ≤ 65535) && decide (e.c0 < 2 ^ 32) && e.t.joins.isEmpty,
      w formBinit true { fS with d := 0 } [0, 0x7EFF0, 65536, 1] fun e => own e && decide (65535 < e.b0),
      w formBinit true { fS with d := 0 } [0, 0x7EFF0, 0, 0] fun e => own e && e.b0 == 0 && e.c0 == 0,
      w formBarv true { f0 with d := 0x3000, a := 0x210F } [0, 0x7EFF0] fun e => on e && gives (barvKey e) (lmKey 0 0x7EFF0) &&
        e.t.joins.isEmpty && e.od.isZero && (sendRelease e e.s false (scopeTo e.eid (keyCore (lmKey 0 0x7EFF0)))).toBool,
      w formBarv true { f0 with d := 0x200F, a := 0x210F, mod := 1 } [0, 0xF0 * 2 ^ 48 + 0x7EFF0] fun e =>
        on e && gives (barvKey e) (lmKey 0 0x7EFF0) && e.t.joins.isEmpty && !e.od.isZero,
      w formBexp true x [0, 0x7EFF0, 9] fun e => own e && !bit e.f.md 0 && e.t.joins.isEmpty,
      w formBexp true { x with mod := 1 } [0, 0x7EFF0, 9] fun e => own e && bit e.f.md 0 && e.t.joins.isEmpty && (sendRelease e e.s false 0).toBool,
      w formBwait false { x with d := 0x200F } [0, 0x7EFF0, 1] fun e =>
        sees e && gives (readBar e (lmKey 0 0x7EFF0)) o && readsBound e.t && o.phase != bit e.b0 0,
      w formBwait false { x with d := 0x200F } [0, 0x7EFF0, 0] fun e =>
        sees e && gives (readBar e (lmKey 0 0x7EFF0)) o && readsBound e.t && o.phase == bit e.b0 0,
      w formBtest true { x with d := 0x200F, b := 0, mod := 1 } [0, 0x7EFF0] fun e =>
        sees e && gives (readBar e (lmKey 0 0x7EFF0)) o] : List Bool).all id = true := by decide +kernel

theorem witness_GroupBarriersAndPhases :
    let g : Group := { gid := 0, eids := [0, 1] }
    let busy : State := { st [] with accs := [{ (default : Access) with id := 7, op := .store 0, keys := [0], pieces := [(0, 1)] }] }
    let o : BarObj := { expb := 5, rcvb := 5, exparr := 2, pendarr := 0, early := 3, phase := false, surplus := false }
    ([wit formGbar false false { f0 with b := 255 } { st [] with groups := [(groupKey 0 1 255, g)] } fun e =>
        on e && Keyed.get? e.s0.groups (groupKey e.dev e.asid 255) == some g && g.eids.contains e.eid && e.t.joins.isEmpty &&
          e.t.phase.isNone && (match release e e.s0 15 (groupScope e.eid g.eids) with | .ok (s, l) => s == e.s0 && l == [] | _ => false) &&
          readsBound e.t,
      wit formGbar false false f0 (st []) fun e => on e && (Keyed.get? e.s0.groups (groupKey e.dev e.asid 0)).isNone,
      wit formGbar false false f0 { st [] with groups := [(groupKey 0 1 0, { gid := 0, eids := [1] })] } fun e =>
        on e && Keyed.get? e.s0.groups (groupKey e.dev e.asid 0) == some { gid := 0, eids := [1] } && !([1].contains e.eid),
      -- a release whose join is not empty, and one whose join is complete
      wit formGbar false false f0 { busy with groups := [(groupKey 0 1 0, { gid := 0, eids := [0, 8] })] } fun e =>
        on e && e.t.joins.isEmpty && e.t.phase.isNone &&
          (match release e e.s0 15 (groupScope e.eid [0, 8]) with | .ok (_, ids) => ids != [] | .error _ => false),
      wit formGbar false false f0 { stT [] (fun t => { t with phase := some (.join [7]) }) with groups := [(groupKey 0 1 0, { gid := 0, eids := [0, 8] })] } fun e =>
        on e && decide (e.t.phase = some (.join [7])) && !outstanding e.s0 (groupScope e.eid [0, 8]) [7] && readsBound e.t,
      decide (o.pendarr = 0 ∧ o.expb ≤ o.rcvb), !decide ({ o with rcvb := 4 }.pendarr = 0 ∧ { o with rcvb := 4 }.expb ≤ 4)] : List Bool).all id = true := by decide +kernel

/-! ## Witnesses: matrix units and copy engines -/

/-- A core whose task has four accumulator slots and out-port 0. -/
def bindM : Binding := { bindE with accs := [0, 1, 2, 3] }
def stM (r : List Nat) (g : Core → Core) : State :=
  { ((st r).modCore 0 fun c => g { c with bindings := [bindM] }) with edges := [edge1] }

/-- A fat pointer (R24). -/
def fat (fmt blen a : Nat) : Nat := fmt * 2 ^ 59 + blen * 2 ^ 56 + a

theorem witness_MatrixCommandsQueue :
    let slot (e : Env) : Bool := on e && gives (slotOf e) 3
    let room (e : Env) (x : List (Bool × Int × Int)) : Bool := x.all (fun x => spanOk x.1 x.2) && e.t.joins.isEmpty &&
      decide (e.c.rlocks.length + x.length ≤ 32) && decide (e.c.mxq.length < 8)
    let mma (kind : Nat) (fmt : Nat) (a : Nat) (g : Core → Core) : Bool :=
      wit formMma false false { fS with d := 3, mod := 3, imm := 32 } (stM [0, fat fmt 0 a, fat fmt 0 0x2000, 64 + 64 * 2 ^ 32] g) fun e =>
        let p := FatPtr.of e.a0
        let q := FatPtr.of e.b0
        slot e && p.ok && q.ok && mxPair p.fmt q.fmt && p.blen == q.blen && (mxDepth (isWTile e.eid) p.fmt (blenOf p.blen)).any (fun d => 32 % d == 0) &&
          (kind == 2 || (p.fmt == 7) == e.c.modeOf 3) && mxAligned e.a0 (e.c0 % 2 ^ 32) && mxAligned e.b0 (bits e.c0 63 32) &&
          (match mxSpan e.a0 (e.c0 % 2 ^ 32) (if p.fmt = 7 then 16 else 32) 32, mxSpan e.b0 (bits e.c0 63 32) 32 32 with
            | some x, some y => room e [(bit e.f.md 0, x), (bit e.f.md 1, y)]
            | _, _ => false)
    let mv (form : Fields → Option Form) (f : Fields) (fmt : Nat) (p : Env → Bool) : Bool :=
      wit form false false f (stM [0, fat fmt 0 0x1000, 256] id) fun e =>
        slot e && (FatPtr.of e.a0).ok && p e && mxAligned e.a0 e.b0 &&
          (match mxSpan e.a0 e.b0 32 32 with | some x => room e [(bit e.f.md 0, x)] | none => false)
    ([mma 1 5 0x1000 id, mma 2 10 0x1000 id, mma 1 4 0x1000 fun c => { c with mxq := List.replicate 7 { (default : MxCmd) with kind := 1, phys := 0 } },
      mv formMld { f0 with d := 3, a := 0x210F, b := 0x220F, mod := 1 } 6 fun _ => true,
      mv formMst { f0 with d := 3, a := 0x210F, b := 0x220F } 5 fun e => mxOutOk (e.c.modeOf 3) 5,
      wit formMsteer false false { f0 with d := 3, a := 0x210F } (stM [0, 256 + 8 * 4] id) fun e => slot e && bits e.a0 63 9 == 0 &&
        mxOutOk (e.c.modeOf 3) (bits e.a0 7 3) && outPort? e.s0 e.eid e.t.task.toNat (e.a0 % 8) == some edge1 &&
        edge1.tsize == 32 * fmtBits (bits e.a0 7 3) / 8 && room e [],
      wit formMclr false false { f0 with d := 3 } (stM [] id) fun e => e.f.md != 1 && on e && gives (physOf e 3) 3 &&
        (e.c.accs.getD 3 default).fault.isNone && room e []] : List Bool).all id = true := by decide +kernel

theorem witness_MatrixStatusInstructions :
    let bad (c : Core) : Core := { c with accs := c.accs.map fun a => { a with fault := some (5, 0) } }
    let w (p : Nat) : Bool := wit formMweight false false { f0 with a := 0x210F } (stM [0, p] id) fun e => on e && e.a0 == p
    ([wit formMclr false false { f0 with d := 3 } (stM [] bad) fun e => on e && gives (physOf e 3) 3 && (e.c.accs.getD 3 default).fault.isSome,
      wit formMwait false false { f0 with b := 9 } (stM [] id) fun e => on e &&
        (match maskSlots e 9 with
          | .ok ps => ps == [(0, 0), (3, 3)] && ps.all (fun x => (e.c.accs.getD x.2 default).fault.isNone) && !e.c.mxq.any fun m => ps.any fun x => x.2 == m.phys
          | _ => false),
      wit formMprog false false { f0 with d := 0x200F, b := 3 } (stM [] id) fun e => on e && gives (physOf e 3) 3,
      w 1, w 15, w 0, w 16, wit formMweight false false { f0 with b := 15, mod := 1 } (stM [] id) on] : List Bool).all id = true := by decide +kernel

theorem witness_MatrixEvents :
    let m (kind : Nat) : MxCmd := { (default : MxCmd) with id := 7, kind := kind, pa := fat 5 0 0x1000, pb := fat 5 0 0x2000, sa := 32, sb := 32, k := 16, la := true, lb := true }
    let s (m : MxCmd) : State := { stM [] fun c => { c with mxq := [m] } with who := [0] }
    let full (kind : Nat) : MxCmd := { m kind with stage := List.replicate 64 (List.replicate 16 0) }
    let far (m : MxCmd) : MxCmd := { m with la := false }
    let tile (g : Tile → Tile) (m : MxCmd) : State := (s m).modTile 0 g
    let granted (m : MxCmd) (cr : Nat) (p : Bool → Bool) : Bool :=
      let s := tile (fun x => { x with credit := cr, ptr := 0 }) m
      let s' := (rotation 0 (s.tile 0).ptr).foldl stageResident s
      (s.tile 0).run.isNone && p (mxReady s' (s'.tile 0).ptr && decide (0 < (s'.tile 0).credit)) &&
        ((rotation 0 (s'.tile 0).ptr).find? (mxReady s')) == some 0 && (mxHead s' 0).any (·.id == 7)
    let reads (m : MxCmd) : List Nat × Option (Nat × EngineStep) :=
      let c := (s m).core 0
      if m.stage.length < m.rowsA then readSteps (s m) 0 m m.pa m.la m.sa (m.depth false) m.stage.length (c.mxPos m) (c.quantum false m)
      else readSteps (s m) 0 m m.pb m.lb m.sb (m.depth false) (m.stage.length - m.rowsA) (c.mxPos m) (c.quantum false m)
    let staging (m : MxCmd) : Bool := stagerCore (s m) 0 == some 0 && mxHead (s m) 0 == some m
    let port (m : MxCmd) : State :=
      (tile (fun x => { x with portQ := [(0, 0, 7)] }) m).modDie 0 fun d => { d with cycles := 1 }
    let runs (m : MxCmd) : Bool := portRun (port m) 0 == some (0, m)
    let u (m : MxCmd) : State := startMx (port m) 0 m
    let left (m : MxCmd) : Bool := decide ((((u m).core 0).acc m).pos < (((u m).core 0).acc m).rows)
    let load (m : MxCmd) : Except EngineStep (List Byte) := engineAll (u m) 0 m.thread m.id 1 m.la (((FatPtr.of m.pa).addr : Nat) : Int) (32 * m.esz)
    let drain : MxCmd := { m 5 with pb := 32, sb := 1, started := true }
    let limited : MxCmd := { full 1 with lim := some (0, 5, 0x7F000) }
    ([(let s := tile (fun x => { x with run := some (0, 2) }) (full 1)
       (s.tile 0).run == some (0, 2) && mxHead s 0 == some (full 1)),
      granted (m 1) 0 (!·), granted (m 1) 3 id, granted (far (full 1)) 3 id,
      staging (m 1) && (reads (m 1)).2.isNone,
      (let x := { m 1 with stage := List.replicate 63 [] }
       staging x && (reads x).2.isNone),
      (let x := { m 1 with pa := fat 5 0 0x7F000 }
       staging x && x.lim.isNone && (match reads x with | (_, some (_, .fault ..)) => true | _ => false)),
      runs (m 6), runs { m 5 with pb := 32, sb := 1 },
      runs (m 3) && left (m 3) && (load (m 3)).toBool,
      runs (m 4) && left (m 4) && (storeKeys (u (m 4)) 0 true 0x1000 (32 * (m 4).esz)).toBool,
      runs drain && decide ((((port drain).core 0).acc drain).pos < (((port drain).core 0).acc drain).rows) &&
        drain.ring (port drain) == some edge1 && !edge1.full && edge1.waiting (port drain) == [] && !asked (port drain) 0 1,
      (let x := { m 3 with pa := fat 5 0 0x7F000 }
       runs x && left x && (mxHead (port x) 0).isNone && (match load x with | .error (.fault ..) => true | _ => false)),
      mxHead (s limited) 0 == some limited && limited.staged && ((s limited).core 0).mxPos limited == 0,
      ((s { m 6 with started := true }).core 0).mxq.find? (mxDone (s { m 6 with started := true }) 0) == some { m 6 with started := true },
      (let x : MxCmd := { drain with pb := 256 + 32 }
       let s := (s x).modCore 0 fun c => { c with accs := c.accs.map fun a => { a with pos := 32 } }
       (s.core 0).mxq.find? (mxDone s 0) == some x && x.steerClr)] : List Bool).all id = true := by decide +kernel

/-- A core whose LM holds a copy descriptor at offset 0x100: one row of `n` bytes or elements. -/
def stD (n : Nat) (r : List Nat) (g : Core → Core) : State :=
  ((((st r).wr (lmKey 0 0x100) 8 (n + 2 ^ 32)).wr (lmKey 0 0x108) 8 1)).modCore 0 g

theorem witness_CopyInstructions :
    let ok (kind : CopyKind) (e : Env) : Bool := on e && (chanTrap e e.ch).toBool && e.t.joins.isEmpty && pops e &&
      (match copyCmd e kind with | .ok m => decide (e.c.rlocks.length + (m.locks e.s0).length ≤ 32) | _ => false) && (e.c.chan[e.ch]?).isSome
    let idle (e : Env) : Bool := ((e.c.chan[e.ch]?).bind (·.cmd)).isNone && !e.c.shadowFor e.ch
    let cmd : CopyCmd := { (default : CopyCmd) with id := 9, kind := .plain }
    let busy (c : Core) : Core := { c with chan := c.chan.map fun h => { h with cmd := some cmd } }
    let f : Fields := { fS with mod := 3 }
    ([wit formCpy true false f (stD 64 [0, 0x1000, 0x2000, 0x100] id) fun e => ok .plain e && idle e,
      wit formCpy true false f (stD 64 [0, 0x1000, 0x2000, 0x100] busy) fun e => ok .plain e && !idle e && e.c.shadow.isNone,
      wit formCpy true false { f with mod := 2 } (stD 64 [0, 0x1000, 0x2000, 0x100] id) fun e => ok .gather e && idle e,
      wit formCpyf true false f (stD 32 [0, fat 5 0 0x1000, fat 14 2 0x2000, 0x100] id) fun e => ok (.format 0 false) e && idle e,
      wit formCpw false false { f0 with mod := 1 } (st []) fun e => on e && readsBound e.t &&
        [0, 1].all fun ch => (chanTrap e ch).toBool && !chanBusy e.c ch,
      wit formCpwDrop false false { f0 with mod := 2, x := true, smod := 1 }
        (stC [] fun c => { c with chan := c.chan.map fun h => { h with fault := some (5, 0) } }) fun e =>
          on e && (e.c.chan[e.ch]?).any fun h => h.fault.isSome,
      wit formCpq true false { f0 with d := 0x200F } (st []) on] : List Bool).all id = true := by decide +kernel

theorem witness_CopyEvents :
    let cmd (src dst : Nat) (kind : CopyKind) : CopyCmd :=
      { (default : CopyCmd) with id := 9, eid := 0, kind := kind, asid := 1, ls := true, ld := true, src := src, dst := dst, n0 := 32, n1 := 1, n2 := 1 }
    let s (m : CopyCmd) (b : Nat) (buf : List Byte) : State :=
      { stC [] fun c => { c with chan := c.chan.map fun h => { h with cmd := some m, bytes := b, buf := buf } } with who := [0, 1] }
    let plain (src dst : Nat) : CopyCmd := cmd src dst .plain
    let moves (m : CopyCmd) (b : Nat) (buf : List Byte) : Bool :=
      ((s m b buf).core 0).chan[1]?.any fun h => h.cmd == some m && h.fault.isNone && !((s m b buf).core 0).frozen && decide (h.bytes < m.total)
    -- every number of bytes that may be taken
    let some_ (m : CopyCmd) (b : Nat) (buf : List Byte) : Bool :=
      let x := m.at_ b
      let d := m.dstRow x.2.1 x.2.2 + (x.1 : Nat)
      (List.range buf.length).all fun n => match m.dstSome (s m b buf) d (n + 1) with
        | .ok kss => (m.objects (s m b buf) (kss.headD [])).toBool &&
            (m.put (s m b buf) (engineVa 0 m.ld d) ((kss.zip buf).flatMap fun (ks, v) => ks.map (·, v))).toBool
        | _ => false
    let read (m : CopyCmd) : Except EngineStep (List Byte) :=
      engineReads (s m 0 []) m.eid m.slot m.id m.asid m.ls (m.srcRow 0 0 0) (unitAt (m.srcRow 0 0 0 % 8).toNat m.row)
    let lost : State :=
      let m := { plain 0 0x40000000 with ld := false }
      { peer (s m 0 [1]) with fars := [{ pkt := 5, eid := 0, slot := m.slot, id := 9, line := dramKey 1 0 / 64, write := true, bytes := [(dramKey 1 0, 1)], st := 2 }] }
    ([(let m := { plain 0 0x40000000 with ld := false }
       ((lost.core 0).chan[1]?.any fun h => h.cmd == some m && h.fault.isNone && decide (h.bytes < m.total)) && !(lost.core 0).frozen &&
         match m.dstSome lost 0x40000000 ((m.sent lost).getD 0) with
         | .ok kss => (m.objects lost (kss.headD [])).toBool && (match m.put lost (engineVa 0 m.ld 0x40000000) ((kss.zip [1]).flatMap fun (ks, v) => ks.map (·, v)) with
             | .error (.fault ..) => true | _ => false)
         | _ => false),
      (let c := (stC [] fun c => { c with shadow := some (1, plain 0 0) }).core 0
       c.shadow.any (·.1 == 1) && (c.chan[1]?).any (fun h => h.cmd.isNone) && !c.frozen),
      moves (plain 0 0x2000) 0 [1, 2, 3] && some_ (plain 0 0x2000) 0 [1, 2, 3],
      moves (plain 0 0x2000) 0 [] && (match read (plain 0 0x2000) with | .ok bs => bs.length == 8 && some_ (plain 0 0x2000) 0 bs | _ => false),
      moves (plain 0x7F000 0x2000) 0 [] && (match read (plain 0x7F000 0x2000) with | .error (.fault ..) => true | _ => false),
      moves (plain 0 0x7F000) 31 [1] &&
        (match (plain 0 0x7F000).dstSome (s (plain 0 0x7F000) 31 [1]) 0x7F01F 1 with | .error (.fault ..) => true | _ => false),
      (match copyStep (s (cmd (fat 5 0 0x1000) (fat 14 2 0x2000) (.format 0 false)) 0 []) 0 1 with | .go _ => true | _ => false),
      (let c := s (plain 0 0) 32 []
       (c.core 0).chan[1]?.any (fun h => h.cmd.any (fun m => decide (m.total ≤ h.bytes)) && h.fault.isNone) && !countsOut c 9)] : List Bool).all id = true := by decide +kernel

/-! ## Witnesses: tasks, rings, messages, queues -/

/-- A record of die 0 with handle 5, in a state. -/
def rec5 (t : TaskState) : Rec := { (default : Rec) with handle := 5, asid := 1, state := t, pin := 127, gid := 0xFFFF }

/-- A state whose step's subject is a request to die 0's dispatcher about record 5. -/
def stR (t : TaskState) (b : Body) : State :=
  withPkt { st [] with recs := [(5, rec5 t)] } { pkt0 with dst := dieUnit 0, cls := 3, body := b }

theorem witness_TaskRequests :
    let free (e : Env) : Bool := on e && e.t.joins.isEmpty
    let h (e : Env) (v : Nat) : Bool := decide (v < 15 * 2 ^ 28) && e.s0.hasDev (State.hDev v)
    let x : Fields := { fS with c := 0, x := false }
    let u : Fields := { x with b := 0 }
    let top : Nat := 14 * 2 ^ 28 + 0x3FFFF
    let w (form : Fields → Option Form) (hOk : Bool) (f : Fields) (r : List Nat) (p : Env → Bool) : Bool := wit form hOk false f (st r) fun e => free e && p e
    ([w formTkmk true u [0, 0x100] fun e => (ownWords e e.a0 8 32).toBool,
      w formTkmk true { x with mod := 1 } [0, 0x7EF00, 3] fun e => decide (e.b0 < 4) && (ownWords e e.a0 8 32).toBool,
      w formTkarm true x [0, top, 7] fun e => h e e.a0, w formTkarm true { x with mod := 1, b := 0x3FFF } [0, top] fun e => h e e.a0,
      w formTksucc true { x with x := true, imm := 15 } [0, top, 5] fun e => h e e.a0 && h e e.b0,
      w (formResA · 0) true u [0, top] fun e => h e e.a0, w (formResA · 1) false { u with mod := 1 } [0, 3] fun _ => true,
      w (formResA · 0) false u [0, 255] fun e => decide (e.a0 < 256),
      w formTkdec true { u with d := 0, b := 8191, mod := 1, x := true, imm := 15 } [0, top] fun e =>
        h e e.a0 && (sendRelease e e.s (bit e.f.md 1) (dieScope e.eid e.a0)).toBool,
      w formTkdone false { u with d := 0, mod := 1 } [0, 255] fun e => e.t.allLanded && (exitFault e).isNone && e.t.deferred.isEmpty,
      w formTkdone false f0 [] fun e => e.t.allLanded && (exitFault e).isNone && e.t.deferred.isEmpty] : List Bool).all id = true := by decide +kernel

theorem witness_RecordOperationsAndDecrements :
    let at_ (t : TaskState) (b : Body) (p : Rec → Bool) : Bool := (readyPkt? (stR t b)).isSome && (recOf (stR t b) 1 5).any p
    let full : Rec := { rec5 .made with succ := List.replicate 8 default }
    let of (t : TaskState) (n : Int) (b : Body) : Bool := (recOf { stR t b with recs := [(5, { rec5 t with count := n })] } 1 5).any fun r => r.state == t && r.count == n
    let d (n : Nat) : Body := .decr 5 n 15 0 0
    ([((stR .made (.taskOp 6 [6])).rec? 6).isNone,
      (State.rec? { stR .made (.taskOp 6 [5]) with recs := [(5, { rec5 .made with asid := 2 })] } 5).any fun r => r.asid != 1,
      of .made 1 (.taskOp 2 [5, 0x7FFFFFFF]) && decide ((2 : Int) ^ 31 ≤ 1 + signed 32 0x7FFFFFFF),
      of .made (-1) (.taskOp 2 [5, 0x80000000]) && decide (-1 + signed 32 0x80000000 < -((2 : Int) ^ 31)),
      of .armed 2 (d 1), of .ahead 2 (d 1), of .ahead 1 (d 1), of .armed 1 (d 1), (recOf (stR .made (.taskOp 2 [5, 0x7FFFFFFF])) 1 5).any fun r =>
        r.state == .made && decide (-(2 ^ 31) ≤ r.count + signed 32 0x7FFFFFFF) && decide (r.count + signed 32 0x7FFFFFFF < 2 ^ 31),
      at_ .armed (.taskOp 2 [5, 1]) fun r => r.state != .made, at_ .armed (.taskOp 3 [5, 9, 0]) fun r => r.state != .made,
      (recOf { stR .made (.taskOp 3 [5, 9, 0]) with recs := [(5, full)] } 1 5).any fun r => r.state == .made && r.succ.length == 8,
      at_ .made (.taskOp 3 [5, 9, 0]) fun r => r.state == .made && decide (r.succ.length < 8),
      at_ .running (.taskOp 6 [5]) fun _ => true, at_ .done (.taskOp 4 [5]) fun r => r.state == .done,
      at_ .made (d 3) fun r => r.state == .made, at_ .armed (d 0) fun r => r.state == .armed && r.count == 0,
      at_ .ahead (d 1) fun r => r.state == .ahead && decide (r.count < 1), at_ .armed (d 1) fun r => decide (r.count < 1),
      at_ .running (d 1) fun r => r.state != .made && r.state != .armed && r.state != .ahead] : List Bool).all id = true := by decide +kernel

/-- DRAM that holds doublewords from an address on. -/
def putW (s : State) (a : Nat) (ws : List Nat) : State := ws.zipIdx.foldl (fun s (w, i) => s.wr (dramKey 0 (a + 8 * i)) 8 w) s

theorem witness_InstancesAreMade :
    let f : Fields := { fS with c := 0 }
    -- a template of one node: thread 1, the task's text of one granule, no pin
    let s : State := putW (putW (st [0, 0x3000, 0x100]) 0x3000 [1]) 0x3040 [2 ^ 8 + 127 * 2 ^ 20, 0, 0, 2 ^ 19]
    let ok (e : Env) (st : Option Nat) : Bool := on e && (queueRing e.s0 (eidDie e.eid) e.asid 0).isSome && (ownWords e e.b0 8 16).toBool &&
      (match readTemplate e.s0 e.eid e.slot e.asid (addrOf e.a0) with
        | .ok t => (match checkTemplate e.s0 e.dev e.asid (eidDie e.eid) t none with | .ok _ => st == none | .error x => st == some x)
        | .error _ => false)
    ([wit formGinst false false f (st [0, 0x3000, 0x100]) fun e => ok e (some stSTATE),
      wit formGinst false false f s fun e => ok e none] : List Bool).all id = true := by decide +kernel

/-- A ring of four doublewords whose descriptor is at DRAM address 0x3000, with its counters. -/
def stQ (r : List Nat) (res pub take : Nat) : State := putW (st r) 0x3000 [0x4000, 2 + 3 * 256, res, pub, take, 0]

theorem witness_QueueAndRingInstructions :
    let x : Fields := { fS with c := 0, x := false }
    let u : Fields := { x with b := 0 }
    let free (e : Env) : Bool := on e && e.t.joins.isEmpty
    let w (form : Fields → Option Form) (f : Fields) (s : State) (p : Env → Bool) : Bool := wit form true false f s fun e => on e && p e
    let ph (s : State) (q : Option Phase) : State := s.modThr 0 0 fun t => { t with phase := q }
    let h (e : Env) (v : Nat) : Bool := decide (v < 15 * 2 ^ 28) && e.s0.hasDev (State.hDev v)
    let sub (e : Env) : Bool := decide (e.a0 < 256) && h e e.b0 && (queueRing e.s0 (eidDie e.eid) e.asid e.a0).isSome
    let room (e : Env) : Bool := e.b0 % 8 == 0 && decide (e.b0 + 256 ≤ 0x80000) && e.c.lmOk e.b0 256 && !e.s0.inHeader e.eid e.b0 256 &&
      (waitFill e 255 (windowVa e.eid e.b0) ((List.range 256).map (lmKey e.eid e.b0 + ·))).toBool && gives (ringKey e) 0x3000
    let take (q : Option Phase) (p : Env → Bool) : Bool := w formRgpub x (ph (st [0, 0x3000, 0x100]) q) fun e => room e && decide (e.t.phase = q) && p e
    let m (c : Core) : Core := { c with match_ := (List.range 64).map fun i => (i, default) }
    -- a request at the ring at 0x3000
    let at_ (res pub take : Nat) (b : Body) : State := { stQ [] res pub take with net := [{ pkt0 with dst := 600, cls := 3, body := b }] }
    let r (s : State) : Ring := ringAt s 0x3000
    ([w formTksub x (st [0, 0, 5]) fun e => free e && sub e && e.t.phase.isNone && (sendRelease e e.s false 3).toBool,
      w formTksub x (ph (st [0, 0, 5]) (some (.begun 2))) fun e =>
        free e && sub e && decide (e.t.phase = some (.begun 2)) && (sendRelease e e.s false 3).toBool,
      w formTksub x (ph (st [0, 0, 5]) (some (.told 1 0))) fun e => sub e && decide (e.t.phase = some (.told 1 0)),
      w formRgres u (st [0, 0x3000]) fun e => free e && gives (ringKey e) 0x3000,
      w formRgpub x (st [0, 0x3000, 0]) fun e => free e && gives (ringKey e) 0x3000 &&
        (sendRelease e e.s false (min 5 (ringAt e.s0 0x3000).scope)).toBool,
      take none fun e => e.t.joins.isEmpty && !ownPending e e.b0 256,
      take (some (.told (stOK * 2 ^ 56) 2)) fun e => (stOK * 2 ^ 56) / 2 ^ 56 == stOK && readsBound e.t,
      take (some (.told (stEMPTY * 2 ^ 56) 0)) fun _ => (stEMPTY * 2 ^ 56) / 2 ^ 56 != stOK,
      (let s := at_ 0 0 0 (.taskOp 7 [0, 5, 0])
       let s := { s with ctxs := s.ctxs.map fun (i, c) => (i, { c with queues := [(0x3000, 3)] }) }
       queueRing s 0 1 0 == some 0x3000 && gives (xlBlock s 0 1 0x3000 64 true) 0x3000 && (ringRes s 0x3000).1 / 2 ^ 56 == stOK &&
         gives (xlBlock (ringRes s 0x3000).2 0 1 ((r s).entry (r s).res) 8 true) ((r s).entry (r s).res)),
      (let s := at_ 1 1 1 (.taskOp 13 [0x3000, 0x100, 0])
       !s.badAt 0x3000 64 &&
         (emptyGran s (((List.range 64).map (0x3000 + ·)) ++ (List.range 256).map (lmKey 0 0x100 + ·))).isNone && takeStatus (r s) == stEMPTY),
      (let s := at_ 1 1 0 (.taskOp 13 [0x3000, 0x100, 0])
       takeStatus (r s) == stOK && (r s).loge == 3 && (s.net.all fun p => (entryBytes s p ((r s).entry (r s).take) 8).toBool)),
      w formArrm fS (st [0, 65535, 5, 0]) fun e => decide (e.a0 < 65536) && h e e.b0 && e.c0 == 0,
      w formArrm fS (stC [0, 65535, 5, 1] m) fun e => decide (e.a0 < 65536) && h e e.b0 && e.c0 != 0 &&
        (firstIdx 64 fun i => (Keyed.get? e.c.match_ i).isNone).isNone,
      w formArrm { fS with imm := 15 } (st [0, 0, 5, 32]) fun e => h e e.b0 && e.c0 != 0 &&
        firstIdx 64 (fun i => (Keyed.get? e.c.match_ i).isNone) == some 0,
      w (formResA · 1) { u with mod := 1 } (st [0, 63]) fun e => decide (e.a0 < 64)] : List Bool).all id = true := by decide +kernel

theorem witness_MessagesAreSent :
    let free (e : Env) : Bool := on e && e.t.joins.isEmpty && decide (e.a0 < 2 ^ 22)
    let rel (e : Env) : Bool := (sendRelease e e.s (bit e.f.md 1) (scopeTo e.eid e.a0)).toBool
    let a : Fields := { fS with d := 0 }
    let h : State := { stC [] fun c => { c with threads := c.threads.map fun (_, t) => (17, t) } with cur := (0, 17) }
    ([wit (formAm · false) true false a (st [0, 0x3FFFFF, 8]) fun e => free e && rel e,
      wit (formAm · true) true false { a with mod := 3, imm := 65535 } (st [0, 1, 0x7FFE0]) fun e =>
        free e && rel e && e.b0 % 8 == 0 && decide (e.b0 + 31 ≤ 0x7FFFF),
      wit formAmr false false fS (st [0, 1, 8]) fun e => free e && rel e,
      wit formMbsend true false { fS with c := 0, imm := 3, mod := 1 } (st [0, 1, 8]) fun e => free e && rel e,
      wit formHend true false { f0 with a := 0x210F, mod := 1 } h fun e => on e && decide (16 ≤ e.slot) && e.t.allLanded && e.t.deferred.isEmpty &&
        (ownWrites e.s0 e.eid e.slot 15 0).isEmpty,
      wit formHend true false f0 h fun e => on e && decide (16 ≤ e.slot) && e.t.allLanded && e.t.deferred.isEmpty &&
        (ownWrites e.s0 e.eid e.slot 15 0).isEmpty] : List Bool).all id = true := by decide +kernel

theorem witness_MailboxCounts :
    ([wit formMbcnt true false { f0 with d := 0x200F, b := 3 } (st []) on,
      wit formMbcnt true false { f0 with d := 0x2001, mod := 1 } (st []) on] : List Bool).all id = true := by decide +kernel

theorem witness_MessagesAndHandlersArrive :
    let s (b : Body) (g : Core → Core) : State := withPkt (stC [] g) { pkt0 with body := b }
    let am : Body := .am 0x7FFF8 [1, 2, 3, 4] true
    let de : Body := .deposit 0x7EFE0 [1, 2, 3, 4] 9
    let r (s : State) (p : Packet → Bool) : Bool := (readyPkt? s).any p
    let ks : List Nat := (List.range 32).map (lmKey 0 0x7EFE0 + ·)
    let mb (n : Nat) (nb : Bool) (tries : Nat) (rec : Nat) : State :=
      withPkt (stC [] fun c => { c with mboxes := [[], [], [], List.replicate n 0], mbRec := [[], [], [], List.replicate rec 77] })
        { pkt0 with cls := 2, tries := tries, body := .mbox 3 9 nb }
    let lapsed (s : State) : Bool := (s.core 0).mbResv.any fun r => r.pkt == 1 && decide (r.until_ ≤ s.cycle 0)
    let room (s : State) : Bool := (s.net.all (boxTurn s)) && !lapsed s && mbRoom ((lapseDue s 0).core 0) 3 1
    let noRoom (s : State) : Bool := (s.net.all (boxTurn s)) && !lapsed s && !mbRoom ((lapseDue s 0).core 0) 3 1
    let part (l : List Nat) : State := s (.deposit 0x7EFE8 l 9) id
    ([r (s am fun c => { c with ctx := none }) fun p => refusalOf (s am fun c => { c with ctx := none }) p == some 2,
      r (s de fun c => { c with ctx := none }) fun p => (refusalOf (s de fun c => { c with ctx := none }) p).isSome,
      r (withPkt (st []) { pkt0 with dst := 600, body := am }) fun p => refusalOf (st []) p == some 1,
      r (s (.am 4 [] false) id) fun p => (refusalOf (s am id) p).isNone && !handlerOk (s am id) 0 1 4,
      r (s am id) fun p => (refusalOf (s am id) p).isNone && handlerOk { st [] with ctxs := (st []).ctxs.map fun (k, c) => (k, { c with handlers := [(0, 0x80000)] }) } 0 1 0x7FFF8,
      r (s (.am 0x7FFE8 [] false) id) fun p => (refusalOf (s am id) p).isNone && handlerOk (s am id) 0 1 0x7FFE8 && decide (((s am id).core 0).handlerQ.length < 64),
      r (part [2, 3, 4]) fun _ => true, r (part [4]) fun _ => true,
      (let l := (mb 63 false 0 0).modCore 0 fun c => { c with mbResv := [{ box := 3, pkt := 1, until_ := 0 }] }
       l.net.all (boxTurn l) && lapsed l),
      r (s (.deposit 0x7EFF0 [1, 2, 3, 4] 9) id) fun p => (refusalOf (s de id) p).isNone && !((s de id).core 0).lmOk 0x7EFF0 32,
      r (s de id) fun p => (refusalOf (s de id) p).isNone && ((s de id).core 0).lmOk 0x7EFE0 32 && !(s de id).inHeader 0 0x7EFE0 32 && (emptyGran (s de id) ks).isNone,
      r (s (.amrReply 5) id) fun _ => true, r (s (.refusal 2 0) id) fun _ => true,
      r (stR .made (.decr 6 1 0 0 0)) fun _ => (recOf (stR .made (.decr 6 1 0 0 0)) 1 6).isNone,
      (let c := (stC [] fun c => { c with handlerQ := [.am 8 [] none] }).core 0
       freeHandler c == some 16 && !c.frozen && c.freezing.isNone),
      r (mb 63 false 0 0) fun _ => room (mb 63 false 0 0) && (mb 63 false 0 0).hasCore 0,
      r (withPkt (stC [] fun c => { c with ctx := none }) { pkt0 with cls := 2, body := .mbox 0 0 true }) fun _ => true,
      r (mb 64 false 15 0) fun p => noRoom (mb 64 false 15 0) && decide (p.tries < 16),
      r (mb 64 true 16 0) fun p => noRoom (mb 64 true 16 0) && decide (16 ≤ p.tries),
      r (mb 64 false 16 16) fun p => noRoom (mb 64 false 16 16) && decide (16 ≤ p.tries) && decide (16 ≤ recordedAt ((mb 64 false 16 16).core 0) 3),
     r (mb 64 false 16 15) fun p => noRoom (mb 64 false 16 15) && decide (16 ≤ p.tries) && decide (recordedAt ((mb 64 false 16 15).core 0) 3 < 16),
     -- the boundary of a core's turn
     (let s := (mb 0 false 0 0).modCore 0 fun c => { c with mbAt := (0, 3) }
      s.net.all (boxTurn s)),
     (let s := (mb 0 false 0 0).modCore 0 fun c => { c with mbAt := (0, 2) }
      !s.net.all (boxTurn s)),
      (let p := { pkt0 with state := .refused, tries := 16, body := .mbox 0 0 false }
       (withPkt (st []) p).pkt? 1 == some p && decide (p.due ≤ (st []).cycle 0)),
      (let c := (stC [] fun c => { c with mbResv := [{ box := 0, pkt := 1, until_ := 0 }] }).core 0
       (c.mbResv.find? (·.pkt == 1)).any fun r => decide (r.until_ ≤ (st []).cycle 0))] : List Bool).all id = true := by decide +kernel

theorem witness_QueueInstructions :
    let free (e : Env) : Bool := on e && e.t.joins.isEmpty
    let sent (e : Env) : Bool := (match queueHome e with | .ok h => (sendRelease e e.s (bit e.f.md 1) (scopeYard e.eid h.1)).toBool | _ => false)
    let x : Fields := { fS with c := 0, x := false }
    let u : Fields := { x with b := 0 }
    let w (form : Fields → Option Form) (h : Bool) (f : Fields) (r : List Nat) (p : Env → Bool) : Bool := wit form h false f (st r) fun e => free e && p e
    let mk (e : Env) (inPage : Bool) : Bool := addrOf e.a0 % 64 == 0 && bits e.b0 7 1 == 0 && bits e.b0 15 13 == 0 && bits e.b0 63 29 == 0 &&
      decide (bits e.b0 12 8 ≤ 20) && (match xlThread e 255 (addrOf e.a0) 1 true with
        | .ok (k :: _, _) => (!keyIsHost k && !keyIsLm k && e.s0.hasDev (k / 2 ^ 39) && decide (addrOf e.a0 + 64 + 8 * 2 ^ bits e.b0 12 8 ≤ (pageSpan e (addrOf e.a0)).2)) == inPage
        | _ => false)
    ([w formPush true x [0, 0x3000, 7] sent, w formPop true { u with d := 0x200F, a := 0x220F } [0, 0, 0x3000] fun e => (queueHome e).toBool,
      w formPopW false { x with d := 0x230F, mod := 1 } [0, 0x3000, 2 ^ 32 - 1] fun e => decide (e.b0 < 2 ^ 32) && (queueHome e).toBool,
      w formQmk true x [0, 0x3000, 8 * 256 + 1] fun e => mk e true, w formQmk true x [0, 0x3000, 9 * 256 + 1] fun e => mk e false,
      -- with no range entry, the page of the TLB entry
      wit formQmk true false x { st [0, 0x3000, 20 * 256 + 1] with ctxs := (st []).ctxs.map fun (k, c) => (k, { c with ranges := [] }) } (fun e => free e && mk e true),
      w formQmk true x [0, 0xFFFFFFC0, 0] fun e => mk e false,
      w formQmk true x [0, 0xF0 * 2 ^ 48, 0] fun e => mk e false, w formQmkFree true { u with mod := 1 } [0, 0x3000] fun e => (queueHome e).toBool] : List Bool).all id = true := by decide +kernel

/-- The Yard of device 0 with a queue at 0x3000, waiting operations, and an arriving request. -/
def stY (q : QEntry) (ops : List QOp) (b : Body) : State :=
  withPkt ((st []).modDev 0 fun d => { d with queues := [q], qops := ops }) { pkt0 with id := 9, dst := yardUnit 0, cls := 4, body := b } |> fun s => { s with who := [9] }

theorem witness_QueueOperationsArrive :
    let q : QEntry := { pa := 0x3000, fifo := true, logn := 2, window := 64, nosplice := false }
    let op (v : Option Nat) (t : Nat) : QOp := { pkt := 5, pa := 0x3000, push := v, until_ := t, src := { eid := 0, slot := 0, pend := 3 } }
    let due (s : State) : State := expireDue 0 (s.dev 0).qops.length s
    let r (s : State) (p : State → Bool) : Bool := (readyPkt? s).isSome && p (due s)
    let at_ (s : State) : Bool := (queueAt s 0 0x3000).isSome
    let pu : Body := .push 0x3000 8
    ([r (stY q [] (.push 0x5000 8)) fun s => (queueAt s 0 0x5000).isNone,
      r (stY q [op none 1] pu) fun s => at_ s && (waiting s 0 0x3000 false).head? == some (op none 1),
      r (stY { q with nosplice := true } [] pu) fun s => (queueAt s 0 0x3000).any (·.nosplice),
      r (stY { q with shadow := 1 } [] pu) fun s => waiting s 0 0x3000 false == [] && (queueAt s 0 0x3000).any fun q => q.fifo && decide (0 < q.shadow),
      r (stY q [] pu) fun s => waiting s 0 0x3000 false == [] && (queueAt s 0 0x3000).any (fun q => q.shadow == 0) && decide (tableUsed s 0 < 8192),
      r (stY q [] (.pop 0x5000 none)) fun s => (queueAt s 0 0x5000).isNone,
      r (stY q [op (some 4) 1] (.pop 0x3000 none)) fun s => (waiting s 0 0x3000 true).head? == some (op (some 4) 1),
      r (stY { q with shadow := 1 } [] (.pop 0x3000 none)) fun s => waiting s 0 0x3000 true == [] && (queueAt s 0 0x3000).any fun q => decide (0 < q.shadow),
      r (stY q [] (.pop 0x3000 (some 0))) fun s => waiting s 0 0x3000 true == [] && (queueAt s 0 0x3000).any (fun q => q.shadow == 0) && decide (tableUsed s 0 < 8192),
      r (stY { q with nosplice := true } [] (.pop 0x3000 none)) fun s => waiting s 0 0x3000 true == [] && (queueAt s 0 0x3000).any fun q => q.shadow == 0 && q.nosplice,
      (firstDue (stY q [op (some 4) 0] pu) 0).any fun o => o.pkt == 5 && o.push.isSome,
      (firstDue (stY q [op none 0] pu) 0).any fun o => o.pkt == 5 && o.push.isNone,
      (readyPkt? (stY q [op none 1] (.popCancel 0 3))).any (fun p => !popUnderWay (stY q [op none 1] (.popCancel 0 3)) p 3) && ((stY q [op none 1] pu).dev 0).qops.any fun o => o.push.isNone && o.src.eid == 0 && o.src.pend == 3] : List Bool).all id = true := by decide +kernel

/-! ## Witnesses: collectives -/

/-- LM of core 0 that holds doublewords from an offset on. -/
def putL (s : State) (o : Nat) (ws : List Nat) : State := ws.zipIdx.foldl (fun s (w, i) => s.wr (lmKey 0 (o + 8 * i)) 8 w) s

/-- A reduction of FP32 sums over the one member core 0 of one node, and a call of it whose block is at 0x100. -/
def plan1 : Plan :=
  { (default : Plan) with asid := 1, mode := 2, op := 1, ty := 6, nodes := [{ dev := 0, parent := none, pslot := 0, depth := 0 }]
                          members := [{ eid := 0, node := 0, slot := 0 }], dlmode := 2 }
def call1 : Call := { id := 4, member := 0, epoch := 0, block := 0x100, src := 0x3000, dst := 0x5000, len := 4, root := 0, deadline := 0 }

/-- A plan of number 7 in the state. -/
def stP (r : List Nat) (p : Plan) : State :=
  { (st r).modDev 0 fun d => { d with planGen := [(0, 0)] } with plans := [(7, p)], nextId := 50 }

theorem witness_CollectiveCalls :
    let f : Fields := { fS with c := 0, x := false }
    let blk (s : State) (d2 : Nat) : State := putL s 0x100 [0x3000, 0x5000, d2]
    let w (s : State) (p : Env → Bool) : Bool := wit formRed false false f s fun e => on e && bits e.a0 15 6 == 0 && decide (e.a0 < 2 ^ 24) && p e
    let d (e : Env) (n : Nat) : Nat := ((ownWords e e.b0 64 32).toOption.getD []).getD n 0
    let found (kind : Nat) (e : Env) (st : Nat) : Bool :=
      let reads := kind != 1 || some 0 == some (bits (d e 2) 57 48)
      (match planFind e.s0 e.asid e.a0 e.dev with
        | some (7, p) =>
          (firstIdx p.members.length fun i => (p.member i).eid == e.eid) == some 0 &&
            (callSpan e p.inBytes reads (bits (d e 0) 55 0) (min (bits (d e 2) 31 0) 65536) (bits (d e 1) 55 0) (p.resultLen (min (bits (d e 2) 31 0) 65536))).toBool &&
            callStatus p kind (some 0) { (default : Call) with epoch := (p.member 0).next, len := bits (d e 2) 31 0, deadline := d e 3 } (bits (d e 2) 47 32) == st &&
            (sendRelease e e.s (bit e.f.md 1) (p.members.foldl (fun a x => max a (scopeTo e.eid x.eid)) 2)).toBool &&
            decide (e.c.rlocks.length + 1 + b2n reads ≤ 32)
        | _ => false)
    let k (n : Nat) : Plan := { plan1 with kind := n, op := 0, ty := 0, mode := 0, dlmode := 0 }
    ([w (blk (stP [0, 0, 0x100] plan1) 4) fun e => found 0 e stOK && e.t.joins.isEmpty,
      w (blk (stP [0, 0, 0x100] (k 1)) 65536) fun e => found 1 e stOK && e.t.joins.isEmpty,
      w (blk (stP [0, 0, 0x100] (k 1)) (1 + 2 ^ 48)) fun e => found 1 e stOK && e.t.joins.isEmpty,
      w (blk (stP [0, 0, 0x100] (k 2)) 65536) fun e => found 2 e stOK && e.t.joins.isEmpty,
      w (blk (stP [0, 0, 0x100] plan1) 6) fun e => found 0 e stSTATE, w (blk (stP [0, 0, 0x100] plan1) 65540) fun e => found 0 e stSTATE,
      w (blk (stP [0, 0, 0x100] { plan1 with calls := [call1, { call1 with id := 6 }] }) 4) fun e => found 0 e stFULL,
      w (blk (st [0, 0xFF003F, 0x100]) 4) fun e => (planFind e.s0 e.asid e.a0 e.dev).isNone &&
        (callSpan e 1 true (bits (d e 0) 55 0) 4 (bits (d e 1) 55 0) 4).toBool] : List Bool).all id = true := by decide +kernel

theorem witness_CallResults :
    let f : Fields := { fS with b := 0, c := 0, x := false }
    let blk (s : State) (d8 : Nat) : State := putL s 0x140 [d8]
    let block (e : Env) (v : Nat) : Bool := on e && (e.t.collFault.find? (·.1 == e.a0)).isNone &&
      (match ownWords e e.a0 64 32 with | .ok w => w.getD 8 0 % 16 == v | .error _ => false)
    let share : Share := { bitmap := [0], elems := [.pat 0x3F800000], len := 4, root := 0, deadline := 0 }
    let fix (c : Call) (g : Plan → Plan) (p : Env → Plan → Call → Bool) : Bool :=
      wit formRedfix false false f (stP [0, 0x100] (g { plan1 with calls := [c] })) fun e => block e 0 &&
        (match callAt e.s0 e.asid e.eid e.a0 with | some (7, q, c) => p e q c | _ => false)
    let live (e : Env) (p : Plan) : Bool := !p.freed && e.s0.holdsPlan p e.dev
    let fixable (e : Env) (p : Plan) (c : Call) : Bool := live e p && p.kind != 1 && p.mode == 2 && (c.st == 2 || c.st == 3)
    let desc (h : Nat) : State := putW (st [0, 0x3000]) 0x3000 [h, 1 + 2 ^ 16, 0, 0, 0, 0, 0, 0, 0x7FF * 2 ^ 16, 0]
    let free (p : Plan) (posted : Bool) : Bool := wit formCplanFree false false { f with mod := 1 } (stP [0, 0] p) fun e => on e && e.a0 == 0 &&
      (match planFind e.s0 e.asid e.a0 e.dev with | some (7, p) => p.calls.any (·.st == 1) == posted | _ => false)
    -- a plan that another device's Yard holds
    let away : Plan := { plan1 with nodes := [{ dev := 1, parent := none, pslot := 0, depth := 0 }] }
    let there (e : Env) : Bool := (planFind e.s0 e.asid e.a0 e.dev).isNone && (match planAny e.s0 e.asid e.a0 with | some (7, p) => !p.calls.any (·.st == 1) | _ => false)
    ([wit formRedw false false f (st [0, 0x100]) fun e => block e 0,
      wit formRedw false false f (blk (st [0, 0x100]) 1) fun e => block e 1 && readsBound e.t,
      wit formRedw false false f (blk (st [0, 0x100]) 2) fun e => block e 2 && readsBound e.t,
      wit formRedr true true { f with b := 0x220F } (st []) on, wit formRedr true true { f with b := 0x220F, etype := 19, x := true } (st []) on,
      wit formRedfix false false f (st [0, 0x7FF00 - 4096]) fun e => block e 0 && (callAt e.s0 e.asid e.eid e.a0).isNone,
      fix call1 (fun p => { p with freed := true }) fun e p _ => !live e p, fix call1 (fun p => { p with gen := 1 }) fun e p _ => !live e p,
      fix call1 id fun e p c => live e p && !fixable e p c,
      fix { call1 with st := 2 } id fun e p c => fixable e p c && (heldFor p c).isEmpty,
      fix { call1 with st := 3 } (fun p => { p with held := [(0, 0, share)] }) fun e p c => fixable e p c && (heldFor p c).length == 1 && p.op != 7 &&
        readsBound e.t && decide (e.c.rlocks.length < 32) && (applyFixes 7 c.id 1 e.s0).2.isNone,
      wit formCplan false false f (st [0, 4]) fun e => on e && (match readPlan e (addrOf e.a0) with | .ok none => true | _ => false),
      wit formCplan false false f (desc (16 + 6 * 256)) fun e => on e && (match readPlan e (addrOf e.a0) with | .ok (some _) => true | _ => false) && e.t.joins.isEmpty,
      free { plan1 with calls := [call1] } true, free { plan1 with calls := [{ call1 with st := 2 }] } false,
      wit formCplanFree false false { f with mod := 1 } (st [0, 0]) fun e => on e && bits e.a0 15 6 == 0 && decide (e.a0 < 2 ^ 24) &&
        (planFind e.s0 e.asid e.a0 e.dev).isNone && (planAny e.s0 e.asid e.a0).isNone,
      wit formCplanFree false false { f with mod := 1 } ((peer (stP [0, 0] away)).modDev 1 fun d => { d with planGen := [(0, 0)] }) fun e => on e && e.a0 == 0 && there e] : List Bool).all id = true := by decide +kernel

theorem witness_CollectiveEvents :
    let share : Share := { bitmap := [0], elems := [.pat 0x3F800000], len := 4, root := 0, deadline := 0 }
    let two : Plan := { plan1 with nodes := plan1.nodes ++ [{ dev := 0, parent := some 0, pslot := 1, depth := 1 }] }
    let s (p : Plan) (b : Body) : State := withPkt (stP [] p) { pkt0 with src := 0, dst := yardUnit 0, cls := 5, body := b }
    let r (p : Plan) (b : Body) (q : State → Packet → Bool) : Bool := (readyPkt? (s p b)).any fun pk => q (s p b) pk
    let c1 : Plan := { plan1 with calls := [call1] }
    let contrib (p : Plan) (q : State → Call → Bool) : Bool := r p (.contrib 7 4) fun s _ => (p.calls.find? (·.id == 4)).any fun c => q s c
    let read (p : Plan) (n : Nat) : Bool := contrib p fun s c => s.nodeOpen p (p.member c.member).node && (c.st != 4 || c.abort == 4) &&
      decide (stagingUsed s 0 + (if p.kind = 0 then p.resultLen c.len else n) ≤ 2 ^ 24) &&
      (engineAll s 0 (unitSlot 1) s.nextId 1 false (c.src : Int) n).toBool
    let stays (p : Plan) (b : Body) : Bool := r p b fun s pk => Keyed.get? (answer s pk .quiet).plans 7 == some p
    let prep (l : List Nat) : Plan := { plan1 with prep := l, src := some { eid := 0, slot := 0, pend := 3 } }
    let ep (fw : Bool) : Plan := { plan1 with epochs := [{ node := 0, epoch := 0, forwarded := fw }] }
    let job (c : Option Nat) (m : Option Nat) (n : Nat) : Plan :=
      { plan1 with jobs := [{ node := 0, epoch := 0, member := m, acc := share, rest := List.replicate n (1, share), core := c }] }
    let found (p : Plan) (q : Job → Bool) : Bool := [0, 1].any fun n => (p.jobs.find? fun j => j.named 0 0 n).any q
    let yard (g : Thread → Thread) : State := let s := stT [] g; { s with cores := s.cores.map fun (_, c) => (768, c), who := [768] }
    let res (a : Nat) : RResult := { epoch := 0, share := share, abort := a }
    let down (c : Call) (a : Nat) (n : Nat × RResult → Call → Bool) : Bool :=
      let p : Plan := { plan1 with calls := [c], results := [(0, res a)] }
      (p.results.find? fun x => x.1 == 0 && x.2.epoch == 0).any fun x => !p.freed && (p.reaches 0 || p.cutOff.contains (p.node (p.member 0).node).dev) &&
        ((p.calls.find? fun c => c.member == 0 && c.epoch == x.2.epoch && c.st == 1).any (n x)) &&
        ((stP [] p).core (p.member 0).eid).ctx == some p.asid && (blkOpen (stP [] p) 0 c.block).isNone
    let up (p : Plan) : Bool := r p (.planResult 7 0 (res 0)) fun s pk => s.nodeOpen p 0 && p.awaiting 0 0 == [0] &&
      (p.posted 0 0 || decide (stagingUsed s (eidDev pk.dst) + ((((p.awaiting 0 0).filter fun m => !p.posted m 0).map fun _ => p.shareLen share).sum) ≤ 2 ^ 24))
    let fx (c : Call) (q : Call → Bool) : Bool :=
      let p : Plan := { plan1 with calls := [c], fixes := [(0, 0, share)] }
      (dueFix (stP [] p) p 0).any fun x => q x.2.2.2
    let lost (p : Plan) : Bool :=
      let s := (stP [] p).modDev 0 fun d => { d with unreachable := [9] }
      (s.dev 0).unreachable.contains 9 && !p.lost.contains 9 && !p.cutOff.contains 0 && !p.freed && p.devs.contains 9 && p.devs.contains 0
    let far (root mode : Nat) : Plan :=
      { two with mode := mode, nodes := [{ dev := if root = 0 then 0 else 9, parent := none, pslot := 0, depth := 0 },
                                         { dev := if root = 0 then 9 else 0, parent := some 0, pslot := 1, depth := 1 }] }
    let w : Waiting := { what := .call 0x100 1, f := f0, issued := 0 }
    ([contrib { c1 with dead := true } fun s c => !s.nodeOpen { c1 with dead := true } 0 && c.st == 1,
      contrib { plan1 with calls := [{ call1 with st := 4, abort := 1 }] } fun _ c => c.st == 4 && c.abort != 4,
      read { plan1 with calls := [{ call1 with st := 4, abort := 4 }] } 4, read c1 4, read { c1 with kind := 1 } 4, read { c1 with kind := 1, calls := [{ call1 with root := 1 }] } 0,
      r two (.forward 7 1 0 share) fun s _ => (two.node 1).parent == some 0 && s.nodeOpen two 0 && !two.nodeGone 1 &&
        decide (stagingUsed s (two.node 0).dev + two.shareLen share ≤ 2 ^ 24),
      stays (prep [0]) (.planPrep 7) && (prep [0]).src.isSome && (prep [0]).prep.filter (· != 0) == [],
      stays (prep [0, 3]) (.planPrep 7) && (prep [0, 3]).prep.filter (· != 0) != [],
      ((ep false).epochAt 0 0).any fun x => !x.forwarded && (stP [] (ep false)).nodeOpen (ep false) 0 && (ep false).due x (nodeTick (stP [] (ep false)) (ep false) 0),
      ((ep true).epochAt 0 0).any fun x => x.forwarded,
      (let p := { two with opened := [(5, 4, 0)] }; (stP [] p).nodeOpen p 1 && p.opened.any (·.1 == 5) && (p.epochAt 1 5).isNone),
      found (job none none 1) fun j => j.core.isNone && j.rest == [(1, share)] && (freeYard (stP [] (job none none 1)) (plan1.node j.node).dev).isSome,
      found (job (some 768) none 1) fun j => j.core == some 768 && ((stP [] plan1).thr? 768 0).isNone && decide (j.rest.length ≤ 1) && j.member.isNone,
      found (job (some 768) none 2) fun j => decide (1 < j.rest.length), found (job (some 768) (some 0) 1) fun j => j.member.isSome,
      found (job (some 768) none 1) fun j => j.core == some 768 && j.member.isNone &&
        ((yard fun t => { t with status := .trapped default }).thr? 768 0).any fun t => match t.status with | .trapped _ => true | _ => false,
      found { job (some 768) (some 0) 1 with calls := [call1] } fun j => j.core == some 768 && j.member == some 0 && call1.member == 0 && call1.epoch == j.epoch,
      ((yard fun t => { t with issued := 65536 }).thr? 768 0).any fun t => isYard 768 && decide (65536 ≤ t.issued) && t.status == .ready,
      up plan1, up c1, down call1 3 fun x _ => x.2.abort != 0, down call1 0 fun x c => x.2.abort == 0 && !c.wrote,
      stays plan1 (.shake 7 0 0 share) && (stP [] plan1).nodeOpen plan1 0 && !plan1.nodeGone 0 && !plan1.sent 0,
      stays (ep true) (.shake 7 0 0 share) && (stP [] (ep true)).nodeOpen (ep true) 0 && (ep true).sent 0,
      r plan1 (.planFix 7 0 0 share) fun s pk => s.nodeOpen plan1 0 && plan1.membersOf 0 == [0] && decide (stagingUsed s (eidDev pk.dst) + 1 * plan1.shareLen share ≤ 2 ^ 24),
      r two (.planFix 7 1 0 share) fun s _ => s.nodeOpen two 1 && two.membersOf 1 == [],
      r two (.planResult 7 1 (res 0)) fun s _ => s.nodeOpen two 1 && two.awaiting 1 0 == [],
      r { plan1 with dead := true } (.planFix 7 0 0 share) fun s _ => !s.nodeOpen { plan1 with dead := true } 0,
      r { plan1 with dead := true } (.planResult 7 0 (res 0)) fun s _ => !s.nodeOpen { plan1 with dead := true } 0,
      fx { call1 with discard := true } (·.discard), fx { call1 with st := 4, abort := 1 } fun c => c.st == 4 && c.abort != 4,
      fx { call1 with st := 4, abort := 4 } fun c => !c.discard && (blkOpen (st []) 0 c.block).isNone,
      fx { call1 with st := 2 } fun c => !c.discard && c.st != 4 && (blkOpen (st []) 0 c.block).isNone,
      lost (far 1 2) && ((far 1 2).node (far 1 2).root).dev == 9, lost (far 0 0) && (far 0 0).mode == 0 && ((far 0 0).node (far 0 0).root).dev == 0,
      lost (far 0 2) && (far 0 2).mode != 0 && ((far 0 2).node (far 0 2).root).dev == 0,
      ((stT [] fun t => { t with status := .waiting w, drainReq := true }).thr? 0 0).any fun t =>
        t.status == .waiting w && !(t.collFault.any fun x => x.1 == 0x100) && t.drainReq,
      decide (0 < 1 ∧ w.issued + 1 ≤ ({ (st []) with dies := [(0, { cycles := 1 })] } : State).cycle 0)] : List Bool).all id = true := by decide +kernel

/-! ## Witnesses: the system group -/

theorem witness_ExplicitTraps :
    ([wit formTrap true false { f0 with b := 8191 } (st []) on,
      wit formTrap true false { f0 with psel := 1 } (st []) fun e => !on e] : List Bool).all id = true := by decide +kernel

/-- An instance of context 1 on device 0. -/
def inst1 : Inst :=
  { asid := 1, gid := 9, queue := 0, qexp := 10, snap := 0, snapLen := 0, groups := [], since := 0, die := 0 }

/-- A core beside core 0 in the same context. -/
def stTwo (r : List Nat) (g : Core → Core) : State := { st r with cores := (st r).cores ++ [(1, g (codeCore []))] }

theorem witness_SystemInstructions :
    let x : Fields := { fS with c := 0, x := false }
    let u : Fields := { x with b := 0 }
    let w (form : Fields → Option Form) (f : Fields) (s : State) (p : Env → Bool) : Bool := wit form false false f s fun e => on e && p e
    let all (e : Env) (live : Inst → Bool) : List Nat := instsOf e.s0 e.dev e.asid fun i => i.committed && live i && (e.f.md == 0 || i.gid == e.a0)
    let cut (e : Env) : Bool := (e.s0.dev e.dev).unreachable.contains (eidDev e.a0)
    let draining (r : List Nat) : State := { st r with insts := [(0, inst1)] }
    let fz (md : Nat) (s : State) (p : Env → Core → Bool) : Bool := w (formResA · md) { u with mod := BitVec.ofNat 6 md } s fun e => decide (e.a0 < 2 ^ 22) &&
      (eidDev e.a0 == e.dev || !e.s0.hasDev (eidDev e.a0) || (!cut e && e.s0.reaches e.dev (eidDev e.a0))) && p e (e.s0.core e.a0)
    let gone (md : Nat) : Bool := w (formResA · md) { u with mod := BitVec.ofNat 6 md } ((peer (st [0, 4096])).modDev 0 fun d => { d with unreachable := [1] }) fun e =>
      decide (e.a0 < 2 ^ 22) && eidDev e.a0 != e.dev && e.s0.hasDev (eidDev e.a0) && cut e
    let gd (g : List Nat) (p : Env → List Nat → Bool) : Bool := w formGang u (putL (st [0, 0x200]) 0x200 g) fun e =>
      match ownWords e e.a0 64 20 with | .ok l => p e l | .error _ => false
    let good (l : List Nat) : Bool := bits (l.getD 0 0) 63 56 == 0 && bits (l.getD 1 0) 63 56 == 0 && bits (l.getD 2 0) 63 8 == 0 && !(gangDevs l).isEmpty
    ([w formEret x (st [0, 31 * 2 ^ 32 + 0x3FFFFF, 0x7FFFF * 2 ^ 32 + 3]) fun e => bits e.a0 31 22 == 0 && bits e.a0 63 37 == 0 && bits e.b0 31 2 == 0 &&
        bits e.b0 63 51 == 0 && e.t.joins.isEmpty,
      w formDrain { u with a := 0 } (draining []) fun e => e.f.md == 0 && (all e fun i => !i.draining) == [9],
      w formDrain { u with mod := 1 } (draining [0, 9]) fun e => e.f.md == 1 && decide (e.a0 < 2 ^ 16) && (all e fun _ => true) == [9],
      w formDrain { u with mod := 1 } (draining [0, 65535]) fun e => e.f.md == 1 && decide (e.a0 < 2 ^ 16) && (all e fun _ => true) == [],
      w formDrain { u with mod := 1 } (draining [0, 65536]) fun e => e.f.md == 1 && decide (2 ^ 16 ≤ e.a0),
      w formDrainRes { u with a := 0, mod := 2 } (draining []) fun _ => true,
      fz 0 (st [0, 0]) fun e _ => frzBad e, fz 0 (stTwo [0, 1] fun c => { c with frozen := true }) fun e c => !frzBad e && c.frozen,
      fz 0 (stTwo [0, 1] id) fun e c => !frzBad e && !c.frozen && c.freezing.isNone, fz 0 (peer (st [0, 4096])) fun e _ => frzBad e && eidDev e.a0 != e.dev,
      fz 0 (st [0, 0x3FFFFF]) fun e _ => frzBad e && !e.s0.hasDev (eidDev e.a0), gone 0, gone 1,
      fz 1 (stTwo [0, 1] id) fun e c => !frzBad e && !c.frozen, fz 1 (stTwo [0, 1] fun c => { c with frozen := true }) fun e c => !frzBad e && c.frozen,
      gd [] fun _ l => !good l,
      gd [0x3000, 0x5000, 255, 0, 1] fun e l => good l && gangGid e.s0 e.dev e.asid [] == some 61440 && e.t.joins.isEmpty && (sendRelease e e.s false 4).toBool] : List Bool).all id = true := by decide +kernel

theorem firstIdx_none {n : Nat} {p : Nat → Bool} (h : ∀ i < n, p i = false) : firstIdx n p = none :=
  List.find?_eq_none.mpr fun i hi => by simp [h i (List.mem_range.mp hi)]

/-- `n` instances with the first GIDs of the gang range. -/
def gangs (n : Nat) : List (Nat × Inst) := (List.range n).map fun i => (0, { inst1 with gid := 61440 + i })

theorem gangs_live (s : State) (n i : Nat) (h : i < n) : (liveGids { s with insts := gangs n } 0 1).contains (61440 + i) = true :=
  List.contains_iff_mem.mpr (List.mem_map.mpr ⟨(0, { inst1 with gid := 61440 + i }),
    List.mem_filter.mpr ⟨List.mem_map.mpr ⟨i, List.mem_range.mpr h, rfl⟩, rfl⟩, rfl⟩)

theorem noGid (s : State) : gangGid { s with insts := gangs 4095 } 0 1 [] = none := by
  unfold gangGid
  dsimp only
  rw [firstIdx_none]
  · rfl
  · intro i hi
    rw [gangs_live s 4095 i hi]
    rfl

theorem witness_NoGangIdentifier :
    let s : State := putL (st [0, 0x200]) 0x200 [0x3000, 0x5000, 255, 0, 1]
    wit formGang false false { fS with b := 0, c := 0, x := false } { s with insts := gangs 4095 } (fun e => on e && e.t.joins.isEmpty &&
        (match ownWords e e.a0 64 20 with
          | .ok l => bits (l.getD 0 0) 63 56 == 0 && bits (l.getD 1 0) 63 56 == 0 && bits (l.getD 2 0) 63 8 == 0 && !(gangDevs l).isEmpty
          | .error _ => false) && (sendRelease e e.s false 4).toBool) = true ∧
      gangGid { s with insts := gangs 4095 } 0 1 [] = none := ⟨by decide +kernel, noGid _⟩

set_option maxRecDepth 100000 in
theorem witness_ContextImages :
    let x : Fields := { fS with b := 0, c := 0, x := false }
    let bare (h : Thread → Thread) : State := stT [0, 0x3000] fun t => h { t with vlive := 0 }
    let t0 (e : Env) : Thread := (((e.s.thr? e.eid e.slot).getD e.t).flush e.s0.free).write e.od fun l => if l = 0 then some 0 else none
    let mask (e : Env) : Nat := (simm14 e.f.b).toNat
    let saves (e : Env) : Bool := on e && e.t.imageEcc.isNone && e.t.allLanded && e.t.joins.isEmpty && addrOf e.a0 % 64 == 0 && mask e / 2 ^ min e.slots 4 == 0 &&
      (areaKeys e (addrOf e.a0) (imageOf e.c (t0 e) (e.pc + e.len) (mask e) (imageSlots e (mask e))).length true).toBool && e.c.mxq.isEmpty
    let slot1 (g : AccSlot → AccSlot) : State := { (bare id).modCore 0 fun c => { c with
      bindings := [{ bindIn with accs := [0] }], accs := c.accs.map g } with recs := [(0xFFFFFFF, { rec5 .running with handle := 0xFFFFFFFF, slots := 1 })] }
    let reads (e : Env) (l : List Nat) : Bool := !(l.any fun k => e.s0.bad.contains k && keyIsLm k && !e.s0.far e.dev k) && !l.any (e.s0.cutKey e.dev) &&
      (farRead e.s0 e.asid e.eid e.slot e.s0.nextId l).toBool && l.all fun k => (farSeen e.s0 e.eid e.slot e.s0.nextId k).isSome
    let loads (e : Env) : Option Nat := if on e && e.t.allLanded && e.t.joins.isEmpty && addrOf e.a0 % 64 == 0 then
      (match areaKeys e (addrOf e.a0) 8 false with
        | .ok ks => if reads e ks then some (ofBytes (ks.map fun k => (farSeen e.s0 e.eid e.slot e.s0.nextId k).getD 0)) else none
        | .error _ => none) else none
    let legal (e : Env) (h : Nat) : Bool := bits h 51 48 / 2 ^ min e.slots 4 == 0 && (bits h 51 48 ||| mask e) == mask e &&
      (bits h 55 52 == 0 || isWTile (eidEp e.eid)) && bits h 47 32 % 64 == 0 && bits h 47 32 != 0 && decide (bits h 47 32 ≤ 512)
    let room (e : Env) (h : Nat) : Bool := decide (bits h 47 32 / 64 ≤ e.t.units.length + (freeUnits e.c).length)
    let ld (s : State) (p : Env → Nat → Bool) : Bool := wit formCtx false false x s fun e => (loads e).any fun h => p e h
    let head (n : Nat) : State := putW (bare id) 0x3000 [n]
    let full (c : Core) : Core := { c with threads := (c.threads.map fun (i, t) => (i, { t with swinv := 256, units := [0, 1, 2, 3] })) ++ [(1, { ((Keyed.get? c.threads 0).getD default) with units := (List.range 58).map (· + 4) })] }
    let spoilt (k : Nat) (c : Nat) : Bool := wit formCtxsv false false x (stT [0, 0x3000] fun t => { t with ecc := [k] }) fun e => on e && e.t.allLanded && e.t.joins.isEmpty && e.t.imageEcc == some c
    ([spoilt 511 1, spoilt 767 1, spoilt 769 2,
      wit formCtxsv false false { x with b := 1 } (slot1 fun a => { a with fault := some (5, 0) }) fun e => saves e &&
        (imageSlots e 1).any fun i => (e.c.accs.getD i.2 default).fault != none,
      wit formCtxsv false false x (bare id) fun e => saves e && (imageSlots e 0).isEmpty,
      ld (bare id) fun _ h => h % 2 ^ 32 == 0, ld (head 384) fun e h => h % 2 ^ 32 != 0 && !legal e h,
      ld ((head (384 + 512 * 2 ^ 32)).modCore 0 full) fun e h => h % 2 ^ 32 != 0 && legal e h && !room e h,
      ld (head (384 + 512 * 2 ^ 32)) fun e h => h % 2 ^ 32 != 0 && legal e h && room e h &&
        (match areaKeys e (addrOf e.a0) (h % 2 ^ 32) false with | .ok bs => reads e bs | .error _ => false) &&
        (areaKeys e (addrOf e.a0) 8 true).toBool && e.c.mxq.isEmpty] : List Bool).all id = true := by decide +kernel

theorem witness_SystemEvents :
    let b : Body := .eret 3 0 0
    let s (b : Body) (g : Core → Core) : State := withPkt (stC [] g) { pkt0 with cls := 3, body := b }
    let r (s : State) (p : Packet → Bool) : Bool := (readyPkt? s).any p
    let g : Gang :=
      { id := 6, asid := 1, src := { eid := 0, slot := 0, pend := 2 }, template := 0x3000, rename := 0x5000, queue := 0, tstart := 0, devs := [0]
        gid := 61440, die := 0, refusedG := [], round := 1, prepared := [], refusals := [], waits := [0] }
    let tmpl (s : State) : State := putW (putW s 0x3000 [1]) 0x3040 [2 ^ 8 + 127 * 2 ^ 20, 0, 0, 2 ^ 19]
    let sg (b : Body) (g : Gang) : State := withPkt { tmpl (st []) with gangs := [g] } { pkt0 with dst := dieUnit 0, cls := 3, body := b }
    let i : Inst := { inst1 with armAt := some 0 }
    -- an address at which no template stands
    let bad : Gang := { g with template := 0x7000 }
    let up (s : State) (g : Gang) : Bool := (s.ctx? 0 1).isSome && (s.dev 0).locked && (queueRing s 0 1 g.queue).isSome
    let read (s : State) (g : Gang) : Bool :=
      (readTemplate s (dieUnit 0) (unitSlot 6) 1 g.template).toBool && (engineAll s (dieUnit 0) (unitSlot 6) s.nextId 1 false (g.rename : Int) 128).toBool
    let chk (s : State) (g : Gang) (ok : Bool) : Bool := match readTemplate s (dieUnit 0) (unitSlot 6) 1 g.template with
      | .ok t => (checkTemplate (farDone s (dieUnit 0) (unitSlot 6) 0) 0 1 0 t (some g.gid)).toBool == ok
      | .error _ => false
    ([r (s b fun c => { c with ctx := none }) fun p => (s b id).hasCore p.dst, r (s (.eret 16 0 0) id) fun _ => true,
      r (s b id) fun p => (s b id).hasCore p.dst && ((s b id).core p.dst).ctx == some p.asid && !endWaits (s b id) p.dst 3 0,
      (let x := (s (.eret 0 2 0) id).modThr 0 0 fun t => { t with status := .trapped default, joins := [{ id := 9, scope := 3, pend := 0, ids := [7], stash := false }] }
       let x := { x with accs := [{ (default : Access) with id := 7, op := .store 0, keys := [0], pieces := [(0, 1)] }] }
       r x fun p => ((x.core p.dst).ctx == some p.asid && endWaits x p.dst 0 2)),
      ((s (.reply (.result [])) id).pkt? 1).any fun p => p.here (s (.reply (.result [])) id) && p.body.caught && p.body.own,
      ((s b fun c => { c with frozen := true }).pkt? 1).any fun p => p.here (s b fun c => { c with frozen := true }) && p.body.caught,
      r (sg (.gangPrep 6) { g with queue := 7 }) fun _ => !up (sg (.gangPrep 6) g) { g with queue := 7 },
      r (sg (.gangPrep 6) g) fun _ => up (sg (.gangPrep 6) g) g && read (sg (.gangPrep 6) g) g && chk (sg (.gangPrep 6) g) g true,
      r (sg (.gangPrep 6) bad) fun _ => up (sg (.gangPrep 6) bad) bad && read (sg (.gangPrep 6) bad) bad && chk (sg (.gangPrep 6) bad) bad false,
      r (sg (.gangCommit 6) { g with waits := [0, 1], phase := 1 }) fun p => [0, 1].filter (· != eidDev p.dst) != [],
      r (sg (.gangCommit 6) { g with waits := [0, 1], phase := 2 }) fun p => [0, 1].filter (· != eidDev p.dst) != [],
      r (sg (.gangCommit 6) { g with waits := [0], phase := 2 }) fun p => [0].filter (· != eidDev p.dst) == [],
      i.committed && i.armAt == some 0 && (([(0, i)] : List (Nat × Inst)).find? fun (d, i) => d == 0 && i.asid == 1 && i.gid == 9).isSome] : List Bool).all id = true := by decide +kernel

/-! ## Witnesses: steps of the dispatchers, of memory, of the fabric and of the platform -/

/-- Record 5 in a state, by its fields. -/
def stD5 (s : State) (g : Rec → Rec) : State := { s with recs := [(5, g (rec5 .made))] }

theorem witness_DispatcherEvents :
    -- queue 0's ring is at 0x3000 and holds one entry
    let q (entries : Nat) : State := { putW (st []) 0x3000 [entries, 2 + 3 * 256, 1, 1, 0, 0] with
      ctxs := (st []).ctxs.map fun (k, c) => (k, { c with queues := [(0x3000, 3)] }) }
    let tk (s : State) (ok : Bool) : Bool := (takeable s 0 1 0).any fun (_, r) => (match xlBlock s 0 1 (r.entry r.take) 8 false with | .ok _ => ok | .error _ => !ok)
    let rdy : State := (stD5 (st []) fun r => { r with state := .ready, count := 0, threads := 1, codegr := 1, tabled := true, pin := 1 }).modDie 0 fun d => { d with ready := [5] }
    let op : TaskOp := { src := 0x3000, len := 100, lmofs := 0, sym := false, pw := false, all := false, rdy := true, v := true, fetch := 1 }
    let ops (o : TaskOp) : State := stD5 (st []) fun r => { r with state := .staging, ops := [o], berth := some 0 }
    let line (s : State) : Nat := match (s.rec? 5).bind fun r => (r.ops[0]?).map fun o => (r, o) with
      | some (r, o) => if !o.buf.isEmpty then 3 else
        (match fetchLine s r (addrOf o.src) o.len o.got with | .ok _ => 1 | .error (.fault ..) => 2 | .error _ => 4)
      | none => 0
    let text (a : Nat) : State := stD5 (st []) fun r => { r with text := 1, code := a, codegr := 1, berth := some 0 }
    let loads (a : Nat) : Option Bool := ((text a).rec? 5).bind fun r => if r.text ≠ 1 then none else
      match textLine (text a) r with
      | .ok _ => some true | .error (.fault ..) => some false | .error _ => none
    let i : Inst := { inst1 with qexp := 0 }
    let ended (s : State) (p : State → Rec → Bool) : Bool := (s.rec? 5).any fun r => s.taskThreads 5 == [] && !commandsOf s r &&
      r.state == .done && !leftWrites s r && ((State.ranOn r).find? (fun e => (s.core e).stash.any (dirtyIn s e 5 (doneScope s r)))).isNone && p s r
    ([tk (q 0x4000) true, tk (q 0xFF_FFFF_F000) false, (rdy.rec? 5).any (·.tabled), (selection rdy 0).isSome,
      line (ops op) == 1, line (ops { op with src := 0xF0 * 2 ^ 48 + 0x7F000 }) == 2, line (ops { op with buf := [(0, [0])] }) == 3,
      loads 0x3000 == some true, loads (0xF0 * 2 ^ 48 + 0x7F000) == some false,
      runnable { rec5 .staging with count := 0, text := 2 },
      (let s := stD5 (st []) fun r => { r with state := .cancelling }
       (s.rec? 5).any fun r => s.taskThreads 5 == [] && !commandsOf s r && r.state == .cancelling && !leftWrites s r),
      ended (stD5 (st []) fun r => { r with state := .done, berth := some 0 }) fun s r => !suspends s r,
      ended { stD5 (st []) fun r => { r with state := .done, berth := some 0, drained := true, gid := 9 } with insts := [(0, inst1)] } fun s r =>
        suspends s r && !outstanding s 3 (completionJoin s r 3),
      !i.told && i.armAt.isNone && decide (2 ^ i.qexp ≤ dieCycle { st [] with dies := [(0, { cycles := 1 })] } i.die - i.since)] : List Bool).all id = true := by decide +kernel

theorem witness_MemoryEvents :
    let a : Access := { id := 3, eid := 0, slot := 0, op := .load, va := 0x3000, keys := [dramKey 0 0x3000], pieces := [(0, 1)], grp := 4 }
    let am (k : Nat) : Access := { a with op := .amo 0 6 0, keys := (List.range 4).map (k + ·), pieces := [(0, 4)] }
    let s (a : Access) (g : Core → Core) : State := { stC [] g with accs := [a], who := [3] }
    let due (a : Access) : Bool := (s a id).accs.find? (·.id == 3) == some a && mayPerform (s a id) a && !((s a id).core 0).frozen
    let w (r : Bool) : Walk := { asid := 1, vpn := 3, core := 0, slots := [(0, 0)], running := r }
    let die (l : List Walk) : State := (st []).modDie 0 fun d => { d with walks := l }
    let j : Join := { id := 8, scope := 2, ids := [], stash := false, pend := 0 }
    let p : Pend := { id := 9, target := .none, need := 1, tlb := true }
    let g : StashGr := { filled := false, dirty := 0, want := true }
    -- a page table whose level 2 entry is a leaf
    let leaf : State := { putW (putW (putW (st []) 0x10000 [0x11001]) 0x11000 [0x12001]) 0x12000 [7] with
      ctxs := (st []).ctxs.map fun (k, c) => (k, { c with root := 0x10 }) }
    let sto (n : Nat) : Access := { a with op := .store 0x55, near := n, grp := 0 }
    let nib : Access := { a with op := .nibble true 5 }
    let two (a : Access) : Access := { a with keys := [dramKey 0 0x3000, dramKey 0 0x3001], pieces := [(0, 1), (1, 1)] }
    let hurt (s : State) : State := { s with bad := [dramKey 0 0x3000] }
    let piece (h : State → State) (a : Access) (err more : Bool) : Bool :=
      let s := h (s a id)
      s.accs.find? (·.id == 3) == some a && mayPerform s a && !(s.core 0).frozen && !a.atomic && !a.isNear && match a.pieces with
        | (o, n) :: rest => homeError s a ((List.range n).map fun i => a.keys.getD (o + i) 0) == err && !rest.isEmpty == more
        | [] => false
    let home (h : State → State) (a : Access) (err : Bool) : Bool :=
      let s := h (s a id)
      s.accs.find? (·.id == 3) == some a && mayPerform s a && !(s.core 0).frozen && a.atomic && !keyIsLm (a.keys.headD 0) && homeError s a a.keys == err
    let cas (cmp : Nat) : Access := { am (dramKey 0 0x3000) with op := .cas cmp 1 }
    let blank (g : StashGr) (va : Nat) : State := { stC [] fun c => { c with stash := [{ lo := 0, va := va, grs := [g] }] } with who := [0, 0] }
    -- whether a fill is asked for, and may be made, of granule `x` of a window on `va`
    let fillDue (s : State) (x : StashGr) : Bool := (s.core 0).stashOf 0 == some (0, 0) && granOf s 0 0 0 == some x &&
      (!x.filled || x.stale) && x.want && (!x.stale || !granInUse s 0 0)
    -- 1: cut off, 2: an error in the bytes, 3: filled, 4: a fault
    let fills (h : State → State) (x : StashGr) (va n : Nat) : Bool :=
      let s := h (blank x va)
      fillDue s x && (!x.stale || x.dirty == 0) && match xlCore s 0 1 va false with
        | .ok k _ =>
          let ks := (List.range 4096).map (k + ·)
          n == (if s.cutKey 0 k then 1 else match farRead s 1 0 (fillSlot 0) 0 ks with
            | .ok _ => if ks.any fun k => (farSeen s 0 (fillSlot 0) s.nextId k).isNone then 2 else 3
            | .error _ => 0)
        | .fault _ => n == 4
        | .miss => false
    ([due (sto 0) && (sto 0).isNear && !(sto 0).atomic, due (sto 1) && (sto 1).isNear && !(sto 1).atomic, piece hurt (sto 2) true false, piece id (sto 2) false false, piece id (two (sto 2)) false true,
      piece hurt a true false, piece id a false false, piece id (two a) false true, piece hurt nib true false, piece id nib false false,
      home hurt (am (dramKey 0 0x3000)) true, home id (am (dramKey 0 0x3000)) false, home id (cas 0) false && (s (cas 0) id).numAt (cas 0).keys == 0,
      home id (cas 1) false,
      due (am (lmKey 0 0x100)) && (am 0).atomic && keyIsLm (lmKey 0 0x100) && !((s a id).core (keyCore (lmKey 0 0x100))).frozen && ((s a id).core 0).handlerQ.isEmpty && (s a id).net.isEmpty,
      (let s := s (am (lmKey 0 0x100)) fun c => { c with handlerQ := [.atomic 3] }
       (s.core 0).handlerQ == [.atomic 3] && freeHandler (s.core 0) == some 16 && !(s.core 0).frozen && (s.accs.find? (·.id == 3)).isSome),
      !(st []).bad.contains 5,
      (firstIdx ((die [w false]).die 0).walks.length fun i => (((die [w false]).die 0).walks[i]?).any fun w => !w.running) == some 0 &&
        decide ((((die [w false]).die 0).walks.filter (·.running)).length < 64),
      (((die [w true]).die 0).walks.find? fun w => w.asid == 1 && w.vpn == 3 && w.running).isSome && !(walk (die []) 0 1 3).toBool,
      (walk leaf 0 1 3).toBool,
      ((stT [] fun t => { t with joins := [j] }).thr? 0 0).any fun t => t.joins.find? (·.id == 8) == some j && j.complete (st []),
      ((stT [] fun t => { t with pend := [p] }).thr? 0 0).any fun t => t.pend.find? (·.id == 9) == some p && p.tlb && p.need != 0 && (st []).accs.isEmpty,
      ((blank g 0x3000).core 0).stashOf 0 == some (0, 0) && (((blank g 0x3000).core 0).stash[0]?).isSome && granOf (blank g 0x3000) 0 0 0 == some g && !g.filled && g.want,
      (let x : StashGr := { filled := true, dirty := 5 }
       granOf (blank x 0x3000) 0 0 0 == some x && x.filled && runsOf (dirtyOffs x) == [(0, 1), (2, 1)]),
      !fillDue (blank { g with want := false } 0x3000) { g with want := false },
      (let x : StashGr := { filled := true, stale := true, dirty := 5, want := true }
       fillDue (blank x 0x3000) x && x.stale && x.dirty != 0),
      fills (fun s => ((peer s).modDev 0 fun d => { d with unreachable := [1] }).modCore 0 fun c =>
        { c with tlb := [{ asid := 1, vpn := 0x100000, pages := 1, leaf := 0x57 + 2 ^ 54 }] }) g (2 ^ 32) 1,
      fills hurt g 0x3000 2, fills id g 0x3000 3, fills id { g with filled := true, stale := true } 0x3000 3, fills id g (2 ^ 45) 4] : List Bool).all id = true := by decide +kernel

theorem witness_BarrierAndEdgeEvents :
    let s (b : Body) : State := withPkt (st []) { pkt0 with body := b }
    let bar : Body := .barrier (lmKey 0 0x100) 1 1
    let w : Waiting := { what := .barrier 0x100 1, f := f0, issued := 0 }
    let gk : Nat := groupKey 0 1 7
    let grp : State := { st [] with groups := [(gk, { gid := 9, eids := [0], arrived := [0] })] }
    let es (b : Body) (g : Edge) : State := withPkt (stE [] g id) { pkt0 with body := b }
    let resv (g : Edge) (net : List Packet) : State := { es (.edgeResv 1) g with net := (es (.edgeResv 1) g).net ++ net }
    let r (g : Edge) (net : List Packet) (p : State → Packet → Edge → Bool) : Bool := let s := resv g net
      (reservation? s).any fun (q, id) => id == 1 && (s.edge? 1).any fun h => h.ntok != 0 && p s q h
    let full : Edge := { edge1 with resv := 2 }
    let drains : State := { stE [] { edge1 with prod := 4, cons := 5 } id with recs := [(5, { rec5 .running with gid := 9 })], insts := [(0, { inst1 with draining := true })] }
    ([(readyPkt? (s bar)).any fun p => !barHeld (s bar) p (lmKey 0 0x100) && (emptyGran (s bar) [lmKey 0 0x100]).isNone,
      (([{ id := 3, eid := 0, slot := 0, obj := 0x100, after := [] }] : List Ack).find? fun a => a.id == 3 && a.eid == 0 && a.slot == 0).isSome && !outstanding (st []) 2 [] && !outstanding (st []) 4 [],
      ((stT [] fun t => { t with status := .waiting w, drainReq := true }).thr? 0 0).any fun t => t.status == .waiting w && t.drainReq,
      decide (0 < 1 ∧ w.issued + 1 ≤ ({ (st []) with dies := [(0, { cycles := 1 })] } : State).cycle 0),
      (Keyed.get? grp.groups gk).any fun g => g.eids != [] && groupJoined grp g && g.eids.all fun e => (memberGroup grp gk e).arrived.contains e,
      r { edge1 with placed := false } [] fun _ _ g => !g.placed,
      r edge1 [] fun s p g => g.placed && (g.waiting s).headD p.id == p.id && !g.full,
      r full [] fun s p g => g.placed && g.full && !(g.waiting s).contains p.id,
      r { edge1 with waitq := [2] } [{ pkt0 with id := 2 }] fun s p g => g.placed && (g.waiting s).headD p.id != p.id && !(g.waiting s).contains p.id,
      (readyPkt? (es (.edgeToken 1 []) edge1)).isSome && ((es (.edgeToken 1 []) edge1).edge? 1).any fun g => g.ntok != 0,
      (readyPkt? (es (.eosMark 1 0) edge1)).isSome && ((es (.eosMark 1 0) edge1).edge? 1).any fun g => g.ntok != 0 && g.nprod != 0,
      (drains.edge? 1).any fun g => markerDue drains g] : List Bool).all id = true := by decide +kernel

/-- Two devices whose ticks are `n`. -/
def stFar (n : Nat) : State :=
  let one : Device := { stage := 5, locked := true, numbered := true }
  let at_ (v : Device) : Device := { v with tick := n }
  { st [] with trt := 1000, devs := (st []).devs.map (fun x => (x.1, at_ x.2)) ++ [(1, at_ one)] }

/-- A request from core 0 to device 1's dispatcher. -/
def far : Packet := { pkt0 with src := 0, dst := 4096, cls := 3, body := .gangCommit 6 }

/-- A request with a port to take waits for one of them. -/
theorem waitPort_of {s : State} {p : Packet} (h : ((List.range 24).filter fun i => (portOf s (eidDev p.tail) i).routed) ≠ []) :
    ∃ i ∈ List.range 24, waitPort s p = some i := by
  have hl := List.length_pos_iff.mpr h
  refine ⟨_, ?_, List.getElem?_eq_getElem (Nat.mod_lt _ hl)⟩
  exact (List.mem_filter.mp (List.getElem_mem _)).1

/-- A packet in front of its port may leave it, whichever port it has taken. -/
theorem leaves_of {s : State} {p : Packet} (h : ((List.range 24).filter fun i => (portOf s (eidDev p.tail) i).routed) ≠ [])
    (hd : (List.range 24).all (fun i => !escapeDue s p i) = true)
    (hq : (p.abroad && !p.out && p.queued.isSome && p.routed s) = true) : ∃ i, waitPort s p = some i ∧ p.mayLeave s = true := by
  obtain ⟨i, hi, h⟩ := waitPort_of h
  exact ⟨i, h, by simp only [Packet.mayLeave, h, hq, List.all_eq_true.mp hd i hi]; rfl⟩

/-- A request sent for the first time, one sent again, a packet that asks for no answer, and a reply leave their ports. -/
theorem packetLeaves_witness :
    let p : Packet := { far with queued := some 0 }
    ∀ q ∈ [p, { p with tick0 := some 0 }, { p with cls := 6 }, { p with state := .answered }],
      ∃ i, waitPort (stFar 7) q = some i ∧ q.mayLeave (stFar 7) = true := by
  intro p q hq
  simp only [List.mem_cons, List.not_mem_nil, or_false] at hq
  rcases hq with rfl | rfl | rfl | rfl <;> exact leaves_of (by decide +kernel) (by decide +kernel) (by decide +kernel)

/-- One that has waited for the threshold of its virtual channel moves first. -/
theorem packetEscapes_witness :
    let p : Packet := { far with queued := some 0 }
    ∃ i, waitPort (stFar 200000) p = some i ∧ escapeDue (stFar 200000) p i = true := by
  intro p
  obtain ⟨i, hi, h⟩ := waitPort_of (s := stFar 200000) (p := p) (by decide +kernel)
  have hd : (List.range 24).all (fun i => escapeDue (stFar 200000) p i) = true := by decide +kernel
  exact ⟨i, h, List.all_eq_true.mp hd i hi⟩

/-- The reply of a plain load does not reach a frozen core. -/
theorem replyLost_witness :
    let a : Access := { id := 3, eid := 0, slot := 0, op := .load, va := 0, keys := [dramKey 1 0], pieces := [(0, 1)], grp := 4 }
    let p : Packet := { far with body := .access 3, out := true, tick0 := some 0, state := .answered }
    let s : State := State.modCore { stFar 7 with accs := [a], net := [p], who := [1] } 0 fun c => { c with frozen := true }
    s.pkt? 1 = some p ∧ p.mayLeave s = false ∧ p.mayArrive s = true ∧ replyLost s p = true := by
  intro a p s
  have h : ((s.core p.src).frozen && p.reads s) = true := by decide +kernel
  exact ⟨by decide +kernel, by decide +kernel, by decide +kernel,
    by unfold replyLost; rw [show p.body = .access 3 from rfl]; simp only [h, Bool.or_true]⟩

theorem witness_FabricEvents :
    let out : Packet := { far with tick0 := some 0, out := true }
    let t : Nat → State := stFar
    let here (b : Body) : State := withPkt (st []) { pkt0 with dst := dieUnit 0, cls := 3, body := b }
    let a : Access := { id := 3, eid := 0, slot := 0, op := .load, va := 0, keys := [dramKey 1 0], pieces := [(0, 1)], grp := 4 }
    let load : Packet := { out with body := .access 3 }
    let port (g : Port → Port) : State := { st [] with devs := (st []).devs.map fun (d, v) => (d, { v with ports := v.ports.map g }) }
    let dv (g : Device → Device) : State := { t 0 with devs := (t 0).devs.map fun (d, v) => (d, if d = 0 then g v else v) }
    let old (s : State) (p : Packet) : Option CachedReply := s.cache.find? fun c => c.unit == p.unit && c.src == p.src && c.cls == p.cls && c.seq == p.seq
    let comes (s : State) (p : Packet) : Bool := !p.mayLeave s && p.mayArrive s && p.state != .answered
    let served (s : State) : Bool := comes s out && !out.reads s && out.crosses && out.known s
    let back (x : Answer) : Bool :=
      let p : Packet := { out with dst := 4096 * 7, state := .answered, ans := x }
      !p.mayLeave (t 0) && p.mayArrive (t 0) && !replyLost (t 0) p
    let kept : CachedReply := { unit := 4096, src := 0, cls := 3, seq := 0, pkt := 1, reply := .quiet, freeAt := 0 }
    let filled : State := { t 2000 with cache := List.replicate 64 { kept with seq := 9 } }
    let acts (s : State) (p : State → Packet → Bool) : Bool := (s.pkt? 1).any fun q => !q.abroad && !q.stale s && q.ready s && p s q
    -- at device 1: an engine of device 0 reads, or writes, the first line of its DRAM
    let eng (w : Bool) (bad : List Nat) : State := { withPkt (t 0) { out with state := .arrived, body := .engine } with
      fars := [{ pkt := 1, eid := 0, slot := 32, id := 0, line := dramKey 1 0 / 64, write := w, bytes := if w then [(dramKey 1 0, 5)] else [], st := 0 }], bad := bad }
    let engOk (w : Bool) (bad : List Nat) (hit : Bool) : Bool := acts (eng w bad) fun s q => (s.fars.find? (·.pkt == q.id)).any fun f =>
      f.write == w && (emptyGran s (if w then f.bytes.map (·.1) else (List.range 64).map (64 * f.line + ·))).isNone &&
        (f.bytes.any fun x => s.bad.contains x.1 && !keyIsLm x.1) == hit
    let acc7 : Access := { a with keys := [dramKey 7 0] }
    let cut7 : State := { (st []).modDev 0 fun d => { d with unreachable := [7] } with accels := [7], accs := [acc7], who := [3] }
    ([far.mayQueue (t 0), comes (t 0) { out with cls := 6 }, comes { t 0 with accs := [a] } load && load.reads { t 0 with accs := [a] },
      comes (t 0) { out with dst := 4096 * 7 } && !({ out with dst := 4096 * 7 } : Packet).known (t 0),
      served { t 0 with cache := [kept] } && (old { t 0 with cache := [kept] } out).isSome,
      served (t 2001) && (old (t 2001) out).isNone && out.stale (t 2001),
      served (t 2000) && (old (t 2000) out).isNone && !out.stale (t 2000) && decide (cacheUsed (t 2000) out.unit < 64),
      served filled && (old filled out).isNone && !out.stale filled && decide (64 ≤ cacheUsed filled out.unit),
      back .later, back .stale, back .full, back .quiet,
      ({ out with state := .arrived } : Packet).stale (t 2001),
      acts (here (.taskOp 2 [5])) fun _ q => q.body == .taskOp 2 [5], engOk false [] false, engOk true [] false, engOk true [dramKey 1 0] true,
      resendDue (t 500) out, resendDue (t 500) { out with state := .done }, !resendDue (t 499) out, giveUpDue (t 2000) out, !giveUpDue (t 1999) out,
      giveUpDue (t 2000) load && ({ t 2000 with accs := [a] }.accs.find? (·.id == 3)) == some a,
      ({ far with state := .later } : Packet).due ≤ (t 0).tickOf 0,
      (cut7.pkt? 3).isNone && cut7.accs.find? (·.id == 3) == some acc7 && accessDue cut7 acc7,
      thresholdDue ((st []).modDev 0 fun d => { d with yard := 2 ^ 20 }) 0 23,
      (portOf (port fun p => { p with up := false }) 0 23).routed && !(portOf (port fun p => { p with up := false }) 0 23).up,
      lostDue (dv fun d => { d with noRoute := [(1, 0)], tick := 1000 }) 0 1, foundDue (dv fun d => { d with unreachable := [1] }) 0 1,
      ({ st [] with accels := [7] } : State).accels != [],
      !((t 0).dev 1).master && ((t 0).dev 1).linked && ((t 0).devs.find? (fun x => x.2.master && x.2.linked && !((t 0).dev 1).unreachable.contains x.1)).isSome,
      lockLossDue { t 0 with devs := [(1, { locked := true, err := 16 })] } 1,
      masterDue { t 0 with devs := (t 0).devs.map fun (d, v) => (d, { v with master := false }) } 0, ((t 0).dev 0).master,
      !((t 0).ctxs.any fun (k, _) => k / 65536 == 1) && !(t 0).accels.contains 1 && !((t 0).dev 1).joined, !(t 0).hasDev 1023,
      (let s : State := { st [] with devs := (st []).devs ++ [(1025, { stage := 4 })] }
       s.hasDev 1025 && (s.dev 1025).linked && !(s.dev 1025).numbered && !(s.ctxs.any fun (k, _) => k / 65536 == 1025) && !s.accels.contains 1025 &&
         !s.hasDev 1023 && !s.accels.contains 1023)] : List Bool).all id = true := by decide +kernel

theorem witness_PlatformEvents :
    -- function 1 belongs to context 1 and its ring, in host scope, stands at 0x3000 of the device's DRAM
    let fn (g : HostFn → HostFn) (s : State) : State := s.modDev 0 fun d => { d with fns := d.fns.map g }
    let ring (pub : Nat) : State := fn (fun h => { h with asid := some 1, rdesc := 0x3000 }) (putW (st []) 0x3000 [0x4000, 2 + 3 * 256 + 5 * 65536, pub, pub, 0, 0])
    let k (s : State) (p : Nat → Bool) : Bool := hostUp s 0 && (fnRing s 0 1).any p
    -- a context descriptor of one granule at 0x8000 with ASID 2 and save areas at 0x100000
    let desc : State := fn (fun h => { h with ctxdesc := 0x8000 }) (putW (st []) 0x8000 [2 + 65536, 0, 0, 0x100000, 0])
    let hot (n : Nat) : State := { st [] with dies := [(0, { temp := n, stopped := true })] }
    -- function 1 belongs to context 1, whose page table maps 2 MiB from address 0 on
    let vf : State := fn (fun h => { h with asid := some 1 }) { putW (putW (putW (putW (st []) 0x10000 [0x11001]) 0x11000 [0x12001]) 0x12000 [0x13001]) 0x13000 [7] with
      ctxs := (st []).ctxs.map fun (k, c) => (k, { c with root := 0x10 }) }
    let bare (s : State) : State := s.modCore 0 fun c => { c with threads := [] }
    -- a switch of core 0 that has begun, `q` what it does, and the state at its end
    let runs (s : State) (q : Option Nat) : State := { s.modCore 0 fun c => { c with switching := some q } with who := [1] }
    let ended (s : State) : State := State.modCore { s with who := [1] } 0 fun c => { c with switching := none }
    let busy (s : State) (q : Option Nat) : Bool := (runs s q).who == [1] && ((runs s q).core (coreIndexEid 0 0)).switching == some q
    let dirty : State := (bare (st [])).modCore 0 fun c => { c with stash := [{ lo := 0, va := 2 ^ 45, grs := [{ filled := true, dirty := 5 }] }] }
    let firm (s : State) : State := let c := clearDevice (loseMaster s 0) 0
      { c with recorders := c.recorders.filter fun (k, _) => k / 8 != 0 }
    let bank (s : State) (ok : Bool) : Option Bank := (banksOf ok 1 7 (firm s).who).find? ((firm s).dev 0).accepts
    ([hostUp (st []) 0, k (ring 0) fun _ => true, k (ring 1) fun k => takeStatus (ringAt (ring 1) k) == 0, k (ring 0) fun k => (ringAt (ring 0) k).ok && (ringAt (ring 0) k).take == 0,
      (barKeys (st []) 0 0 0x100 8 true).isSome, (barKeys (st []) 0 0 0x100 8 false).any fun ks => !ks.any (st []).bad.contains,
      (barKeys vf 0 1 0x100 8 true).isSome, (barKeys (st []) 0 1 0x100 8 true).isNone,
      (((st []).modCore 0 fun c => { c with switching := some none }).core (coreIndexEid 0 0)).switching.isSome,
      ((bare (st [])).core (coreIndexEid 0 0)).switching.isNone && mayCtxsw (bare (st [])) 0 0 && ((bare (st [])).core (coreIndexEid 0 0)).ctx.isSome,
      busy (st []) none && !mayCtxsw (ended (st [])) 0 0, busy (st []) (some 0x8000),
      busy dirty none && mayCtxsw (ended dirty) 0 0 && ((ended dirty).ctx? 0 1).isSome && (writeBack (ended dirty) 0 1 fun _ => true).2.isSome,
      mayCtxsw (st []) 0 1, !mayCtxsw (st []) 0 2304, !mayCtxsw (st []) 0 0, ((st []).core (coreIndexEid 0 1)).ctx.isNone,
      (readCtx desc 0 (fnOf desc 0 0).ctxdesc.toNat).any fun (a, _) => a == 2 && (fnOf desc 0 0).asid.isNone && mayCtxsw desc 0 1,
      decide (1150 ≤ hottest (hot 1150) 0), (bank (st []) true).isSome, (bank (st []) false).isNone, ((st []).dev 0).stage != 0,
      decide (1100 ≤ ((hot 1100).die 0).temp), ((hot 999).die 0).stopped && decide (((hot 999).die 0).temp < 1000), (st []).hasDev 0 && ((st []).dev 0).stage != 9,
      ((st []).dev 0).stage == 5 && mayTrain ((st []).dev 0), (((Keyed.get? ((st []).recorder 0).pages 0).getD []).length) == 0] : List Bool).all id = true := by decide +kernel

set_option maxRecDepth 100000 in
theorem witness_SwitchIn :
    let s : State := (putW (st []) 0x8000 [2 + 65536, 0, 0, 0x100000, 0, 0, 0, 0, 1, 0xFFFFF000, 0x17]).modDev 0 fun d =>
      { d with fns := d.fns.map fun h => { h with ctxdesc := 0x8000 } }
    let s : State := { s.modCore 1 fun c => { c with switching := some (some 0x8000) } with who := [1] }
    let e : State := s.modCore (coreIndexEid 0 1) fun c => { c with switching := none }
    ([(s.core (coreIndexEid 0 1)).switching == some (some 0x8000), (readCtx e 0 0x8000).any fun (a, x) => mayCtxsw e 0 1 &&
        (e.core (coreIndexEid 0 1)).ctx.isNone && (switchIn (loadCtx e 0 a x) (coreIndexEid 0 1) a).toBool] : List Bool).all id = true := by decide +kernel

theorem markDirty_keeps (s : State) (k : Nat) :
    (markDirty s k).ctxs = s.ctxs ∧ (markDirty s k).bad = s.bad ∧ (markDirty s k).devs = s.devs := by
  unfold markDirty
  split
  · split <;> exact ⟨rfl, rfl, rfl⟩
  · exact ⟨rfl, rfl, rfl⟩

/-- The first 4 GiB of addresses are mapped onto the device's DRAM. -/
def mapped (s : State) : Prop :=
  (s.ctx? 0 1).map (·.ranges) = some [(0, 0xFFFFF, 0x17, true)] ∧ s.bad = [] ∧ (s.dev 0).unreachable = []

theorem devWrite_mapped : ∀ (bs : List Byte) (s : State) (va : Nat), mapped s → va + bs.length ≤ 2 ^ 32 →
    ∃ u, devWrite s 0 1 va bs = .ok u ∧ mapped u
  | [], s, _, h, _ => ⟨s, rfl, h⟩
  | b :: r, s, va, h, hl => by
    have hv : va < 2 ^ 32 := by simp only [List.length_cons] at hl; omega
    obtain ⟨x, hx, hr⟩ := Option.map_eq_some_iff.mp h.1
    have hk : ∃ k, xlBlock s 0 1 va 1 true = .ok k := by
      refine ⟨dramKey 0 va, ?_⟩
      have h1 : ¬ 2 ^ 56 ≤ va := by omega
      have h2 : ¬ 0xF0 * 2 ^ 48 ≤ va := by omega
      have h3 : va / 4096 ≤ 0xFFFFF := by omega
      have h4 : ¬ 2 ^ 39 ≤ va := by omega
      have h5 : va / 4096 * 4096 + va % 4096 = va := by omega
      have hf : rangeFind x.ranges (va / 4096) = some (0x17, va / 4096) := by
        simp [rangeFind, hr, ptV, ptPpn, bit, bits, h3]
      have hk : leafKey s 0 0x17 (va / 4096) va true = .ok (dramKey 0 va) true := by
        have h6 : ¬ 2 ^ 39 ≤ va / 4096 * 4096 + va % 4096 := by omega
        unfold leafKey
        rw [if_neg (by rintro (h | h | h) <;> first | exact h6 h.2 | exact absurd h (by decide) | exact absurd h.1 (by decide)),
          if_neg (by decide), h5]
        rfl
      have hl : lookup s 0 1 va [] false true = .ok (dramKey 0 va) true := by
        unfold lookup
        rw [if_neg h1, if_neg h2, hx]
        simp only [hf, hk]
      have hc : s.cutKey 0 (dramKey 0 va) = false := by
        unfold State.cutKey; split
        · rw [h.2.2]; rfl
        · rfl
      simp [xlBlock, xlDev, hl, State.badAt, h.2.1, hc]
    obtain ⟨k, hk⟩ := hk
    have hm : mapped (putBytes s [(k, b)]) := by
      have := markDirty_keeps (s.setByte k b) k
      refine ⟨?_, ?_, ?_⟩
      · rw [← h.1]; simp only [putBytes, State.ctx?, this.1]; rfl
      · simp [putBytes, h.2.1]
      · rw [← h.2.2]; simp only [putBytes, State.dev, this.2.2]; rfl
    obtain ⟨u, hu, hm⟩ := devWrite_mapped r _ (va + 1) hm (by simp only [List.length_cons] at hl; omega)
    exact ⟨u, by simp only [devWrite, hk]; exact hu, hm⟩

/-- A core to switch out: it hosts a context of one granule and holds no thread. -/
def ctxOut : Ctx :=
  { ctxgr := 1, root := 0, fring := 0, csv := 0x100000, frz := 0, ranges := [(0, 0xFFFFF, 0x17, true)], handlers := [], queues := [] }
def stOut : State :=
  { stC [] fun c => { c with threads := [], gran := [(0, .context)], switching := some none } with ctxs := [(1, ctxOut)], who := [1] }

/-- The same core once its switch is over. -/
def stEnd : State := stOut.modCore (coreIndexEid 0 0) fun c => { c with switching := none }

/-- A switch-out saves a core when both its writes succeed. -/
theorem saveCore_ok {s v u : State} {x : Ctx} (hv : devWrite s 0 1 (saveArea x 0) ((saveBlock (s.core 0)).flatMap (toBytes 8)) = .ok v)
    (hu : devWrite v 0 1 (saveArea x 0 + 4096) ((List.range (x.ctxgr * 4096)).map fun i => s.byte (lmKey 0 i)) = .ok u) :
    saveCore s 0 1 x = .ok u := by
  unfold saveCore
  simp only [show eidDev 0 = 0 from rfl, hv, hu]

theorem switchOut_witness : ∃ t u, stOut.who = [1] ∧ (stOut.core (coreIndexEid 0 0)).switching = some none ∧ mayCtxsw stEnd 0 0 = true ∧
    (stEnd.core (coreIndexEid 0 0)).ctx = some 1 ∧ stEnd.ctx? 0 1 = some ctxOut ∧ writeBack stEnd 0 1 (fun _ => true) = (t, none) ∧
    saveCore (drainWb t 0) 0 1 ctxOut = .ok u := by
  have hb : ((saveBlock (stEnd.core 0)).flatMap (toBytes 8)).length ≤ 4096 := by decide +kernel
  have ha : saveArea ctxOut 0 = 0x100000 := by decide +kernel
  have hg : ctxOut.ctxgr = 1 := rfl
  have hm : mapped stEnd := ⟨rfl, rfl, rfl⟩
  obtain ⟨v, hv, hm⟩ := devWrite_mapped ((saveBlock (stEnd.core 0)).flatMap (toBytes 8)) stEnd (saveArea ctxOut 0) hm
    (by rw [ha]; omega)
  obtain ⟨u, hu, -⟩ := devWrite_mapped ((List.range (ctxOut.ctxgr * 4096)).map fun i => stEnd.byte (lmKey 0 i)) v
    (saveArea ctxOut 0 + 4096) hm (by rw [List.length_map, List.length_range, ha, hg]; omega)
  exact ⟨stEnd, u, rfl, by decide +kernel, by decide +kernel, by decide +kernel, by decide +kernel, rfl,
    by rw [show drainWb stEnd 0 = stEnd from rfl]; exact saveCore_ok hv hu⟩

/-! ## Witnesses: the whole machine -/

theorem witness_InactiveThreadEffects :
    let x : Fields := { fS with c := 0, x := false, psel := 1 }
    let w (form : Fields → Option Form) (hOk yOk : Bool) (f : Fields) : Bool := wit form hOk yOk f (st []) fun e => !on e
    ([w formBr true true { f0 with psel := 1 }, w formTksub true false x, w (formResA · 0) false false { x with b := 0 },
      w (formAm · false) true false { fS with d := 0, psel := 1 }, w formGbar false false { f0 with psel := 1 }, w formRed false false x,
      w formCtxsv false false { x with b := 0 }] : List Bool).all id = true := by decide +kernel

theorem witness_IllegalInstructionsTrap :
    let f : Fields := { f0 with mod := 1 }
    let ok (i : Instr) : Bool := match i.fields? with
      | some f => !(match formOf i with | some fm => fm.legal f | none => false) && ((st []).thr? 0 0).any fun t => !cancelled (st []) 0 t &&
          !mbHeld (st []) 0 0 && !isYard 0 && !((List.range (if f.x then 2 else 1)).any fun i => t.ecc.contains (1024 + (t.pc.toNat + 8 * i) / 32))
      | none => false
    -- thread 0, moved to a slot of a core, meets a legal instruction
    let at_ (slot eid : Nat) (g : Thread → Thread) (i : Instr) (p : Form → Fields → Bool) : Bool :=
      let s : State := { st [] with
        cores := [(eid, { codeCore [] with threads := (codeCore []).threads.map fun (_, t) => (slot, g { t with issued := 5 }) })], cur := (eid, slot) }
      (s.thr? eid slot).any fun t => !cancelled s slot t && !mbHeld s eid slot && t.issued == 5 && t.ecc.isEmpty &&
        match i.fields?, formOf i with
        | some f, some fm => fm.legal f && p fm f
        | _, _ => false
    ([ok (.mov f), ok (.mov { f with x := true }), ok (.unassignedOpcode 0 f0),
      at_ 0 0 (fun t => { t with pc := 0x7FFF8 }) (.add { fV with c := 0 }) fun _ f => f.x,
      at_ 16 0 id (.mwait { f0 with b := 1 }) fun _ f => barredInHandler 0x205 f.md && (Instr.mwait f).opc == some 0x205,
      at_ 16 0 id (.mov { f0 with d := 0x200F, a := 0x3C0F }) fun fm f => mboxesOf fm f != [],
      at_ 0 0 id (.hend f0) fun _ _ => true, at_ 0 768 id (.wait { fS with x := true }) fun _ f => isYard 768 && ((Instr.wait f).opc.any fun o => !legalInYard o.toNat),
      decide (((codeCore []).threads.map fun x => x.2.issued) = [0])] : List Bool).all id = true := by decide +kernel

/-- The machine whose next step is an instruction at the thread's pc: a `nop`, an `add` with an extension word, an unassigned opcode. -/
theorem witness_StepRunsTheDecodedInstruction :
    let at_ (w : Nat) (i : Instr) (n : Nat) : Bool :=
      let s : State := State.reset.withFetchWord 128 w
      s.cores.any fun (e, c) => c.issues s e && (grantOf c).any fun (slot, t) => slot == 0 && (decode t.code).toOption == some (i, n)
    ([at_ 0x00CA000000000000 (.nop f0) 8, at_ (0x0100003810E08385 + 0x440 * 2 ^ 64) (.add { f0 with d := 0x007, a := 0x087, b := 0x107, mod := 2, x := true, etype := 1, sat := true }) 16,
      at_ 0x0402 (.unassignedOpcode 0 { f0 with b := 8, mod := 1 }) 8, (moves (refresh { State.reset with devs := [(0, { master := true, stage := 5, locked := true })] })).isEmpty] : List Bool).all id = true := by decide +kernel

/-- The same machine has one move, and the step takes it: what follows is another state. -/
theorem witness_StepOfOneMove :
    let s : State := State.reset.withFetchWord 128 0x00CA000000000000
    ([(moves (refresh s)).map (·.i) == [.nop f0], (pickMove (refresh s) (moves (refresh s))).isSome] : List Bool).all id = true := by decide +kernel

theorem witness_TheSelectorGrants :
    let t : Thread := ((Keyed.get? (codeCore []).threads 0).getD default)
    let c (l : List (Nat × Thread)) (p : Nat) : Core := { codeCore [] with threads := l, ptr := p }
    let g (l : List (Nat × Thread)) (p : Nat) : Option Nat := (grantOf (c l p)).map (·.1)
    ([g [(0, t), (3, t)] 1 == some 3, g [(0, t), (3, { t with stamp := 1 })] 1 == some 0, g [(0, t), (16, { t with startNo := 2 }), (17, { t with startNo := 1 })] 0 == some 17,
      g [(16, t), (17, t)] 0 == some 16, g [(0, { t with status := .blocked })] 0 == none, decide (((c [(0, t), (3, t)] 0).threads.map (·.1)).Nodup),
      ((st []).thr? 0 0).isSome] : List Bool).all id = true := by decide +kernel

theorem witness_TrapsAreTaken :
    let i : TrapInfo := { (default : TrapInfo) with code := 2, ipc := 8, rpc := 8 }
    let t (g : Thread → Thread) (p : Thread → Bool) : Bool := ((stT [] g).thr? 0 0).any p
    ([t (fun t => { t with pend := [{ id := 1, target := .none, need := 1 }] }) fun t => !t.allLanded, t id fun t => t.allLanded && t.walkFault.isNone, !isYard 0, isYard 768,
      t (fun t => { t with status := .trapped i }) fun t => t.status == .trapped i && decide (i.code < 13) && i.unit == 0 && !i.defer,
      t (fun t => { t with status := .trapped { i with defer := true } }) fun t => t.status == .trapped { i with defer := true },
      t (fun t => { t with status := .trapped { i with code := 13, word := 2 ^ 63 } }) fun t => t.status == .trapped { i with code := 13, word := 2 ^ 63 },
      [1, 2, 4].all (fun n => t (fun t => { t with status := .trapped { i with unit := n } }) fun t => t.status == .trapped { i with unit := n }),
      (let s : State := { st [] with net := [{ pkt0 with cls := 3, state := .refused, body := .contrib 5 7 }] }
       (restartEngine s 0 0 { i with unit := 4 }).net != s.net),
      decide (0x7FFF8 ≤ 0x7FFF8 ∧ 0x7FFF8 % 8 = 0), decide (0x7FFF8 < 0x80000)] : List Bool).all id = true := by decide +kernel

theorem witness_RegisterInstructionsFrame :
    -- the instruction issues, unmarked and with no mailbox operand, and answers a state that holds its thread
    let ends (form : Fields → Option Form) (f : Fields) (s : State) (i : Instr) : Bool :=
      wit form true true f s (fun _ => mboxesOf ((form f).getD {}) f == [] && !f.m) && match exec i s with
        | .next t => (t.thr? 0 0).isSome
        | _ => false
    let p : Fields := { f0 with d := 0x200F, a := 0x210F, b := 0x220F }
    let sp : State := st [0, 2 ^ 59 + 2 ^ 56 - 9, 8]
    let g : Fields := { f0 with d := 0x2007, a := 7 }
    ([ends formArith { fV with c := 0 } (st []) (.add { fV with c := 0 }), ends formFma fV (st []) (.fma fV), ends formFscale { fV with c := 0, x := false } (st []) (.fscale { fV with c := 0, x := false }),
      ends formFdot2 fV (st []) (.fdot2 fV), ends formFred g (st []) (.fred g), ends formFsplit { f0 with d := 0x0B, a := 0x87 } (st []) (.fsplit { f0 with d := 0x0B, a := 0x87 }),
      wit formPadd true true p sp fun e => e.dlanes.all fun l => !paddBad e l && (paddOff e l).isSome, ends formPadd p sp (.padd p),
      ends formSclr { f0 with d := 7 } (st []) (.sclr { f0 with d := 7 }),
      wit formArith true true { fV with c := 0 } (st []) fun _ => mboxesOf ((formArith { fV with c := 0 }).getD {}) { fV with c := 0 } == [],
      wit formFma true true fV (st []) fun _ => mboxesOf ((formFma fV).getD {}) fV == [] && !fV.m] : List Bool).all id = true := by decide +kernel

theorem witness_MemoryAccessesFrame :
    let f : Fields := { f0 with d := 7, b := 0x220F, mod := 2 }
    let g : Fields := { f0 with a := 7, b := 0x220F, mod := 2 }
    let a : Access := { id := 3, eid := 0, slot := 0, op := .store 0x55, va := 0x3000, keys := [dramKey 0 0x3000], pieces := [(0, 1)], grp := 0 }
    let s : State := { st [] with accs := [a], who := [3] }
    let calm (x : Except Stop State) : Bool := match x with | .error (.trap _) | .error (.fail _ _) => false | _ => true
    let w (form : Fields → Option Form) (yOk : Bool) (eff : Env → Except Stop State) (f : Fields) (r : List Nat) : Bool :=
      wit form true yOk f (st r) fun e => !f.m && calm (eff e)
    let h : Fields := { f with c := 0x0107, x := true }
    let k : Fields := { g with c := 0x0107, x := true }
    ([w formLdl true (fun e => localLoad e e.mode (lsSize e.f)) f [0, 0, 0x1000],
      w formStl true (fun e => localStore e e.mode (lsSize e.f) (e.f.smod.toNat % 4)) g [0, 0, 0x1000],
      w formSspill true (fun e => localStore e (if e.oa.isVec then 0 else 2) 8 0) { g with a := 0x200F, mod := 0 } [0, 0, 0x1000],
      w formSfill true (fun e => localLoad e (if e.od.isVec then 0 else 2) 8) { f with mod := 0 } [0, 0, 0x1000],
      w formLd false (fun e => globalLoad e (e.mode != 2) e.gwants) f [0, 0, 0x3000],
      w formSt false (fun e => globalStore e (e.mode != 2) (lsSize e.f) e.gwants) g [0, 0, 0x3000],
      w formGather false (fun e => globalLoad e true e.iwants) h [0, 0, 0x3000],
      w formScatter false (fun e => globalStore e true (lsSize e.f) e.iwants) k [0, 0, 0x3000],
      w formLdf false ldfEff { f0 with d := 7, b := 0x220F, x := true, etype := 6 } [0, 0, 5 * 2 ^ 59 + 0x3000],
      w formStf false stfEff { f0 with a := 7, b := 0x220F, x := true, etype := 6 } [0, 0, 5 * 2 ^ 59 + 0x3000],
      w formPrf false (fun e => .ok (prfEff e)) { f0 with b := 0x220F } [0, 0, 0x3000],
      w formAmo false amoEff { fS with c := 0, etype := 8 } [0, 0x3004, 3], w formCas false casEff { fS with etype := 19 } [0, 0x3008, 3, 4],
      wit formSta true false { fS with d := 0, a := 0x0007, mod := 2, imm := 8, psel := 1 } (stT [0, 0, 0x1000, 0x7EFF0] fun t =>
          { t with preds := [2, 0, 0, 0, 0, 0, 0] }) fun e => calm (staEff e),
      Memory.wf s.mem, s.accs.find? (·.id == 3) == some a, mayPerform s a, !(s.core a.eid).frozen, a.pieces == [(0, 1)], homeError s a a.keys == false,
      (let a := { a with near := 2 }
       let s := { s with accs := [a] }
       mayPerform s a && !a.isNear && (emptyGran s a.keys).isNone && !homeError s a a.keys && a.keys == [dramKey 0 0x3000])] : List Bool).all id = true := by decide +kernel

theorem witness_MemoryStaysCanonical :
    ([Memory.wf State.reset.mem, Memory.wf (putW (st []) 0x3000 [5]).mem] : List Bool).all id = true := by decide +kernel

theorem witness_DecodeUndoesEncode :
    let i : Instr := .add { fV with c := 0 }
    ([i.wf, (encode i).isSome, (Instr.nop f0).wf, (encode (.nop f0)).isSome] : List Bool).all id = true := by decide +kernel

end Sys2Proof.Tests
end

/-! SUPPORT. The decoding checks of class 1 (R52): every encoded instruction runs through the shared issue, which knows it as barred in
handler slots and as legal on yard cores by its opcode, and an instruction that fails one of the checks traps with 0x01. -/

namespace Sys2Proof.Proofs.IllegalInstructions

open Sys2Proof.Machine

/-! ## Every encoded instruction runs by its form -/

/-- Instruction `i` with fields `f` runs through the shared issue under its own form; where it has one, that issue takes it as barred in
handler slots (R48, R322, R372) and as legal on yard cores (R361) by its opcode and MOD. -/
def RunsByForm (i : Instr) (f : Fields) : Prop :=
  ∃ hOk yOk eff, (∀ s, exec i s = issue (formOf i) hOk yOk eff f s) ∧
    ∀ fm, formOf i = some fm →
      hOk = !barredInHandler (i.opc.getD 0).toNat f.md ∧ yOk = legalInYard (i.opc.getD 0).toNat

/-- The opcodes of `tick`, `wptr` and `pop`, which are barred in handler slots in MOD 1 alone. -/
def barredByMod : List Nat := [0x06A, 0x245, 0x3A4]

/-- The bar of every other opcode is the same in each MOD. -/
theorem barredInHandler_of_not_byMod {opc : Nat} (h : opc ∉ barredByMod) (md : Nat) :
    barredInHandler opc md = barredInHandler opc 0 := by
  rw [barredByMod] at h
  simp only [barredInHandler, List.contains_eq_mem, h, decide_false, Bool.false_and]

/-- An instruction whose bar does not hang on MOD: the flags that it hands to `issue` need only be those of its opcode. -/
theorem runsByForm_of_flags {i : Instr} {f : Fields} {opc : BitVec 10} {hOk yOk : Bool} {eff : Env → Except Stop State}
    (ho : i.opc = some opc) (hx : ∀ s, exec i s = issue (formOf i) hOk yOk eff f s)
    (hflags : opc.toNat ∉ barredByMod ∧ hOk = !barredInHandler opc.toNat 0 ∧ yOk = legalInYard opc.toNat) :
    RunsByForm i f := by
  obtain ⟨hn, hh, hy⟩ := hflags
  refine ⟨hOk, yOk, eff, hx, fun _ _ => ?_⟩
  rw [ho, Option.getD_some, barredInHandler_of_not_byMod hn]
  exact ⟨hh, hy⟩

/-- `wptr` hands its bar over as a test of MOD 0, which is right because its forms are MOD 0 and 1. -/
theorem barredInHandler_of_formWptr {f : Fields} {fm : Form} (h : formWptr f = some fm) :
    (f.md == 0) = !barredInHandler 0x245 f.md := by
  unfold formWptr at h
  split at h
  case h_1 hm => rw [hm]; rfl
  case h_2 hm => rw [hm]; rfl
  case h_3 => cases h

/-- The instructions of the opcodes in `barredByMod` need their form, which settles MOD, and an unassigned opcode has none; each other
instruction is judged by its opcode. -/
theorem runsByForm {i : Instr} {f : Fields} (h : i.fields? = some f) : RunsByForm i f := by
  cases i <;> cases h
  case tick | tickAt | pop | popW =>
    refine ⟨_, _, _, fun _ => rfl, fun fm hf => ⟨?_, rfl⟩⟩
    obtain ⟨hm, -⟩ := Option.ite_none_right_eq_some.mp hf
    rw [hm]
    rfl
  case wptr => exact ⟨_, _, _, fun _ => rfl, fun _ hf => ⟨barredInHandler_of_formWptr hf, rfl⟩⟩
  case unassignedOpcode => exact ⟨_, _, _, fun _ => rfl, fun _ hf => nomatch hf⟩
  all_goals exact runsByForm_of_flags rfl (fun _ => rfl) (by decide)

/-! ## A failed check of class 1 traps -/

/-- The ways in which an instruction with form `fm` fails a check of class 1 in a slot; `hOk` and `yOk` as `issue` takes them. -/
inductive FailsClassOne (fm : Form) (hOk yOk : Bool) (eid slot : Nat) (t : Thread) (f : Fields) : Prop
  | form (h : fm.legal f = false)
  | extension (hx : f.x = true) (hpc : t.pc.toNat = 0x7FFF8)
  | barred (hs : 16 ≤ slot) (h : hOk = false)
  | mailbox (hs : 16 ≤ slot) (h : mboxesOf fm f ≠ [])
  | handlerOnly (hs : slot < 16) (h : fm.hOnly = true)
  | yard (hy : isYard eid = true) (h : yOk = false)

/-- Where no watchdog and no fetch error comes first, an instruction without a form, and one whose form fails a check of class 1, traps
with 0x01 at its own offset. -/
theorem precheck_of_fails {form : Option Form} {hOk yOk : Bool} {eid slot : Nat} {t : Thread} {f : Fields}
    (hdog : (16 ≤ slot → t.issued < 4096) ∧ (isYard eid = true → t.issued < 65536))
    (hecc : ((List.range (if f.x then 2 else 1)).any fun i => t.ecc.contains (1024 + (t.pc.toNat + 8 * i) / 32)) = false)
    (h : ∀ fm, form = some fm → FailsClassOne fm hOk yOk eid slot t f) :
    precheck form hOk yOk eid slot t f = some { code := 1, ipc := t.pc.toNat, rpc := t.pc.toNat, word := t.word } := by
  have hquiet : ¬ ((decide (16 ≤ slot) = true ∧ 4096 ≤ t.issued) ∨ (isYard eid = true ∧ 65536 ≤ t.issued)) := by
    rw [decide_eq_true_eq]
    rintro (⟨hs, hn⟩ | ⟨hy, hn⟩)
    · exact absurd (hdog.1 hs) (Nat.not_lt.mpr hn)
    · exact absurd (hdog.2 hy) (Nat.not_lt.mpr hn)
  simp only [precheck]
  rw [if_neg hquiet, if_neg (ne_true_of_eq_false hecc)]
  cases form with
  | none => rfl
  | some fm =>
    refine if_pos ?_
    cases h fm rfl with
    | form h => simp [h]
    | extension hx hpc => simp [hx, hpc]
    | barred hs h => simp [hs, h]
    | mailbox hs h => simp [hs, h]
    | handlerOnly hs h => simp [hs, h]
    | yard hy h => simp [hy, h]

/-- `hend` is legal in a handler slot only, in both of its forms (R323). -/
theorem hOnly_of_formHend {f : Fields} {fm : Form} (h : formHend f = some fm) : fm.hOnly = true := by
  unfold formHend at h
  split at h <;> cases h <;> rfl

/-- Settles O53: whichever way an encoded instruction is not legal, its form, where it has one, fails a check of class 1. -/
theorem illegalInstructionsTrap : Obligations.IllegalInstructionsTrap := by
  unfold Obligations.IllegalInstructionsTrap
  intro i f s th hfields hbad hthr hcan hheld hdog hecc
  obtain ⟨hOk, yOk, eff, hexec, hflags⟩ := runsByForm hfields
  rw [hexec s]
  refine issue_precheck hthr hcan hheld (precheck_of_fails hdog hecc fun fm hform => ?_)
  obtain ⟨hh, hy⟩ := hflags fm hform
  obtain hlegal | ⟨hx, hpc⟩ | ⟨hs, hbar | hbox⟩ | ⟨hs, rfl⟩ | ⟨hyard, hill⟩ := hbad
  · exact .form (by simpa only [hform] using hlegal)
  · exact .extension hx hpc
  · exact .barred hs (by rw [hh, hbar]; rfl)
  · exact .mailbox hs (by simpa only [hform, Option.getD_some] using hbox)
  · exact .handlerOnly hs (hOnly_of_formHend hform)
  · exact .yard hyard (hy.trans hill)

end Sys2Proof.Proofs.IllegalInstructions

/-! SUPPORT. The predicate instructions (R107, with R99): each has no check of its own, so it ends in its one effect, a write of the bits
of pd in the active lanes or, for `pmov.v` and `pcnt`, a write of D. -/

namespace Sys2Proof.Proofs.PredicateInstructions

open Sys2Proof.Machine

/-- An instruction without checks of its own ends in its effect, which may be stated through the fields `f` that it was issued with. -/
theorem ends_of_effect {form : Option Form} {hOk yOk : Bool} {f : Fields} {i : Instr} {p : Env → Prop} {g : Env → State}
    (eff : Env → State) (hx : ∀ s, exec i s = issue form hOk yOk (fun e => .ok (eff e)) f s)
    (he : ∀ e : Env, e.f = f → p e → eff e = g e) : Ends form hOk yOk f i p g :=
  ends_of _ hx fun e hf hp => congrArg Except.ok (he e hf hp)

/-- The write of pd, with the predicate that the fields in hand name. -/
theorem setPd_of_fields {e : Env} {f : Fields} (hf : e.f = f) (v : Nat → Bool) :
    setPd e v = e.modT fun t => t.setPred f.d.toNat fun l => if e.act l then some (v l) else none := by
  rw [← hf]
  rfl

/-- The predicate that field A of the fields in hand names. -/
theorem predA_of_fields {e : Env} {f : Fields} (hf : e.f = f) : predA e = e.t.pred f.a.toNat := by
  rw [predA, hf]

/-- `pand`, `por` and `pxor` write to pd what their operation makes of the bits of pa and pb. -/
theorem plog_ends {op : Bool → Bool → Bool} {f : Fields} {i : Instr} (hx : ∀ s, exec i s = plogI op f s) :
    Ends (formPlog f) true true f i anyEnv fun e =>
      e.modT fun t => t.setPred f.d.toNat fun l =>
        if e.act l then some (op ((e.t.pred f.a.toNat).getLsbD l) ((e.t.pred f.b.toNat).getLsbD l)) else none :=
  ends_of_effect _ hx fun e hf _ => by rw [setPd_of_fields hf, predA_of_fields hf, hf]

/-! ## The forms of `pmov`, by MOD -/

theorem pmovEff_pred {e : Env} (h : e.f.md = 0) : pmovEff e = setPd e fun l => (predA e).getLsbD l := by
  simp only [pmovEff, h]

theorem pmovEff_scalar {e : Env} (h : e.f.md = 1) : pmovEff e = setPd e fun l => bit e.a0 l := by
  simp only [pmovEff, h]

theorem pmovEff_value {e : Env} (h : e.f.md = 2) : pmovEff e = e.doneI [(0, fitRaw e.od.w (predA e).toNat)] 0 := by
  simp only [pmovEff, h]

theorem pmovEff_ones {e : Env} (h : e.f.md = 3) : pmovEff e = setPd e fun _ => true := by
  simp only [pmovEff, h]

theorem pmovEff_zeros {e : Env} (h : e.f.md = 4) : pmovEff e = setPd e fun _ => false := by
  simp only [pmovEff, h]

/-- Settles O4: each instruction is issued with one effect, which for `pmov` MOD chooses. -/
theorem predicateInstructions : Obligations.PredicateInstructions := by
  unfold Obligations.PredicateInstructions
  intro f
  refine ⟨plog_ends fun _ => rfl, plog_ends fun _ => rfl, plog_ends fun _ => rfl, ?pnot, ?pmovPred, ?pmovScalar, ?pmovValue,
    ?pmovOnes, ?pmovZeros, ?pcnt⟩
  case pnot => exact ends_of_effect _ (fun _ => rfl) fun e hf _ => by rw [setPd_of_fields hf, predA_of_fields hf]
  case pmovPred =>
    exact ends_of_effect _ (fun _ => rfl) fun e hf hm => by
      rw [pmovEff_pred (hf ▸ hm), setPd_of_fields hf, predA_of_fields hf]
  case pmovScalar =>
    exact ends_of_effect _ (fun _ => rfl) fun e hf hm => by rw [pmovEff_scalar (hf ▸ hm), setPd_of_fields hf]
  case pmovValue =>
    exact ends_of_effect _ (fun _ => rfl) fun e hf hm => by rw [pmovEff_value (hf ▸ hm), predA_of_fields hf]
  case pmovOnes => exact ends_of_effect _ (fun _ => rfl) fun e hf hm => by rw [pmovEff_ones (hf ▸ hm), setPd_of_fields hf]
  case pmovZeros => exact ends_of_effect _ (fun _ => rfl) fun e hf hm => by rw [pmovEff_zeros (hf ▸ hm), setPd_of_fields hf]
  case pcnt => exact ends_of_effect _ (fun _ => rfl) fun e hf _ => by rw [predA_of_fields hf]

end Sys2Proof.Proofs.PredicateInstructions

/-! SUPPORT. The integer and pointer instructions without checks of their own (R125 to R128, R133): each ends in one effect, which writes
D lane by lane from the elements of its operands and, for `addc`, `subb` and `cmp`, the bits of a predicate. -/

namespace Sys2Proof.Proofs.IntegerInstructions

open Sys2Proof.Machine
open Sys2Proof.Proofs.PredicateInstructions (ends_of_effect)

/-! ## Instructions whose elements do not look at each other -/

/-- An instruction issued with the exact results `r` writes the results `r'`, where the two are equal for the fields in hand. -/
theorem intI_ends {form : Option Form} {f : Fields} {i : Instr} {r r' : Env → Nat → Nat → Int}
    (hx : ∀ s, exec i s = intI form r f s) (hr : ∀ e : Env, e.f = f → ∀ l j, r e l j = r' e l j) :
    Ends form true true f i anyEnv fun e => e.putI fun l => e.fitElems (r' e l) :=
  ends_of_effect (fun e => e.putI fun l => e.fitElems (r e l)) hx fun e hf _ => by
    rw [show r e = r' e from funext fun l => funext (hr e hf l)]

/-! ## The bits of a pattern -/

/-- The lowest bit of a number as a number. -/
theorem b2n_bit_zero (v : Nat) : b2n (bit v 0) = v % 2 := by
  obtain h | h := Nat.mod_two_eq_zero_or_one v <;> simp [bit, b2n, h]

/-- The bits of the half of a number are those above its lowest. -/
theorem bit_succ (v i : Nat) : bit v (i + 1) = bit (v / 2) i := by
  rw [bit, bit, Nat.div_div_eq_div_mul, Nat.pow_succ, Nat.mul_comm]

theorem popcount_eq_sum (n v : Nat) : popcount n v = ((List.range n).map fun i => b2n (bit v i)).sum := by
  induction n generalizing v with
  | zero => rfl
  | succ n ih =>
    rw [popcount, ih, List.range_succ_eq_map, List.map_cons, List.sum_cons, b2n_bit_zero, List.map_map]
    simp only [Function.comp_def, Nat.succ_eq_add_one, bit_succ]

theorem bitrev_eq_sum (n v : Nat) :
    bitrev n v = ((List.range n).map fun i => b2n (bit v i) * 2 ^ (n - 1 - i)).sum := by
  induction n generalizing v with
  | zero => rfl
  | succ n ih =>
    have hexp (i : Nat) : n - 1 - i = n - (i + 1) := by omega
    rw [bitrev, ih, List.range_succ_eq_map, List.map_cons, List.sum_cons, b2n_bit_zero, List.map_map]
    simp only [Function.comp_def, Nat.succ_eq_add_one, bit_succ, Nat.add_sub_cancel, Nat.sub_zero, hexp]

/-! ## Arithmetic and logic (R125) and shifts (R126) -/

theorem natAbs_eq_ite (a : Int) : (a.natAbs : Int) = if a < 0 then -a else a := by
  split <;> omega

/-- Settles O9: each instruction is issued with its function of the elements; only the minimum, the maximum, the absolute value and
the two functions that go through the bits of a pattern are described in other words. -/
theorem integerArithmeticAndLogic : Obligations.IntegerArithmeticAndLogic := by
  unfold Obligations.IntegerArithmeticAndLogic
  refine ⟨fun f => ⟨?add, ?sub, ?mul, ?mulh, ?mad, ?min, ?max, ?abs, ?neg⟩,
    fun f => ⟨?and, ?or, ?xor, ?andn, ?not, ?popc, ?clz, ?brev⟩⟩
  case add | sub | mul | mulh | mad | neg => exact intI_ends (fun _ => rfl) fun _ _ _ _ => rfl
  case min => exact intI_ends (fun _ => rfl) fun _ _ _ _ => Int.min_def ..
  case max => exact intI_ends (fun _ => rfl) fun _ _ _ _ => Int.max_def ..
  case abs => exact intI_ends (fun _ => rfl) fun _ _ _ _ => natAbs_eq_ite _
  case and | or | xor | andn | not | clz => exact intI_ends (fun _ => rfl) fun _ _ _ _ => rfl
  case popc => exact intI_ends (fun _ => rfl) fun _ _ _ _ => congrArg Nat.cast (popcount_eq_sum ..)
  case brev => exact intI_ends (fun _ => rfl) fun _ _ _ _ => congrArg Nat.cast (bitrev_eq_sum ..)

/-- Settles O10: the four shifts are functions of the patterns of a and b. -/
theorem shiftsOfIntegers : Obligations.ShiftsOfIntegers := by
  unfold Obligations.ShiftsOfIntegers
  intro f
  refine ⟨?shl, ?shr, ?sar, ?rot⟩
  case shl | shr | sar | rot => exact intI_ends (fun _ => rfl) fun _ _ _ _ => rfl

/-! ## Carry, selection, comparison (R127, R128) and pointers (R133) -/

/-- `addc` and `subb` write the result `r` of the patterns and the carry in to D, and whether it leaves the N bits to pk. -/
theorem carry_ends {op : Int → Int → Int → Int} {f : Fields} {i : Instr}
    (hx : ∀ s, exec i s = issue (formCarry f) true true (fun e => .ok (carryEff op e)) f s) :
    Ends (formCarry f) true true f i anyEnv fun e =>
      let r (l : Nat) : Int := op (pat e.ibits (e.elemA l 0) : Nat) (pat e.ibits (e.elemB l 0) : Nat)
        (b2n ((e.t.pred f.c.toNat).getLsbD l))
      (e.putI fun l => fitInt false e.isgn e.ibits e.od.w (r l)).modThr e.eid e.slot fun t =>
        t.setPred f.c.toNat fun l => if e.act l then
          some (decide (r (if e.od.isVec then l else 0) < 0) || decide ((2 : Int) ^ e.ibits ≤ r (if e.od.isVec then l else 0)))
          else none :=
  ends_of_effect _ hx fun e hf _ => by subst hf; rfl

theorem bne_eq_decide_ne (a b : Int) : (a != b) = decide (a ≠ b) :=
  decide_not.symm

/-- Settles O11: the conditions of `cmp` and the fields of a pointer are chosen by OP, the rest is one effect each. -/
theorem carrySelectionAndPointers : Obligations.CarrySelectionAndPointers := by
  unfold Obligations.CarrySelectionAndPointers
  intro f
  refine ⟨?addc, ?subb, ?sel, ?cmp, ?pmk, ?pfmt⟩
  case addc => exact carry_ends (op := fun a b c => a + b + c) fun _ => rfl
  case subb => exact carry_ends (op := fun a b c => a - b - c) fun _ => rfl
  case sel => exact intI_ends (fun _ => rfl) fun e hf _ _ => by rw [hf]
  case cmp =>
    refine ends_of_effect _ (fun _ => rfl) fun e hf _ => ?_
    subst hf
    refine congrArg e.modT (funext fun t => congrArg (t.setPred _) (funext fun l => congrArg (if e.act l then some · else none) ?_))
    generalize e.f.op = op
    match op with
    | 1 => exact bne_eq_decide_ne ..
    | 0 | 2 | 3 | 4 | _ + 5 => rfl
  case pmk => exact ends_of_effect _ (fun _ => rfl) fun e hf _ => by subst hf; rfl
  case pfmt => exact ends_of_effect _ (fun _ => rfl) fun e hf _ => by subst hf; rfl

end Sys2Proof.Proofs.IntegerInstructions

/-! SUPPORT. The barrier instructions (R266 to R272): each is the sequence of its checks, and then sends its one update, ends or waits. -/

namespace Sys2Proof.Proofs.BarrierInstructions

open Sys2Proof.Machine

/-! ## The checks of a description, one after the other -/

/-- A check that passes hands on what it gives. -/
theorem bind_of_ok {α β : Type} {x : Except Stop α} {a : α} (h : x = .ok a) (k : α → Except Stop β) : (x >>= k) = k a := by
  rw [h]
  rfl

/-- A check that fails ends the description. -/
theorem bind_of_error {α β : Type} {x : Except Stop α} {c : Stop} (h : x = .error c) (k : α → Except Stop β) :
    (x >>= k) = .error c := by
  rw [h]
  rfl

theorem need_traps {e : Env} {ok : Bool} {c : Nat} (h : ok = false) : e.need ok c = .error (.trap (e.info c)) := by
  rw [h]
  rfl

/-! ## The updates: `binit`, `barv` and `bexp` -/

/-- The counts that R268 allows, as `binit` tests them. -/
theorem binitCounts_iff (b c : Nat) :
    (!(b == 0 && c == 0) && decide (b ≤ 65535)) = true ↔ ¬ (b = 0 ∧ c = 0) ∧ b ≤ 65535 := by
  rw [Bool.and_eq_true, Bool.not_eq_true', ← Bool.not_eq_true, Bool.and_eq_true, beq_iff_eq, beq_iff_eq, decide_eq_true_eq]

theorem binitEff_sends {e : Env} {key : Nat} (hon : e.on) (hkey : ownBar e e.a0 = .ok key)
    (hcounts : ¬ (e.b0 = 0 ∧ e.c0 = 0) ∧ e.b0 ≤ 65535) (hc : e.c0 < 2 ^ 32) (hj : e.t.joins = []) :
    binitEff e = .ok (sendUpdate e e.s key 4 (e.c0 * 65536 + e.b0) 0 []) := by
  rw [binitEff, thread_of_act hon, bind_of_ok hkey, bind_of_ok (need_ok ((binitCounts_iff ..).mpr hcounts)),
    bind_of_ok (noJoin_ok hj), if_pos hc]

theorem binitEff_traps {e : Env} {key : Nat} (hon : e.on) (hkey : ownBar e e.a0 = .ok key)
    (hcounts : ¬ (¬ (e.b0 = 0 ∧ e.c0 = 0) ∧ e.b0 ≤ 65535)) : binitEff e = .error (.trap (e.info 2)) := by
  have hbad := Bool.eq_false_iff.mpr (mt (binitCounts_iff e.b0 e.c0).mp hcounts)
  rw [binitEff, thread_of_act hon, bind_of_ok hkey, bind_of_error (need_traps hbad)]

section Arrivals

variable {e : Env} {key : Nat} {r : State × List Nat}

/-- `barv` sends one arrival; only one with a destination makes a result that the reply with the old PHASE completes (R269). -/
theorem barvEff_sends (hon : e.on) (hkey : barvKey e = .ok key) (hj : e.t.joins = [])
    (hr : sendRelease e e.s (bit e.f.md 1) (scopeTo e.eid (keyCore key)) = .ok r) :
    barvEff e = .ok (if e.od.isZero then sendUpdate e r.1 key 1 0 0 r.2
      else sendUpdate e ((e.upd r.1).pendL e.od.target 1).2 key 1 0 ((e.upd r.1).pendL e.od.target 1).1 r.2) := by
  rw [barvEff, thread_of_act hon, bind_of_ok hkey, bind_of_ok (noJoin_ok hj), bind_of_ok hr, apply_ite Except.ok]

theorem bexpEff_counts (hon : e.on) (hkey : ownBar e e.a0 = .ok key) (harv : bit e.f.md 0 = false) (hj : e.t.joins = []) :
    bexpEff e = .ok (sendUpdate e e.s key 2 e.b0 0 []) := by
  rw [bexpEff, thread_of_act hon, bind_of_ok hkey, if_neg (ne_true_of_eq_false harv), bind_of_ok (noJoin_ok hj)]

theorem bexpEff_arrives (hon : e.on) (hkey : ownBar e e.a0 = .ok key) (harv : bit e.f.md 0 = true) (hj : e.t.joins = [])
    (hr : sendRelease e e.s (bit e.f.md 1) 0 = .ok r) : bexpEff e = .ok (sendUpdate e r.1 key 3 e.b0 0 r.2) := by
  rw [bexpEff, thread_of_act hon, bind_of_ok hkey, if_pos harv, bind_of_ok (noJoin_ok hj), bind_of_ok hr]

end Arrivals

/-! ## The reads: `bwait` and `btest` -/

section Reads

variable {e : Env} {key : Nat} {o : BarObj} (hon : e.on) (hkey : ownBar e e.a0 false = .ok key) (ho : readBar e key = .ok o)
include hon hkey ho

/-- `bwait` compares PHASE with P(B): it ends with status 0 where they differ and waits where they agree (R271). -/
theorem bwaitEff_compares (hb : readsBound e.t = true) :
    bwaitEff e = if o.phase ≠ bit e.b0 0 then .ok (acquire (e.doneL [(0, 0)] 0) e.eid e.slot 2)
      else .error (.wait { what := .barrier e.a0 e.f.imm.toNat, f := e.f, issued := e.s0.cycle e.eid }) := by
  rw [bwaitEff, thread_of_act hon, bind_of_ok hkey, bind_of_ok ho, if_neg (not_not_intro hb)]

theorem btestEff_returns :
    btestEff e = .ok (e.doneL [(0, fitRaw e.od.w (if e.f.md = 1 then o.expb + o.rcvb * 2 ^ 32 else o.dw1))] 0) := by
  rw [btestEff, thread_of_act hon, bind_of_ok hkey, bind_of_ok ho]

end Reads

/-- Settles O22: the description of each instruction runs through its checks to the end that the statement names. -/
theorem barrierInstructions : Obligations.BarrierInstructions := by
  unfold Obligations.BarrierInstructions
  intro f key
  refine ⟨?binit, ?binitTraps, ?barvQuiet, ?barvResult, ?bexp, ?bexpArv, fun o => ⟨?bwaitEnds, ?bwaitWaits, ?btest⟩⟩
  case binit =>
    refine ends_of binitEff (fun _ => rfl) fun e _ hp => ?_
    obtain ⟨⟨hon, hkey⟩, hne, hle, hc, hj⟩ := hp
    exact binitEff_sends hon hkey ⟨hne, hle⟩ hc hj
  case binitTraps =>
    refine traps_of binitEff (fun _ => rfl) fun e _ hp => ?_
    obtain ⟨⟨hon, hkey⟩, hbad⟩ := hp
    exact binitEff_traps hon hkey fun ⟨hne, hle⟩ => hbad.elim hne (Nat.not_lt.mpr hle)
  case barvQuiet =>
    refine endsBy_of barvEff (fun _ => rfl) fun e r hf hp hr => ?_
    obtain ⟨hon, hkey, hj, hz⟩ := hp
    rw [barvEff_sends hon hkey hj (hf ▸ hr), if_pos hz]
  case barvResult =>
    refine endsBy_of barvEff (fun _ => rfl) fun e r hf hp hr => ?_
    obtain ⟨hon, hkey, hj, hz⟩ := hp
    rw [barvEff_sends hon hkey hj (hf ▸ hr), if_neg (ne_true_of_eq_false hz)]
  case bexp =>
    refine ends_of bexpEff (fun _ => rfl) fun e hf hp => ?_
    obtain ⟨⟨hon, hkey⟩, harv, hj⟩ := hp
    exact bexpEff_counts hon hkey (hf ▸ harv) hj
  case bexpArv =>
    refine endsBy_of bexpEff (fun _ => rfl) fun e r hf hp hr => ?_
    obtain ⟨⟨hon, hkey⟩, harv, hj⟩ := hp
    exact bexpEff_arrives hon hkey (hf ▸ harv) hj (hf ▸ hr)
  case bwaitEnds =>
    refine ends_of bwaitEff (fun _ => rfl) fun e _ hp => ?_
    obtain ⟨⟨hon, hkey⟩, ho, hb, hne⟩ := hp
    rw [bwaitEff_compares hon hkey ho hb, if_pos hne]
  case bwaitWaits =>
    refine waits_of bwaitEff (fun _ => rfl) fun e hf hp => ?_
    obtain ⟨⟨hon, hkey⟩, ho, hb, heq⟩ := hp
    rw [bwaitEff_compares hon hkey ho hb, if_neg (not_not_intro heq), hf]
  case btest =>
    refine ends_of btestEff (fun _ => rfl) fun e hf hp => ?_
    obtain ⟨⟨hon, hkey⟩, ho⟩ := hp
    rw [btestEff_returns hon hkey ho, hf]

end Sys2Proof.Proofs.BarrierInstructions

/-! SUPPORT. `mbcnt` (R332): it has no check of its own, so it ends in its one effect, a write of counts of mailbox entries to D. -/

namespace Sys2Proof.Proofs.MailboxInstructions

open Sys2Proof.Machine

/-- `mbcnt` of one mailbox: the count of the entries in the mailbox that field B names. -/
theorem mbcntVal_one {e : Env} (h : e.f.md = 0) : mbcntVal e = (e.c.mboxes.getD (simm14 e.f.b).toNat []).length :=
  if_pos h

/-- Both forms of `mbcnt` write one number to D, under the raw rule; the form chooses the number. -/
theorem mbcnt_ends {f : Fields} {v : Env → Nat} (hv : ∀ e : Env, e.f = f → mbcntVal e = v e) :
    Ends (formMbcnt f) true false f (.mbcnt f) Env.on fun e => e.doneL [(0, fitRaw e.od.w (v e))] 0 :=
  ends_of _ (fun _ => rfl) fun e hf hon => by rw [thread_of_act hon, hv e hf]

/-- Settles O34: MOD chooses between the count of one mailbox and the four counts by bytes. -/
theorem mailboxCounts : Obligations.MailboxCounts := by
  unfold Obligations.MailboxCounts
  refine fun f => ⟨fun hone => ?one, fun hall => ?all⟩
  case one => exact mbcnt_ends fun e hf => by rw [mbcntVal_one (hf ▸ hone), hf]
  case all => exact mbcnt_ends fun e hf => mbcntVal_all e (hf ▸ hall)

end Sys2Proof.Proofs.MailboxInstructions

/-! SUPPORT. `trap` and `brk` (R398): one description, which lane 0 turns into a trap or into nothing (R98). -/

namespace Sys2Proof.Proofs.ExplicitTraps

open Sys2Proof.Machine

/-- `trap` and `brk` are issued alike, each with its own trap code. -/
theorem exec_explicit {f : Fields} {i : Instr} {code : Nat} (h : i = .trap f ∧ code = 14 ∨ i = .brk f ∧ code = 13)
    (s : State) : exec i s = issue (formTrap f) true false (trapEff code) f s := by
  obtain ⟨rfl, rfl⟩ | ⟨rfl, rfl⟩ := h
  case inl => rfl
  case inr => rfl

theorem trapEff_active {e : Env} (hon : e.on) (code : Nat) :
    trapEff code e =
      .error (.trap { e.info code with rpc := e.pc + e.len, tcode := (simm14 e.f.b).toNat, lane := 255 }) :=
  if_pos hon

theorem trapEff_inactive {e : Env} (hoff : ¬ e.on) (code : Nat) : trapEff code e = .ok e.s :=
  if_neg hoff

/-- Settles O41: the activity of lane 0 decides between the trap and an end without effect. -/
theorem explicitTraps : Obligations.ExplicitTraps := by
  unfold Obligations.ExplicitTraps
  refine fun f i code hi => ⟨?traps, ?ends⟩
  case traps => exact traps_of _ (exec_explicit hi) fun e hf hon => by rw [trapEff_active hon, hf]
  case ends => exact ends_of _ (exec_explicit hi) fun e _ hoff => trapEff_inactive hoff code

end Sys2Proof.Proofs.ExplicitTraps

/-! SUPPORT. Decoding undoes encoding (R36 to R38, R48, R50): the words of an encoded instruction give its opcode and its fields back,
and these choose the instruction again. -/

namespace Sys2Proof.Proofs.DecodeEncode

open Sys2Proof.Laws

/-- Where an opcode has rows that MOD tells apart, the form of a well-formed instruction settles MOD; elsewhere the opcode and the
fields are the instruction. -/
theorem statement_of_fields {i : Instr} {f : Fields} (h : i.fields? = some f) : Coding.Statement i := by
  cases i <;> cases h
  case tick => exact Coding.tick f
  case tickAt => exact Coding.tickAt f
  case eread => exact Coding.eread f
  case ereadRel => exact Coding.ereadRel f
  case cpw => exact Coding.cpw f
  case cpwDrop => exact Coding.cpwDrop f
  case tkcan => exact Coding.tkcan f
  case tkcanG => exact Coding.tkcanG f
  case arrm => exact Coding.arrm f
  case arrmFree => exact Coding.arrmFree f
  case am => exact Coding.am f
  case amD => exact Coding.amD f
  case pop => exact Coding.pop f
  case popW => exact Coding.popW f
  case qmk => exact Coding.qmk f
  case qmkFree => exact Coding.qmkFree f
  case cplan => exact Coding.cplan f
  case cplanFree => exact Coding.cplanFree f
  case drain => exact Coding.drain f
  case drainRes => exact Coding.drainRes f
  case frz => exact Coding.frz f
  case frzRes => exact Coding.frzRes f
  case unassignedOpcode opc => exact Coding.unassignedOpcode opc f
  all_goals exact Coding.of_alone _ _ f rfl rfl rfl

/-- What an encoded instruction encodes to: the words of its opcode and fields. -/
theorem encode_eq_some {i : Instr} {ws : List (BitVec 64)} (h : encode i = some ws) :
    ∃ opc f, i.opc = some opc ∧ i.fields? = some f ∧ ws = if f.x then [baseWord opc f, extWord f] else [baseWord opc f] := by
  unfold encode at h
  split at h
  case h_1 opc f ho hf => exact ⟨opc, f, ho, hf, (Option.some.inj h).symm⟩
  case h_2 => cases h

theorem extOk_of_wf {i : Instr} {f : Fields} (hw : i.wf = true) (hf : i.fields? = some f) : f.extOk = true := by
  rw [Instr.wf, hf] at hw
  exact (Bool.and_eq_true_iff.mp hw).1

/-- Settles O51: the words of the opcode and the fields decode to the instruction that these choose. -/
theorem decodeUndoesEncode : Obligations.DecodeUndoesEncode := by
  unfold Obligations.DecodeUndoesEncode
  intro i ws hw he
  obtain ⟨opc, f, ho, hf, rfl⟩ := encode_eq_some he
  rw [decode_words opc f (extOk_of_wf hw hf), (statement_of_fields hf).2 hw opc f ho hf]
  cases f.x <;> rfl

end Sys2Proof.Proofs.DecodeEncode

/-! SUPPORT. The slice instructions without the window instructions (R82 to R86): none has a check of its own, so each ends in one write of
D, lane by lane; and the bits that `ins` and `bcast` make. -/

namespace Sys2Proof.Proofs.SliceInstructions

open Sys2Proof.Machine
open Sys2Proof.Proofs.PredicateInstructions (ends_of_effect)

/-! ## Patterns by lane -/

/-- A class I instruction of the group, issued with the patterns `v`, writes the patterns `v'` that are equal for the fields in hand. -/
theorem sliceI_ends {form : Option Form} {f : Fields} {i : Instr} {v v' : Env → Nat → Nat}
    (hx : ∀ s, exec i s = sliceI form v f s) (hv : ∀ e : Env, e.f = f → ∀ l, v e l = v' e l) :
    Ends form true true f i anyEnv fun e => e.putI fun l => fitRaw e.od.w (v' e l) :=
  ends_of_effect (fun e => e.putI fun l => fitRaw e.od.w (v e l)) hx fun e hf _ => by
    rw [show v e = v' e from funext (hv e hf)]

/-- The same for a cross-lane instruction, whose patterns are still to land (R86). -/
theorem sliceL_ends {form : Option Form} {f : Fields} {i : Instr} {v v' : Env → Nat → Nat}
    (hx : ∀ s, exec i s = sliceL form v f s) (hv : ∀ e : Env, e.f = f → ∀ l, v e l = v' e l) :
    Ends form true true f i anyEnv fun e => e.putL fun l => fitRaw e.od.w (v' e l) :=
  ends_of_effect (fun e => e.putL fun l => fitRaw e.od.w (v e l)) hx fun e hf _ => by
    rw [show v e = v' e from funext (hv e hf)]

/-- The constants of `movi`, by MOD. -/
theorem moviVal_eq (e : Env) (l : Nat) :
    moviVal e l = if e.f.md = 0 then pat 64 e.f.imm.toInt else if e.f.md = 1 then e.f.imm.toNat else pat 64 (simm14 e.f.b) := by
  unfold moviVal
  match e.f.md with
  | 0 | 1 | _ + 2 => rfl

/-- The lane that `shfl` reads: by index, by xor, down and up, where a lane outside the 32 is the lane itself. -/
theorem shflLane_eq (m l b : Nat) :
    shflLane m l b = if m = 0 then b % 32 else if m = 1 then l ^^^ b % 32
      else if m = 2 then (if b ≤ l then l - b else l) else (if l + b ≤ 31 then l + b else l) := by
  match m with
  | 0 | 1 => rfl
  | 2 =>
    show (if l < b then l else l - b) = if b ≤ l then l - b else l
    rw [← ite_not]
    simp only [Nat.not_lt]
  | _ + 3 =>
    show (if 31 < l + b then l else l + b) = if l + b ≤ 31 then l + b else l
    rw [← ite_not]
    simp only [Nat.not_lt]

/-! ## Bits -/

theorem bit_eq_testBit (v i : Nat) : bit v i = v.testBit i := by
  rw [bit, Nat.testBit_eq_decide_div_mod_eq]
  rfl

/-- A number with `n` bits at `pos` exchanged for those of `new`. -/
theorem testBit_exchange (old new pos n j : Nat) :
    (old ^^^ ((old / 2 ^ pos % 2 ^ n ^^^ new % 2 ^ n) * 2 ^ pos)).testBit j =
      if pos ≤ j ∧ j < pos + n then new.testBit (j - pos) else old.testBit j := by
  rw [Nat.testBit_xor, Nat.testBit_mul_two_pow, Nat.testBit_xor, bit_mod, bit_mod, Nat.testBit_div_two_pow]
  by_cases h1 : pos ≤ j
  · by_cases h2 : j < pos + n
    · rw [show j - pos + pos = j by omega]
      simp [h1, h2, show j - pos < n by omega]
    · simp [h2, show ¬ j - pos < n by omega]
  · simp [h1]

/-- `ins` takes its field, as far as it lies in D, from A and keeps the other bits of D. -/
theorem bit_insVal (e : Env) (l j : Nat) (hj : j < 4 * e.od.w) :
    bit (insVal e l) j =
      if fieldPos e l ≤ j ∧ j < min (fieldPos e l + 4 * e.oa.w) (4 * e.od.w) then bit (e.a l) (j - fieldPos e l)
      else bit (e.d l) j := by
  simp only [bit_eq_testBit, insVal]
  split
  case isTrue h => rw [if_neg (by omega)]
  case isFalse h =>
    rw [testBit_exchange]
    have hfield : (fieldPos e l ≤ j ∧ j < fieldPos e l + min (4 * e.oa.w) (4 * e.od.w - fieldPos e l)) ↔
        (fieldPos e l ≤ j ∧ j < min (fieldPos e l + 4 * e.oa.w) (4 * e.od.w)) := by omega
    simp only [hfield]

/-- `bcast` repeats the bits of its pattern. -/
theorem bit_repeatBits {n v : Nat} (hv : v < 2 ^ n) (k j : Nat) (hj : j < n * k) :
    bit (repeatBits n v k) j = bit v (j % n) := by
  simp only [bit_eq_testBit]
  induction k generalizing j with
  | zero => simp at hj
  | succ k ih =>
    rw [repeatBits, Nat.add_comm, Nat.testBit_two_pow_mul_add _ hv]
    split
    case isTrue h => rw [Nat.mod_eq_of_lt h]
    case isFalse h =>
      rw [ih (j - n) (by rw [Nat.mul_succ] at hj; omega), ← Nat.mod_eq_sub_mod (by omega)]

/-- Settles O1: each instruction is issued with its function of the lanes. -/
theorem sliceInstructionsWriteD : Obligations.SliceInstructionsWriteD := by
  unfold Obligations.SliceInstructionsWriteD
  refine ⟨⟨fun f => ⟨?mov, ?movi, ?movhi, ?sext, ?zext, ?pack, ?xtr, ?ins, ?bcast⟩, fun f => ⟨?lane, ?shfl, ?shfli⟩⟩,
    fun e l j hj => bit_insVal e l j hj, fun _ _ k j _ hv hj => bit_repeatBits hv k j hj⟩
  case mov => exact sliceI_ends (fun _ => rfl) fun e hf l => by subst hf; rfl
  case movi => exact sliceI_ends (fun _ => rfl) fun e hf l => by rw [moviVal_eq, hf]
  case movhi | sext | zext | pack | xtr => exact sliceI_ends (fun _ => rfl) fun e hf l => by subst hf; rfl
  case ins | bcast => exact sliceI_ends (fun _ => rfl) fun _ _ _ => rfl
  case lane | shfli => exact sliceL_ends (fun _ => rfl) fun e hf l => by subst hf; rfl
  case shfl => exact sliceL_ends (fun _ => rfl) fun e hf l => by rw [shflLane_eq, hf]

end Sys2Proof.Proofs.SliceInstructions

/-! SUPPORT. `dead`, `swin` and `sclr` (R88 to R90): the marks of `dead` are one effect; `swin` decides on the count it is asked for and on
the units that are free; `sclr` waits for the run's results where it clears a window. -/

namespace Sys2Proof.Proofs.WindowInstructions

open Sys2Proof.Machine
open Sys2Proof.Proofs.PredicateInstructions (ends_of_effect)
open Sys2Proof.Proofs.BarrierInstructions (bind_of_ok)

/-- What `swin` asks for. -/
def swinCount (e : Env) : Nat := if e.f.md = 0 then e.a0 else (simm14 e.f.b).toNat

/-- `swin` with the run's results landed: a count that is no window is status 2; a window of units that the thread holds, or that are
free, is status 0; too few free units are status 1 (R89). -/
theorem swinEff_settled {e : Env} (hon : e.on) (hl : e.t.allLanded = true) :
    swinEff e =
      if swinCount e % 64 ≠ 0 ∨ swinCount e < 64 ∨ 512 < swinCount e then .ok (e.status 2 e.s)
      else if swinCount e / 64 ≤ e.t.units.length then
        .ok (e.status 0 ((unitsAsked e.s e.eid rankSwin).modThr e.eid e.slot fun t =>
          t.resize (swinCount e) (e.t.units.take (swinCount e / 64))))
      else if (freeUnits (e.s.core e.eid)).length < swinCount e / 64 - e.t.units.length then
        .ok (e.status 1 (unitsAsked e.s e.eid rankSwin))
      else .ok (e.status 0 ((unitsAsked e.s e.eid rankSwin).modThr e.eid e.slot fun t =>
        t.resize (swinCount e) (e.t.units ++ (freeUnits (e.s.core e.eid)).take (swinCount e / 64 - e.t.units.length)))) := by
  rw [swinEff, thread_of_act hon, bind_of_ok (settled_ok hl)]
  rfl

theorem swin_ends {f : Fields} {p : Env → Prop} {g : Env → State} (h : ∀ e : Env, e.f = f → p e → swinEff e = .ok (g e)) :
    Ends (formSwin f) false true f (.swin f) p g :=
  ends_of swinEff (fun _ => rfl) h

/-- A count that is a window of the architecture is not refused with status 2. -/
theorem window_ok {n : Nat} (h0 : n % 64 = 0) (h1 : 64 ≤ n) (h2 : n ≤ 512) : ¬ (n % 64 ≠ 0 ∨ n < 64 ∨ 512 < n) := by
  omega

/-- `sclr` of a window clears it once the run's results have landed (R90). -/
theorem sclrEff_window {e : Env} (hm : e.f.md ≠ 0) (hl : e.t.allLanded = true) :
    sclrEff e = .ok (e.modT fun t =>
      let t := if e.f.md ≠ 2 then t.clearVec else t
      if e.f.md ≠ 1 then t.clearScal else t) := by
  rw [sclrEff, if_neg hm, bind_of_ok (settled_ok hl)]

theorem sclrEff_operand {e : Env} (hm : e.f.md = 0) : sclrEff e = .ok (e.doneI (e.dlanes.map fun l => (l, 0)) 0) :=
  if_pos hm

/-- Zero is zero in every width. -/
theorem putI_zero (e : Env) : (e.putI fun _ => 0) = e.doneI (e.dlanes.map fun l => (l, 0)) 0 := rfl

/-- Settles O2: the four ends of `swin` are the four branches of its decision, in their order. -/
theorem windowInstructions : Obligations.WindowInstructions := by
  unfold Obligations.WindowInstructions
  refine fun f => ⟨?dead, fun n => ⟨?noWindow, ?held, ?tooFew, ?granted⟩, ?operand, ?windows⟩
  case dead => exact ends_of_effect _ (fun _ => rfl) fun e hf _ => by subst hf; rfl
  case noWindow =>
    refine swin_ends fun e hf hp => ?_
    subst hf
    obtain ⟨hon, hl, rfl, hbad⟩ := hp
    rw [swinEff_settled hon hl]
    exact if_pos hbad
  case held =>
    refine swin_ends fun e hf hp => ?_
    subst hf
    obtain ⟨hon, hl, rfl, h0, h1, h2, hunits⟩ := hp
    rw [swinEff_settled hon hl]
    exact (if_neg (window_ok h0 h1 h2)).trans (if_pos hunits)
  case tooFew =>
    refine swin_ends fun e hf hp => ?_
    subst hf
    obtain ⟨hon, hl, rfl, h0, h1, h2, hmore, hfew⟩ := hp
    rw [swinEff_settled hon hl]
    exact (if_neg (window_ok h0 h1 h2)).trans ((if_neg (Nat.not_le.mpr hmore)).trans (if_pos hfew))
  case granted =>
    refine swin_ends fun e hf hp => ?_
    subst hf
    obtain ⟨hon, hl, rfl, h0, h1, h2, hmore, hfree⟩ := hp
    rw [swinEff_settled hon hl]
    exact (if_neg (window_ok h0 h1 h2)).trans ((if_neg (Nat.not_le.mpr hmore)).trans (if_neg (Nat.not_lt.mpr hfree)))
  case operand => exact ends_of sclrEff (fun _ => rfl) fun e hf hm => by rw [sclrEff_operand (hf ▸ hm), putI_zero]
  case windows =>
    refine ends_of sclrEff (fun _ => rfl) fun e hf hp => ?_
    subst hf
    obtain ⟨hm, hl⟩ := hp
    exact sclrEff_window hm hl

end Sys2Proof.Proofs.WindowInstructions

/-! SUPPORT. The transfers (R105, R106): each is its condition, a write of D where it has one, and the check of its target. -/

namespace Sys2Proof.Proofs.Transfers

open Sys2Proof.Machine

/-! ## The check of a target -/

theorem targetOk_iff (t : Int) : targetOk t = true ↔ InCode t := by
  simp only [targetOk, InCode, Bool.and_eq_true, decide_eq_true_eq, beq_iff_eq, and_assoc]

/-- The thread continues at a target at which an instruction may stand. -/
theorem goTo_code {t : Int} (h : InCode t) (e : Env) (s : State) : goTo e t s = .ok (e.jump t s) :=
  if_pos ((targetOk_iff t).mpr h)

/-- Any other target is the illegal-operand trap. -/
theorem goTo_noCode {t : Int} (h : ¬ InCode t) (e : Env) (s : State) : goTo e t s = .error (.trap (e.info 2)) :=
  if_neg (mt (targetOk_iff t).mp h)

/-- Where `p` holds, instruction `i` transfers to `t` with the state `g`: it goes on there where code may stand, and traps elsewhere. -/
def TransfersTo (form : Option Form) (f : Fields) (i : Instr) (t : Int) (p : Env → Prop) (g : Env → State) : Prop :=
  (InCode t → Ends form true true f i p fun e => e.jump t (g e)) ∧
    (¬ InCode t → Traps form true true f i p fun e => e.info 2)

theorem transfersTo_of {form : Option Form} {f : Fields} {i : Instr} {t : Int} {p : Env → Prop} {g : Env → State}
    (eff : Env → Except Stop State) (hx : ∀ s, exec i s = issue form true true eff f s)
    (he : ∀ e : Env, e.f = f → p e → eff e = goTo e t (g e)) : TransfersTo form f i t p g :=
  ⟨fun ht => ends_of eff hx fun e hf hp => by rw [he e hf hp, goTo_code ht],
    fun ht => traps_of eff hx fun e hf hp => by rw [he e hf hp, goTo_noCode ht]⟩

/-! ## Each transfer -/

/-- The count that `loop` leaves. -/
def loopLeft (e : Env) : Nat := pat (4 * e.od.w) ((e.d 0 : Int) - 1)

theorem loopEff_active {e : Env} (hon : e.on) :
    loopEff e = if loopLeft e = 0 then .ok (e.doneI [(0, loopLeft e)] 0)
      else goTo e (directTarget e) (e.doneI [(0, loopLeft e)] 0) := by
  rw [loopEff, thread_of_act hon]
  rfl

/-- `t` is the target of a direct transfer with fields `f` (R105). -/
def Direct (f : Fields) (t : Int) (e : Env) : Prop := t = (e.pc : Int) + (if f.md = 0 then 8 * simm14 f.b else f.imm.toInt)

theorem Direct.target_eq {e : Env} {f : Fields} {t : Int} (h : Direct f t e) (hf : e.f = f) : directTarget e = t := by
  subst hf
  exact h.symm

/-- The state in which a call has written its return offset. -/
def link (e : Env) : State := e.doneI [(0, fitRaw e.od.w (e.pc + e.len))] 0

theorem callTo_active {e : Env} (hon : e.on) (t : Int) : callTo e t = goTo e t (link e) :=
  thread_of_act hon _

section Each

variable (f : Fields) (t : Int)

theorem br_transfers : TransfersTo (formBr f) f (.br f) t (fun e => e.on ∧ Direct f t e) Env.s :=
  transfersTo_of _ (fun _ => rfl) fun _ hf ⟨hon, ht⟩ => by rw [thread_of_act hon, ht.target_eq hf]

/-- `ret` acts as `bra`. -/
theorem bra_transfers {i : Instr} (hi : i = .bra f ∨ i = .ret f) :
    TransfersTo (formBra f) f i t (fun e => e.on ∧ t = e.a0) Env.s := by
  obtain rfl | rfl := hi
  case inl => exact transfersTo_of _ (fun _ => rfl) fun _ _ ⟨hon, ht⟩ => by rw [thread_of_act hon, ht]
  case inr => exact transfersTo_of _ (fun _ => rfl) fun _ _ ⟨hon, ht⟩ => by rw [thread_of_act hon, ht]

theorem call_transfers : TransfersTo (formCall f) f (.call f) t (fun e => e.on ∧ Direct f t e) link :=
  transfersTo_of _ (fun _ => rfl) fun _ hf ⟨hon, ht⟩ => by rw [callTo_active hon, ht.target_eq hf]

theorem calla_transfers : TransfersTo (formCalla f) f (.calla f) t (fun e => e.on ∧ t = e.a0) link :=
  transfersTo_of _ (fun _ => rfl) fun _ _ ⟨hon, ht⟩ => by rw [callTo_active hon, ht]

theorem loop_transfers : TransfersTo (formLoop f) f (.loop f) t (fun e => e.on ∧ loopLeft e ≠ 0 ∧ Direct f t e)
    fun e => e.doneI [(0, loopLeft e)] 0 :=
  transfersTo_of _ (fun _ => rfl) fun _ hf ⟨hon, hleft, ht⟩ => by rw [loopEff_active hon, if_neg hleft, ht.target_eq hf]

theorem bany_transfers : TransfersTo (formBanyall f) f (.bany f) t (fun e => predA e ≠ 0 ∧ Direct f t e) Env.s :=
  transfersTo_of _ (fun _ => rfl) fun _ hf ⟨hany, ht⟩ => by rw [if_neg hany, ht.target_eq hf]

theorem ball_transfers : TransfersTo (formBanyall f) f (.ball f) t (fun e => predA e = 0xFFFFFFFF ∧ Direct f t e) Env.s :=
  transfersTo_of _ (fun _ => rfl) fun _ hf ⟨hall, ht⟩ => by
    rw [if_pos (show predA _ = BitVec.allOnes 32 from hall), ht.target_eq hf]

end Each

/-- Settles O3: every transfer ends in the check of its target, whose two outcomes are its two ends. -/
theorem transfersGoToTheirTarget : Obligations.TransfersGoToTheirTarget := by
  unfold Obligations.TransfersGoToTheirTarget
  intro f t
  obtain ⟨brEnds, brTraps⟩ := br_transfers f t
  obtain ⟨braEnds, braTraps⟩ := bra_transfers f t (.inl rfl)
  obtain ⟨retEnds, retTraps⟩ := bra_transfers f t (.inr rfl)
  obtain ⟨callEnds, callTraps⟩ := call_transfers f t
  obtain ⟨callaEnds, callaTraps⟩ := calla_transfers f t
  obtain ⟨loopEnds, loopTraps⟩ := loop_transfers f t
  obtain ⟨banyEnds, banyTraps⟩ := bany_transfers f t
  obtain ⟨ballEnds, ballTraps⟩ := ball_transfers f t
  refine ⟨fun ht => ⟨brEnds ht, braEnds ht, retEnds ht, callEnds ht, callaEnds ht, loopEnds ht, banyEnds ht, ballEnds ht⟩,
    fun ht => ⟨brTraps ht, braTraps ht, retTraps ht, callTraps ht, callaTraps ht, loopTraps ht, banyTraps ht, ballTraps ht⟩,
    ?lastLoop, ?noBany, ?noBall⟩
  case lastLoop =>
    refine ends_of loopEff (fun _ => rfl) fun e _ hp => ?_
    obtain ⟨hon, hleft⟩ := hp
    have hleft : loopLeft e = 0 := hleft
    rw [loopEff_active hon, if_pos hleft, hleft]
  case noBany => exact ends_of _ (fun _ => rfl) fun _ _ hp => if_pos hp
  case noBall => exact ends_of _ (fun _ => rfl) fun _ _ hp => if_neg hp

end Sys2Proof.Proofs.Transfers

/-! SUPPORT. `rdsr`, `wrsr` and `tick` (R99, R115 to R119): the number in field B names the special register. -/

namespace Sys2Proof.Proofs.SpecialRegisters

open Sys2Proof.Machine
open Sys2Proof.Proofs.PredicateInstructions (ends_of_effect)

/-- The special registers by number; 15 and above are the generator of the lane. -/
theorem readSr_eq (e : Env) (n l : Nat) :
    readSr e n l = match n with
      | 0 => e.slot
      | 1 => e.eid
      | 2 => e.t.task.toNat
      | 3 => (e.t.targ.getD 0 0).toNat
      | 4 => (e.t.targ.getD 1 0).toNat
      | 5 => (e.t.targ.getD 2 0).toNat
      | 6 => (e.t.targ.getD 3 0).toNat
      | 7 => e.t.fpsr.toNat
      | 8 => e.t.trapCnt.toNat * 2 ^ 16 + e.t.lastTrap.toNat * 2 ^ 8 + b2n e.t.drainReq * 4 + b2n e.t.hslot * 2 +
          b2n e.t.deadRead
      | 9 => (e.s0.cycle e.eid - e.c.cycle0) % 2 ^ 64
      | 10 => (e.s0.dev e.dev).tick % 2 ^ 64
      | 11 => e.t.swinv
      | 12 => e.c.limit.toNat * 4 + e.c.last.toNat
      | 13 => e.c.rlocks.length
      | 14 => e.c.mxw.toNat
      | _ => (e.t.seed.getD l 1).toNat := by
  match n with
  | 0 | 1 | 2 | 3 | 4 | 5 | 6 | 7 | 8 | 9 | 10 | 11 | 12 | 13 | 14 | _ + 15 => rfl

/-! What `wrsr` writes, by the register; those of the thread and of the core are written when lane 0 is active (R98). -/

theorem wrsrEff_seed {e : Env} (hn : (simm14 e.f.b).toNat = 15) :
    wrsrEff e = e.modT fun t =>
      { t with seed := (List.range 32).map fun l => if e.act l then seedOf (e.a l) else t.seed.getD l 1 } := by
  simp only [wrsrEff, hn]

theorem wrsrEff_fpsr {e : Env} (hon : e.on) (hn : (simm14 e.f.b).toNat = 7) :
    wrsrEff e = e.modT fun t => { t with fpsr := BitVec.ofNat 6 e.a0 } := by
  simp only [wrsrEff, hn]
  exact if_neg (not_not_intro hon)

theorem wrsrEff_tstat {e : Env} (hon : e.on) (hn : (simm14 e.f.b).toNat = 8) :
    wrsrEff e = e.modT fun t => { t with deadRead := bit e.a0 0 } := by
  simp only [wrsrEff, hn]
  exact if_neg (not_not_intro hon)

theorem wrsrEff_corepwr {e : Env} (hon : e.on) (hn : (simm14 e.f.b).toNat = 12) :
    wrsrEff e = e.s.modCore e.eid fun c => { c with limit := limitOf e.a0 } := by
  simp only [wrsrEff, hn]
  exact if_neg (not_not_intro hon)

/-- Settles O5: `rdsr` and `wrsr` choose by the number in field B, and a write of another register than the generators is lane 0's. -/
theorem specialRegisterInstructions : Obligations.SpecialRegisterInstructions := by
  unfold Obligations.SpecialRegisterInstructions
  refine fun f => ⟨?rdsr, ?fpsr, ?tstat, ?corepwr, ?srseed, ?tick⟩
  case rdsr =>
    refine ends_of_effect (fun e => e.putI fun l => fitRaw e.od.w (readSr e (simm14 e.f.b).toNat l)) (fun _ => rfl)
      fun e hf _ => ?_
    subst hf
    exact congrArg e.putI (funext fun l => congrArg (fitRaw e.od.w) (readSr_eq e _ l))
  case fpsr => exact ends_of_effect wrsrEff (fun _ => rfl) fun _ hf ⟨hon, hn⟩ => wrsrEff_fpsr hon (hf ▸ hn)
  case tstat => exact ends_of_effect wrsrEff (fun _ => rfl) fun _ hf ⟨hon, hn⟩ => wrsrEff_tstat hon (hf ▸ hn)
  case corepwr => exact ends_of_effect wrsrEff (fun _ => rfl) fun _ hf ⟨hon, hn⟩ => wrsrEff_corepwr hon (hf ▸ hn)
  case srseed => exact ends_of_effect wrsrEff (fun _ => rfl) fun _ hf hn => wrsrEff_seed (hf ▸ hn)
  case tick => exact ends_of _ (fun _ => rfl) fun e _ hon => by rw [thread_of_act hon]

end Sys2Proof.Proofs.SpecialRegisters

/-! SUPPORT. `nop`, `yield`, `exit`, `isync` and `spawn` (R108 to R114, R386): the ends of a thread by its own instruction, the start of
the fetches anew, and the request of a spawn. -/

namespace Sys2Proof.Proofs.ThreadInstructions

open Sys2Proof.Machine
open Sys2Proof.Proofs.BarrierInstructions (bind_of_ok)
open Sys2Proof.Proofs.Transfers (targetOk_iff)

/-! ## The end of a thread -/

/-- A thread whose results have landed, with nothing left to deliver and no join pending, ends (R71, R250, R319). -/
theorem endSelf_ends {e : Env} (hl : e.t.allLanded = true) (hd : e.t.deferred = []) (hj : e.t.joins = []) (drained : Bool) :
    endSelf e drained = .ok (endThread e.s e.eid e.slot drained) := by
  rw [endSelf, bind_of_ok (settled_ok hl), bind_of_ok (deferredFirst_ok hd), hj]
  rfl

theorem yieldEff_goesOn {e : Env} (hon : e.on) (h : e.t.drainReq = false ∨ hasInPort e = true) : yieldEff e = .ok e.s := by
  rw [yieldEff, thread_of_act hon, if_neg]
  obtain h | h := h <;> simp [h]

theorem yieldEff_drains {e : Env} (hon : e.on) (hr : e.t.drainReq = true) (hp : hasInPort e = false) :
    yieldEff e = endSelf e true := by
  rw [yieldEff, thread_of_act hon, if_pos ⟨hr, ne_true_of_eq_false hp⟩]

/-- An engine fault that the thread must hear of comes before its end (R162, R260, R371). -/
theorem exitEff_traps {e : Env} {i : TrapInfo} (hon : e.on) (hl : e.t.allLanded = true) (hi : exitFault e = some i) :
    exitEff e = .error (.trap i) := by
  rw [exitEff, thread_of_act hon, bind_of_ok (settled_ok hl), hi]

/-! ## `isync` -/

/-- The bytes that an `isync` covers, by MOD: the first and the count. -/
def isyncSpan (e : Env) : Nat × Nat := if e.f.md = 0 then (e.a0, e.b0) else (0, 0x80000)

theorem isyncEff_covers {e : Env} (hon : e.on) (h : e.f.md = 0 → e.b0 = 0 ∨ e.a0 + e.b0 ≤ 0x80000) :
    isyncEff e = .ok (e.modT fun t => { t with
      fetch := []
      isyncs := if (isyncSpan e).2 = 0 then t.isyncs
        else t.isyncs ++ [((isyncSpan e).1, (isyncSpan e).1 + (isyncSpan e).2 - 1, e.s0.steps)] }) := by
  rw [isyncEff, thread_of_act hon, isyncSpan]
  by_cases hm : e.f.md = 0
  · refine (if_pos hm).trans ((bind_of_ok (need_ok ?_) _).trans ?_)
    · simpa using h hm
    · simp only [if_pos hm]
  · refine (if_neg hm).trans ?_
    simp only [if_neg hm]

/-! ## `spawn` -/

/-- An uncorrectable error in one of the scalar slices that a spawn hands over. -/
def badScal (e : Env) : Bool := e.t.ecc.any fun k => decide (512 ≤ k) && decide (k < 576)

theorem spawnEff_bad {e : Env} (hon : e.on) (h : badScal e = true) :
    spawnEff e = .error (.trap { e.info 11 with cause := 1 }) := by
  rw [spawnEff, thread_of_act hon]
  exact if_pos h

/-- A request after its release goes out with a result still to come (R240, R243). -/
theorem request_asks {e : Env} {nr : Bool} {scope dst cls : Nat} {body : Body} {r : State × List Nat}
    (hr : sendRelease e e.s nr scope = .ok r) : e.request nr scope dst cls body = .ok (e.asked dst cls body r) := by
  rw [Env.request, hr]
  rfl

theorem target_ok {e : Env} (h : e.a0 < 2 ^ 22) : e.target = .ok e.a0 := if_pos h

theorem spawnEff_asks {e : Env} {r : State × List Nat} (hon : e.on) (hgood : badScal e = false) (hj : e.t.joins = [])
    (hdst : e.a0 < 2 ^ 22) (hcode : InCode e.b0) (hr : sendRelease e e.s false (scopeTo e.eid e.a0) = .ok r) :
    spawnEff e = .ok (e.asked e.a0 1 (.spawn e.b0 e.t.swinv (e.rd 4 (.scal 0 64) 0) e.t.task e.t.targ) r) := by
  rw [spawnEff, thread_of_act hon]
  refine (if_neg (ne_true_of_eq_false hgood)).trans ((bind_of_ok rfl _).trans ?_)
  rw [bind_of_ok (noJoin_ok hj), bind_of_ok (target_ok hdst), bind_of_ok (need_ok ((targetOk_iff _).mpr hcode))]
  exact request_asks hr

/-- Settles O6: each description runs through its checks to the end that the statement names. -/
theorem threadInstructions : Obligations.ThreadInstructions := by
  unfold Obligations.ThreadInstructions
  refine fun f => ⟨?nop, ?yieldOn, ?yieldEnds, ?exitEnds, ?exitTraps, ?isync, ?spawnTraps, ?spawn⟩
  case nop => exact ends_of _ (fun _ => rfl) fun _ _ _ => rfl
  case yieldOn => exact ends_of yieldEff (fun _ => rfl) fun _ _ ⟨hon, h⟩ => yieldEff_goesOn hon h
  case yieldEnds =>
    refine ends_of yieldEff (fun _ => rfl) fun e _ hp => ?_
    obtain ⟨hon, hr, hport, hl, hd, hj⟩ := hp
    rw [yieldEff_drains hon hr hport, endSelf_ends hl hd hj]
  case exitEnds =>
    refine ends_of exitEff (fun _ => rfl) fun e _ hp => ?_
    obtain ⟨hon, hl, hd, hj, hfault⟩ := hp
    exact exitEff_ends hon hl hj hfault hd
  case exitTraps =>
    refine traps_of exitEff (fun _ => rfl) fun e _ hp => ?_
    obtain ⟨hon, hl, hfault⟩ := hp
    obtain ⟨i, hi⟩ := Option.isSome_iff_exists.mp hfault
    rw [exitEff_traps hon hl hi, hi]
    rfl
  case isync =>
    refine ends_of isyncEff (fun _ => rfl) fun e hf hp => ?_
    subst hf
    obtain ⟨hon, hspan⟩ := hp
    exact isyncEff_covers hon hspan
  case spawnTraps => exact traps_of spawnEff (fun _ => rfl) fun _ _ ⟨hon, hbad⟩ => spawnEff_bad hon hbad
  case spawn =>
    refine endsBy_of spawnEff (fun _ => rfl) fun e r _ hp hr => ?_
    obtain ⟨hon, hgood, hj, hdst, hcode⟩ := hp
    exact spawnEff_asks hon hgood hj hdst hcode hr

end Sys2Proof.Proofs.ThreadInstructions

/-! SUPPORT. `wait`, `sleep` and `tick.at` (R111, R112): what each begins to wait for, and the events that end a wait on a core that is
awake. -/

namespace Sys2Proof.Proofs.Waits

open Sys2Proof.Machine
open Sys2Proof.Proofs.BarrierInstructions (bind_of_ok)

/-! ## The beginning of a wait -/

/-- The doubleword that a `wait` looks at, where its mask asks for one. -/
def waitWord (e : Env) : Nat := if bit e.a0 4 then e.b0 else 0

/-- The checks of `wait`: the mask, and the doubleword where the mask asks for one. -/
structure WaitOk (e : Env) : Prop where
  mask : bits e.a0 63 5 = 0
  some : e.a0 ≠ 0 ∨ e.f.imm.toNat ≠ 0
  word : bit e.a0 4 = true → e.b0 ≤ 0x7FFF8 ∧ e.b0 % 8 = 0 ∧ emptyGran e.s0 [lmKey e.eid e.b0] = none

theorem WaitOk.waitWord_ok {e : Env} (h : WaitOk e) : waitWord e ≤ 0x7FFF8 ∧ waitWord e % 8 = 0 := by
  unfold waitWord
  split
  case isTrue hb =>
    obtain ⟨hle, hal, -⟩ := h.word hb
    exact ⟨hle, hal⟩
  case isFalse => decide

/-- The events that hold at the issue of a `wait`. -/
def waitNow (e : Env) : Nat :=
  waitHit e.s0 e.eid e.t (e.s0.cycle e.eid) e.a0 (waitWord e) e.c0 e.f.imm.toNat

theorem waitFill_ok {e : Env} {lane va : Nat} {ks : List Nat} (h : emptyGran e.s0 ks = none) : waitFill e lane va ks = .ok () := by
  rw [waitFill, h]

/-- `wait` completes with the events that hold at its issue, and waits when there are none (R111). -/
theorem waitEff_looks {e : Env} (hon : e.on) (hl : e.t.allLanded = true) (h : WaitOk e) :
    waitEff e = if waitNow e ≠ 0 then .ok (e.putW e.s (waitNow e))
      else .error (.wait { what := .event e.a0 (waitWord e) e.c0 e.f.imm.toNat, f := e.f, issued := e.s0.cycle e.eid, depth := 1 }) := by
  have hmask : (bits e.a0 63 5 == 0 && !(e.a0 == 0 && e.f.imm.toNat == 0)) = true := by
    have := h.mask
    have := h.some
    grind
  have hword : (decide (waitWord e ≤ 0x7FFF8) && waitWord e % 8 == 0) = true := by
    simpa using h.waitWord_ok
  rw [waitEff, thread_of_act hon, bind_of_ok (settled_ok hl), bind_of_ok (need_ok hmask)]
  refine (bind_of_ok (need_ok hword) _).trans ?_
  by_cases hb : bit e.a0 4 = true
  · obtain ⟨-, -, hfill⟩ := h.word hb
    refine (if_pos hb).trans (bind_of_ok (waitFill_ok ?_) _)
    rw [if_pos hb]
    exact hfill
  · exact (if_neg hb).trans (bind_of_ok rfl _)

theorem sleepEff_waits {e : Env} (hon : e.on) (hl : e.t.allLanded = true) :
    sleepEff e = .error (.wait { what := .sleep (e.s.cycle e.eid + e.a0), f := e.f, issued := e.s.cycle e.eid,
                                 depth := if e.f.md = 1 then 2 else 1 }) := by
  rw [sleepEff, thread_of_act hon, bind_of_ok (settled_ok hl)]

/-! ## The end of a wait -/

section Ends

variable {s : State} {eid slot : Nat} {t : Thread} {w : Waiting}

theorem waitOf_waiting (hf : (s.core eid).frozen = false) (ht : s.thr? eid slot = some t) (hw : t.status = .waiting w) :
    waitOf s eid slot = some (t, w) := by
  simp only [waitOf, hf, ht, hw, Bool.false_eq_true, if_false, Option.bind_some]

variable (hs : s.who = [eid, slot]) (hwait : waitOf s eid slot = some (t, w))
include hs hwait

theorem endEvent_ends {p : Nat → Bool} {m a c l v : Nat} (ha : awake s eid = true) (hev : w.what = .event m a c l) (hv : v ≠ 0)
    (hval : v = if w.hit ≠ 0 then w.hit else waitHit s eid t w.issued m a c l) (hp : p v = true) :
    endEvent p s = endWait s eid slot w (some v) := by
  have hvalue : waitValue s eid slot = v := by rw [waitValue, hwait]; simp only [hev, hval]
  simp only [endEvent, hs, hwait, hvalue]
  exact if_pos ⟨hv, hp, ha⟩

theorem sleepExpiry_ends {u : Nat} (ha : awake s eid = true) (hsl : w.what = .sleep u) (h : t.drainReq = true ∨ u ≤ s.cycle eid) :
    sleepExpiry s = endWait s eid slot w none := by
  have hdone : sleepDone s eid slot = true := by
    rw [sleepDone, hwait]
    simpa only [hsl, Bool.or_eq_true, decide_eq_true_eq] using h
  simp only [sleepExpiry, hs, hwait]
  exact if_pos ⟨hdone, ha⟩

theorem tickAtWake_ends {n : Nat} (ha : awake s eid = true) (htk : w.what = .tick n) (h : t.drainReq = true ∨ n ≤ s.tickOf eid) :
    tickAtWake s = endWait s eid slot w (some (s.tickOf eid % 2 ^ 64)) := by
  have hdone : tickDone s eid slot = true := by
    rw [tickDone, hwait]
    simpa only [htk, Bool.or_eq_true, decide_eq_true_eq] using h
  simp only [tickAtWake, hs, hwait]
  exact if_pos ⟨hdone, ha⟩

end Ends

/-- Settles O7: a `wait` looks at what holds at its issue; each event finds the wait in its slot and ends it. -/
theorem waitsBeginAndEnd : Obligations.WaitsBeginAndEnd := by
  unfold Obligations.WaitsBeginAndEnd
  refine ⟨fun f => ⟨?waitEnds, ?waitWaits, ?sleep, ?tickAt⟩, ?ends⟩
  case waitEnds =>
    refine ends_of waitEff (fun _ => rfl) fun e hf hp => ?_
    subst hf
    obtain ⟨⟨hon, hl, hmask, hsome, hword⟩, hhit⟩ := hp
    exact (waitEff_looks hon hl ⟨hmask, hsome, hword⟩).trans (if_pos hhit)
  case waitWaits =>
    refine waits_of waitEff (fun _ => rfl) fun e hf hp => ?_
    subst hf
    obtain ⟨⟨hon, hl, hmask, hsome, hword⟩, hhit⟩ := hp
    exact (waitEff_looks hon hl ⟨hmask, hsome, hword⟩).trans (if_neg (not_not_intro hhit))
  case sleep => exact waits_of sleepEff (fun _ => rfl) fun e hf ⟨hon, hl⟩ => by rw [sleepEff_waits hon hl, hf]
  case tickAt => exact waits_of tickAtEff (fun _ => rfl) fun e hf hon => by rw [tickAtEff, thread_of_act hon, hf]
  case ends =>
    intro s eid slot t w hs hfrozen ha ht hw
    have hwait := waitOf_waiting hfrozen ht hw
    refine ⟨fun m a c l v hev hv hval => ⟨?wake, fun hlim => ?timeout⟩, fun u hsl h => ?sleepEnd, fun n htk h => ?tickEnd⟩
    case wake => exact congrArg _ (endEvent_ends hs hwait ha hev hv hval rfl)
    case timeout => exact congrArg _ (endEvent_ends hs hwait ha hev hv hval hlim)
    case sleepEnd => exact congrArg _ (sleepExpiry_ends hs hwait ha hsl h)
    case tickEnd => exact congrArg _ (tickAtWake_ends hs hwait ha htk h)

end Sys2Proof.Proofs.Waits

/-! SUPPORT. What happens to threads between their instructions (R71, R101, R102, R108, R113, R321): each event looks at what it is about
and acts where its conditions hold. -/

namespace Sys2Proof.Proofs.ThreadEvents

open Sys2Proof.Machine

/-- A step of an agent ends in the state that its description gives. -/
theorem event_next {g : State → State} {s s' : State} (h : g s = s') : event g s = .next s' :=
  congrArg Host.Outcome.next h

theorem classLResult_lands {s : State} {eid slot id : Nat} (hs : s.who = [eid, slot, id]) (h : mayLand s eid slot id = true) :
    classLResult s = resultLands s eid slot id := by
  simp only [classLResult, hs]
  exact if_pos h

/-! ## Fetch -/

/-- The bytes of LM that a fetch block holds, by key. -/
def blockKeys (eid b : Nat) : List Nat := (List.range 32).map (lmKey eid b + ·)

/-- A block that LM holds now, or held before one of the writes that a thread's fetches of it may still miss (R102). -/
def BlockOf (s : State) (eid : Nat) (t : Thread) (b : Nat) (bs : List Byte) : Prop :=
  (∃ x ∈ s.past, x.1 = lmKey eid b ∧ t.fetchFrom b < x.2.1 ∧ bs = x.2.2) ∨ bs = (blockKeys eid b).map s.byte

/-- Every choice of a fetch is such a block. -/
theorem blockOf_of_mem_fetchChoices {s : State} {eid : Nat} {t : Thread} {b : Nat} {bs : List Byte}
    (h : bs ∈ fetchChoices s eid t b) : BlockOf s eid t b bs := by
  have hold : ∀ x ∈ s.past.filter fun (k, n, _) => k == lmKey eid b && decide (t.fetchFrom b < n),
      BlockOf s eid t b x.2.2 := by
    intro x hx
    rw [List.mem_filter, Bool.and_eq_true, beq_iff_eq, decide_eq_true_eq] at hx
    obtain ⟨hmem, hkey, hstep⟩ := hx
    exact .inl ⟨x, hmem, hkey, hstep, rfl⟩
  rw [fetchChoices] at h
  generalize s.past.filter _ = old at h hold
  cases old with
  | nil => exact .inr (List.mem_singleton.mp h)
  | cons x r =>
    dsimp only at h
    split at h
    case isTrue =>
      obtain rfl | rfl := by simpa using h
      · exact .inr rfl
      · exact hold x List.mem_cons_self
    case isFalse =>
      obtain rfl | ⟨y, hy, rfl⟩ := (List.mem_cons.trans (or_congr_right List.mem_map)).mp h
      · exact .inr rfl
      · exact hold y hy

theorem fetchChoices_ne_nil (s : State) (eid : Nat) (t : Thread) (b : Nat) : fetchChoices s eid t b ≠ [] := by
  rw [fetchChoices]
  split
  case h_1 => exact List.cons_ne_nil _ _
  case h_2 => split <;> exact List.cons_ne_nil _ _

/-- A fetch returns one of its choices. -/
theorem fetchBytes_mem (s : State) (eid : Nat) (t : Thread) (b : Nat) : fetchBytes s eid t b ∈ fetchChoices s eid t b := by
  have hne := fetchChoices_ne_nil s eid t b
  unfold fetchBytes
  generalize fetchChoices s eid t b = l at hne
  split
  case h_1 x => exact List.mem_singleton_self x
  case h_2 =>
    have hlt : Config.choose s.free % l.length < l.length := Nat.mod_lt _ (List.length_pos_iff.mpr hne)
    rw [List.getD_eq_getElem?_getD, List.getElem?_eq_getElem hlt]
    exact List.getElem_mem hlt

section Fetch

variable {s : State} {eid slot b : Nat} {t : Thread} (hs : s.who = [eid, slot]) (ht : s.thr? eid slot = some t)
  (hf : (s.core eid).frozen = false) (hb : t.wantsBlock = some b)

include hs ht hf hb in
theorem fetchRead_reads : fetchRead s = fetchBlock s eid slot t b := by
  simp only [fetchRead, hs, ht, hf, hb, Bool.false_eq_true, if_false]

/-- A block of filled granules that the core owns enters the buffer of a fetching thread, which goes on when it has its words. -/
theorem fetchBlock_enters (hok : (s.core eid).lmOk b 32 = true) (hst : t.status = .fetching)
    (hfull : emptyGran s (blockKeys eid b) = none) :
    let u := t.fetched b (fetchBytes s eid t b) ((blockKeys eid b).any s.bad.contains)
    fetchBlock s eid slot t b = if u.hasWords then enterReady s eid slot u else s.setThr eid slot u := by
  have hst' : (t.fetched b (fetchBytes s eid t b) ((blockKeys eid b).any s.bad.contains)).status = .fetching := hst
  unfold blockKeys at *
  simp only [fetchBlock, hok, hfull, hst', not_true_eq_false, if_false]

theorem fetchBlock_outside (hok : (s.core eid).lmOk b 32 = false) :
    fetchBlock s eid slot t b = if t.needsBlock b then takeTrap s eid slot
      { code := 6, ipc := t.pc.toNat, rpc := t.pc.toNat, va := windowVa eid b } else s := by
  rw [fetchBlock]
  exact if_pos (ne_true_of_eq_false hok)

end Fetch

/-! ## Sleep, watchdog and spawn -/

theorem coreSleeps_at {s : State} {eid d : Nat} (hs : s.who = [eid]) (h : sleepsTo s eid = some d) :
    coreSleeps s = s.modCore eid fun c => { c with depth := d, last := BitVec.ofNat 2 d, woke := none } := by
  simp only [coreSleeps, hs, h]

/-- A sleeping core issues again 4 or 60 cycles after the event that woke it (R113). -/
theorem coreWakes_at {s : State} {eid n : Nat} (hs : s.who = [eid]) (hd : (s.core eid).depth ≠ 0)
    (h : (s.core eid).woke = some n ∨ ((s.core eid).woke = none ∧ wakeEvent s eid = some n)) :
    coreWakes s = s.setCore eid { s.core eid with
      depth := 0, woke := none, wakeAt := n + (if (s.core eid).depth = 2 then 60 else 4) } := by
  have hwakes : wakesUp s eid = true := by
    rw [wakesUp, Bool.and_eq_true, bne_iff_ne, Bool.or_eq_true]
    obtain h | ⟨-, h⟩ := h
    · exact ⟨hd, .inl (Option.isSome_iff_exists.mpr ⟨n, h⟩)⟩
    · exact ⟨hd, .inr (Option.isSome_iff_exists.mpr ⟨n, h⟩)⟩
  have hat : (s.core eid).woke.getD ((wakeEvent s eid).getD (s.cycle eid)) = n := by
    obtain h | ⟨h, h'⟩ := h
    · rw [h, Option.getD_some]
    · rw [h, h', Option.getD_none, Option.getD_some]
  simp only [coreWakes, hs, hwakes, hat, if_true]

theorem handlerWatchdog_traps {s : State} {eid slot : Nat} {t : Thread} (hs : s.who = [eid, slot]) (ht : s.thr? eid slot = some t)
    (h : watchdogDue t slot = true) :
    handlerWatchdog s = takeTrap s eid slot { code := 9, ipc := t.pc.toNat, rpc := t.pc.toNat, word := t.word } := by
  simp only [handlerWatchdog, hs, ht, h, if_true]

/-- A spawn to a core of the context, with a free slot and the units of its window, creates the thread (R64, R108). -/
theorem spawnArrives_creates {s : State} {p : Packet} {off swinv scal slot : Nat} {task : BitVec 32} {targ : List (BitVec 64)}
    (hbody : p.body = .spawn off swinv scal task targ) (hcore : s.hasCore p.dst = true) (hctx : (s.core p.dst).ctx = some p.asid)
    (hslot : freeSlot (s.core p.dst) = some slot) (hunits : swinv / 64 ≤ (freeUnits (s.core p.dst)).length) :
    spawnArrives s p =
      answerWord (startThread (acquire (unitsAsked s p.dst (rankSpawn p.src)) p.dst slot (max 2 (scopeTo p.src p.dst))) p.dst slot
        (newThread off swinv ((freeUnits (s.core p.dst)).take (swinv / 64)) scal task targ)) p 0 := by
  simp only [spawnArrives, hbody, hcore, hctx, hslot, not_true_eq_false, ne_eq, or_self, if_false]
  exact if_neg (Nat.not_lt.mpr hunits)

theorem spawnArrival_reaches {s : State} {p : Packet} (hp : readyPkt? s = some p)
    (hturn : unitsTurn s p.dst (rankSpawn p.src) = true) : exec .spawnArrival s = .next (spawnArrives s p) := by
  show execSpawnArrival s = _
  simp only [execSpawnArrival, event, hp, hturn, if_true]

/-- Settles O8: each event acts on what `State.who` names, where its conditions hold. -/
theorem threadEvents : Obligations.ThreadEvents := by
  unfold Obligations.ThreadEvents
  refine ⟨?lands, ?fetch, ?sleeps, ?wakes, ?watchdog, ?spawn⟩
  case lands => exact fun s eid slot id hs h => event_next (classLResult_lands hs h)
  case fetch =>
    intro s eid slot b t hs ht hf hb
    have hread := fetchRead_reads hs ht hf hb
    refine ⟨fun hok hst hfull => ⟨fetchBytes s eid t b, ?block, ?enters⟩, fun hok => ⟨fun hneed => ?traps, fun hahead => ?leaves⟩⟩
    case block => exact blockOf_of_mem_fetchChoices (fetchBytes_mem s eid t b)
    case enters => exact event_next (hread.trans (fetchBlock_enters hok hst hfull))
    case traps => exact event_next (hread.trans ((fetchBlock_outside hok).trans (if_pos hneed)))
    case leaves => exact event_next (hread.trans ((fetchBlock_outside hok).trans (if_neg (ne_true_of_eq_false hahead))))
  case sleeps => exact fun s eid d hs h => event_next (coreSleeps_at hs h)
  case wakes => exact fun s eid n hs hd h => event_next (coreWakes_at hs hd h)
  case watchdog =>
    intro s eid slot t hs ht hslot hissued hst
    refine event_next (handlerWatchdog_traps hs ht ?_)
    simp [watchdogDue, hslot, hissued, hst]
  case spawn =>
    intro s p off swinv scal slot task targ hp hbody hcore hctx hturn hslot hunits u
    rw [spawnArrival_reaches hp hturn, spawnArrives_creates hbody hcore hctx hslot hunits]

end Sys2Proof.Proofs.ThreadEvents

/-! SUPPORT. Division, sums over lanes, sums of products and `padd` (R129 to R132). -/

namespace Sys2Proof.Proofs.DivisionSumsPointers

open Sys2Proof.Machine
open Sys2Proof.Proofs.PredicateInstructions (ends_of_effect)

/-- Every lane passes a test that always holds. -/
theorem combineLanes_all (e : Env) :
    combineLanes e (fun _ => true) = fitInt e.f.sat e.isgn e.ibits e.od.w
      (combine e.f.op e.isgn e.ibits (e.lanes.map fun k => e.elemA k 0)) := by
  rw [combineLanes, List.filter_eq_self.mpr fun _ _ => rfl]

/-! ## `padd` -/

theorem find?_none {p : Nat → Bool} {l : List Nat} (h : ∀ x ∈ l, p x = false) : l.find? p = none :=
  List.find?_eq_none.mpr fun x hx => ne_true_of_eq_false (h x hx)

theorem paddEff_adds {e : Env} (h : ∀ l ∈ e.dlanes, paddBad e l = false ∧ (paddOff e l).isSome) :
    paddEff e = .ok (e.putI (paddVal e)) := by
  have hgood : e.dlanes.find? (paddBad e) = none := find?_none fun l hl => (h l hl).1
  have hwhole : (e.dlanes.find? fun l => (paddOff e l).isNone) = none :=
    find?_none fun l hl => Option.isNone_eq_false_iff.mpr (h l hl).2
  simp only [paddEff, hgood, hwhole]
  rfl

theorem paddEff_format {e : Env} {l : Nat} (h : e.dlanes.find? (paddBad e) = some l) :
    paddEff e = .error (.trap { e.info 7 with lane := if e.od.isVec then l else 255, va := 0 }) := by
  simp only [paddEff, h]
  rfl

theorem paddEff_half {e : Env} {l : Nat} (hgood : e.dlanes.find? (paddBad e) = none)
    (h : (e.dlanes.find? fun k => (paddOff e k).isNone) = some l) :
    paddEff e = .error (.trap { e.info 2 with lane := if e.od.isVec then l else 255, va := 0 }) := by
  simp only [paddEff, hgood, h]
  rfl

/-- Settles O12: all but `padd` are one effect each; `padd` looks for the first lane with a format trap, then for the first with half a
byte. -/
theorem divisionSumsAndPointers : Obligations.DivisionSumsAndPointers := by
  unfold Obligations.DivisionSumsAndPointers
  refine ⟨fun f => ⟨?div, ?rem, ?ired, ?iscan, ?sad, ?dp4, ?dp8⟩, fun f => ⟨?padd, fun l => ?format, fun l => ?half⟩⟩
  case div | rem | dp4 | dp8 => exact ends_of_effect _ (fun _ => rfl) fun _ _ _ => rfl
  case sad => exact ends_of_effect _ (fun _ => rfl) fun e hf _ => by subst hf; rfl
  case ired => exact ends_of_effect _ (fun _ => rfl) fun e hf _ => by subst hf; rw [combineLanes_all]; rfl
  case iscan => exact ends_of_effect _ (fun _ => rfl) fun e hf _ => by subst hf; rfl
  case padd => exact ends_of paddEff (fun _ => rfl) fun _ _ h => paddEff_adds h
  case format => exact traps_of paddEff (fun _ => rfl) fun _ _ h => paddEff_format h
  case half => exact traps_of paddEff (fun _ => rfl) fun _ _ ⟨hgood, h⟩ => paddEff_half hgood h

end Sys2Proof.Proofs.DivisionSumsPointers

/-! SUPPORT. The float group (R134 to R142): every instruction computes its lanes' results with their flags and ends in one write. -/

namespace Sys2Proof.Proofs.FloatInstructions

open Sys2Proof.Machine
open Sys2Proof.Proofs.PredicateInstructions (ends_of_effect)

/-- Settles O13: each instruction is issued with its function of an element, which the fields in hand give its rounding. -/
theorem floatArithmetic : Obligations.FloatArithmetic := by
  unfold Obligations.FloatArithmetic
  refine fun f => ⟨?fadd, ?fsub, ?fmul, ?fdiv, ?fma, ?fmin, ?fmax, ?fabs, ?fneg, ?fclass, ?frint, ?frcp, ?frsq, ?fsqrt, ?fexp2,
    ?flog2, ?fsin, ?fcos⟩
  all_goals exact ends_of_effect _ (fun _ => rfl) fun e hf _ => by subst hf; rfl

/-! ## Comparisons and trees -/

/-- What `fred` delivers of its tree's value: the canonical NaN for a NaN, with NV for a signalling one (R11). -/
theorem fredOut_eq (t : Fmt) (a : Nat) :
    fredOut t a = (if (floatValue t a).isNan then t.nan else a, (floatValue t a).snan) := by
  unfold fredOut
  cases floatValue t a <;> rfl

theorem fredEff_empty {e : Env} (h : e.dlanes = []) : fredEff e = e.modT fun t => { t with seed := (fredTree e).seed } :=
  if_pos (List.isEmpty_iff.mpr h)

theorem fredEff_delivers {e : Env} (h : e.dlanes ≠ []) :
    fredEff e =
      let x := ((fredTree e).v.getD 0 none).getD (fredIdentity e)
      let r := if (floatValue e.fmt x).isNan then e.fmt.nan else x
      (e.doneF true (e.dlanes.map fun l => (l, fitRaw e.od.w r)) ((fredTree e).fl ||| (floatValue e.fmt x).snan)).modThr e.eid e.slot
        fun t => { t with seed := (fredTree e).seed } := by
  refine (if_neg (mt List.isEmpty_iff.mp h)).trans ?_
  simp only [fredOut_eq]

/-- Settles O14: `fcmp` is class L where its type is slow, `fred` delivers nothing without an active lane, the rest is one effect each. -/
theorem floatComparisonsAndTrees : Obligations.FloatComparisonsAndTrees := by
  unfold Obligations.FloatComparisonsAndTrees
  refine fun f => ⟨?fcmpFast, ?fcmpSlow, ?fscale, ?fdot2, ?fsplit, ?fred, ?fredEmpty⟩
  case fcmpFast =>
    exact ends_of_effect fcmpEff (fun _ => rfl) fun e hf h => by subst hf; exact if_neg (ne_true_of_eq_false h)
  case fcmpSlow => exact ends_of_effect fcmpEff (fun _ => rfl) fun e hf h => by subst hf; exact if_pos h
  case fscale | fdot2 => exact ends_of_effect _ (fun _ => rfl) fun e hf _ => by subst hf; rfl
  case fsplit => exact ends_of_effect fsplitEff (fun _ => rfl) fun _ _ _ => rfl
  case fred => exact ends_of_effect fredEff (fun _ => rfl) fun _ _ h => fredEff_delivers h
  case fredEmpty => exact ends_of_effect fredEff (fun _ => rfl) fun _ _ h => fredEff_empty h

end Sys2Proof.Proofs.FloatInstructions

/-! SUPPORT. Conversions, block formats and long sums (R143 to R150): each is one effect once its type is known; `lscvt` first looks for a
reserved bit. -/

namespace Sys2Proof.Proofs.Conversions

open Sys2Proof.Machine
open Sys2Proof.Proofs.PredicateInstructions (ends_of_effect)
open Sys2Proof.Proofs.DivisionSumsPointers (find?_none)

/-- `cvt` between two types of the list (R143). -/
theorem cvtEff_converts {e : Env} {src dst : Ty} (hsrc : Ty.ofCode e.f.smod.toNat = some src)
    (hdst : Ty.ofCode e.f.etype.toNat = some dst) :
    cvtEff e =
      let r := e.dlanes.map fun l => (l, cvtLane e src dst l)
      stepSeeds e (2 ^ e.f.pk) (if slowType e e.f.smod.toNat || slowType e e.f.etype.toNat then
          e.doneL (r.map fun x => (x.1, x.2.1)) (r.foldl (fun fl x => fl ||| x.2.2) 0)
        else e.doneI (r.map fun x => (x.1, x.2.1)) (r.foldl (fun fl x => fl ||| x.2.2) 0)) := by
  simp only [cvtEff, hsrc, hdst]

theorem bxdEff_decodes {e : Env} {fmt : Bx} (h : Bx.ofCode e.f.etype.toNat = some fmt) :
    bxdEff e =
      let r := e.lanes.map fun l => (l, bxdLane e fmt l)
      stepSeeds e (perLane e.f.md) (e.doneL (r.map fun x => (x.1, x.2.1)) (r.foldl (fun fl x => fl ||| x.2.2) 0)) := by
  simp only [bxdEff, h]

/-- A reserved bit of a wide long sum is set in a lane (R150). -/
def reservedBit (e : Env) (l : Nat) : Bool := e.f.md == 1 && bits (e.rd 1 (Env.wide e.oa 4) l) 255 244 != 0

theorem reservedBit_eq_false {e : Env} {l : Nat} (h : e.f.md = 1 → bits (e.rd 1 (Env.wide e.oa 4) l) 255 244 = 0) :
    reservedBit e l = false := by
  rw [reservedBit, Bool.and_eq_false_imp, beq_iff_eq, bne_eq_false_iff_eq]
  exact h

theorem lscvtEff_converts {e : Env} (h : e.dlanes.find? (reservedBit e) = none) :
    lscvtEff e = .ok (
      let r := e.dlanes.map fun l => (l, lscvtVal e l)
      stepSeeds e 1 (e.doneL (r.map fun x => (x.1, fitRaw e.od.w x.2.1)) (r.foldl (fun fl x => fl ||| x.2.2) 0))) := by
  unfold reservedBit at h
  simp only [lscvtEff, h]

theorem lscvtEff_traps {e : Env} {l : Nat} (h : e.dlanes.find? (reservedBit e) = some l) :
    lscvtEff e = .error (.trap { e.info 2 with lane := if e.od.isVec then l else 255, va := 0 }) := by
  unfold reservedBit at h
  simp only [lscvtEff, h]
  rfl

/-- Settles O15: the types and the block format of the fields choose the effect. -/
theorem conversions : Obligations.Conversions := by
  unfold Obligations.Conversions
  refine fun f => ⟨fun src dst hsrc hdst => ?cvt, ?bxq, fun fmt hfmt => ?bxd, ?lsmk, ?lsadd, ?lscvt, fun l => ?lscvtTraps⟩
  case cvt => exact ends_of_effect cvtEff (fun _ => rfl) fun e hf _ => by subst hf; exact cvtEff_converts hsrc hdst
  case bxq => exact ends_of_effect bxqEff (fun _ => rfl) fun _ _ _ => rfl
  case bxd => exact ends_of_effect bxdEff (fun _ => rfl) fun e hf _ => by subst hf; exact bxdEff_decodes hfmt
  case lsmk | lsadd => exact ends_of_effect _ (fun _ => rfl) fun _ _ _ => rfl
  case lscvt =>
    refine ends_of lscvtEff (fun _ => rfl) fun e hf h => ?_
    subst hf
    exact lscvtEff_converts (find?_none fun l hl => reservedBit_eq_false (h l hl))
  case lscvtTraps => exact traps_of lscvtEff (fun _ => rfl) fun e hf h => by subst hf; exact lscvtEff_traps h

end Sys2Proof.Proofs.Conversions

/-! SUPPORT. Local loads and stores (R87, R180, R181): the checks of one lane in their order, and what an instruction does once its lanes
have passed. -/

namespace Sys2Proof.Proofs.LocalMemory

open Sys2Proof.Machine
open Sys2Proof.Proofs.BarrierInstructions (bind_of_ok)

/-! ## The checks of one lane -/

section Check

variable {e : Env} {vec write aligned : Bool} {l n : Nat}

/-- A negative address is outside LM. -/
theorem lmCheck_negative {va : Int} (h : va < 0) :
    lmCheck e vec write aligned { lane := l, va := va, n := n } =
      .error (.trap { e.info 2 with lane := if vec then l else 255, va := windowVaAny e.eid va }) := by
  obtain ⟨a, rfl⟩ := Int.eq_negSucc_of_lt_zero h
  rfl

/-- The thread may access `n` bytes at `off`: they are allotted and, for a write, no edge header. -/
def LmPermits (e : Env) (write : Bool) (off n : Nat) : Prop :=
  e.c.lmOk off n = true ∧ ¬ (write = true ∧ e.s0.inHeader e.eid off n = true)

theorem not_lmPermits {off : Nat} :
    ¬ LmPermits e write off n ↔ ¬ e.c.lmOk off n = true ∨ write = true ∧ e.s0.inHeader e.eid off n = true := by
  rw [LmPermits, Classical.not_and_iff_not_or_not, Classical.not_not]

/-- At an offset the checks follow one another: the end of LM, the permission, the alignment, the range locks (R181). -/
theorem lmCheck_offset (off : Nat) :
    lmCheck e vec write aligned { lane := l, va := (off : Int), n := n } =
      let ln := if vec then l else 255
      if 0x80000 < off + n then .error (.trap { e.info 2 with lane := ln, va := windowVaAny e.eid (off : Int) })
      else if ¬ e.c.lmOk off n = true ∨ write = true ∧ e.s0.inHeader e.eid off n = true then
        .error (.trap { e.info 6 with lane := ln, va := windowVa e.eid off })
      else if aligned = true ∧ off % n ≠ 0 then .error (.trap { e.info 8 with lane := ln, va := windowVa e.eid off })
      else if locked e.c true off n = true then .error (.trap { e.info 4 with lane := ln, va := windowVa e.eid off })
      else .ok { lane := l, va := windowVa e.eid off, keys := (List.range n).map (lmKey e.eid off + ·), cache := false } := rfl

end Check

/-! ## Loads and stores -/

theorem localLoad_loads {e : Env} {mode n : Nat} {gs : List Got}
    (h : lmChecks e (mode != 2) false (mode == 1) (e.wants mode n e.b) = .ok gs) :
    localLoad e mode n = .ok (e.loads false false gs) :=
  bind_of_ok h _

theorem localStore_stores {e : Env} {mode n grp : Nat} {gs : List Got} (hj : e.t.joins = []) (hw : e.wants mode n e.b ≠ [])
    (h : lmChecks e (mode != 2) true (mode == 1) (e.wants mode n e.b) = .ok gs) :
    localStore e mode n grp = .ok (e.stores e.s grp false (fun l => storeFit e n (e.a l)) gs) := by
  rw [localStore]
  refine (if_neg (mt List.isEmpty_iff.mp hw)).trans ?_
  rw [bind_of_ok (noJoin_ok hj), bind_of_ok h]

/-- Spills and fills go to contiguous lanes for a vector operand and to one place for a scalar (R87). -/
theorem spillMode (v : Bool) : ((if v then 0 else 2) != 2) = v ∧ ((if v then 0 else 2) == 1) = false := by
  cases v <;> decide

/-- Settles O16: a load or a store completes with what its checks give; the checks of a lane are the branches of one decision. -/
theorem localLoadsAndStores : Obligations.LocalLoadsAndStores := by
  unfold Obligations.LocalLoadsAndStores
  refine ⟨fun f => ⟨?ldl, ?sfill, ?stl, ?sspill⟩, fun e vec write aligned l n va => ⟨?negative, ?pastEnd, ?perm, ?aligned, ?locked, ?ok⟩⟩
  case ldl =>
    exact endsBy_of (fun e => localLoad e e.mode (lsSize e.f)) (fun _ => rfl) fun e gs hf _ hgs => by
      subst hf; exact localLoad_loads hgs
  case sfill =>
    refine endsBy_of (fun e => localLoad e (if e.od.isVec then 0 else 2) 8) (fun _ => rfl) fun e gs _ _ hgs => ?_
    obtain ⟨hvec, hal⟩ := spillMode e.od.isVec
    exact localLoad_loads (by rw [hvec, hal]; exact hgs)
  case stl =>
    refine endsBy_of (fun e => localStore e e.mode (lsSize e.f) (e.f.smod.toNat % 4)) (fun _ => rfl) fun e gs hf hp hgs => ?_
    subst hf
    obtain ⟨hj, hw⟩ := hp
    exact localStore_stores hj hw hgs
  case sspill =>
    refine endsBy_of (fun e => localStore e (if e.oa.isVec then 0 else 2) 8 0) (fun _ => rfl) fun e gs _ hp hgs => ?_
    obtain ⟨hj, hw⟩ := hp
    obtain ⟨hvec, hal⟩ := spillMode e.oa.isVec
    exact localStore_stores hj hw (by rw [hvec, hal]; exact hgs)
  case negative => exact lmCheck_negative
  all_goals
    intro h0
    obtain ⟨off, rfl⟩ := Int.eq_ofNat_of_zero_le h0
    rw [lmCheck_offset]
  case pastEnd => exact fun hend => if_pos hend
  case perm => exact fun hend hperm => (if_neg (Nat.not_lt.mpr hend)).trans (if_pos (not_lmPermits.mp hperm))
  case aligned =>
    exact fun hend hperm hal hoff =>
      (if_neg (Nat.not_lt.mpr hend)).trans ((if_neg (mt not_lmPermits.mpr (not_not_intro hperm))).trans (if_pos ⟨hal, hoff⟩))
  case locked =>
    exact fun hend hperm hal hlock =>
      (if_neg (Nat.not_lt.mpr hend)).trans ((if_neg (mt not_lmPermits.mpr (not_not_intro hperm))).trans
        ((if_neg fun h => h.2 (hal h.1)).trans (if_pos hlock)))
  case ok =>
    exact fun hend hperm hal hfree =>
      (if_neg (Nat.not_lt.mpr hend)).trans ((if_neg (mt not_lmPermits.mpr (not_not_intro hperm))).trans
        ((if_neg fun h => h.2 (hal h.1)).trans (if_neg (ne_true_of_eq_false hfree))))

end Sys2Proof.Proofs.LocalMemory

/-! SUPPORT. `stash`, `unstash` and `wptr` (R182 to R192): each is the sequence of its checks, and the status or the effect at its end. -/

namespace Sys2Proof.Proofs.StashInstructions

open Sys2Proof.Machine
open Sys2Proof.Proofs.BarrierInstructions (bind_of_ok bind_of_error need_traps)

/-! ## `stash` -/

/-- The operands of `stash` that R184 allows. -/
def StashOk (e : Env) : Prop := e.a0 % 4096 = 0 ∧ e.b0 % 4096 = 0 ∧ 1 ≤ e.c0 ∧ e.c0 ≤ 127

theorem stashEff_decides {e : Env} (hon : e.on) (h : StashOk e) :
    stashEff e =
      if 8 ≤ e.c.stash.length then .ok (e.doneL [(0, fitRaw e.od.w 1)] 0)
      else if ¬ stashable e.c (e.a0 / 4096) e.c0 = true then .ok (e.doneL [(0, fitRaw e.od.w 2)] 0)
      else if ((List.range e.c0).any fun i => granInUse e.s0 e.eid (e.a0 / 4096 + i)) = true then .error .block
      else .ok ((e.doneL [(0, 0)] 0).modCore e.eid fun c =>
        { c with stash := c.stash ++
            [{ lo := e.a0, va := bits e.b0 55 0, grs := List.replicate e.c0 { filled := false, dirty := 0 } }] }) := by
  have hok : (e.a0 % 4096 == 0 && e.b0 % 4096 == 0 && decide (1 ≤ e.c0) && decide (e.c0 ≤ 127)) = true := by
    simpa only [StashOk, Bool.and_eq_true, beq_iff_eq, decide_eq_true_eq, and_assoc] using h
  rw [stashEff, thread_of_act hon]
  exact bind_of_ok (need_ok hok) _

/-! ## `unstash` -/

/-- The window that `unstash` names: the first that begins at A. -/
def stashAt (e : Env) : Option Nat := firstIdx e.c.stash.length fun i => (e.c.stash[i]?).any fun w => w.lo == e.a0

theorem unstashEff_none {e : Env} (hon : e.on) (h : stashAt e = none) : unstashEff e = .ok (e.doneL [(0, fitRaw e.od.w 1)] 0) := by
  unfold stashAt at h
  simp only [unstashEff, thread_of_act hon, h]

/-- A dropped window goes at once; another goes when the thread's stores into it are performed and it has nothing to write back. -/
theorem unstashEff_frees {e : Env} {i : Nat} {w : Stash} (hon : e.on) (hi : stashAt e = some i) (hw : e.c.stash[i]? = some w)
    (h : e.f.md = 1 ∨ stashSettled e = true ∧ (w.grs.all fun g => g.dirty == 0) = true ∧ wbPending e.s0 e.eid = []) :
    unstashEff e = .ok (freeStash (e.doneL [(0, 0)] 0) e.eid i w) := by
  unfold stashAt at hi
  simp only [unstashEff, thread_of_act hon, hi, hw]
  by_cases hm : e.f.md = 1
  · exact if_pos hm
  · obtain ⟨hset, hclean, hwb⟩ := h.resolve_left hm
    rw [if_neg hm, if_neg (not_not_intro hset), if_pos hclean, if_pos (List.isEmpty_iff.mpr hwb)]

/-! ## `wptr` -/

/-- What `wptr.ge` waits for: enough bytes, or a SEQ that is no more what it was when the instruction was first met (R192). -/
def WptrReady (e : Env) : Prop :=
  e.f.md = 1 → e.b0 ≤ (tileChan e e.a0).bytes ∨ ∃ n, e.t.phase = some (.begun n) ∧ (tileChan e e.a0).seq.toNat ≠ n

theorem wptrEff_returns {e : Env} (hon : e.on) (hlt : e.a0 < 16) (hheld : holdsChan e e.a0 = true)
    (hfault : (tileChan e e.a0).fault = none) (hb : readsBound e.t = true) (h : WptrReady e) :
    wptrEff e = .ok (acquire (e.doneL [(0, (tileChan e e.a0).ptr)] 0) e.eid e.slot 2) := by
  have hok : (decide (e.a0 < 16) && holdsChan e e.a0) = true := by simp [hlt, hheld]
  rw [wptrEff, thread_of_act hon, bind_of_ok (need_ok hok)]
  simp only [hfault]
  refine (bind_of_ok rfl _).trans ((if_neg ?_).trans (if_pos hb))
  rintro ⟨hm, hseq, hless⟩
  obtain hle | ⟨n, hphase, hne⟩ := h hm
  · exact absurd hless (Nat.not_lt.mpr hle)
  · rw [hphase] at hseq
    exact hne hseq

theorem wptrEff_traps {e : Env} (hon : e.on) (h : 16 ≤ e.a0 ∨ holdsChan e e.a0 = false) :
    wptrEff e = .error (.trap (e.info 2)) := by
  have hbad : (decide (e.a0 < 16) && holdsChan e e.a0) = false := by
    rw [Bool.and_eq_false_iff, decide_eq_false_iff_not, Nat.not_lt]
    exact h
  rw [wptrEff, thread_of_act hon, bind_of_error (need_traps hbad)]

/-- Settles O17: the statuses are the branches of each description after its checks. -/
theorem stashAndWritePointer : Obligations.StashAndWritePointer := by
  unfold Obligations.StashAndWritePointer
  refine fun f => ⟨?full, ?noStash, ?stash, ?noWindow, fun i w => ?unstash, ?wptr, ?wptrTraps⟩
  case full =>
    refine ends_of stashEff (fun _ => rfl) fun e _ hp => ?_
    obtain ⟨⟨hon, hok⟩, hfull⟩ := hp
    exact (stashEff_decides hon hok).trans (if_pos hfull)
  case noStash =>
    refine ends_of stashEff (fun _ => rfl) fun e _ hp => ?_
    obtain ⟨⟨hon, hok⟩, hroom, hno⟩ := hp
    rw [stashEff_decides hon hok, if_neg (Nat.not_le.mpr hroom), if_pos (ne_true_of_eq_false hno)]
  case stash =>
    refine ends_of stashEff (fun _ => rfl) fun e _ hp => ?_
    obtain ⟨⟨hon, hok⟩, hroom, hyes, hfree⟩ := hp
    have hidle : ¬ ((List.range e.c0).any fun i => granInUse e.s0 e.eid (e.a0 / 4096 + i)) = true := by
      simpa using hfree
    rw [stashEff_decides hon hok, if_neg (Nat.not_le.mpr hroom), if_neg (not_not_intro hyes), if_neg hidle]
  case noWindow => exact ends_of unstashEff (fun _ => rfl) fun _ _ ⟨hon, h⟩ => unstashEff_none hon h
  case unstash =>
    refine ends_of unstashEff (fun _ => rfl) fun e hf hp => ?_
    subst hf
    obtain ⟨hon, hi, hw, h⟩ := hp
    exact unstashEff_frees hon hi hw h
  case wptr =>
    refine ends_of wptrEff (fun _ => rfl) fun e hf hp => ?_
    subst hf
    obtain ⟨hon, hlt, hheld, hfault, hb, h⟩ := hp
    exact wptrEff_returns hon hlt hheld hfault hb h
  case wptrTraps => exact traps_of wptrEff (fun _ => rfl) fun _ _ ⟨hon, h⟩ => wptrEff_traps hon h

end Sys2Proof.Proofs.StashInstructions

/-! SUPPORT. The edge instructions (R193 to R197): each finds the edge of its port and then sends, takes or releases there. -/

namespace Sys2Proof.Proofs.EdgeInstructions

open Sys2Proof.Machine
open Sys2Proof.Proofs.BarrierInstructions (bind_of_ok bind_of_error)

/-! ## `ewrite` -/

theorem outPort_traps {e : Env} {port : Nat} (h : outPort? e.s0 e.eid e.t.task.toNat port = none) :
    outPort e port = .error (.trap (e.info 2)) := by
  rw [outPort, h]
  rfl

/-- At its first issue `ewrite` releases, asks for a slot and places its token behind the request (R195). -/
theorem ewriteEff_starts {e : Env} {g : Edge} {bs : List Byte} {r : State × List Nat} (hon : e.on) (hport : outPort e e.port = .ok g)
    (hbs : tokenBytes e g = .ok bs) (hj : e.t.joins = []) (hph : e.t.phase = none)
    (hr : sendRelease e e.s0 (bit e.f.md 1) (g.place e.eid).2 = .ok r) :
    ewriteEff e = .error (.start (e.begun (.edge false)
      (holdLast (e.send (e.send r.1 (g.place e.eid).1 1 [] 0 (.edgeResv g.id)) (g.place e.eid).1 1 r.2 0 (.edgeToken g.id bs))
        (if g.placed then 1 else 2)))) := by
  simp only [ewriteEff, thread_of_act hon, hph]
  rw [bind_of_ok hport, bind_of_ok hbs, bind_of_ok (noJoin_ok hj), bind_of_ok hr]
  rfl

theorem place_placed {g : Edge} (h : g.placed = true) (eid : Nat) : g.place eid = (g.core, scopeTo eid g.core) := if_pos h

/-- A ring that is not allotted yet is of no core: its request waits at its own (log entry 112). -/
theorem place_unplaced {g : Edge} (h : g.placed = false) (eid : Nat) :
    g.place eid = (eid, max 2 (scopeTo eid (State.hDie g.cons * 1024))) := if_neg (ne_true_of_eq_false h)

theorem ewriteEff_granted {e : Env} (hon : e.on) (h : e.t.phase = some (.edge true)) : ewriteEff e = .ok e.s := by
  simp only [ewriteEff, thread_of_act hon, h]

theorem ewriteEff_traps {e : Env} (hon : e.on) (hph : e.t.phase = none)
    (h : outPort? e.s0 e.eid e.t.task.toNat e.port = none) : ewriteEff e = .error (.trap (e.info 2)) := by
  simp only [ewriteEff, thread_of_act hon, hph]
  exact bind_of_error (outPort_traps h) _

/-! ## `eread` -/

/-- What `eread` leaves when it takes an item: `s` is the state with the held token released, `g` the edge there. -/
def taken (e : Env) (s : State) (g : Edge) (rest : List EdgeItem) : EdgeItem → State
  | .data k => (e.upd (s.setEdge { g with queue := rest, held := some k })).doneL
      [(0, g.tsize * 2 ^ 20 + (g.off + 64 + k * g.stride))] 0
  | .eos => (e.upd (unbindIn (freeRing s g) e.eid e.t.task.toNat g.id)).doneL [(0, 2 ^ 32)] 0
  | .drain => (e.upd ((s.setEdge { g with queue := rest }).modCore e.eid fun c =>
      { c with bindings := c.bindings.map fun b =>
          if b.handle = e.t.task.toNat then { b with sawDrain := true } else b })).doneL [(0, 2 * 2 ^ 32)] 0

/-- `eread` takes the oldest item of the ring (R196). -/
theorem ereadEff_takes {e : Env} {g : Edge} {it : EdgeItem} {rest : List EdgeItem} (hon : e.on) (hport : inPort e e.port = .ok g)
    (hb : readsBound e.t = true) (hq : g.queue = it :: rest) :
    ereadEff e =
      let s := releaseHeld (acquire e.s e.eid e.slot 2) g
      .ok (taken e s ((s.edge? g.id).getD g) rest it) := by
  rw [ereadEff, thread_of_act hon, bind_of_ok hport]
  simp only [hb, hq, not_true_eq_false, if_false]
  cases it <;> rfl

theorem ereadRelEff_releases {e : Env} {g : Edge} (hon : e.on) (hport : inPort e e.port = .ok g) :
    ereadRelEff e = .ok (releaseHeld e.s g) := by
  rw [ereadRelEff, thread_of_act hon, bind_of_ok hport]

/-! ## `eos` -/

theorem eosEff_sends {e : Env} {g : Edge} {r : State × List Nat} (hon : e.on) (hport : outPort e e.port = .ok g)
    (hj : e.t.joins = []) (hst : steering e.c e.t.task e.port = false) (hroom : g.full = false)
    (hr : sendRelease e e.s (bit e.f.md 1) (scopeTo e.eid g.core) = .ok r) :
    eosEff e = .ok ((e.send r.1 g.core 1 r.2 0 (.eosMark g.id e.eid)).setEdge { g with ended := g.ended ++ [e.eid] }) := by
  have hgo : ¬ (steering e.c e.t.task e.port = true ∨ g.full = true) := by simp [hst, hroom]
  rw [eosEff, thread_of_act hon, bind_of_ok hport, bind_of_ok (noJoin_ok hj), if_neg hgo, hr]

theorem eosEff_traps {e : Env} (hon : e.on) (h : outPort? e.s0 e.eid e.t.task.toNat e.port = none) :
    eosEff e = .error (.trap (e.info 2)) := by
  rw [eosEff, thread_of_act hon, bind_of_error (outPort_traps h)]

/-- Settles O18: the place of a ring chooses where `ewrite` sends, the item at its head what `eread` leaves. -/
theorem edgeInstructions : Obligations.EdgeInstructions := by
  unfold Obligations.EdgeInstructions
  refine fun f g => ⟨fun bs => ?placed, fun bs => ?unplaced, ?granted, fun it rest g' out hout => ?eread, ?ereadRel, ?eos,
    ?ewriteTraps, ?eosTraps⟩
  case placed =>
    refine startsBy_of ewriteEff (fun _ => rfl) fun e r hf hp hr => ?_
    subst hf
    obtain ⟨hon, hport, hbs, hj, hph, hpl⟩ := hp
    have h := ewriteEff_starts hon hport hbs hj hph (by rw [place_placed hpl]; exact hr)
    simpa only [place_placed hpl, hpl, if_true] using h
  case unplaced =>
    refine startsBy_of ewriteEff (fun _ => rfl) fun e r hf hp hr => ?_
    subst hf
    obtain ⟨hon, hport, hbs, hj, hph, hpl⟩ := hp
    have h := ewriteEff_starts hon hport hbs hj hph (by rw [place_unplaced hpl]; exact hr)
    simpa only [place_unplaced hpl, hpl, Bool.false_eq_true, if_false] using h
  case granted => exact ends_of ewriteEff (fun _ => rfl) fun _ _ ⟨hon, h⟩ => ewriteEff_granted hon h
  case eread =>
    refine ends_of ereadEff (fun _ => rfl) fun e hf hp => ?_
    subst hf hout
    obtain ⟨hon, hport, hb, hq, rfl⟩ := hp
    refine (ereadEff_takes hon hport hb hq).trans ?_
    cases it <;> rfl
  case ereadRel => exact ends_of ereadRelEff (fun _ => rfl) fun e hf ⟨hon, hport⟩ => by subst hf; exact ereadRelEff_releases hon hport
  case eos =>
    refine endsBy_of eosEff (fun _ => rfl) fun e r hf hp hr => ?_
    subst hf
    obtain ⟨hon, hport, hj, hst, hroom⟩ := hp
    exact eosEff_sends hon hport hj hst hroom hr
  case ewriteTraps =>
    refine traps_of ewriteEff (fun _ => rfl) fun e hf hp => ?_
    subst hf
    obtain ⟨hon, hph, h⟩ := hp
    exact ewriteEff_traps hon hph h
  case eosTraps => exact traps_of eosEff (fun _ => rfl) fun e hf ⟨hon, h⟩ => by subst hf; exact eosEff_traps hon h

end Sys2Proof.Proofs.EdgeInstructions

/-! SUPPORT. The loads and stores of the global memory group (R199, R222 to R225): what each does once its accesses have passed their
checks. -/

namespace Sys2Proof.Proofs.GlobalMemory

open Sys2Proof.Machine
open Sys2Proof.Proofs.BarrierInstructions (bind_of_ok)

/-- A sequence of two checks that passes: both pass. -/
theorem ok_of_bind {α β : Type} {x : Except Stop α} {k : α → Except Stop β} {b : β} (h : (x >>= k) = .ok b) :
    ∃ a, x = .ok a ∧ k a = .ok b := by
  cases x with
  | error c => cases h
  | ok a => exact ⟨a, rfl, h⟩

/-! ## Plain and indexed accesses (R222, R223) -/

theorem globalLoad_loads {e : Env} {vec : Bool} {ws : List Want} {gs : List Got}
    (h : checkGlobal e vec false ws
      (hit := fun g => (hitsNow e.s0 e.eid e.slot (g.cache && !bit e.f.md 4) g.keys).isSome) = .ok gs) :
    globalLoad e vec ws = .ok (e.loads (bit e.f.md 4) true gs) :=
  bind_of_ok h _

theorem globalStore_stores {e : Env} {vec : Bool} {n : Nat} {ws : List Want} {gs : List Got} (hj : e.t.joins = []) (hw : ws ≠ [])
    (h : checkGlobal e vec true ws = .ok gs) :
    globalStore e vec n ws = .ok (e.stores e.s e.og true (fun l => storeFit e n (e.a l)) gs) := by
  rw [globalStore]
  refine (if_neg (mt List.isEmpty_iff.mp hw)).trans ?_
  rw [bind_of_ok (noJoin_ok hj), bind_of_ok h]

/-! ## Fat pointers (R224, R225) -/

/-- `ldf` with lanes to load and a legal pointer: the reads of its elements go into one pending result. -/
theorem ldfEff_loads {e : Env} {es : List (Nat × Nat × ElemAt)} {gs : List Got} (hl : ldfLanes e ≠ [])
    (hok : ldfOk e (FatPtr.of (e.b 0)) = .ok ())
    (hes : elemsOk e (elemsOf e.f (FatPtr.of (e.b 0)) (ldfLanes e)) = .ok es)
    (hgs : checkPlaces e e.od.isVec false 16 (ldfWants e.f (FatPtr.of (e.b 0)).fmt es)
      (fun g => (hitsNow e.s0 e.eid e.slot (g.cache && !bit e.f.md 4) g.keys).isSome) = .ok gs) :
    ldfEff e =
      let s := e.s.fresh.2.fresh.2.modThr e.eid e.slot fun t => t.addPend
        { id := e.s.nextId, target := e.od.target, need := gs.length
          conv := some (e.b 0, e.f, (ldfLanes e).map fun l => (l, (e.t.seed.getD l 1).toNat)) } true
      .ok (stepSeeds e (2 ^ e.f.pk) (gs.foldl (issueLoad e e.s.nextId (e.s.nextId + 1) (bit e.f.md 4) true true) s)) := by
  rw [ldfEff]
  refine (if_neg (mt List.isEmpty_iff.mp hl)).trans ?_
  rw [bind_of_ok hok, bind_of_ok hes, bind_of_ok hgs]
  rfl

/-- `stf` to a plain format: its stores, and its flags as a result of the run (R225). -/
theorem stfEff_stores {e : Env} {gs : List Got} (hl : e.lanes ≠ []) (hj : e.t.joins = [])
    (hplain : Bx.ofCode (FatPtr.of (e.b 0)).fmt = none) (hok : stfOk e (FatPtr.of (e.b 0)) = .ok ())
    (hgs : checkPlaces e true true 1 ((stfPlain e (FatPtr.of (e.b 0))).1.map fun x =>
      { lane := x.lane, va := x.at_, n := x.bytes.length }) = .ok gs) :
    stfEff e =
      let s := stfIssue e e.s.nextId e.s.fresh.2 ((stfPlain e (FatPtr.of (e.b 0))).1.zip gs)
      let s := stepSeeds { e with f := { e.f with d := 0 } } (2 ^ e.f.pk) s
      let fl := (stfPlain e (FatPtr.of (e.b 0))).2
      .ok (if fl = 0 then s.fresh.2 else
        s.fresh.2.modThr e.eid e.slot fun t => t.addPend { id := s.nextId, target := .none, flags := fl } false) := by
  rw [stfEff]
  refine (if_neg (mt List.isEmpty_iff.mp hl)).trans ?_
  rw [bind_of_ok (noJoin_ok hj), bind_of_ok hok]
  simp only [hplain]
  refine (bind_of_ok rfl _).trans ?_
  rw [bind_of_ok hgs]
  rfl

/-- Settles O19: the plain loads and stores by their checks, `ldf` and `stf` by the accesses of their elements. -/
theorem globalLoadsAndStores : Obligations.GlobalLoadsAndStores := by
  unfold Obligations.GlobalLoadsAndStores
  refine ⟨fun f => ⟨?ld, ?gather, ?st, ?scatter⟩, fun f => ⟨?ldf, ?stf⟩⟩
  case ld =>
    exact endsBy_of (fun e => globalLoad e (e.mode != 2) e.gwants) (fun _ => rfl) fun e gs hf _ hgs => by
      subst hf; exact globalLoad_loads hgs
  case gather =>
    exact endsBy_of (fun e => globalLoad e true e.iwants) (fun _ => rfl) fun e gs hf _ hgs => by
      subst hf; exact globalLoad_loads hgs
  case st =>
    refine endsBy_of (fun e => globalStore e (e.mode != 2) (lsSize e.f) e.gwants) (fun _ => rfl) fun e gs hf hp hgs => ?_
    subst hf
    obtain ⟨hj, hw⟩ := hp
    exact globalStore_stores hj hw hgs
  case scatter =>
    refine endsBy_of (fun e => globalStore e true (lsSize e.f) e.iwants) (fun _ => rfl) fun e gs hf hp hgs => ?_
    subst hf
    obtain ⟨hj, hw⟩ := hp
    exact globalStore_stores hj hw hgs
  case ldf =>
    refine endsBy_of ldfEff (fun _ => rfl) fun e gs hf hp hchk => ?_
    subst hf
    obtain ⟨hl, hok⟩ := hp
    obtain ⟨es, hes, hgs⟩ := ok_of_bind hchk
    exact ldfEff_loads hl hok hes hgs
  case stf =>
    refine endsBy_of stfEff (fun _ => rfl) fun e gs hf hp hgs => ?_
    subst hf
    obtain ⟨hl, hj, hplain, hok⟩ := hp
    exact stfEff_stores hl hj hplain hok hgs

end Sys2Proof.Proofs.GlobalMemory

/-! SUPPORT. `prf`, `inv`, `tlbinv`, the atomics and `sta` (R226 to R231): what each does once its checks have passed. -/

namespace Sys2Proof.Proofs.AtomicsAndCache

open Sys2Proof.Machine
open Sys2Proof.Proofs.BarrierInstructions (bind_of_ok)
open Sys2Proof.Proofs.GlobalMemory (ok_of_bind)
open Sys2Proof.Proofs.PredicateInstructions (ends_of_effect)

/-- Two checks that give a pair pass both. -/
theorem ok_of_pair {α β : Type} {x : Except Stop α} {y : Except Stop β} {p : α × β}
    (h : (do let a ← x; let b ← y; pure (a, b)) = .ok p) : x = .ok p.1 ∧ y = .ok p.2 := by
  obtain ⟨a, ha, h⟩ := ok_of_bind h
  obtain ⟨b, hb, h⟩ := ok_of_bind h
  cases h
  exact ⟨ha, hb⟩

/-! ## `prf` (R226) -/

/-- The address that `prf` names, the line that holds it, and that line's translation where it is at hand. -/
def prfAt (e : Env) : Int := (addrOf (e.b 0) : Int) + e.imm
def prfLine (e : Env) : Nat := (prfAt e).toNat / 64 * 64
def prfFound (e : Env) : Xl := lookup e.s0 e.dev e.asid (prfLine e) (e.c.tlb ++ (e.s0.tile (eidTile e.eid)).tlb) true false

theorem prfEff_reads {e : Env} {k : Nat} (hon : e.on) (hm : e.f.md = 0) (h0 : 0 ≤ prfAt e) (hf : prfFound e = .ok k true)
    (hr : regsUsed e.s0 e.eid < 192) :
    prfEff e = addAccess e.s.fresh.2 { (default : Access) with
      eid := e.eid, slot := e.slot, op := .load, va := prfLine e, keys := (List.range 64).map (k + ·), pieces := [(0, 64)], grp := 4
      fill := true, inst := e.s.nextId, ty := 99 } := by
  have hgo : ¬ (¬ e.act 0 = true ∨ e.f.md ≠ 0 ∨ prfAt e < 0) := by
    rintro (h | h | h)
    · exact h hon
    · exact h hm
    · exact absurd h (Int.not_lt.mpr h0)
  unfold prfFound prfLine prfAt at hf
  refine (if_neg hgo).trans ?_
  simp only [hf, hr, if_true]
  rfl

theorem prfEff_leaves {e : Env}
    (h : ¬ e.on ∨ e.f.md ≠ 0 ∨ prfAt e < 0 ∨ (∀ k, prfFound e ≠ .ok k true) ∨ 192 ≤ regsUsed e.s0 e.eid) : prfEff e = e.s := by
  by_cases hgo : ¬ e.act 0 = true ∨ e.f.md ≠ 0 ∨ prfAt e < 0
  · exact if_pos hgo
  · refine (if_neg hgo).trans ?_
    simp only [not_or] at hgo
    obtain ⟨hon, hm, h0⟩ := hgo
    have hmiss := ((h.resolve_left hon).resolve_left hm).resolve_left h0
    unfold prfFound prfLine prfAt at hmiss
    split
    · next k hk =>
      exact if_neg (Nat.not_lt.mpr (hmiss.resolve_left fun hno => hno k hk))
    · rfl

/-! ## `inv` (R230) -/

/-- The number of lines that the range of `inv` touches. -/
def invLines (e : Env) : Nat := (addrOf (e.a 0) + e.b 0 + 63) / 64 - addrOf (e.a 0) / 64

theorem invEff_acts {e : Env} (hon : e.on) :
    invEff e =
      if e.f.md = 1 ∨ 6144 < invLines e then e.s.modCore e.eid fun c => { c with l1d := [] }
      else if e.b 0 = 0 then e.s
      else (List.range (invLines e)).foldl (fun s i => dropVa s e.eid e.asid ((addrOf (e.a 0) / 64 + i) * 64)) e.s :=
  if_neg (not_not_intro hon)

/-! ## Atomics (R227, R228) -/

section Atomic

variable {e : Env} {tg : Target} {dw : Nat} {op : Nat → AccOp} {gs : List Got} {r : State × List Nat}

/-- An atomic without `.acq` leaves its accesses on their way into a result of the run. -/
theorem atomics_ends (ha : bit e.f.md 3 = false) (hr : e.atomicRelease e.s = .ok r) :
    atomics e tg dw op gs = .ok (e.atomic tg dw op gs true r) := by
  unfold Env.atomicRelease at hr
  simp only [atomics, ha, Bool.false_eq_true, if_false, hr]
  rfl

/-- An `.acq` one waits for its result. -/
theorem atomics_starts (ha : bit e.f.md 3 = true) (hr : e.atomicRelease e.s0 = .ok r) :
    atomics e tg dw op gs = .error (.start (e.begun (.begun (e.atomicId r)) (e.atomic tg dw op gs false r))) := by
  unfold Env.atomicRelease at hr
  simp only [atomics, ha, if_true, hr]
  rfl

/-- At its first issue an atomic goes on to its checks. -/
theorem finishAcq_first {k : Except Stop State} (h : e.t.phase = none) : finishAcq e k = k := by
  simp only [finishAcq, h]

/-- An `.acq` atomic that has begun completes with its acquire once everything before it is bound (R241). -/
theorem finishAcq_completes {k : Except Stop State} {p : Nat} (h : e.t.phase = some (.begun p)) (hb : readsBound e.t = true) :
    finishAcq e k = .ok (acquire (e.s.modThr e.eid e.slot (·.wrote p)) e.eid e.slot e.scope) := by
  simp only [finishAcq, h]
  exact if_pos hb

end Atomic

/-- `amo` acts: in some lane, or for the thread. -/
def AmoActs (e : Env) : Prop := if bit e.f.md 5 then e.lanes ≠ [] else e.on

/-- The lanes in which it then acts. -/
def amoLanes (e : Env) : List Nat := if bit e.f.md 5 then e.lanes else [0]

theorem amoLanes_of_acts {e : Env} (h : AmoActs e) :
    (if bit e.f.md 5 then e.lanes else if e.act 0 then [0] else []) = amoLanes e ∧ ¬ (amoLanes e).isEmpty = true := by
  unfold AmoActs at h
  unfold amoLanes
  cases hx : bit e.f.md 5 with
  | true => rw [hx] at h; exact ⟨rfl, mt List.isEmpty_iff.mp h⟩
  | false =>
    rw [hx] at h
    have hon : e.act 0 = true := h
    simp [hon]

/-- The checks of `amo` on its locations. -/
def amoChk (e : Env) : Except Stop (List Got) :=
  let n := codeBits e.f.etype.toNat / 8
  checkGlobal e (bit e.f.md 5) true ((amoLanes e).map fun l => { lane := l, va := addrOf (e.a l), n := n })
    (each := fun g => hostAtomicOk e (bit e.f.md 5) ((e.f.md % 8 == 0 || e.f.md % 8 == 6) && (n == 4 || n == 8)) g
      (ual := e.f.md % 8 != 7 && (n == 4 || n == 8)))

/-- The operation of `amo` in a lane. -/
def amoOp (e : Env) (l : Nat) : AccOp :=
  let t := e.f.etype.toNat
  .amo (e.f.md % 8) t (if codeIsFloat t then e.b l % 2 ^ codeBits t else pat (codeBits t) (srcInt (codeSgn t) (codeBits t) e.ob.w (e.b l)))

theorem amoEff_checked {e : Env} {gs : List Got} (hacts : AmoActs e) (hj : e.t.joins = []) (hph : e.t.phase = none)
    (hal : ∀ l ∈ amoLanes e, addrOf (e.a l) % (codeBits e.f.etype.toNat / 8) = 0) (hgs : amoChk e = .ok gs) :
    amoEff e = atomics e e.od.target e.od.w (amoOp e) gs := by
  obtain ⟨hlanes, hne⟩ := amoLanes_of_acts hacts
  have hnone : (amoLanes e).find? (fun l => addrOf (e.a l) % (codeBits e.f.etype.toNat / 8) != 0) = none := by
    simpa using hal
  simp only [amoEff, hlanes]
  rw [if_neg hne, finishAcq_first hph, bind_of_ok (noJoin_ok hj)]
  simp only [hnone]
  exact bind_of_ok hgs _

theorem amoEff_completes {e : Env} {p : Nat} (hacts : AmoActs e) (h : e.t.phase = some (.begun p)) (hb : readsBound e.t = true) :
    amoEff e = .ok (acquire (e.s.modThr e.eid e.slot (·.wrote p)) e.eid e.slot e.scope) := by
  obtain ⟨hlanes, hne⟩ := amoLanes_of_acts hacts
  simp only [amoEff, hlanes]
  rw [if_neg hne, finishAcq_completes h hb]

/-- The bytes of `cas`: a pair of 16, or an element. -/
def casBytes (e : Env) : Nat := if bit e.f.md 0 then 16 else codeBits e.f.etype.toNat / 8

/-- The checks of `cas` on its location. -/
def casChk (e : Env) : Except Stop (List Got) :=
  checkGlobal e false true [{ lane := 0, va := addrOf e.a0, n := casBytes e }]
    (each := hostAtomicOk e false (casBytes e == 4 || casBytes e == 8))

/-- The destination of `cas`, an operand's value in it, and its operation. -/
def casDest (e : Env) : Opnd := if bit e.f.md 0 then Env.wide e.od 2 else e.od

def casVal (e : Env) (field : Nat) (o : Opnd) : Nat :=
  if bit e.f.md 0 then e.rd field (Env.wide o 2) 0
  else pat (codeBits e.f.etype.toNat) (srcInt (codeSgn e.f.etype.toNat) (codeBits e.f.etype.toNat) o.w (e.rd field o 0))

def casOp (e : Env) (_ : Nat) : AccOp := .cas (casVal e 2 e.ob) (casVal e 3 e.oc)

theorem casEff_checked {e : Env} {gs : List Got} (hon : e.on) (hj : e.t.joins = []) (hph : e.t.phase = none)
    (hal : addrOf e.a0 % casBytes e = 0) (hgs : casChk e = .ok gs) :
    casEff e = atomics e (casDest e).target (casDest e).w (casOp e) gs := by
  rw [casEff, thread_of_act hon, finishAcq_first hph, bind_of_ok (noJoin_ok hj)]
  exact (if_neg (not_not_intro hal)).trans (bind_of_ok hgs _)

theorem casEff_completes {e : Env} {p : Nat} (hon : e.on) (h : e.t.phase = some (.begun p)) (hb : readsBound e.t = true) :
    casEff e = .ok (acquire (e.s.modThr e.eid e.slot (·.wrote p)) e.eid e.slot e.scope) := by
  rw [casEff, thread_of_act hon, finishAcq_completes h hb]

/-! ## `sta` (R229) -/

/-- The scope of the widest home of the bytes that `sta` stores to. -/
def staScope (e : Env) (gs : List Got) : Nat := gs.foldl (fun m g => g.keys.foldl (fun m k => max m (homeScope e.eid k)) m) 0

/-- The state with the stores of `sta`. -/
def staStores (e : Env) (gs : List Got) (s : State) : State := e.stores s e.og true (fun l => storeFit e (lsSize e.f) (e.a l)) gs

theorem waitFill_full {e : Env} {lane va : Nat} {ks : List Nat} (h : emptyGran e.s0 ks = none) : waitFill e lane va ks = .ok () := by
  simp only [waitFill, h]

theorem barrierOffOk_ok {e : Env} {off : Nat} (h : off ≤ 0x7FFF0 ∧ off % 16 = 0) : barrierOffOk e off = .ok () :=
  need_ok (by simpa using h)

theorem staEff_arrives {e : Env} {gs : List Got} {r : State × List Nat} (hon : e.on) (hj : e.t.joins = [])
    (hoff : e.c0 ≤ 0x7FFF0 ∧ e.c0 % 16 = 0)
    (hgs : checkGlobal e (e.mode != 2) true e.gwants (barrierPermOk e e.c0) = .ok gs) (hfull : emptyGran e.s0 [lmKey e.eid e.c0] = none)
    (hr : sendRelease e e.s (bit e.f.md 4) (staScope e gs) = .ok r) :
    staEff e =
      let s := staStores e gs r.1
      .ok { s.fresh.2 with acks := s.fresh.2.acks ++
        [{ id := s.nextId, eid := e.eid, slot := e.slot, obj := e.c0, after := r.2, scope := staScope e gs
           own := (s.accs.filter fun a => decide (e.s.nextId ≤ a.id) && a.eid == e.eid && a.slot == e.slot).map (·.id) }] } := by
  have hact : e.act 0 = true := hon
  unfold staScope at hr
  simp only [staEff, hact, if_true, not_true_eq_false, and_false, if_false]
  rw [bind_of_ok (noJoin_ok hj), bind_of_ok (barrierOffOk_ok hoff), bind_of_ok hgs,
    bind_of_ok (waitFill_full hfull), bind_of_ok hr]
  rfl

/-- Without its thread effect `sta` is a store (R98). -/
theorem staEff_stores {e : Env} {gs : List Got} (hoff : ¬ e.on) (hw : e.gwants ≠ []) (hj : e.t.joins = [])
    (hgs : checkGlobal e (e.mode != 2) true e.gwants = .ok gs) : staEff e = .ok (staStores e gs e.s) := by
  have hact : e.act 0 = false := Bool.eq_false_iff.mpr hoff
  have hne : ¬ (e.gwants.isEmpty = true ∧ ¬ false = true) := fun h => hw (List.isEmpty_iff.mp h.1)
  simp only [staEff, hact]
  refine (if_neg hne).trans ?_
  rw [bind_of_ok (noJoin_ok hj)]
  refine (bind_of_ok hgs _).trans ?_
  rfl

/-- Settles O20: the conditions of each clause settle the checks before its effect. -/
theorem atomicsAndCacheInstructions : Obligations.AtomicsAndCacheInstructions := by
  unfold Obligations.AtomicsAndCacheInstructions
  refine fun f => ⟨fun k => ?prf, ?prfNone, ⟨?invAll, ?invNone, ?invLines⟩, ?tlbinv, ⟨?amo, ?amoAcq, fun p => ?amoEnd⟩,
    ⟨?cas, ?casAcq, fun p => ?casEnd⟩, fun gs => ⟨?sta, ?staStores⟩⟩
  case prf =>
    refine ends_of_effect prfEff (fun _ => rfl) fun e hf hp => ?_
    subst hf
    obtain ⟨hon, hm, h0, hk, hr⟩ := hp
    exact prfEff_reads hon hm h0 hk hr
  case prfNone => exact ends_of_effect prfEff (fun _ => rfl) fun e hf hp => by subst hf; exact prfEff_leaves hp
  case invAll =>
    exact ends_of_effect invEff (fun _ => rfl) fun e hf ⟨hon, h⟩ => by subst hf; exact (invEff_acts hon).trans (if_pos h)
  case invNone =>
    refine ends_of_effect invEff (fun _ => rfl) fun e hf hp => ?_
    subst hf
    obtain ⟨hon, hm, hb⟩ := hp
    have hfew : ¬ 6144 < invLines e := by rw [invLines, hb]; omega
    exact (invEff_acts hon).trans ((if_neg (not_or.mpr ⟨hm, hfew⟩)).trans (if_pos hb))
  case invLines =>
    refine ends_of_effect invEff (fun _ => rfl) fun e hf hp => ?_
    subst hf
    obtain ⟨hon, hm, hle, hb⟩ := hp
    exact (invEff_acts hon).trans ((if_neg (not_or.mpr ⟨hm, Nat.not_lt.mpr hle⟩)).trans (if_neg hb))
  case tlbinv =>
    exact ends_of_effect tlbinvEff (fun _ => rfl) fun e hf hon => by subst hf; exact if_neg (not_not_intro hon)
  case amo =>
    refine endsBy_of amoEff (fun _ => rfl) fun e x hf hp hchk => ?_
    subst hf
    obtain ⟨⟨hacts, hj, hph, hal⟩, ha⟩ := hp
    obtain ⟨hgs, hr⟩ := ok_of_pair hchk
    exact (amoEff_checked hacts hj hph hal hgs).trans (atomics_ends ha hr)
  case amoAcq =>
    refine startsBy_of amoEff (fun _ => rfl) fun e x hf hp hchk => ?_
    subst hf
    obtain ⟨⟨hacts, hj, hph, hal⟩, ha⟩ := hp
    obtain ⟨hgs, hr⟩ := ok_of_pair hchk
    exact (amoEff_checked hacts hj hph hal hgs).trans (atomics_starts ha hr)
  case amoEnd =>
    refine ends_of amoEff (fun _ => rfl) fun e hf hp => ?_
    subst hf
    obtain ⟨hacts, hph, hb⟩ := hp
    exact amoEff_completes hacts hph hb
  case cas =>
    refine endsBy_of casEff (fun _ => rfl) fun e x hf hp hchk => ?_
    subst hf
    obtain ⟨⟨hon, hj, hph, hal⟩, ha⟩ := hp
    obtain ⟨hgs, hr⟩ := ok_of_pair hchk
    exact (casEff_checked hon hj hph hal hgs).trans (atomics_ends ha hr)
  case casAcq =>
    refine startsBy_of casEff (fun _ => rfl) fun e x hf hp hchk => ?_
    subst hf
    obtain ⟨⟨hon, hj, hph, hal⟩, ha⟩ := hp
    obtain ⟨hgs, hr⟩ := ok_of_pair hchk
    exact (casEff_checked hon hj hph hal hgs).trans (atomics_starts ha hr)
  case casEnd =>
    refine ends_of casEff (fun _ => rfl) fun e hf hp => ?_
    subst hf
    obtain ⟨hon, hph, hb⟩ := hp
    exact casEff_completes hon hph hb
  case sta =>
    refine endsBy_of staEff (fun _ => rfl) fun e r hf hp hr => ?_
    subst hf
    obtain ⟨hon, hj, hle, hmod, hgs, hfull⟩ := hp
    exact staEff_arrives hon hj ⟨hle, hmod⟩ hgs hfull hr
  case staStores =>
    refine ends_of staEff (fun _ => rfl) fun e hf hp => ?_
    subst hf
    obtain ⟨hoff, hw, hj, hgs⟩ := hp
    exact staEff_stores hoff hw hj hgs

end Sys2Proof.Proofs.AtomicsAndCache

/-! SUPPORT. The ordering group (R251, R252): a release with its join, an acquire once the reads before it are bound, and `fence`, which is
one after the other. -/

namespace Sys2Proof.Proofs.Ordering

open Sys2Proof.Machine
open Sys2Proof.Proofs.BarrierInstructions (bind_of_ok bind_of_error)
open Sys2Proof.Proofs.GlobalMemory (ok_of_bind)

theorem relEff_releases {e : Env} {r : State × List Nat} (hon : e.on) (hr : release e e.s e.mask e.oscope = .ok r) :
    relEff e = .ok (holdJoin e ((e.upd r.1).pendL .none 1).2 e.oscope ((e.upd r.1).pendL .none 1).1 r.2) := by
  simp only [relEff, thread_of_act hon, hr]

theorem acqEff_acquires {e : Env} (hon : e.on) (hb : readsBound e.t = true) : acqEff e = .ok (acquire e.s e.eid e.slot e.oscope) := by
  rw [acqEff, thread_of_act hon]
  exact if_pos hb

/-- The second half of `fence`: its join is done. -/
theorem fenceEff_joined {e : Env} {ids : List Nat} (hon : e.on) (hph : e.t.phase = some (.join ids))
    (hout : outstanding e.s0 e.oscope ids = false) (hb : readsBound e.t = true) :
    fenceEff e = .ok (acquire e.s e.eid e.slot e.oscope) := by
  simp only [fenceEff, thread_of_act hon, hph, hout, hb]
  rfl

/-- The first half of `fence`: it makes the acquire at once when its release joins nothing and the reads are bound. -/
theorem fenceEff_first {e : Env} {r : State × List Nat} (hon : e.on) (hph : e.t.phase = none)
    (hr : release e e.s0 e.mask e.oscope = .ok r) :
    fenceEff e = if r.2.isEmpty = true ∧ readsBound e.t = true then .ok (acquire e.s e.eid e.slot e.oscope)
      else .error (.start (e.begun (.join r.2) r.1)) := by
  simp only [fenceEff, thread_of_act hon, hph, hr]
  rfl

/-- Settles O21: each clause is a branch of its instruction's description. -/
theorem orderingInstructions : Obligations.OrderingInstructions := by
  unfold Obligations.OrderingInstructions
  refine fun f => ⟨?rel, ?acq, fun ids => ?fenceJoined, ⟨fun s => ?fenceOnce, ?fenceStarts⟩, ?ogq⟩
  case rel => exact endsBy_of relEff (fun _ => rfl) fun e r hf hon hr => by subst hf; exact relEff_releases hon hr
  case acq => exact ends_of acqEff (fun _ => rfl) fun e hf ⟨hon, hb⟩ => by subst hf; exact acqEff_acquires hon hb
  case fenceJoined =>
    exact ends_of fenceEff (fun _ => rfl) fun e hf ⟨hon, hph, hout, hb⟩ => by subst hf; exact fenceEff_joined hon hph hout hb
  case fenceOnce =>
    refine ends_of fenceEff (fun _ => rfl) fun e hf hp => ?_
    subst hf
    obtain ⟨hon, hph, hr, hb⟩ := hp
    exact (fenceEff_first hon hph hr).trans (if_pos ⟨rfl, hb⟩)
  case fenceStarts =>
    refine startsBy_of fenceEff (fun _ => rfl) fun e r hf hp hchk => ?_
    subst hf
    obtain ⟨hon, hph⟩ := hp
    obtain ⟨r', hr, hwaits⟩ := ok_of_bind hchk
    split at hwaits
    · cases hwaits
    · next hnot =>
      cases hwaits
      exact (fenceEff_first hon hph hr).trans (if_neg fun h => hnot ⟨List.isEmpty_iff.mp h.1, h.2⟩)
  case ogq => exact ends_of _ (fun _ => rfl) fun e _ hon => by rw [thread_of_act hon]

end Sys2Proof.Proofs.Ordering

/-! SUPPORT. `gbar` (R273) and the phases of a barrier object (R266, R267): the checks of the group, the release, and the arrival that the
thread holds its instruction for. -/

namespace Sys2Proof.Proofs.GroupBarriers

open Sys2Proof.Machine
open Sys2Proof.Proofs.BarrierInstructions (bind_of_ok bind_of_error need_traps)

/-! ## `gbar` -/

section Gbar

variable {e : Env} {g : Group}

/-- The key of the group that `gbar` names, in the group tables. -/
def gbarKey (e : Env) : Nat := groupKey e.dev e.asid (simm14 e.f.b).toNat

/-- The arrival of `gbar`, on a state: it is recorded, and the thread waits for the episode. -/
def gbarArrives (e : Env) (g : Group) (s : State) : Stop :=
  .hold { s with groups := Keyed.put s.groups (gbarKey e) (g.arrive e.eid e.slot) }
    { what := .group e.asid (simm14 e.f.b).toNat, f := e.f, issued := s.cycle e.eid }

/-- At its first issue `gbar` releases; it arrives at once when nothing is left to join. -/
theorem gbarEff_first {r : State × List Nat} (hon : e.on) (hg : Keyed.get? e.s0.groups (gbarKey e) = some g)
    (hm : g.eids.contains e.eid = true) (hj : e.t.joins = []) (hph : e.t.phase = none)
    (hr : release e e.s0 15 (groupScope e.eid g.eids) = .ok r) :
    gbarEff e = if r.2.isEmpty = true ∧ readsBound e.t = true then .error (gbarArrives e g r.1)
      else .error (.start (e.begun (.join r.2) r.1)) := by
  unfold gbarKey at hg
  rw [gbarEff, thread_of_act hon]
  simp only [hg]
  rw [bind_of_ok (need_ok hm)]
  simp only [hph]
  rw [bind_of_ok (noJoin_ok hj), hr]
  rfl

/-- Once the join is done it arrives. -/
theorem gbarEff_joined {ids : List Nat} (hon : e.on) (hg : Keyed.get? e.s0.groups (gbarKey e) = some g)
    (hm : g.eids.contains e.eid = true) (hph : e.t.phase = some (.join ids))
    (hout : outstanding e.s0 (groupScope e.eid g.eids) ids = false) (hb : readsBound e.t = true) :
    gbarEff e = .error (gbarArrives e g e.s0) := by
  unfold gbarKey at hg
  rw [gbarEff, thread_of_act hon]
  simp only [hg]
  rw [bind_of_ok (need_ok hm)]
  simp only [hph, hout, hb]
  rfl

theorem gbarEff_noGroup (hon : e.on) (hg : Keyed.get? e.s0.groups (gbarKey e) = none) :
    gbarEff e = .error (.trap (e.info 2)) := by
  unfold gbarKey at hg
  rw [gbarEff, thread_of_act hon]
  simp only [hg]
  rfl

theorem gbarEff_noMember (hon : e.on) (hg : Keyed.get? e.s0.groups (gbarKey e) = some g) (hm : g.eids.contains e.eid = false) :
    gbarEff e = .error (.trap (e.info 2)) := by
  unfold gbarKey at hg
  rw [gbarEff, thread_of_act hon]
  simp only [hg]
  exact bind_of_error (need_traps hm) _

end Gbar

/-- A description that holds its instruction leaves its state, and the thread waits; here it has left the thread as it was. -/
theorem issue_holds {form : Option Form} {hOk yOk : Bool} {eff : Env → Except Stop State} {f : Fields} {s s' : State} {th : Thread}
    {w : Waiting} (h : Issues form hOk yOk f s th) (ht : s'.thr? s.cur.1 s.cur.2 = some th)
    (he : eff (hand form f s th) = .error (.hold s' w)) :
    issue form hOk yOk eff f s = .next ((grant s' s.cur.1 s.cur.2 th (crossings (form.getD {}) f)).modThr s.cur.1 s.cur.2 fun t =>
      { t with status := .waiting w }) := by
  rw [issue_concludes h, he]
  simp only [conclude, ht, Option.getD_some]

/-- A description that starts leaves its state, and the thread is blocked. -/
theorem issue_starts {form : Option Form} {hOk yOk : Bool} {eff : Env → Except Stop State} {f : Fields} {s s' : State} {th : Thread}
    (h : Issues form hOk yOk f s th) (he : eff (hand form f s th) = .error (.start s')) :
    issue form hOk yOk eff f s = .next (holdAt s' s.cur.1 s.cur.2 ((s'.thr? s.cur.1 s.cur.2).getD th) .blocked) := by
  rw [issue_concludes h, he]
  rfl

/-! ## Phases of a barrier object -/

/-- Settles O23: `gbar` by its group and its join; an update ends as the one test of R267 says. -/
theorem groupBarriersAndPhases : Obligations.GroupBarriersAndPhases := by
  unfold Obligations.GroupBarriersAndPhases
  refine ⟨fun f s th g hi => ?_, fun o => ⟨fun h1 h2 => if_pos ⟨h1, h2⟩, fun h => if_neg h⟩⟩
  intro e n key scope waits hon
  have hthr : s.thr? s.cur.1 s.cur.2 = some th := hi.1
  refine ⟨fun hg hm => ⟨?atOnce, ?starts, ?joined⟩, ?noGroup⟩
  case atOnce =>
    intro hj hph hr hb
    exact issue_holds hi hthr ((gbarEff_first hon hg hm hj hph hr).trans (if_pos ⟨rfl, hb⟩))
  case starts =>
    intro s' ids hj hph hr hmore
    refine issue_starts hi ((gbarEff_first hon hg hm hj hph hr).trans (if_neg ?_))
    rintro ⟨hnone, hb⟩
    obtain h | h := hmore
    · exact h (List.isEmpty_iff.mp hnone)
    · exact absurd hb (ne_true_of_eq_false h)
  case joined =>
    intro ids hph hout hb
    exact issue_holds hi hthr (gbarEff_joined hon hg hm hph hout hb)
  case noGroup =>
    rintro (hg | ⟨hg, hm⟩)
    · exact issue_traps hi (gbarEff_noGroup hon hg)
    · exact issue_traps hi (gbarEff_noMember hon hg hm)

end Sys2Proof.Proofs.GroupBarriers

/-! SUPPORT. The matrix instructions that queue a command (R152 to R160, R167 to R171): their operands' checks, and the one step that puts
a command into the queue with its range locks. -/

namespace Sys2Proof.Proofs.MatrixCommands

open Sys2Proof.Machine
open Sys2Proof.Proofs.BarrierInstructions (bind_of_ok bind_of_error)

/-- A command enters the queue where there is room for it. -/
theorem enqueue_queues {e : Env} {m : MxCmd} {spans : List (Bool × Int × Int)} (h : e.mxRoom spans) :
    enqueue e m spans = .ok (e.queued m spans) := by
  obtain ⟨hspans, hj, hpops, hlocks, hqueue⟩ := h
  have hall : (spans.all fun x => spanOk x.1 x.2) = true := List.all_eq_true.mpr hspans
  rw [enqueue, bind_of_ok (need_ok hall), bind_of_ok (noJoin_ok hj), bind_of_ok (noPop_ok hpops)]
  exact if_neg (not_or.mpr ⟨Nat.not_lt.mpr hlocks, Nat.not_le.mpr hqueue⟩)

theorem mxOperand_ok {e : Env} {ptr stride rows k : Nat} {x : Int × Int} (h : mxSpan ptr stride rows k = some x) :
    mxOperand e ptr stride rows k = .ok x := by
  simp only [mxOperand, h]

/-! ## `mma` and `mmaz` (R167) -/

/-- The operands of `mma` on slot `p`, in the order of its checks: formats, depth, mode, alignment and length. -/
structure MmaOperands (e : Env) (kind p d : Nat) : Prop where
  aOk : (FatPtr.of e.a0).ok = true
  bOk : (FatPtr.of e.b0).ok = true
  pair : mxPair (FatPtr.of e.a0).fmt (FatPtr.of e.b0).fmt = true
  blocks : (FatPtr.of e.a0).blen = (FatPtr.of e.b0).blen
  depth : mxDepth (isWTile e.eid) (FatPtr.of e.a0).fmt (blenOf (FatPtr.of e.a0).blen) = some d
  mode : kind = 2 ∨ ((FatPtr.of e.a0).fmt == 7) = e.c.modeOf p
  long : e.f.imm.toNat % 2 ^ 16 ≠ 0
  whole : e.f.imm.toNat % 2 ^ 16 % d = 0
  alignedA : mxAligned e.a0 (e.c0 % 2 ^ 32) = true
  alignedB : mxAligned e.b0 (bits e.c0 63 32) = true

theorem mmaEff_queues {e : Env} {kind p d : Nat} {x y : Int × Int} (hon : e.on) (hp : slotOf e = .ok p) (h : MmaOperands e kind p d)
    (hx : mxSpan e.a0 (e.c0 % 2 ^ 32) (if (FatPtr.of e.a0).fmt = 7 then 16 else 32) (e.f.imm.toNat % 2 ^ 16) = some x)
    (hy : mxSpan e.b0 (bits e.c0 63 32) 32 (e.f.imm.toNat % 2 ^ 16) = some y)
    (hroom : e.mxRoom [(bit e.f.md 0, x), (bit e.f.md 1, y)]) :
    mmaEff kind e = .ok (e.queued { (default : MxCmd) with
      kind := kind, phys := p, logical := e.f.d.toNat, pa := e.a0, pb := e.b0, sa := e.c0 % 2 ^ 32, sb := bits e.c0 63 32
      k := e.f.imm.toNat % 2 ^ 16, la := bit e.f.md 0, lb := bit e.f.md 1 } [(bit e.f.md 0, x), (bit e.f.md 1, y)]) := by
  have hformats : ((FatPtr.of e.a0).ok && (FatPtr.of e.b0).ok && mxPair (FatPtr.of e.a0).fmt (FatPtr.of e.b0).fmt &&
      (FatPtr.of e.a0).blen == (FatPtr.of e.b0).blen) = true := by
    simp [h.aOk, h.bOk, h.pair, h.blocks]
  have hmode : (kind == 2 || ((FatPtr.of e.a0).fmt == 7) == e.c.modeOf p) = true := by
    obtain hk | hm := h.mode
    · simp [hk]
    · rw [hm]; simp
  have haligned : (mxAligned e.a0 (e.c0 % 2 ^ 32) && mxAligned e.b0 (bits e.c0 63 32)) = true :=
    Bool.and_eq_true_iff.mpr ⟨h.alignedA, h.alignedB⟩
  have hlength : (e.f.imm.toNat % 2 ^ 16 != 0 && e.f.imm.toNat % 2 ^ 16 % d == 0) = true :=
    Bool.and_eq_true_iff.mpr ⟨bne_iff_ne.mpr h.long, beq_iff_eq.mpr h.whole⟩
  rw [mmaEff, thread_of_act hon, bind_of_ok hp, bind_of_ok (need_ok hformats)]
  simp only [h.depth]
  rw [bind_of_ok (need_ok hmode), bind_of_ok (need_ok haligned), bind_of_ok (need_ok hlength), bind_of_ok (mxOperand_ok hx),
    bind_of_ok (mxOperand_ok hy), enqueue_queues hroom]

/-! ## `mld`, `mst`, `msteer` and `mclr` -/

theorem moveEff_queues {e : Env} {p rows : Nat} {m : MxCmd} {x : Int × Int} (hx : mxSpan m.pa m.sa rows 32 = some x)
    (hroom : e.mxRoom [(bit e.f.md 0, x)]) :
    moveEff e p m rows =
      .ok (e.queued { m with phys := p, logical := e.f.d.toNat, la := bit e.f.md 0 } [(bit e.f.md 0, x)]) := by
  rw [moveEff, bind_of_ok (mxOperand_ok hx), enqueue_queues hroom]

theorem mldEff_queues {e : Env} {p : Nat} {x : Int × Int} (hon : e.on) (hp : slotOf e = .ok p) (hok : (FatPtr.of e.a0).ok = true)
    (hfmt : (FatPtr.of e.a0).fmt = 4 ∨ (FatPtr.of e.a0).fmt = 5 ∨ (FatPtr.of e.a0).fmt = 6 ∨
      (FatPtr.of e.a0).fmt = 7 ∧ isWTile e.eid = true)
    (hx : mxSpan e.a0 e.b0 (if (FatPtr.of e.a0).fmt = 7 then 16 else 32) 32 = some x) (hroom : e.mxRoom [(bit e.f.md 0, x)]) :
    mldEff e = .ok (e.queued { (default : MxCmd) with
      kind := 3, phys := p, logical := e.f.d.toNat, pa := e.a0, sa := e.b0, la := bit e.f.md 0 } [(bit e.f.md 0, x)]) := by
  have hchk : ((FatPtr.of e.a0).ok && ([4, 5, 6].contains (FatPtr.of e.a0).fmt || ((FatPtr.of e.a0).fmt == 7 && isWTile e.eid))) =
      true := by
    simp [hok, hfmt, or_assoc]
  rw [mldEff, thread_of_act hon, bind_of_ok hp, bind_of_ok (need_ok hchk)]
  exact moveEff_queues hx hroom

theorem mstEff_queues {e : Env} {p : Nat} {x : Int × Int} (hon : e.on) (hp : slotOf e = .ok p) (hok : (FatPtr.of e.a0).ok = true)
    (hfmt : mxOutOk (e.c.modeOf p) (FatPtr.of e.a0).fmt = true)
    (hx : mxSpan e.a0 e.b0 (if e.c.modeOf p then 16 else 32) 32 = some x) (hroom : e.mxRoom [(bit e.f.md 0, x)]) :
    mstEff e = .ok (e.queued { (default : MxCmd) with
      kind := 4, phys := p, logical := e.f.d.toNat, pa := e.a0, sa := e.b0, rnd := e.f.rnd.toNat, sat := e.f.sat
      grp := e.f.smod.toNat % 4, la := bit e.f.md 0 } [(bit e.f.md 0, x)]) := by
  rw [mstEff, thread_of_act hon, bind_of_ok hp, bind_of_ok (need_ok (Bool.and_eq_true_iff.mpr ⟨hok, hfmt⟩))]
  exact moveEff_queues hx hroom

theorem msteerEff_queues {e : Env} {p : Nat} {g : Edge} (hon : e.on) (hp : slotOf e = .ok p) (hhigh : bits e.a0 63 9 = 0)
    (hfmt : mxOutOk (e.c.modeOf p) (bits e.a0 7 3) = true) (hport : outPort? e.s0 e.eid e.t.task.toNat (e.a0 % 8) = some g)
    (hsize : g.tsize = 32 * fmtBits (bits e.a0 7 3) / 8) (hroom : e.mxRoom []) :
    msteerEff e = .ok (e.queued { (default : MxCmd) with
      kind := 5, phys := p, logical := e.f.d.toNat, pa := e.a0 % 8, pb := e.a0, sb := g.id, rnd := e.f.rnd.toNat
      sat := e.f.sat } []) := by
  rw [msteerEff, thread_of_act hon, bind_of_ok hp,
    bind_of_ok (need_ok (Bool.and_eq_true_iff.mpr ⟨beq_iff_eq.mpr hhigh, hfmt⟩))]
  simp only [hport]
  rw [bind_of_ok (need_ok (beq_iff_eq.mpr hsize)), enqueue_queues hroom]

/-- `mclr` of FP64 slots is for W-tiles; on a slot that is there it clears a faulted one at once, and else queues its command. -/
theorem mclrEff_decides {e : Env} {p : Nat} (hw : e.f.md ≠ 1 ∨ isWTile e.eid = true) (hon : e.on)
    (hp : physOf e e.f.d.toNat = .ok p) :
    mclrEff e =
      let m : MxCmd := { (default : MxCmd) with kind := 6, phys := p, logical := e.f.d.toNat, k := e.f.md }
      if (e.c.accs.getD p default).fault.isSome then
        .ok (match e.c.mxq.find? (·.phys == p) with
          | some x => dropMx (modAcc e.s e.eid p fun a => { m.start a with fault := none }) e.eid x.id
          | none => modAcc e.s e.eid p fun a => { m.start a with fault := none })
      else enqueue e m [] := by
  have hform : ¬ (e.f.md = 1 ∧ ¬ isWTile e.eid = true) := fun h => hw.elim (fun hm => hm h.1) h.2
  rw [mclrEff, if_neg hform, thread_of_act hon]
  exact bind_of_ok hp _

/-- Settles O24: each instruction's checks pass, and its command enters the queue. -/
theorem matrixCommandsQueue : Obligations.MatrixCommandsQueue := by
  unfold Obligations.MatrixCommandsQueue
  refine fun f p => ⟨fun d x y kind i hi => ?mma, fun x => ?mld, fun x => ?mst, fun g => ?msteer, ?mclr⟩
  case mma =>
    have hexec : ∀ s, exec i s = issue (formMma f) false false (mmaEff kind) f s := by
      obtain ⟨rfl, rfl⟩ | ⟨rfl, rfl⟩ := hi <;> exact fun _ => rfl
    refine ends_of (mmaEff kind) hexec fun e hf hp => ?_
    subst hf
    obtain ⟨⟨hon, hp⟩, ha, hb, hpair, hblen, hd, hmode, hk, hkd, hala, halb, hx, hy, hroom⟩ := hp
    exact mmaEff_queues hon hp ⟨ha, hb, hpair, hblen, hd, hmode, hk, hkd, hala, halb⟩ hx hy hroom
  case mld =>
    refine ends_of mldEff (fun _ => rfl) fun e hf hp => ?_
    subst hf
    obtain ⟨⟨hon, hp⟩, hok, hfmt, hx, hroom⟩ := hp
    exact mldEff_queues hon hp hok hfmt hx hroom
  case mst =>
    refine ends_of mstEff (fun _ => rfl) fun e hf hp => ?_
    subst hf
    obtain ⟨⟨hon, hp⟩, hok, hfmt, hx, hroom⟩ := hp
    exact mstEff_queues hon hp hok hfmt hx hroom
  case msteer =>
    refine ends_of msteerEff (fun _ => rfl) fun e hf hp => ?_
    subst hf
    obtain ⟨⟨hon, hp⟩, hhigh, hfmt, hport, hsize, hroom⟩ := hp
    exact msteerEff_queues hon hp hhigh hfmt hport hsize hroom
  case mclr =>
    refine ends_of mclrEff (fun _ => rfl) fun e hf hp => ?_
    subst hf
    obtain ⟨hw, hon, hp, hfault, hroom⟩ := hp
    have hclean : ¬ (e.c.accs.getD p default).fault.isSome = true := by rw [hfault]; exact Bool.false_ne_true
    exact (mclrEff_decides hw hon hp).trans ((if_neg hclean).trans (enqueue_queues hroom))

end Sys2Proof.Proofs.MatrixCommands

/-! SUPPORT. The matrix instructions that do not queue a command (R163, R171 to R174). -/

namespace Sys2Proof.Proofs.MatrixStatus

open Sys2Proof.Machine
open Sys2Proof.Proofs.BarrierInstructions (bind_of_ok bind_of_error need_traps)
open Sys2Proof.Proofs.MatrixCommands (mclrEff_decides)

theorem slotTrap_ok {e : Env} {l : Nat} {a : AccSlot} (h : a.fault = none) : slotTrap e l a = .ok () := by
  simp only [slotTrap, h]

/-- A loop of checks passes where each of them does. -/
theorem forIn_checks_ok {α : Type} {chk : α → Except Stop Unit} {xs : List α} (h : ∀ x ∈ xs, chk x = .ok ()) :
    (forIn xs PUnit.unit fun x _ => do chk x; pure (ForInStep.yield PUnit.unit) : Except Stop PUnit) = .ok PUnit.unit := by
  induction xs with
  | nil => rfl
  | cons x xs ih =>
    obtain ⟨hx, hxs⟩ := List.forall_mem_cons.mp h
    rw [List.forIn_cons, hx]
    exact ih hxs

theorem mwaitEff_completes {e : Env} {ps : List (Nat × Nat)} (hon : e.on) (hps : maskSlots e (simm14 e.f.b).toNat = .ok ps)
    (hclean : ∀ x ∈ ps, (e.c.accs.getD x.2 default).fault = none)
    (hnone : (e.c.mxq.any fun m => ps.any fun x => x.2 == m.phys) = false) : mwaitEff e = .ok e.s := by
  rw [mwaitEff, thread_of_act hon, bind_of_ok hps,
    bind_of_ok (forIn_checks_ok fun x hx => slotTrap_ok (hclean x hx))]
  exact if_neg (ne_true_of_eq_false hnone)

theorem mprogEff_returns {e : Env} {p : Nat} (hon : e.on) (hp : physOf e (simm14 e.f.b).toNat = .ok p) :
    mprogEff e = .ok (e.doneL [(0, fitRaw e.od.w (progress e.c p))] 0) := by
  rw [mprogEff, thread_of_act hon, bind_of_ok hp]

/-- The weight that `mweight` names. -/
def weightOf (e : Env) : Nat := if e.f.md = 0 then e.a0 else (simm14 e.f.b).toNat

theorem mweightEff_sets {e : Env} (hon : e.on) (h : 1 ≤ weightOf e ∧ weightOf e ≤ 15) :
    mweightEff e = .ok (e.s.modCore e.eid fun c => { c with mxw := BitVec.ofNat 8 (weightOf e) }) := by
  have hok : (decide (1 ≤ weightOf e) && decide (weightOf e ≤ 15)) = true := by simpa using h
  rw [mweightEff, thread_of_act hon]
  exact bind_of_ok (need_ok hok) _

theorem mweightEff_traps {e : Env} (hon : e.on) (h : weightOf e = 0 ∨ 15 < weightOf e) : mweightEff e = .error (.trap (e.info 2)) := by
  have hbad : (decide (1 ≤ weightOf e) && decide (weightOf e ≤ 15)) = false := by
    rw [Bool.and_eq_false_iff, decide_eq_false_iff_not, decide_eq_false_iff_not]
    omega
  rw [mweightEff, thread_of_act hon]
  exact bind_of_error (need_traps hbad) _

/-- Settles O25: the fault of its slot decides what `mclr` does; each other instruction follows its checks. -/
theorem matrixStatusInstructions : Obligations.MatrixStatusInstructions := by
  unfold Obligations.MatrixStatusInstructions
  refine fun f p => ⟨?mclr, fun ps => ?mwait, ?mprog, fun w => ⟨?mweight, ?mweightTraps⟩⟩
  case mclr =>
    refine ends_of mclrEff (fun _ => rfl) fun e hf hp => ?_
    subst hf
    obtain ⟨hw, hon, hp, hfault⟩ := hp
    exact (mclrEff_decides hw hon hp).trans (if_pos hfault)
  case mwait =>
    refine ends_of mwaitEff (fun _ => rfl) fun e hf hp => ?_
    subst hf
    obtain ⟨hon, hps, hclean, hnone⟩ := hp
    exact mwaitEff_completes hon hps hclean hnone
  case mprog =>
    exact ends_of mprogEff (fun _ => rfl) fun e hf ⟨hon, hp⟩ => by subst hf; exact mprogEff_returns hon hp
  case mweight =>
    refine ends_of mweightEff (fun _ => rfl) fun e hf hp => ?_
    subst hf
    obtain ⟨hon, rfl, hw⟩ := hp
    exact mweightEff_sets hon hw
  case mweightTraps =>
    refine traps_of mweightEff (fun _ => rfl) fun e hf hp => ?_
    subst hf
    obtain ⟨hon, rfl, hw⟩ := hp
    exact mweightEff_traps hon hw

end Sys2Proof.Proofs.MatrixStatus

/-! SUPPORT. The steps of the matrix unit (R156 to R170). -/

namespace Sys2Proof.Proofs.MatrixEvents

open Sys2Proof.Machine
open Sys2Proof.Proofs.ThreadEvents (event_next)

/-! ## The MAC array (R157, R167) -/

/-- A k-step of a quantum with `left` to do. -/
def arrayStep (s : State) (e left : Nat) (m : MxCmd) : State :=
  let per := m.depth (isWTile e) + if (Bx.ofCode m.fa).isSome then 1 else 0
  let s := modAcc (startMx s e m) e m.phys (mxStep m.fa m.fb (m.stage.map (·.take per)))
  let s := modMx s e m.id fun m => { m with stage := if left ≤ 1 ∧ m.lim = none then [] else m.stage.map (·.drop per) }
  s.modTile (eidTile e) fun x => { x with run := if left ≤ 1 then none else some (e, left - 1) }

theorem runStep_eq (s : State) (e left : Nat) (m : MxCmd) : runStep s e left m = arrayStep s e left m := by
  simp only [runStep, arrayStep, Option.isNone_iff_eq_none, b2n]

theorem mxuArbitrate_runs {s : State} {t e left : Nat} {m : MxCmd} (hw : s.who = [t]) (hrun : (s.tile t).run = some (e, left))
    (hm : mxHead s e = some m) : mxuArbitrate s = arrayStep s e left m := by
  simp only [mxuArbitrate, hw, hrun, hm, runStep_eq]

/-- Who is granted: the core at the pointer while it is ready and has credit, else the next ready one in rotation (R157). -/
theorem mxGrant_eq {s : State} {t e p k : Nat}
    (hkeep : mxReady s (t * 8 + (s.tile t).ptr) = true → 0 < (s.tile t).credit →
      e = t * 8 + (s.tile t).ptr ∧ p = (s.tile t).ptr ∧ k = (s.tile t).credit - 1)
    (hturn : mxReady s (t * 8 + (s.tile t).ptr) = false ∨ (s.tile t).credit = 0 →
      (rotation t (s.tile t).ptr).find? (mxReady s) = some e ∧ p = e % 8 ∧ k = (s.core e).mxw.toNat - 1) :
    mxGrant s t = some (e, p, k) := by
  by_cases h : mxReady s (t * 8 + (s.tile t).ptr) = true ∧ 0 < (s.tile t).credit
  · obtain ⟨rfl, rfl, rfl⟩ := hkeep h.1 h.2
    exact if_pos h
  · have hno : mxReady s (t * 8 + (s.tile t).ptr) = false ∨ (s.tile t).credit = 0 := by
      rwa [Classical.not_and_iff_not_or_not, Bool.not_eq_true, Nat.not_lt, Nat.le_zero] at h
    obtain ⟨hfind, rfl, rfl⟩ := hturn hno
    refine (if_neg h).trans ?_
    rw [hfind]
    rfl

theorem mxuArbitrate_grants {s s' u : State} {t e p k : Nat} {m : MxCmd} (hw : s.who = [t]) (hrun : (s.tile t).run = none)
    (hs : (rotation t (s.tile t).ptr).foldl stageResident s = s') (hg : mxGrant s' t = some (e, p, k))
    (hu : (s'.modTile t fun x => { x with ptr := p, credit := k }) = u) (hm : mxHead u e = some m) :
    mxuArbitrate s = arrayStep u e ((u.core e).grantSteps (isWTile e) m) m := by
  have harb : mxuArbitrate s = mxArbiter s t := by simp only [mxuArbitrate, hw, hrun]
  rw [harb]
  delta mxArbiter
  simp only [hs, hg, hu, hm, runStep_eq]

/-! ## The operand stager (R158, R161) -/

/-- What the stager reads for the next row of a quantum: a row of A, then of B. -/
def rowReads (s : State) (e : Nat) (m : MxCmd) : List Nat × Option (Nat × EngineStep) :=
  let c := s.core e
  let r := m.stage.length
  if r < m.rowsA then readSteps s e m m.pa m.la m.sa (m.depth (isWTile e)) r (c.mxPos m) (c.quantum (isWTile e) m)
  else readSteps s e m m.pb m.lb m.sb (m.depth (isWTile e)) (r - m.rowsA) (c.mxPos m) (c.quantum (isWTile e) m)

theorem stageRow_reads {s : State} {e : Nat} {m : MxCmd} {cs : List Nat} (h : rowReads s e m = (cs, none)) :
    stageRow s e m = modMx (farDone s e m.thread m.id) e m.id fun m => { m with stage := m.stage ++ [cs] } := by
  unfold rowReads at h
  by_cases hr : m.stage.length < m.rowsA
  all_goals
    simp only [hr, if_true, if_false] at h
    simp only [stageRow, hr, if_true, if_false, h]

/-- The step at which a quantum ends after a fault: the earliest one noted. -/
def limAfter (t cause va : Nat) : Option (Nat × Nat × Nat) → Option (Nat × Nat × Nat)
  | some (t', c', va') => some (if t < t' then (t, cause, va) else (t', c', va'))
  | none => some (t, cause, va)

theorem stageRow_faults {s s' : State} {e t cause va : Nat} {m : MxCmd} {cs : List Nat}
    (h : rowReads s e m = (cs, some (t, .fault s' cause va))) :
    stageRow s e m = modMx (farDone s' e m.thread m.id) e m.id fun m =>
      { m with stage := m.stage ++ [cs], lim := limAfter t cause va m.lim } := by
  unfold rowReads at h
  by_cases hr : m.stage.length < m.rowsA
  all_goals
    simp only [hr, if_true, if_false] at h
    simp only [stageRow, hr, if_true, if_false, h]
    refine congrArg _ (funext fun m => ?_)
    cases m.lim <;> rfl

theorem stagerFetch_stages {s : State} {e : Nat} {m : MxCmd} (hw : s.who = [e]) (hc : stagerCore s (eidTile e) = some e)
    (hm : mxHead s e = some m) : stagerFetch s = stageRow s e m := by
  simp only [stagerFetch, hw, hc, hm, if_true]

/-! ## The accumulator port (R155, R165, R168 to R171) -/

section Port

variable {s : State} {e : Nat} {m : MxCmd}

/-- The command that the port of a tile runs is one of core `e`. -/
theorem portRun_own (h : portRun s (eidTile e) = some (e, m)) : (portRun s (eidTile e)).filter (·.1 == e) = some (e, m) := by
  rw [h]
  exact Option.filter_some_pos (beq_self_eq_true e)

theorem accPortCommand_goes {s' : State} (hw : s.who = [e]) (h : portRun s (eidTile e) = some (e, m))
    (hs : portStep s e m = .go s') : accPortCommand s = s' := by
  simp only [accPortCommand, hw, portRun_own h, hs]

/-- A drain and a clear only start at the port (R170, R171). -/
theorem portStep_starts (h : m.kind = 5 ∨ m.kind = 6) : portStep s e m = .go (startMx s e m) := by
  obtain h | h := h <;> simp only [portStep, h]

theorem portStep_loads (hk : m.kind = 3) (hpos : (((startMx s e m).core e).acc m).pos < (((startMx s e m).core e).acc m).rows) :
    portStep s e m = loadRow (startMx s e m) e m := by
  simp only [portStep, hk, hpos, if_true]

theorem portStep_stores (hk : m.kind = 4) (hpos : (((startMx s e m).core e).acc m).pos < (((startMx s e m).core e).acc m).rows) :
    portStep s e m = storeRow (startMx s e m) e m := by
  simp only [portStep, hk, hpos, if_true]

/-- The read of the row that a load of the port is at. -/
def rowBytes (s : State) (e : Nat) (m : MxCmd) : Except EngineStep (List Byte) :=
  engineAll s e m.thread m.id ((s.core e).ctx.getD 0) m.la
    (((FatPtr.of m.pa).addr + ((s.core e).acc m).pos * m.sa : Nat) : Int) (32 * m.esz)

theorem loadRow_loads {bs : List Byte} (h : rowBytes s e m = .ok bs) :
    loadRow s e m =
      let a := (s.core e).acc m
      let row := (splitCodes (FatPtr.of m.pa).fmt bs).map fun c =>
        ((roundTo a.fmt .rne false 0 (floatValue (fmtOf (FatPtr.of m.pa).fmt) c).x).1, (floatValue (fmtOf (FatPtr.of m.pa).fmt) c).snan)
      .go (modAcc (farDone s e m.thread m.id) e m.phys fun a => { a with
        val := a.val.take (32 * a.pos) ++ (row.map fun x => BitVec.ofNat 64 x.1) ++ a.val.drop (32 * (a.pos + 1))
        flags := row.foldl (fun f x => f ||| slotFlags x.2) a.flags
        pos := a.pos + 1 }) := by
  unfold rowBytes at h
  simp only [loadRow, h]

theorem loadRow_stops {x : EngineStep} (h : rowBytes s e m = .error x) : loadRow s e m = x := by
  unfold rowBytes at h
  simp only [loadRow, h]

theorem storeRow_stores {ks : List Nat} {bs : List Byte} {fl : BitVec 4} {sr : BitVec 16}
    (hks : storeKeys s e m.la ((FatPtr.of m.pa).addr + ((s.core e).acc m).pos * m.sa) (32 * m.esz) = .ok ks)
    (hrow : convRow ((s.core e).acc m) m.fa m = (bs, fl, sr)) :
    storeRow s e m =
      let at_ := (FatPtr.of m.pa).addr + ((s.core e).acc m).pos * m.sa
      .go (addAccess (modAcc s e m.phys fun a => { a with flags := fl, srgen := sr, pos := a.pos + 1 })
        { (default : Access) with
          eid := e, slot := m.thread, op := .store (ofBytes bs), va := engineVa e m.la at_, keys := ks
          pieces := piecesOf at_ (32 * m.esz) 0 (32 * m.esz), grp := m.grp, inst := m.id, regs := false }) := by
  simp only [storeRow, hks, hrow]

theorem drainCmd_runs {g : Edge} (h : portRun s (eidTile e) = some (e, m)) (hk : m.kind = 5) (hst : m.started = true)
    (hpos : ((s.core e).acc m).pos < ((s.core e).acc m).rows) (hg : m.ring s = some g) : drainCmd s e = some (m, some g) := by
  simp only [drainCmd, portRun_own h, hk, hst, hpos, hg, and_self, if_true]

theorem msteerTokenWrite_sends {g : Edge} {bs : List Byte} {fl : BitVec 4} {sr : BitVec 16} (hw : s.who = [e])
    (hd : drainCmd s e = some (m, some g)) (hrow : convRow ((s.core e).acc m) m.steerFmt m = (bs, fl, sr))
    (hroom : g.full = false) (hnone : g.waiting s = []) (hasked : asked s e g.id = false) :
    msteerTokenWrite s = sendPacket
      ((modAcc s e m.phys fun a => { a with flags := fl, srgen := sr, pos := a.pos + 1 }).setEdge { g with resv := g.resv + 1 })
      { (default : Packet) with
        asid := (s.core e).ctx.getD 0, src := e, slot := 28, dst := g.core, cls := 1, body := .edgeToken g.id bs, ipc := m.id } := by
  have hgo : ¬ (g.full = true ∨ ¬ (g.waiting s).isEmpty = true ∨ asked s e g.id = true) := by
    simp [hroom, hnone, hasked]
  simp only [msteerTokenWrite, hw, hd, hrow]
  exact if_neg hgo

/-! ## Faults and completion (R156, R162) -/

/-- The state in which a command's slot is marked with the fault of its next access. -/
def faulted (s : State) (e : Nat) (m : MxCmd) (cause va : Nat) : State :=
  modMx (modAcc (startMx s e m) e m.phys fun a => { a with fault := some (cause, va), logical := m.logical }) e m.id
    fun m => { m with stage := [], lim := none }

theorem mxuFault_marks {cause va : Nat} (hw : s.who = [e]) (h : mxFaulting s e = some (m, cause, va)) :
    mxuFault s = faulted s e m cause va := by
  simp only [mxuFault, hw, h, faulted]

/-- A port command faults where no compute command is at the head of the queue. -/
theorem mxFaulting_port {s' : State} {cause va : Nat} (h : portRun s (eidTile e) = some (e, m)) (hm : mxHead s e = none)
    (hs : portStep s e m = .fault s' cause va) : mxFaulting s e = some (m, cause, va) := by
  simp only [mxFaulting, hm, mxFaulting.port, portRun_own h, hs]

/-- A compute command faults at the step that its stager has noted. -/
theorem mxFaulting_compute {t cause va : Nat} (hm : mxHead s e = some m) (hlim : m.lim = some (t, cause, va)) (hst : m.staged = true)
    (hpos : (s.core e).mxPos m = t) : mxFaulting s e = some (m, cause, va) := by
  simp only [mxFaulting, hm, hlim]
  exact if_pos ⟨hst, hpos⟩

theorem mxuCommandComplete_drops (hw : s.who = [e]) (h : (s.core e).mxq.find? (mxDone s e) = some m) :
    mxuCommandComplete s = if m.kind = 5 ∧ m.steerClr = true then
      modAcc (dropMx s e m.id) e m.phys fun a => { a.zero a.fp64 with flags := a.flags } else dropMx s e m.id := by
  simp only [mxuCommandComplete, hw, h]

end Port

/-- Settles O26: each event by what it finds: a quantum, a row to stage, a port command, a fault, a command that is done. -/
theorem matrixEvents : Obligations.MatrixEvents := by
  unfold Obligations.MatrixEvents
  intro s e m c fmt step
  refine ⟨?quantum, ?grant, fun hw => ⟨fun hcore hm => ⟨?stage, ?stageFault⟩, fun hport => ⟨?start, ?load, ?store, ?drain, ?portFault⟩,
    ?computeFault, ?complete⟩⟩
  case quantum => exact fun t left hw hrun hm => event_next (mxuArbitrate_runs hw hrun hm)
  case grant =>
    intro t s' p k hw hrun hs hkeep hturn hm
    exact event_next (mxuArbitrate_grants hw hrun hs.symm (mxGrant_eq hkeep hturn) rfl hm)
  case stage => exact fun cs h => event_next ((stagerFetch_stages hw hcore hm).trans (stageRow_reads h))
  case stageFault =>
    intro cs t s' cause va h _
    refine event_next ((stagerFetch_stages hw hcore hm).trans ((stageRow_faults h).trans (congrArg _ (funext fun m => ?_))))
    cases m.lim <;> rfl
  case start => exact fun hk => event_next (accPortCommand_goes hw hport (portStep_starts hk))
  case load =>
    exact fun bs hk hpos h => event_next (accPortCommand_goes hw hport ((portStep_loads hk hpos).trans (loadRow_loads h)))
  case store =>
    exact fun ks bs fl sr hk hpos hrow hks =>
      event_next (accPortCommand_goes hw hport ((portStep_stores hk hpos).trans (storeRow_stores hks hrow)))
  case drain =>
    exact fun g bs fl sr hk hst hpos hg hrow hroom hnone hasked =>
      event_next (msteerTokenWrite_sends hw (drainCmd_runs hport hk hst hpos hg) hrow hroom hnone hasked)
  case portFault =>
    exact fun s' cause va hk hpos hm h =>
      event_next (mxuFault_marks hw (mxFaulting_port hport hm ((portStep_loads hk hpos).trans (loadRow_stops h))))
  case computeFault =>
    exact fun t cause va hm hlim hst hpos => event_next (mxuFault_marks hw (mxFaulting_compute hm hlim hst hpos))
  case complete => exact fun h => event_next (mxuCommandComplete_drops hw h)

end Sys2Proof.Proofs.MatrixEvents

/-! SUPPORT. The copy instructions (R255, R256, R259, R264): the checks of a command, then its start on an idle channel or its place in the
shadow. -/

namespace Sys2Proof.Proofs.CopyInstructions

open Sys2Proof.Machine
open Sys2Proof.Proofs.BarrierInstructions (bind_of_ok)
open Sys2Proof.Proofs.MatrixStatus (forIn_checks_ok)

section Copy

variable {e : Env} {kind : Env → CopyKind} {m : CopyCmd} {h : Chan}

/-- A command passes the checks of its issue, on channel `h`. -/
structure Accepted (kind : Env → CopyKind) (e : Env) (m : CopyCmd) (h : Chan) : Prop where
  on : e.on
  clean : chanTrap e e.ch = .ok ()
  cmd : copyCmd e (kind e) = .ok m
  joins : e.t.joins = []
  pops : e.noPops
  locks : e.c.rlocks.length + (m.locks e.s0).length ≤ 32
  chan : e.c.chan[e.ch]? = some h

/-- The state with the range locks of a command. -/
def withLocks (e : Env) (m : CopyCmd) : State := e.s.fresh.2.modCore e.eid fun c =>
  { c with rlocks := c.rlocks ++ (m.locks e.s0).map fun l => { l with owner := e.s.nextId } }

/-- The result of a copy instruction: the SEQ that its command will have. -/
def seqResult (e : Env) (h : Chan) (s : State) : State := (e.upd s).doneL [(0, fitRaw e.od.w (h.seq + 1).toNat)] 0

theorem copyEff_accepted (ok : Accepted kind e m h) :
    copyEff kind e =
      if ¬ (h.cmd.isNone && !e.c.shadowFor e.ch) = true ∧ e.c.shadow.isSome = true then .error .block
      else .ok (seqResult e h (if (h.cmd.isNone && !e.c.shadowFor e.ch) = true then
        modChan (withLocks e m) e.eid e.ch (·.start { m with id := e.s.nextId })
        else (withLocks e m).modCore e.eid fun c => { c with shadow := some (e.ch, { m with id := e.s.nextId }) })) := by
  rw [copyEff, thread_of_act ok.on, bind_of_ok ok.clean, bind_of_ok ok.cmd, bind_of_ok (noJoin_ok ok.joins),
    bind_of_ok (noPop_ok ok.pops)]
  refine (if_neg (Nat.not_lt.mpr ok.locks)).trans ?_
  rw [ok.chan]
  rfl

theorem copyEff_starts (ok : Accepted kind e m h) (hcmd : h.cmd = none) (hsh : e.c.shadowFor e.ch = false) :
    copyEff kind e = .ok (seqResult e h (modChan (withLocks e m) e.eid e.ch (·.start { m with id := e.s.nextId }))) := by
  have hidle : (h.cmd.isNone && !e.c.shadowFor e.ch) = true := by rw [hcmd, hsh]; rfl
  rw [copyEff_accepted ok, if_neg fun hb => hb.1 hidle, if_pos hidle]

theorem copyEff_parks (ok : Accepted kind e m h) (hbusy : h.cmd ≠ none ∨ e.c.shadowFor e.ch = true) (hfree : e.c.shadow = none) :
    copyEff kind e = .ok (seqResult e h
      ((withLocks e m).modCore e.eid fun c => { c with shadow := some (e.ch, { m with id := e.s.nextId }) })) := by
  have hidle : ¬ (h.cmd.isNone && !e.c.shadowFor e.ch) = true := by
    rw [Bool.and_eq_true_iff, Option.isNone_iff_eq_none, Bool.not_eq_true', Classical.not_and_iff_not_or_not, Bool.not_eq_false]
    exact hbusy
  have hroom : ¬ (¬ (h.cmd.isNone && !e.c.shadowFor e.ch) = true ∧ e.c.shadow.isSome = true) := by
    rw [hfree]
    exact fun hb => nomatch hb.2
  rw [copyEff_accepted ok, if_neg hroom, if_neg hidle]

end Copy

theorem cpwWait_acquires {e : Env} {chs : List Nat} (h : ∀ ch ∈ chs, chanTrap e ch = .ok () ∧ chanBusy e.c ch = false)
    (hb : readsBound e.t = true) : cpwWait e chs = .ok (acquire e.s e.eid e.slot 2) := by
  have hidle : ¬ (chs.any (chanBusy e.c) || !readsBound e.t) = true := by
    rw [hb, Bool.not_true, Bool.or_false, List.any_eq_true]
    rintro ⟨ch, hch, hbusy⟩
    exact absurd hbusy (ne_true_of_eq_false (h ch hch).2)
  rw [cpwWait, bind_of_ok (forIn_checks_ok fun ch hch => (h ch hch).1)]
  exact if_neg hidle

theorem cpwDropEff_discards {e : Env} {h : Chan} (hon : e.on) (hch : e.c.chan[e.ch]? = some h) (hf : h.fault.isSome = true) :
    cpwDropEff e =
      let gone := (h.cmd.map (·.id)).toList ++
        (match e.c.shadow with | some (k, m) => if k = e.ch then [m.id] else [] | none => [])
      .ok ((modChan e.s e.eid e.ch fun h => { h with cmd := none, fault := none, buf := [], index := none }).modCore e.eid fun c =>
        { c with
          rlocks := c.rlocks.filter fun l => !gone.contains l.owner
          shadow := if c.shadowFor e.ch then none else c.shadow }) := by
  have hf' : ¬ h.fault.isNone = true := ne_true_of_eq_false (Option.isNone_eq_false_iff.mpr hf)
  rw [cpwDropEff, thread_of_act hon]
  simp only [hch]
  exact if_neg hf'

/-- Settles O27: a command starts or parks as its channel and the shadow allow; the others follow their channel's state. -/
theorem copyInstructions : Obligations.CopyInstructions := by
  unfold Obligations.CopyInstructions
  intro f h seq lock ok
  refine ⟨fun kind form i m hi => ?commands, ?cpw, ?drop, ?cpq⟩
  case commands =>
    have hexec : ∀ s, exec i s = issue form true false (copyEff kind) f s := by
      obtain ⟨rfl, rfl, rfl⟩ | ⟨rfl, rfl, rfl⟩ | ⟨rfl, rfl, rfl⟩ := hi <;> exact fun _ => rfl
    refine ⟨ends_of (copyEff kind) hexec fun e _ hp => ?_, ends_of (copyEff kind) hexec fun e _ hp => ?_⟩
    · obtain ⟨⟨hon, hclean, hcmd, hj, hpops, hlocks, hchan⟩, hidle, hsh⟩ := hp
      exact copyEff_starts ⟨hon, hclean, hcmd, hj, hpops, hlocks, hchan⟩ hidle hsh
    · obtain ⟨⟨hon, hclean, hcmd, hj, hpops, hlocks, hchan⟩, hbusy, hfree⟩ := hp
      exact copyEff_parks ⟨hon, hclean, hcmd, hj, hpops, hlocks, hchan⟩ hbusy hfree
  case cpw =>
    refine ends_of (fun e => e.thread fun _ => cpwWait e (if e.f.md = 1 then [0, 1] else [e.ch])) (fun _ => rfl) fun e hf hp => ?_
    subst hf
    obtain ⟨hon, hchs, hb⟩ := hp
    rw [thread_of_act hon, cpwWait_acquires hchs hb]
  case drop =>
    refine ends_of cpwDropEff (fun _ => rfl) fun e _ hp => ?_
    obtain ⟨hon, hch, hf⟩ := hp
    exact cpwDropEff_discards hon hch hf
  case cpq => exact ends_of _ (fun _ => rfl) fun e _ hon => by rw [thread_of_act hon]

end Sys2Proof.Proofs.CopyInstructions

/-! SUPPORT. The steps of a copy channel (R254 to R260): a plain command reads the next unit of its source or delivers of the bytes at
hand, and what a step meets on its way, the request or the fault event makes of it. -/

namespace Sys2Proof.Proofs.CopyEvents

open Sys2Proof.Machine
open Sys2Proof.Proofs.ThreadEvents (event_next)

/-! ## Delivery (R254) -/

section Deliver

variable {s t : State} {ch : Nat} {h : Chan} {m : CopyCmd} {kss : List (List Nat)} {objs : List Nat} {x : EngineStep}

/-- Where the next byte of a channel's command goes, and where it comes from. -/
def dstAt (m : CopyCmd) (h : Chan) : Int := m.dstRow (m.at_ h.bytes).2.1 (m.at_ h.bytes).2.2 + ((m.at_ h.bytes).1 : Nat)
def srcAt (m : CopyCmd) (h : Chan) : Int := m.srcRow (m.at_ h.bytes).2.1 (m.at_ h.bytes).2.2 0 + ((m.at_ h.bytes).1 : Nat)

/-- How many bytes a delivery tries: what a request under way has, or an open number within the destination line. -/
def wanted (s : State) (m : CopyCmd) (h : Chan) : Nat :=
  (m.sent s).getD (1 + Config.choose s.free % min (min h.buf.length (m.row - (m.at_ h.bytes).1)) (64 - (dstAt m h % 64).toNat))

/-- The write of a delivery. -/
def written (s : State) (m : CopyCmd) (h : Chan) (kss : List (List Nat)) : Except EngineStep State :=
  m.put s (engineVa m.eid m.ld (dstAt m h)) ((kss.zip h.buf).flatMap fun (ks, v) => ks.map (·, v))

theorem deliverBuf_delivers (hd : m.dstSome s (dstAt m h) (wanted s m h) = .ok kss) (ho : m.objects s (kss.headD []) = .ok objs)
    (hp : written s m h kss = .ok t) :
    deliverBuf s ch m h = .go (m.count kss.length
      (modChan t m.eid ch fun h => { h with bytes := h.bytes + kss.length, buf := h.buf.drop kss.length }) objs) := by
  unfold wanted dstAt at hd
  unfold written dstAt at hp
  simp only [deliverBuf, hd, ho, hp]

theorem deliverBuf_noPlace (hd : m.dstSome s (dstAt m h) (wanted s m h) = .error x) : deliverBuf s ch m h = x := by
  unfold wanted dstAt at hd
  simp only [deliverBuf, hd]

theorem deliverBuf_noWrite (hd : m.dstSome s (dstAt m h) (wanted s m h) = .ok kss) (ho : m.objects s (kss.headD []) = .ok objs)
    (hp : written s m h kss = .error x) : deliverBuf s ch m h = x := by
  unfold wanted dstAt at hd
  unfold written dstAt at hp
  simp only [deliverBuf, hd, ho, hp]

/-- The read of a plain command's next unit. -/
def unitRead (s : State) (m : CopyCmd) (h : Chan) : Except EngineStep (List Byte) :=
  engineReads s m.eid m.slot m.id m.asid m.ls (srcAt m h) (unitAt (srcAt m h % 8).toNat (m.row - (m.at_ h.bytes).1))

theorem readPlain_reads {bs : List Byte} (hk : m.kind = .plain) (hr : unitRead s m h = .ok bs) :
    readPlain s ch m h = deliverBuf (modChan s m.eid ch fun _ => { h with buf := bs }) ch m { h with buf := bs } := by
  unfold unitRead srcAt at hr
  simp only [readPlain, hk, hr]

theorem readPlain_stops (hk : m.kind = .plain) (hr : unitRead s m h = .error x) : readPlain s ch m h = x := by
  unfold unitRead srcAt at hr
  simp only [readPlain, hk, hr]

end Deliver

/-! ## The step of a channel -/

section Step

variable {s : State} {e ch : Nat} {h : Chan} {m : CopyCmd}

/-- A plain command of channel `h` has bytes to move and may move them. -/
structure Moves (s : State) (e : Nat) (h : Chan) (m : CopyCmd) : Prop where
  cmd : h.cmd = some m
  plain : m.kind = .plain
  clean : h.fault = none
  thawed : (s.core e).frozen = false
  left : h.bytes < m.total

theorem copyStep_moves (hch : (s.core e).chan[ch]? = some h) (mv : Moves s e h m) :
    copyStep s e ch = EngineStep.done m.eid m.slot m.id (if h.buf.isEmpty then readPlain s ch m h else deliverBuf s ch m h) := by
  have hgo : ¬ (h.fault.isSome = true ∨ (s.core e).frozen = true ∨ m.total ≤ h.bytes) := by
    simp [mv.clean, mv.thawed, mv.left]
  simp only [copyStep, hch, mv.cmd]
  refine (if_neg hgo).trans ?_
  simp only [CopyCmd.srcBx, CopyCmd.dstBx, mv.plain]

theorem copyStep_delivers (hch : (s.core e).chan[ch]? = some h) (mv : Moves s e h m) (hbuf : h.buf ≠ []) :
    copyStep s e ch = EngineStep.done m.eid m.slot m.id (deliverBuf s ch m h) := by
  rw [copyStep_moves hch mv, if_neg (mt List.isEmpty_iff.mp hbuf)]

theorem copyStep_reads (hch : (s.core e).chan[ch]? = some h) (mv : Moves s e h m) (hbuf : h.buf = []) :
    copyStep s e ch = EngineStep.done m.eid m.slot m.id (readPlain s ch m h) := by
  rw [copyStep_moves hch mv, if_pos (List.isEmpty_iff.mpr hbuf)]

theorem copyRequest_goes {s' : State} (hw : s.who = [e, ch]) (h : copyStep s e ch = .go s') : copyRequest s = s' := by
  simp only [copyRequest, hw, h]

theorem copyFault_stops {s' : State} {c va : Nat} (hw : s.who = [e, ch]) (h : copyStep s e ch = .fault s' c va) :
    copyFault s = modChan s' e ch fun h => { h with fault := some (c, va) } := by
  simp only [copyFault, hw, h]

/-! ## Start and completion (R255, R259) -/

theorem copyStart_swaps (hw : s.who = [e, ch]) (hch : (s.core e).chan[ch]? = some h) (hsh : (s.core e).shadow = some (ch, m))
    (hidle : h.cmd = none) (hthaw : (s.core e).frozen = false) :
    copyStart s = modChan (s.setCore e { s.core e with shadow := none }) e ch (·.start m) := by
  simp only [copyStart, hw, hch, hsh]
  exact if_pos ⟨trivial, Option.isNone_iff_eq_none.mpr hidle, ne_true_of_eq_false hthaw⟩

theorem copyComplete_ends (hw : s.who = [e, ch]) (hch : (s.core e).chan[ch]? = some h) (hcmd : h.cmd = some m)
    (hall : m.total ≤ h.bytes) (hf : h.fault = none) (hc : countsOut s m.id = false) :
    copyComplete s = (modChan s e ch fun h => { h with cmd := none }).modCore e fun c =>
      { c with rlocks := c.rlocks.filter (·.owner != m.id) } := by
  have hend : ¬ (h.bytes < m.total ∨ h.fault.isSome = true ∨ countsOut s m.id = true) := by
    simp [hall, hf, hc]
  simp only [copyComplete, hw, hch, Option.bind_some, hcmd, Option.map_some]
  exact if_neg hend

end Step

/-- Settles O28: what the step of a channel meets is what the events make of it. -/
theorem copyEvents : Obligations.CopyEvents := by
  unfold Obligations.CopyEvents
  intro s e ch h m hw hch x d a moves want put done
  have mv : moves → Moves s e h m := fun ⟨h1, h2, h3, h4, h5⟩ => ⟨h1, h2, h3, h4, h5⟩
  refine ⟨?start, ?deliver, ?read, ?readFault, ?placeFault, ?writeFault, ?goes, ?complete⟩
  case start => exact fun hsh hidle hthaw => event_next (copyStart_swaps hw hch hsh hidle hthaw)
  case deliver =>
    intro kss objs t hm hbuf hd ho hp
    refine event_next (copyRequest_goes hw ((copyStep_delivers hch (mv hm) hbuf).trans ?_))
    rw [deliverBuf_delivers hd ho hp]
    rfl
  case read =>
    rintro bs s' kss objs t hm hbuf hr rfl hd ho hp
    refine event_next (copyRequest_goes hw ((copyStep_reads hch (mv hm) hbuf).trans ?_))
    rw [readPlain_reads (mv hm).plain hr, deliverBuf_delivers (h := { h with buf := bs }) hd ho hp]
    rfl
  case readFault =>
    intro s' c va hm hbuf hr
    refine event_next (copyFault_stops hw ((copyStep_reads hch (mv hm) hbuf).trans ?_))
    rw [readPlain_stops (mv hm).plain hr]
    rfl
  case placeFault =>
    intro s' c va hm hbuf hd
    refine event_next (copyFault_stops hw ((copyStep_delivers hch (mv hm) hbuf).trans ?_))
    rw [deliverBuf_noPlace hd]
    rfl
  case writeFault =>
    intro kss objs s' c va hm hbuf hd ho hp
    refine event_next (copyFault_stops hw ((copyStep_delivers hch (mv hm) hbuf).trans ?_))
    rw [deliverBuf_noWrite hd ho hp]
    rfl
  case goes => exact fun s' h => event_next (copyRequest_goes hw h)
  case complete => exact fun hcmd hall hf hc => event_next (copyComplete_ends hw hch hcmd hall hf hc)

end Sys2Proof.Proofs.CopyEvents

/-! SUPPORT. The task instructions that send to a dispatcher (R304 to R312): the operands that name records, and the request. -/

namespace Sys2Proof.Proofs.TaskRequests

open Sys2Proof.Machine
open Sys2Proof.Proofs.BarrierInstructions (bind_of_ok)
open Sys2Proof.Proofs.ThreadInstructions (request_asks)

theorem handle_ok {e : Env} {v : Nat} (h : e.handleOk v) : e.handle v = .ok v := if_pos h

theorem queue_ok {e : Env} {v : Nat} (h : v < 256) : e.queue v = .ok v := if_pos h

/-- A request of the group goes out after its release; without one it waits for nothing (R243). -/
theorem taskReq_asks {e : Env} {nr : Bool} {scope dst op : Nat} {args : List Nat} {r : State × List Nat} (hj : e.t.joins = [])
    (hr : sendRelease e e.s nr scope = .ok r) : taskReq e nr scope dst op args = .ok (e.asked dst 3 (.taskOp op args) r) := by
  rw [taskReq, bind_of_ok (noJoin_ok hj), request_asks hr]

theorem taskReq_free {e : Env} {dst op : Nat} {args : List Nat} (hj : e.t.joins = []) :
    taskReq e true 0 dst op args = .ok (e.asked dst 3 (.taskOp op args) (e.s, [])) :=
  taskReq_asks hj rfl

theorem tkmkEff_asks {e : Env} {img : List Nat} (hon : e.on) (hj : e.t.joins = []) (hdie : e.f.md = 0 ∨ e.b0 < 4)
    (himg : ownWords e e.a0 8 32 = .ok img) :
    tkmkEff e = .ok (e.asked (dieUnit (if e.f.md = 0 then eidDie e.eid else e.dev * 4 + e.b0)) 3 (.taskOp 1 (e.gid :: img))
      (e.s, [])) := by
  have hok : (e.f.md == 0 || decide (e.b0 < 4)) = true := by simpa using hdie
  rw [tkmkEff, thread_of_act hon, bind_of_ok (need_ok hok), bind_of_ok himg]
  exact taskReq_free hj

/-- An instruction whose one operand names a record sends to the record's die. -/
theorem onHandle_asks {e : Env} {op : Nat} {args : List Nat} (hon : e.on) (hj : e.t.joins = []) (ha : e.handleOk e.a0) :
    (e.thread fun _ => do
      let h ← e.handle e.a0
      taskReq e true 0 (dieUnit (State.hDie h)) op (h :: args)) =
      .ok (e.asked (dieUnit (State.hDie e.a0)) 3 (.taskOp op (e.a0 :: args)) (e.s, [])) := by
  rw [thread_of_act hon, bind_of_ok (handle_ok ha), taskReq_free hj]

theorem tksuccEff_asks {e : Env} (hon : e.on) (hj : e.t.joins = []) (ha : e.handleOk e.a0) (hb : e.handleOk e.b0) :
    tksuccEff e = .ok (e.asked (dieUnit (State.hDie e.a0)) 3 (.taskOp 3 [e.a0, e.b0, e.f.imm.toNat % 16]) (e.s, [])) := by
  rw [tksuccEff, thread_of_act hon, bind_of_ok (handle_ok ha), bind_of_ok (handle_ok hb), taskReq_free hj]

theorem tkdecEff_sends {e : Env} {r : State × List Nat} (hon : e.on) (hj : e.t.joins = []) (ha : e.handleOk e.a0)
    (hr : sendRelease e e.s (bit e.f.md 1) (dieScope e.eid e.a0) = .ok r) :
    tkdecEff e = .ok (e.send r.1 (dieUnit (State.hDie e.a0)) 3 r.2 0
      (.decr e.a0 (simm14 e.f.b).toNat (if bit e.f.md 0 then e.f.imm.toNat % 16 else 0) 0 0)) := by
  rw [tkdecEff, thread_of_act hon, bind_of_ok (handle_ok ha), bind_of_ok (noJoin_ok hj), hr]

/-- `tkdone` is an end of the thread, on the state that holds the fire mask where it sets one (R309). -/
theorem tkdoneEff_ends {e : Env} (hon : e.on) (hj : e.t.joins = []) (hl : e.t.allLanded = true) (hf : exitFault e = none)
    (hd : e.t.deferred = []) :
    tkdoneEff e =
      let s := if e.f.md = 1 then e.s.modRec e.t.task.toNat fun r => { r with fire := r.fire &&& e.a0 % 256 } else e.s
      .ok (endThread s e.eid e.slot (match s.binding? e.eid e.t.task.toNat with | some b => b.sawDrain | none => false)) := by
  by_cases hm : e.f.md = 1
  · refine (if_pos ⟨hm, hon⟩).trans ?_
    simp only [if_pos hm]
    exact exitEff_ends (e := e.upd _) hon hl hj hf hd
  · refine (if_neg fun h => hm h.1).trans ?_
    simp only [if_neg hm]
    exact exitEff_ends hon hl hj hf hd

/-- Settles O29: each instruction's operands are in order, and its request goes out. -/
theorem taskRequests : Obligations.TaskRequests := by
  unfold Obligations.TaskRequests
  intro f
  refine ⟨?tkmk, ?tkarm, ?tksucc, ?tkcan, ?tkcanG, ?tkst, ?tkres, ?tkdec, ?tkdone⟩
  case tkmk =>
    refine endsBy_of tkmkEff (fun _ => rfl) fun e img hf hp himg => ?_
    subst hf
    obtain ⟨⟨hon, hj⟩, hdie⟩ := hp
    exact tkmkEff_asks hon hj hdie himg
  case tkarm =>
    exact ends_of tkarmEff (fun _ => rfl) fun e hf ⟨⟨hon, hj⟩, ha⟩ => by subst hf; exact onHandle_asks hon hj ha
  case tksucc =>
    refine ends_of tksuccEff (fun _ => rfl) fun e hf hp => ?_
    subst hf
    obtain ⟨⟨hon, hj⟩, ha, hb⟩ := hp
    exact tksuccEff_asks hon hj ha hb
  case tkcan => exact ends_of tkcanEff (fun _ => rfl) fun e _ ⟨⟨hon, hj⟩, ha⟩ => onHandle_asks hon hj ha
  case tkcanG =>
    exact ends_of (fun e => e.thread fun _ => taskReq e true 0 (dieUnit (eidDie e.eid)) 5 [e.a0]) (fun _ => rfl)
      fun e _ ⟨⟨hon, hj⟩, _⟩ => by rw [thread_of_act hon, taskReq_free hj]
  case tkst => exact ends_of tkstEff (fun _ => rfl) fun e _ ⟨⟨hon, hj⟩, ha⟩ => onHandle_asks hon hj ha
  case tkres =>
    refine ends_of (fun e => e.thread fun _ => do
      let q ← e.queue e.a0
      taskReq e true 0 (dieUnit (eidDie e.eid)) 8 [q]) (fun _ => rfl) fun e _ hp => ?_
    obtain ⟨⟨hon, hj⟩, hq⟩ := hp
    rw [thread_of_act hon, bind_of_ok (queue_ok hq), taskReq_free hj]
  case tkdec =>
    refine endsBy_of tkdecEff (fun _ => rfl) fun e r hf hp hr => ?_
    subst hf
    obtain ⟨⟨hon, hj⟩, ha⟩ := hp
    exact tkdecEff_sends hon hj ha hr
  case tkdone =>
    refine ends_of tkdoneEff (fun _ => rfl) fun e hf hp => ?_
    subst hf
    obtain ⟨⟨hon, hj⟩, hl, hfault, hd⟩ := hp
    exact tkdoneEff_ends hon hj hl hfault hd

end Sys2Proof.Proofs.TaskRequests

/-! SUPPORT. What a task operation does to the record that it reaches (R306 to R312), and what a decrement does (R293). -/

namespace Sys2Proof.Proofs.RecordOperations

open Sys2Proof.Machine
open Sys2Proof.Proofs.ThreadEvents (event_next)

/-! ## Operations on a record -/

section Operations

variable {s : State} {p : Packet} {h : Nat} {r : Rec}

/-- A handle names no live record of the packet's context. -/
def Absent (s : State) (p : Packet) (h : Nat) : Prop := s.rec? h = none ∨ ∃ r, s.rec? h = some r ∧ r.asid ≠ p.asid

theorem recOf_absent (ha : Absent s p h) : recOf s p.asid h = none := by
  obtain hn | ⟨r, hr, hne⟩ := ha
  · rw [recOf, hn]; rfl
  · rw [recOf, hr]
    exact Option.filter_some_neg (by simpa using hne)

theorem onRec_stale {g : Rec → Nat × State} (hr : recOf s p.asid h = none) : onRec s p h g = answerWord s p (resWord stSTALE 0) := by
  simp only [onRec, hr]

theorem onRec_answers {g : Rec → Nat × State} (hr : recOf s p.asid h = some r) :
    onRec s p h g = answerWord (g r).2 p (g r).1 := by
  simp only [onRec, hr]

/-- The operations that a packet names, on their record. -/
theorem unitArrive_arm {b : Nat} (hb : p.body = .taskOp 2 [h, b]) : unitArrive s p = onRec s p h fun r => armAdd s r b := by
  simp only [unitArrive, taskArrive, hb]

theorem unitArrive_succ {x m : Nat} (hb : p.body = .taskOp 3 [h, x, m]) : unitArrive s p = onRec s p h fun r => succAdd s r x m := by
  simp only [unitArrive, taskArrive, hb]

theorem unitArrive_cancel (hb : p.body = .taskOp 4 [h]) :
    unitArrive s p = onRec s p h fun _ => (resWord stOK (b2n (cancelRec s h).2), (cancelRec s h).1) := by
  simp only [unitArrive, taskArrive, hb]

theorem unitArrive_status (hb : p.body = .taskOp 6 [h]) : unitArrive s p = onRec s p h fun r => (resWord stOK (stValue s r), s) := by
  simp only [unitArrive, taskArrive, hb]

theorem unitArrive_stale {op : Nat} {args : List Nat}
    (hargs : op = 2 ∧ (∃ b, args = [h, b]) ∨ op = 3 ∧ (∃ x m, args = [h, x, m]) ∨ (op = 4 ∨ op = 6) ∧ args = [h])
    (hb : p.body = .taskOp op args) (ha : Absent s p h) : unitArrive s p = answerWord s p (resWord stSTALE 0) := by
  obtain ⟨rfl, b, rfl⟩ | ⟨rfl, x, m, rfl⟩ | ⟨rfl | rfl, rfl⟩ := hargs
  · rw [unitArrive_arm hb, onRec_stale (recOf_absent ha)]
  · rw [unitArrive_succ hb, onRec_stale (recOf_absent ha)]
  · rw [unitArrive_cancel hb, onRec_stale (recOf_absent ha)]
  · rw [unitArrive_status hb, onRec_stale (recOf_absent ha)]

theorem armAdd_refused {b : Nat} (hbad : r.state ≠ .made ∨ r.count + signed 32 b < -(2 ^ 31) ∨ 2 ^ 31 ≤ r.count + signed 32 b) :
    armAdd s r b = (resWord stSTATE 0, s) := if_pos hbad

theorem armAdd_counts {b : Nat} (hm : r.state = .made) (hlo : -(2 ^ 31) ≤ r.count + signed 32 b)
    (hhi : r.count + signed 32 b < 2 ^ 31) : armAdd s r b = (resWord stOK 0, s.setRec { r with count := r.count + signed 32 b }) :=
  if_neg (not_or.mpr ⟨not_not_intro hm, not_or.mpr ⟨Int.not_lt.mpr hlo, Int.not_le.mpr hhi⟩⟩)

theorem succAdd_refused {x m : Nat} (hm : r.state ≠ .made) : succAdd s r x m = (resWord stSTATE 0, s) := if_pos hm

theorem succAdd_full {x m : Nat} (hm : r.state = .made) (hl : r.succ.length = 8) : succAdd s r x m = (resWord stFULL 0, s) :=
  (if_neg (not_not_intro hm)).trans (if_pos (Nat.le_of_eq hl.symm))

theorem succAdd_appends {x m : Nat} (hm : r.state = .made) (hl : r.succ.length < 8) :
    succAdd s r x m = (resWord stOK r.succ.length, s.setRec { r with succ := r.succ ++ [{ handle := x, opmask := m }] }) :=
  (if_neg (not_not_intro hm)).trans (if_neg (Nat.not_le.mpr hl))

theorem cancelRec_done (hr : s.rec? h = some r) (hd : r.state = .done) : cancelRec s h = (s, false) := by
  simp only [cancelRec, hr, hd]

end Operations

/-! ## Decrements (R293) -/

section Decrements

variable {s : State} {p : Packet} {h n mask : Nat} {r : Rec}

/-- A record whose count a decrement has brought to `c`, its operands of the mask ready. -/
def counted (r : Rec) (mask : Nat) (c : Int) : Rec :=
  { r with count := c, ops := r.ops.mapIdx fun j o => if bit mask j = true ∧ o.v = true then { o with rdy := true } else o }

theorem decrementApply_applies {q i : Nat} (hr : readyPkt? s = some p) (hb : p.body = .decr h n mask q i) :
    decrementApply s = (companions s p).foldl applyPkt s := by
  simp only [decrementApply, hr, hb]

theorem applyPkt_decr {q i : Nat} (hb : p.body = .decr h n mask q i) :
    applyPkt s p = answer (applyDecr s p.asid h n mask) p .quiet := by
  simp only [applyPkt, hb]

theorem applyDecr_absent {asid : Nat} (hr : recOf s asid h = none) :
    applyDecr s asid h n mask = strayDecrement s (State.hDie h) asid h 0 0 := by
  simp only [applyDecr, hr]

theorem applyDecr_found {asid : Nat} (hr : recOf s asid h = some r) :
    applyDecr s asid h n mask =
      if ¬ (r.state = .made ∨ r.state = .armed ∨ r.state = .ahead) ∨ (¬ r.state = .made ∧ r.count < n) then
        strayDecrement s (State.hDie h) asid h 0 0
      else if ¬ r.state = .made ∧ r.count - n = 0 then
        if r.state = .armed then enterTable (s.setRec (counted r mask (r.count - n))) h
        else startFetches ((s.setRec (counted r mask (r.count - n))).setRec
          { (counted r mask (r.count - n)).allReady with state := .staging }) h
      else if r.state = .ahead then startFetches (s.setRec (counted r mask (r.count - n))) h
      else s.setRec (counted r mask (r.count - n)) := by
  simp only [applyDecr, hr, counted]

/-- A record that cannot take a decrement. -/
theorem applyDecr_stray {asid : Nat} (hr : recOf s asid h = some r)
    (hbad : ¬ (r.state = .made ∨ r.state = .armed ∨ r.state = .ahead) ∨ (¬ r.state = .made ∧ r.count < n)) :
    applyDecr s asid h n mask = strayDecrement s (State.hDie h) asid h 0 0 :=
  (applyDecr_found hr).trans (if_pos hbad)

theorem applyDecr_made {asid : Nat} (hr : recOf s asid h = some r) (hm : r.state = .made) :
    applyDecr s asid h n mask = s.setRec (counted r mask (r.count - n)) := by
  rw [applyDecr_found hr]
  simp [hm]

theorem applyDecr_armed {asid : Nat} (hr : recOf s asid h = some r) (hm : r.state = .armed) (hc : (n : Int) < r.count) :
    applyDecr s asid h n mask = s.setRec (counted r mask (r.count - n)) := by
  have hlow : ¬ r.count < n := by omega
  have hleft : ¬ r.count - n = 0 := by omega
  rw [applyDecr_found hr]
  simp [hm, hlow, hleft]

theorem applyDecr_armed_last {asid : Nat} (hr : recOf s asid h = some r) (hm : r.state = .armed) (hc : r.count = n) :
    applyDecr s asid h n mask = enterTable (s.setRec (counted r mask 0)) h := by
  rw [applyDecr_found hr]
  simp [hm, hc]

theorem applyDecr_ahead {asid : Nat} (hr : recOf s asid h = some r) (hm : r.state = .ahead) (hc : (n : Int) < r.count) :
    applyDecr s asid h n mask = startFetches (s.setRec (counted r mask (r.count - n))) h := by
  have hlow : ¬ r.count < n := by omega
  have hleft : ¬ r.count - n = 0 := by omega
  rw [applyDecr_found hr]
  simp [hm, hlow, hleft]

theorem applyDecr_ahead_last {asid : Nat} (hr : recOf s asid h = some r) (hm : r.state = .ahead) (hc : r.count = n) :
    applyDecr s asid h n mask =
      startFetches ((s.setRec (counted r mask 0)).setRec { (counted r mask 0).allReady with state := .staging }) h := by
  rw [applyDecr_found hr]
  simp [hm, hc]

end Decrements

/-- Settles O30: an operation by the record's state, a decrement by its state and its count. -/
theorem recordOperationsAndDecrements : Obligations.RecordOperationsAndDecrements := by
  unfold Obligations.RecordOperationsAndDecrements
  refine ⟨fun s p h => ⟨?stale, fun r hr => ⟨?armState, ?arm, ?armRange, ?succState, ?succFull, ?succ, ?status, ?cancel⟩⟩,
    fun s p h n mask q i => ⟨fun hb hp => ?apply, fun hb ha => ?absent, ?found⟩⟩
  case stale => exact fun op args _ hargs hb ha => unitArrive_stale hargs hb ha
  case armState => exact fun b hb hm => by rw [unitArrive_arm hb, onRec_answers hr, armAdd_refused (.inl hm)]
  case arm => exact fun b hb hm hlo hhi => by rw [unitArrive_arm hb, onRec_answers hr, armAdd_counts hm hlo hhi]
  case armRange => exact fun b hb hc => by rw [unitArrive_arm hb, onRec_answers hr, armAdd_refused (.inr hc)]
  case succState => exact fun x m hb hm => by rw [unitArrive_succ hb, onRec_answers hr, succAdd_refused hm]
  case succFull => exact fun x m hb hm hl => by rw [unitArrive_succ hb, onRec_answers hr, succAdd_full hm hl]
  case succ => exact fun x m hb hm hl => by rw [unitArrive_succ hb, onRec_answers hr, succAdd_appends hm hl]
  case status => exact fun hb => (unitArrive_status hb).trans (onRec_answers hr)
  case cancel =>
    intro hb _ r' hr' hd
    rw [unitArrive_cancel hb, onRec_answers hr, cancelRec_done hr' hd]
    exact congrArg (answerWord s p) rfl
  case apply => exact event_next (decrementApply_applies hp hb)
  case absent => rw [applyPkt_decr hb, applyDecr_absent (recOf_absent ha)]
  case found =>
    intro r r' hb hr
    refine ⟨fun hm => ?made, fun hm hc => ?armed, fun hm hc => ?armedLast, fun hm hc => ?ahead, fun hm hc => ?aheadLast,
      fun hm hc => ?under, fun h1 h2 h3 => ?other⟩
    all_goals rw [applyPkt_decr hb]
    case made => exact congrArg (answer · p .quiet) (applyDecr_made hr hm)
    case armed => exact congrArg (answer · p .quiet) (applyDecr_armed hr hm hc)
    case armedLast => exact congrArg (answer · p .quiet) (applyDecr_armed_last hr hm hc)
    case ahead => exact congrArg (answer · p .quiet) (applyDecr_ahead hr hm hc)
    case aheadLast => exact congrArg (answer · p .quiet) (applyDecr_ahead_last hr hm hc)
    case under =>
      have hnot : ¬ r.state = .made := by obtain h | h := hm <;> rw [h] <;> exact TaskState.noConfusion
      rw [applyDecr_stray hr (.inr ⟨hnot, hc⟩)]
    case other => rw [applyDecr_stray hr (.inl (not_or.mpr ⟨h1, not_or.mpr ⟨h2, h3⟩⟩))]

end Sys2Proof.Proofs.RecordOperations

/-! SUPPORT. `ginst` (R310): its rename words, its template, the checks, and what they make. -/

namespace Sys2Proof.Proofs.Instances

open Sys2Proof.Machine
open Sys2Proof.Proofs.BarrierInstructions (bind_of_ok)

variable {e : Env} {t : Tmpl} {ren : List Nat}

/-- `ginst` has read its rename words and its template, and the queue that it names is there. -/
structure TemplateRead (e : Env) (t : Tmpl) (ren : List Nat) : Prop where
  on : e.on
  words : ownWords e e.b0 8 16 = .ok ren
  ring : (queueRing e.s0 (eidDie e.eid) e.asid (e.f.imm.toNat % 256)).isSome = true
  read : readTemplate e.s0 e.eid e.slot e.asid (addrOf e.a0) = .ok t

/-- The instruction in hand once its reads of other devices are done. -/
def readDone (e : Env) : Env := e.upd (farDone e.s e.eid e.slot 0)

theorem ginstEff_refuses {st : Nat} (h : TemplateRead e t ren)
    (hc : checkTemplate (readDone e).s0 (readDone e).dev (readDone e).asid (eidDie e.eid) t none = .error st) :
    ginstEff e = .ok (e.answers (farDone e.s e.eid e.slot 0) st 0) := by
  unfold readDone at hc
  rw [ginstEff, thread_of_act h.on, bind_of_ok h.words, bind_of_ok (need_ok h.ring)]
  simp only [h.read, hc]
  exact congrArg Except.ok rfl

theorem ginstEff_makes {g : Nat} (h : TemplateRead e t ren)
    (hc : checkTemplate (readDone e).s0 (readDone e).dev (readDone e).asid (eidDie e.eid) t none = .ok g) :
    ginstEff e = .ok (e.answers
      (makeInst (farDone e.s e.eid e.slot 0) e.dev e.asid (eidDie e.eid) g (e.f.imm.toNat % 256) t ren none) stOK g) := by
  unfold readDone at hc
  rw [ginstEff, thread_of_act h.on, bind_of_ok h.words, bind_of_ok (need_ok h.ring)]
  simp only [h.read, hc]
  exact congrArg Except.ok rfl

/-- Settles O31: the checks of the template answer a status or the GID of what is made. -/
theorem instancesAreMade : Obligations.InstancesAreMade := by
  unfold Obligations.InstancesAreMade
  refine fun f t => ⟨fun st => ?refuses, fun g => ?makes⟩
  case refuses =>
    refine endsBy_of ginstEff (fun _ => rfl) fun e ren hf hp hren => ?_
    subst hf
    obtain ⟨⟨hon, hring, hread⟩, hc⟩ := hp
    exact ginstEff_refuses ⟨hon, hren, hring, hread⟩ hc
  case makes =>
    refine endsBy_of ginstEff (fun _ => rfl) fun e ren hf hp hren => ?_
    subst hf
    obtain ⟨⟨hon, hring, hread⟩, hc⟩ := hp
    exact ginstEff_makes ⟨hon, hren, hring, hread⟩ hc

end Sys2Proof.Proofs.Instances

/-! SUPPORT. Submissions, ring operations and arrival-match entries (R303, R313 to R316): the instructions that wait for an answer, and what
the dispatcher or the ring's home does with a request. -/

namespace Sys2Proof.Proofs.QueuesAndRings

open Sys2Proof.Machine
open Sys2Proof.Proofs.BarrierInstructions (bind_of_ok)
open Sys2Proof.Proofs.GlobalMemory (ok_of_bind)
open Sys2Proof.Proofs.TaskRequests (handle_ok queue_ok taskReq_asks taskReq_free)

/-! ## An instruction that waits for its answer -/

section Asking

variable {e : Env} {k : Nat → Nat → Except Stop State} {ask : Except Stop State}

theorem answered_asks (h : e.t.phase = none ∨ ∃ i, e.t.phase = some (.begun i)) : e.answered k ask = ask := by
  obtain h | ⟨i, h⟩ := h <;> simp only [Env.answered, h]

theorem answered_told {w sc : Nat} (h : e.t.phase = some (.told w sc)) : e.answered k ask = k w sc := by
  simp only [Env.answered, h]

theorem ask_starts {nr : Bool} {scope dst : Nat} {body : Body} {r : State × List Nat} (hj : e.t.joins = [])
    (hr : sendRelease e e.s0 nr scope = .ok r) :
    e.ask nr scope dst body = .error (.start (e.begun .asked (e.send r.1 dst 3 r.2 0 body))) := by
  rw [Env.ask, bind_of_ok (noJoin_ok hj)]
  exact bind_of_ok hr _

end Asking

/-! ## `tksub` (R313) -/

/-- What `tksub` sends: its queue, its record, and the index that an earlier try reserved. -/
def subBody (e : Env) : Body := .taskOp 7 [e.a0, e.b0, match subIndex e.t with | some i => i + 1 | none => 0]

/-- The checks of `tksub` pass, and it waits for its answer. -/
theorem tksubEff_answered {e : Env} (hon : e.on) (hq : e.a0 < 256) (hh : e.handleOk e.b0)
    (hring : (queueRing e.s0 (eidDie e.eid) e.asid e.a0).isSome = true) :
    tksubEff e = e.answered (fun w _ => .ok (e.doneL [(0, fitRaw e.od.w w)] 0))
      (e.ask false 3 (dieUnit (eidDie e.eid)) (subBody e)) := by
  rw [tksubEff, thread_of_act hon, bind_of_ok (queue_ok hq), bind_of_ok (handle_ok hh)]
  exact bind_of_ok (need_ok hring) _

/-! ## `rgtake` (R316) -/

/-- The 256 bytes of own LM that `rgtake` copies to are there for it. -/
structure TakeRoom (e : Env) : Prop where
  on : e.on
  aligned : e.b0 % 8 = 0
  inside : e.b0 + 256 ≤ 0x80000
  allotted : e.c.lmOk e.b0 256 = true
  noHeader : e.s0.inHeader e.eid e.b0 256 = false

/-- Its fill and its ring are at hand. -/
def takeRing (e : Env) : Except Stop Nat := do
  waitFill e 255 (windowVa e.eid e.b0) ((List.range 256).map (lmKey e.eid e.b0 + ·))
  ringKey e

/-- The result of `rgtake`. -/
def takeResult (e : Env) (w : Nat) : State := (e.upd e.s).doneL [(0, fitRaw e.od.w w)] 0

theorem rgtakeEff_answered {e : Env} {k : Nat} (h : TakeRoom e) (hk : takeRing e = .ok k) :
    rgtakeEff e = e.answered
      (fun w scope => if w / 2 ^ 56 ≠ stOK then .ok (takeResult e w)
        else if readsBound e.t then .ok (acquire (takeResult e w) e.eid e.slot scope) else .error .block)
      (if ownPending e e.b0 256 then .error .block else e.ask true 0 (ringUnit k) (.taskOp 13 [k, e.b0, addrOf e.a0])) := by
  have hspan : (e.b0 % 8 == 0 && decide (e.b0 + 256 ≤ 0x80000)) = true := by simp [h.aligned, h.inside]
  have hperm : ¬ (¬ e.c.lmOk e.b0 256 = true ∨ e.s0.inHeader e.eid e.b0 256 = true) := by simp [h.allotted, h.noHeader]
  obtain ⟨u, hfill, hring⟩ := ok_of_bind hk
  rw [rgtakeEff, thread_of_act h.on, bind_of_ok (need_ok hspan)]
  refine (if_neg hperm).trans ((bind_of_ok rfl _).trans ?_)
  rw [bind_of_ok hfill]
  exact bind_of_ok hring _

/-! ## `arrm` (R314) -/

/-- The lowest free entry of the core's arrival-match table. -/
def freeMatch (e : Env) : Option Nat := firstIdx 64 fun i => (Keyed.get? e.c.match_ i).isNone

/-- The entry that `arrm` sets. -/
def newMatch (e : Env) : ArrMatch := { tag := e.a0, handle := e.b0, target := e.c0, opmask := e.f.imm.toNat % 16, count := 0 }

theorem arrmEff_zero {e : Env} (hon : e.on) (ha : e.a0 < 65536) (hb : e.handleOk e.b0) (hc : e.c0 = 0) :
    arrmEff e = .ok (e.answers e.s stSTATE 0) := by
  rw [arrmEff, thread_of_act hon, bind_of_ok (need_ok (decide_eq_true ha)), bind_of_ok (handle_ok hb)]
  exact if_pos hc

theorem arrmEff_full {e : Env} (hon : e.on) (ha : e.a0 < 65536) (hb : e.handleOk e.b0) (hc : e.c0 ≠ 0) (hf : freeMatch e = none) :
    arrmEff e = .ok (e.answers e.s stNOMEM 0) := by
  unfold freeMatch at hf
  rw [arrmEff, thread_of_act hon, bind_of_ok (need_ok (decide_eq_true ha)), bind_of_ok (handle_ok hb)]
  simp only [if_neg hc, hf]
  exact congrArg Except.ok rfl

theorem arrmEff_sets {e : Env} {i : Nat} (hon : e.on) (ha : e.a0 < 65536) (hb : e.handleOk e.b0) (hc : e.c0 ≠ 0)
    (hf : freeMatch e = some i) :
    arrmEff e = .ok (e.answers (e.s.modCore e.eid fun c => { c with match_ := Keyed.put c.match_ i (newMatch e) }) stOK i) := by
  unfold freeMatch at hf
  rw [arrmEff, thread_of_act hon, bind_of_ok (need_ok (decide_eq_true ha)), bind_of_ok (handle_ok hb)]
  simp only [if_neg hc, hf]
  exact congrArg Except.ok rfl

theorem arrmFreeEff_clears {e : Env} (hon : e.on) (ha : e.a0 < 64) :
    arrmFreeEff e = .ok (e.answers (e.s.modCore e.eid fun c => { c with match_ := Keyed.del c.match_ e.a0 }) stOK
      (b2n (Keyed.get? e.c.match_ e.a0).isSome)) := by
  rw [arrmFreeEff, thread_of_act hon]
  exact bind_of_ok (need_ok (decide_eq_true ha)) _

/-! ## At the ring -/

section Ring

variable {s : State} {p : Packet} {k : Nat}

theorem unitArrive_submit {q h i : Nat} (hb : p.body = .taskOp 7 [q, h, i]) :
    unitArrive s p = submitAt s p (p.dst / 1024) q h i := by
  simp only [unitArrive, taskArrive, hb]

/-- A first submission that gets an index: its entry is written and published (R313). -/
theorem submitAt_publishes {die q h va ek : Nat} (hq : queueRing s die p.asid q = some va)
    (hk : xlBlock s (die / 4) p.asid va 64 true = .ok k) (hst : (ringRes s k).1 / 2 ^ 56 = stOK)
    (hek : xlBlock (ringRes s k).2 (die / 4) p.asid ((ringAt s k).entry (ringAt s k).res) 8 true = .ok ek) :
    submitAt s p die q h 0 =
      answerTold (ringPub (putNum (ringRes s k).2 ek 8 (h % 2 ^ 32)) k (ringAt s k).res).2 p (resWord stOK 0) 0 := by
  have hok : ¬ (ringRes s k).1 / 2 ^ 56 ≠ 0 := not_not_intro hst
  simp only [submitAt, hq, hk, if_true, if_neg hok, hek]

theorem unitArrive_take {off va : Nat} (hb : p.body = .taskOp 13 [k, off, va]) : unitArrive s p = takeAt s p k off va := by
  simp only [unitArrive, taskArrive, hb]

/-- The bytes of the descriptor and of the copy's destination. -/
def takeKeys (p : Packet) (k off : Nat) : List Nat := ((List.range 64).map (k + ·)) ++ (List.range 256).map (lmKey p.src off + ·)

/-- A take from a ring that has no entry for it answers the ring's status. -/
theorem takeAt_refuses {off va : Nat} (hbad : s.badAt k 64 = false) (hfull : emptyGran s (takeKeys p k off) = none)
    (hst : takeStatus (ringAt s k) ≠ stOK) :
    takeAt s p k off va = answerTold s p (resWord (takeStatus (ringAt s k)) 0) 0 := by
  unfold takeKeys at hfull
  simp only [takeAt, hbad, Bool.false_eq_true, if_false, hfull, if_pos hst]

theorem takeAt_takes {off va : Nat} {bs : List Byte} (hbad : s.badAt k 64 = false) (hfull : emptyGran s (takeKeys p k off) = none)
    (hst : takeStatus (ringAt s k) = stOK)
    (hbs : entryBytes s p ((ringAt s k).entry (ringAt s k).take) (2 ^ (ringAt s k).loge) = .ok bs) :
    takeAt s p k off va = answerTold (takeDone (putBytes s (((List.range 256).map (lmKey p.src off + ·)).zip bs)) k) p
      (resWord stOK (ringAt s k).take) (min 5 (ringAt s k).scope) := by
  unfold takeKeys at hfull
  simp only [takeAt, hbad, Bool.false_eq_true, if_false, hfull, if_neg (not_not_intro hst), hbs]

end Ring

/-- Settles O32: the instructions by their phase, the ring by what it finds. -/
theorem queueAndRingInstructions : Obligations.QueueAndRingInstructions := by
  unfold Obligations.QueueAndRingInstructions
  refine ⟨fun f => ⟨?tksub, fun w sc => ?tksubTold, ?rgres, ?rgpub, ?rgtake, fun w sc => ⟨?rgtakeOk, ?rgtakeNot⟩, ?arrmZero, ?arrmFull,
    fun i => ?arrm, ?arrmFree⟩, fun s p k => ⟨?submit, ?take⟩⟩
  case tksub =>
    refine startsBy_of tksubEff (fun _ => rfl) fun e r _ hp hr => ?_
    obtain ⟨⟨hon, hq, hh, hring⟩, hj, hph⟩ := hp
    rw [tksubEff_answered hon hq hh hring, answered_asks hph]
    exact ask_starts hj hr
  case tksubTold =>
    refine ends_of tksubEff (fun _ => rfl) fun e _ hp => ?_
    obtain ⟨⟨hon, hq, hh, hring⟩, hph⟩ := hp
    rw [tksubEff_answered hon hq hh hring, answered_told hph]
  case rgres =>
    refine endsBy_of (fun e => e.thread fun _ => do
      let k ← ringKey e
      taskReq e true 0 (ringUnit k) 9 [k]) (fun _ => rfl) fun e k _ hp hk => ?_
    obtain ⟨hon, hj⟩ := hp
    rw [thread_of_act hon, bind_of_ok hk, taskReq_free hj]
  case rgpub =>
    refine endsBy_of (fun e => e.thread fun _ => do
      let k ← ringKey e
      taskReq e false (min 5 (ringAt e.s0 k).scope) (ringUnit k) 10 [k, e.b0]) (fun _ => rfl) fun e x _ hp hx => ?_
    obtain ⟨hon, hj⟩ := hp
    obtain ⟨k, hk, hrest⟩ := ok_of_bind hx
    obtain ⟨r, hr, hkr⟩ := ok_of_bind hrest
    cases hkr
    rw [thread_of_act hon, bind_of_ok hk, taskReq_asks hj hr]
  case rgtake =>
    refine startsBy_of rgtakeEff (fun _ => rfl) fun e k _ hp hk => ?_
    obtain ⟨⟨hon, hal, hin, hlm, hhdr⟩, hj, hph, hown⟩ := hp
    rw [rgtakeEff_answered ⟨hon, hal, hin, hlm, hhdr⟩ hk, answered_asks (.inl hph), if_neg (ne_true_of_eq_false hown)]
    exact ask_starts (r := (e.s0, [])) hj rfl
  case rgtakeOk =>
    refine endsBy_of rgtakeEff (fun _ => rfl) fun e k _ hp hk => ?_
    obtain ⟨⟨hon, hal, hin, hlm, hhdr⟩, hph, hst, hb⟩ := hp
    rw [rgtakeEff_answered ⟨hon, hal, hin, hlm, hhdr⟩ hk, answered_told hph, if_neg (not_not_intro hst), if_pos hb]
    exact congrArg Except.ok rfl
  case rgtakeNot =>
    refine endsBy_of rgtakeEff (fun _ => rfl) fun e k _ hp hk => ?_
    obtain ⟨⟨hon, hal, hin, hlm, hhdr⟩, hph, hst⟩ := hp
    rw [rgtakeEff_answered ⟨hon, hal, hin, hlm, hhdr⟩ hk, answered_told hph, if_pos hst]
    exact congrArg Except.ok rfl
  case arrmZero => exact ends_of arrmEff (fun _ => rfl) fun e _ ⟨hon, ha, hb, hc⟩ => arrmEff_zero hon ha hb hc
  case arrmFull => exact ends_of arrmEff (fun _ => rfl) fun e _ ⟨hon, ha, hb, hc, hf⟩ => arrmEff_full hon ha hb hc hf
  case arrm =>
    exact ends_of arrmEff (fun _ => rfl) fun e hf ⟨hon, ha, hb, hc, hfree⟩ => by subst hf; exact arrmEff_sets hon ha hb hc hfree
  case arrmFree => exact ends_of arrmFreeEff (fun _ => rfl) fun e _ ⟨hon, ha⟩ => arrmFreeEff_clears hon ha
  case submit =>
    intro q h va ek hb hq hk hst hek
    rw [unitArrive_submit hb, submitAt_publishes hq hk hst hek]
  case take =>
    intro off va hb hbad hfull
    rw [unitArrive_take hb]
    exact ⟨fun hst => takeAt_refuses hbad hfull hst, fun bs hst hbs => takeAt_takes hbad hfull hst hbs⟩

end Sys2Proof.Proofs.QueuesAndRings

/-! SUPPORT. The sends of the message group and `hend` (R323 to R329). -/

namespace Sys2Proof.Proofs.Messages

open Sys2Proof.Machine
open Sys2Proof.Proofs.BarrierInstructions (bind_of_ok)
open Sys2Proof.Proofs.SliceInstructions (bit_eq_testBit)
open Sys2Proof.Proofs.ThreadInstructions (request_asks target_ok)

/-! ## The form of an instruction that issues -/

/-- A check that answers nothing is passed: the next one answers nothing either. -/
theorem next_of_check_none {α : Type} {c : Prop} [Decidable c] {a : α} {o : Option α} (h : (if c then some a else o) = none) :
    o = none := by
  split at h
  · cases h
  · exact h

/-- An instruction that issues has a form: without one it fails its checks (R52). -/
theorem form_of_issues {form : Option Form} {hOk yOk : Bool} {f : Fields} {s : State} {th : Thread}
    (h : Issues form hOk yOk f s th) : form ≠ none := by
  rintro rfl
  obtain ⟨-, -, -, hpre, -⟩ := h
  exact Option.some_ne_none _ (next_of_check_none (next_of_check_none hpre))

/-- `endsBy_of` for an instruction whose form says something of its fields. -/
theorem endsBy_of_form {α : Type} {form : Option Form} {hOk yOk : Bool} {f : Fields} {i : Instr} {p : Env → Prop}
    {chk : Env → Except Stop α} {g : Env → α → State} (eff : Env → Except Stop State)
    (hx : ∀ s, exec i s = issue form hOk yOk eff f s)
    (he : form ≠ none → ∀ (e : Env) (a : α), e.f = f → p e → chk e = .ok a → eff e = .ok (g e a)) :
    EndsBy form hOk yOk f i p chk g := fun s th a h =>
  endsBy_of eff hx (he (form_of_issues h)) s th a h

/-- Bit 0 of MOD tells `am.d` from `am` (R48). -/
theorem deposit_of_form {f : Fields} {d : Bool} (h : formAm f d ≠ none) : bit f.md 0 = d := by
  unfold formAm at h
  split at h
  · next hm =>
    rw [bit_eq_testBit]
    exact hm.2
  · exact absurd rfl h

/-! ## Sends -/

section Send

variable {e : Env} {r : State × List Nat}

theorem sendMsg_tells {dst need : Nat} {nr : Bool} {tg : Target} {body : Body} (hj : e.t.joins = [])
    (hr : sendRelease e e.s nr (scopeTo e.eid dst) = .ok r) : sendMsg e dst need nr tg body = .ok (e.told dst need tg body r) := by
  rw [sendMsg, bind_of_ok (noJoin_ok hj), hr]
  rfl

theorem amEff_sends (hon : e.on) (hj : e.t.joins = []) (hdst : e.a0 < 2 ^ 22) (hd : bit e.f.md 0 = false)
    (hr : sendRelease e e.s (bit e.f.md 1) (scopeTo e.eid e.a0) = .ok r) :
    amEff e = .ok (e.told e.a0 1 .none (.am e.b0 (quad e) false) r) := by
  rw [amEff, thread_of_act hon, bind_of_ok (target_ok hdst)]
  exact (if_neg (ne_true_of_eq_false hd)).trans (sendMsg_tells hj hr)

theorem amEff_deposits (hon : e.on) (hj : e.t.joins = []) (hdst : e.a0 < 2 ^ 22) (hd : bit e.f.md 0 = true) (hal : e.b0 % 8 = 0)
    (hin : e.b0 + 31 ≤ 0x7FFFF) (hr : sendRelease e e.s (bit e.f.md 1) (scopeTo e.eid e.a0) = .ok r) :
    amEff e = .ok (e.told e.a0 1 .none (.deposit e.b0 (quad e) (e.f.imm.toNat % 65536)) r) := by
  have hok : (e.b0 % 8 == 0 && decide (e.b0 + 31 ≤ 0x7FFFF)) = true := by simp [hal, hin]
  rw [amEff, thread_of_act hon, bind_of_ok (target_ok hdst)]
  exact (if_pos hd).trans ((bind_of_ok (need_ok hok) _).trans (sendMsg_tells hj hr))

theorem amrEff_sends (hon : e.on) (hj : e.t.joins = []) (hdst : e.a0 < 2 ^ 22)
    (hr : sendRelease e e.s (bit e.f.md 1) (scopeTo e.eid e.a0) = .ok r) :
    amrEff e = .ok (e.told e.a0 2 e.od.target (.am e.b0 (quad e) true) r) := by
  rw [amrEff, thread_of_act hon, bind_of_ok (target_ok hdst), sendMsg_tells hj hr]

theorem mbsendEff_asks (hon : e.on) (hj : e.t.joins = []) (hdst : e.a0 < 2 ^ 22)
    (hr : sendRelease e e.s (bit e.f.md 1) (scopeTo e.eid e.a0) = .ok r) :
    mbsendEff e = .ok (e.asked e.a0 2 (.mbox (e.f.imm.toNat % 4) e.b0 (bit e.f.md 0 || decide (16 ≤ e.slot))) r) := by
  rw [mbsendEff, thread_of_act hon, bind_of_ok (target_ok hdst), bind_of_ok (noJoin_ok hj), request_asks hr]

end Send

/-! ## `hend` (R326) -/

/-- The state in which a handler's slot is free. -/
def slotFreed (e : Env) : State :=
  tryFreeze ((orphan e.s e.eid e.slot).modCore e.eid fun c => { c with threads := Keyed.del c.threads e.slot }) e.eid

/-- The reply of a handler of an `amr`. -/
def handlerReply (e : Env) (r : ReplyTo) : State :=
  sendPacket (slotFreed e) { (default : Packet) with
    asid := e.asid, src := e.eid, dst := r.eid, slot := r.slot, pend := r.pend, cls := 6
    body := .amrReply (if e.f.md = 1 then e.a0 else 0), ipc := r.ipc, word := r.word }

theorem hendEff_frees {e : Env} (hon : e.on) (hl : e.t.allLanded = true) (hd : e.t.deferred = [])
    (hw : ownWrites e.s0 e.eid e.slot 15 0 = []) :
    hendEff e = .ok (match e.t.replyTo with | none => slotFreed e | some r => handlerReply e r) := by
  have hdone : ¬ ¬ (ownWrites e.s0 e.eid e.slot 15 0).isEmpty = true := not_not_intro (List.isEmpty_iff.mpr hw)
  rw [hendEff, thread_of_act hon, bind_of_ok (settled_ok hl), bind_of_ok (deferredFirst_ok hd)]
  refine (if_neg hdone).trans ?_
  cases e.t.replyTo <;> exact congrArg Except.ok rfl

/-- Settles O33: each send after its checks, `hend` by whether its message wants a reply. -/
theorem messagesAreSent : Obligations.MessagesAreSent := by
  unfold Obligations.MessagesAreSent
  intro f
  refine ⟨?am, ?amD, ?amr, ?mbsend, ?hend⟩
  case am =>
    refine endsBy_of_form amEff (fun _ => rfl) fun hform e r hf hp hr => ?_
    subst hf
    obtain ⟨hon, hj, hdst⟩ := hp
    exact amEff_sends hon hj hdst (deposit_of_form hform) hr
  case amD =>
    refine endsBy_of_form amEff (fun _ => rfl) fun hform e r hf hp hr => ?_
    subst hf
    obtain ⟨⟨hon, hj, hdst⟩, hal, hin⟩ := hp
    exact amEff_deposits hon hj hdst (deposit_of_form hform) hal hin hr
  case amr =>
    refine endsBy_of amrEff (fun _ => rfl) fun e r hf hp hr => ?_
    subst hf
    obtain ⟨hon, hj, hdst⟩ := hp
    exact amrEff_sends hon hj hdst hr
  case mbsend =>
    refine endsBy_of mbsendEff (fun _ => rfl) fun e r hf hp hr => ?_
    subst hf
    obtain ⟨hon, hj, hdst⟩ := hp
    exact mbsendEff_asks hon hj hdst hr
  case hend =>
    refine ends_of hendEff (fun _ => rfl) fun e hf hp => ?_
    subst hf
    obtain ⟨hon, _, hl, hd, hw⟩ := hp
    refine (hendEff_frees hon hl hd hw).trans (congrArg Except.ok ?_)
    cases e.t.replyTo <;> rfl

end Sys2Proof.Proofs.Messages

/-! SUPPORT. Messages, handlers and mailboxes at the target core (R92, R317 to R320, R324 to R331). -/

namespace Sys2Proof.Proofs.MessageArrivals

open Sys2Proof.Machine
open Sys2Proof.Proofs.ThreadEvents (event_next)
open Sys2Proof.Proofs.RecordOperations (decrementApply_applies applyPkt_decr applyDecr_absent)

variable {s : State} {p : Packet}

/-! ## Active messages (R318, R320, R323) -/

theorem activeMessageArrival_next (hp : readyPkt? s = some p) :
    exec .activeMessageArrival s = .next (activeMessageArrives s p) := by
  show execActiveMessageArrival s = _
  simp only [execActiveMessageArrival, event, hp]

section Active

variable {addr : Nat} {args : List Nat} {b : Bool}

theorem activeMessage_refused {r : Nat} (hb : p.body = .am addr args b) (hr : refusalOf s p = some r) :
    activeMessageArrives s p = answer s p (.refuse r) := by
  simp only [activeMessageArrives, hb, hr]

theorem activeMessage_noHandler (hb : p.body = .am addr args b) (hr : refusalOf s p = none)
    (hh : handlerOk s (eidDev p.dst) p.asid addr = false) : activeMessageArrives s p = answer s p (.refuse 3) := by
  simp only [activeMessageArrives, hb, hr, hh, Bool.false_eq_true, not_false_eq_true, if_true]

theorem activeMessage_queued (hb : p.body = .am addr args b) (hr : refusalOf s p = none)
    (hh : handlerOk s (eidDev p.dst) p.asid addr = true) (hroom : (s.core p.dst).handlerQ.length < 64) :
    activeMessageArrives s p =
      let r : Option ReplyTo :=
        if b then some { eid := p.src, slot := p.slot, pend := p.pend, ipc := p.ipc, word := p.word } else none
      answer (s.setCore p.dst { s.core p.dst with handlerQ := (s.core p.dst).handlerQ ++ [.am addr args r] }) p .quiet := by
  simp only [activeMessageArrives, hb, hr, hh, not_true_eq_false, if_false]
  exact if_neg (Nat.not_le.mpr hroom)

end Active

/-! ## Deposits (R318, R324) -/

theorem depositArrival_next (hp : readyPkt? s = some p) : exec .depositArrival s = .next (depositArrives s p) := by
  show execDepositArrival s = _
  simp only [execDepositArrival, event, hp]

section Deposit

variable {off tag : Nat} {args : List Nat}

/-- The state with the first word of a deposit stored, and the deposit that is left. -/
def stored (s : State) (p : Packet) (off : Nat) (args : List Nat) : State := putNum s (lmKey p.dst off) 8 (args.headD 0)
def depositLeft (p : Packet) (off tag : Nat) (args : List Nat) : Packet := { p with body := .deposit (off + 8) (args.drop 1) tag }

theorem depositWord_last (h : args.length ≤ 1) :
    depositWord s p off args tag = answer (countTag (stored s p off args) p.dst tag 32) p .quiet := if_pos h

theorem depositWord_goesOn (h : 1 < args.length) :
    depositWord s p off args tag = (stored s p off args).setPkt (depositLeft p off tag args) := if_neg (Nat.not_le.mpr h)

/-- After its first store a deposit goes on without checks. -/
theorem deposit_continues (hb : p.body = .deposit off args tag) (h : args.length < 4) :
    depositArrives s p = depositWord s p off args tag := by
  simp only [depositArrives, hb, h, if_true]

theorem deposit_refused {r : Nat} (hb : p.body = .deposit off args tag) (h : 4 ≤ args.length) (hr : refusalOf s p = some r) :
    depositArrives s p = answer s p (.refuse r) := by
  simp only [depositArrives, hb, if_neg (Nat.not_lt.mpr h), hr]

theorem deposit_outside (hb : p.body = .deposit off args tag) (h : 4 ≤ args.length) (hr : refusalOf s p = none)
    (hno : ¬ ((s.core p.dst).lmOk off 32 = true ∧ s.inHeader p.dst off 32 = false)) :
    depositArrives s p = answer s p (.refuse 4) := by
  have hbad : ¬ (s.core p.dst).lmOk off 32 = true ∨ s.inHeader p.dst off 32 = true := by
    rwa [Classical.not_and_iff_not_or_not, Bool.not_eq_false] at hno
  simp only [depositArrives, hb, if_neg (Nat.not_lt.mpr h), hr, if_pos hbad]

theorem deposit_starts (hb : p.body = .deposit off args tag) (h : 4 ≤ args.length) (hr : refusalOf s p = none)
    (hlm : (s.core p.dst).lmOk off 32 = true) (hhdr : s.inHeader p.dst off 32 = false)
    (hfull : emptyGran s ((List.range 32).map (lmKey p.dst off + ·)) = none) :
    depositArrives s p = depositWord s p off args tag := by
  have hok : ¬ (¬ (s.core p.dst).lmOk off 32 = true ∨ s.inHeader p.dst off 32 = true) := by simp [hlm, hhdr]
  simp only [depositArrives, hb, if_neg (Nat.not_lt.mpr h), hr, if_neg hok, hfull]

end Deposit

/-! ## Replies and refusals (R319, R326) -/

theorem amrReply_lands {v : Nat} (hp : readyPkt? s = some p) (hb : p.body = .amrReply v) :
    exec .amrReply s = .next (reply (s.dropPkt p.id) p.dst p.slot p.pend [(0, fitPend s p.dst p.slot p.pend v)]) := by
  show execAmrReply s = _
  simp only [execAmrReply, event, hp, amrReplyArrives, hb]

theorem refusal_lands {r ipc : Nat} (hp : readyPkt? s = some p) (hb : p.body = .refusal r ipc) :
    exec .messageRefused s = .next (takeRefusal (s.dropPkt p.id) p.dst p.slot p.pend r ipc p.word p.src) := by
  show execMessageRefused s = _
  simp only [execMessageRefused, event, hp, refusalArrives, hb]

/-! ## Handlers (R92, R320) -/

theorem handlerStart_starts {eid addr slot : Nat} {args : List Nat} {r : Option ReplyTo} {rest : List HMsg} (hw : s.who = [eid])
    (hq : (s.core eid).handlerQ = .am addr args r :: rest) (hslot : freeHandler (s.core eid) = some slot)
    (hf : (s.core eid).frozen = false) (hfz : (s.core eid).freezing = none) :
    handlerStart s = startThread
      ((acquire s eid slot 4).modCore eid fun c => { c with handlerQ := rest, startNo := c.startNo + 1 }) eid slot
      { newThread addr 64 [] 0 0xFFFFFFFF (args.map (BitVec.ofNat 64)) with
        hslot := true, startNo := (s.core eid).startNo, replyTo := r } := by
  have hgo : ¬ ((s.core eid).frozen = true ∨ (s.core eid).freezing.isSome = true) := by simp [hf, hfz]
  simp only [handlerStart, hw, hq, hslot]
  exact if_neg hgo

/-! ## Mailboxes (R328 to R331) -/

section Mailbox

variable {k v : Nat} {nb : Bool}

theorem mailboxArrival_next (hp : readyPkt? s = some p) (ht : boxTurn s p = true) :
    exec .mailboxEntryArrival s = .next (mailboxArrives s p) := by
  show execMailboxEntryArrival s = _
  simp only [execMailboxEntryArrival, event, hp, ht, if_true]

/-- The place of an entry was reserved and its 512 cycles have passed. -/
def Lapsed (s : State) (p : Packet) : Prop :=
  ((s.core p.dst).mbResv.any fun r => r.pkt == p.id && decide (r.until_ ≤ s.cycle p.dst)) = true

theorem mailbox_lapses (h : Lapsed s p) : mailboxArrives s p = lapseDue s p.dst := if_pos h

/-- The state in which an entry is looked at, its core there, and the state that takes it. -/
def BoxHere (s : State) (p : Packet) : Prop :=
  (lapseDue s p.dst).hasCore p.dst = true ∧ ((lapseDue s p.dst).core p.dst).ctx = some p.asid

theorem mailbox_notHere (hl : ¬ Lapsed s p) (hb : p.body = .mbox k v nb)
    (h : (lapseDue s p.dst).hasCore p.dst = false ∨ ((lapseDue s p.dst).core p.dst).ctx ≠ some p.asid) :
    mailboxArrives s p = answerWord (lapseDue s p.dst) p (resWord stSTATE 0) := by
  have hno : ¬ (lapseDue s p.dst).hasCore p.dst = true ∨ ((lapseDue s p.dst).core p.dst).ctx ≠ some p.asid := by
    rwa [Bool.not_eq_true]
  refine (if_neg hl).trans ?_
  simp only [hb]
  exact if_pos hno

theorem mailbox_here (hl : ¬ Lapsed s p) (hb : p.body = .mbox k v nb) (h : BoxHere s p) :
    mailboxArrives s p =
      let t := lapseDue s p.dst
      let c := t.core p.dst
      if mbRoom c k p.id then
        answerWord (t.setCore p.dst { c with
          mboxes := c.mboxes.set k (c.mboxes.getD k [] ++ [BitVec.ofNat 64 v])
          mbAt := (t.cycle p.dst, k)
          mbResv := c.mbResv.filter (·.pkt != p.id) }) p (resWord stOK 0)
      else if p.tries + 1 < 17 then refuseFull t { p with tries := p.tries + 1 }
      else if nb then answerWord t p (resWord stFULL 0)
      else if recordedAt c k < 16 then
        (t.setPkt { p with state := .recorded, tries := p.tries + 1 }).setCore p.dst
          { c with mbRec := c.mbRec.set k (c.mbRec.getD k [] ++ [p.id]) }
      else refuseFull t { p with tries := p.tries + 1 } := by
  obtain ⟨hcore, hctx⟩ := h
  have hok : ¬ (¬ (lapseDue s p.dst).hasCore p.dst = true ∨ ((lapseDue s p.dst).core p.dst).ctx ≠ some p.asid) := by
    simp [hcore, hctx]
  refine (if_neg hl).trans ?_
  simp only [hb]
  exact if_neg hok

/-- A refusal as full, told at once or on its way back. -/
theorem refuseFull_eq (t : State) (q : Packet) : refuseFull t q =
    t.setPkt (if q.crosses = true then q.withReply .full
      else { q with state := .refused, due := t.cycle q.src + (if q.tries < 17 then 64 else 256) }) := by
  unfold refuseFull
  split <;> rfl

/-- A refused entry goes again once its time has come: by `spent` within its budget or past it. -/
theorem resendMbox_renews {spent : Bool} {id : Nat} (hw : s.who = [id]) (hp : s.pkt? id = some p) (hb : p.body = .mbox k v nb)
    (hst : p.state = .refused) (hdue : p.due ≤ s.cycle p.src) (ht : decide (17 ≤ p.tries) = spent) :
    resendMbox spent s = renewPkt s p.id := by
  have hbox : p.body.box.isSome = true := by rw [hb]; rfl
  simp only [resendMbox, hw, hp]
  exact if_pos ⟨hst, hbox, ht, hdue⟩

theorem reservationExpires_lapses {eid id : Nat} {r : MbResv} (hw : s.who = [eid, id])
    (hr : (s.core eid).mbResv.find? (·.pkt == id) = some r) (hdue : r.until_ ≤ s.cycle eid) :
    reservationExpires s = lapse s eid r ∧ r.pkt = id := by
  refine ⟨?_, by simpa using List.find?_some hr⟩
  simp only [reservationExpires, hw, hr]
  exact if_neg (Nat.not_lt.mpr hdue)

end Mailbox

/-- Settles O35: each arrival by the first check that it fails, or by the place that is there for it. -/
theorem messagesAndHandlersArrive : Obligations.MessagesAndHandlersArrive := by
  unfold Obligations.MessagesAndHandlersArrive
  refine ⟨fun s p hp => ?packets, ?handler, ?mailbox, ?resend, ?expiry⟩
  case packets =>
    intro c
    refine ⟨fun r hr => ⟨?amRefused, ?depRefused⟩, fun addr args b hb hr => ⟨fun hh => ?noHandler, fun hh hroom => ?queued⟩, ?deposit,
      fun v hb => amrReply_lands hp hb, fun r ipc hb => refusal_lands hp hb, ?stray⟩
    case amRefused =>
      rintro ⟨addr, args, b, hb⟩
      rw [activeMessageArrival_next hp, activeMessage_refused hb hr]
    case depRefused =>
      rintro ⟨off, args, tag, hb, hlen⟩
      rw [depositArrival_next hp, deposit_refused hb hlen hr]
    case noHandler => rw [activeMessageArrival_next hp, activeMessage_noHandler hb hr hh]
    case queued =>
      intro r
      rw [activeMessageArrival_next hp]
      exact congrArg Host.Outcome.next (activeMessage_queued hb hr hh hroom)
    case deposit =>
      intro off args tag hb ks st goesOn
      refine ⟨fun hlen hr hno => ?outside, fun hlen hr hlm hhdr hfull => ?starts, fun hlen => ?goesOn, fun hlen => ?last⟩
      all_goals rw [depositArrival_next hp]
      case outside => rw [deposit_outside hb hlen hr hno]
      case starts =>
        rw [deposit_starts hb hlen hr hlm hhdr hfull]
        exact congrArg Host.Outcome.next (depositWord_goesOn (by omega))
      case goesOn =>
        rw [deposit_continues hb (by omega)]
        exact congrArg Host.Outcome.next (depositWord_goesOn (by omega))
      case last =>
        rw [deposit_continues hb (by omega)]
        exact congrArg Host.Outcome.next (depositWord_last (Nat.le_of_eq hlen))
    case stray =>
      intro h n mask q i hb hr
      refine ⟨_, rfl, event_next ((decrementApply_applies hp hb).trans ?_)⟩
      rw [← applyDecr_absent (n := n) (mask := mask) hr, ← applyPkt_decr hb]
      rfl
  case handler =>
    exact fun s eid addr slot args r rest hw hq hslot hf hfz => event_next (handlerStart_starts hw hq hslot hf hfz)
  case mailbox =>
    intro s p k v nb hp hb ht lapsed t c full
    have hfull : ∀ q, refuseFull t q = full q := refuseFull_eq t
    refine ⟨fun hl => ?lapses, fun hl hno => ?notHere, fun hl hcore hctx hroom => ?taken, fun hl hcore hctx hroom => ?_⟩
    case lapses => rw [mailboxArrival_next hp ht, mailbox_lapses hl]
    case notHere => rw [mailboxArrival_next hp ht, mailbox_notHere hl hb hno]
    case taken =>
      rw [mailboxArrival_next hp ht, mailbox_here hl hb ⟨hcore, hctx⟩]
      exact congrArg Host.Outcome.next (if_pos hroom)
    have hhere := mailbox_here hl hb ⟨hcore, hctx⟩
    have hnone : ¬ mbRoom c k p.id = true := ne_true_of_eq_false hroom
    refine ⟨fun hn => ?budget, fun hn hnb => ?answered, fun hn hnb hrec => ?recordFull, fun hn hnb hrec => ?recorded⟩
    all_goals
      rw [mailboxArrival_next hp ht, hhere]
      refine congrArg Host.Outcome.next ((if_neg hnone).trans ?_)
    case budget => exact (if_pos (by omega)).trans (hfull _)
    case answered => exact (if_neg (by omega)).trans (if_pos hnb)
    case recordFull =>
      exact (if_neg (by omega)).trans ((if_neg (ne_true_of_eq_false hnb)).trans ((if_neg (Nat.not_lt.mpr hrec)).trans (hfull _)))
    case recorded => exact (if_neg (by omega)).trans ((if_neg (ne_true_of_eq_false hnb)).trans (if_pos hrec))
  case resend =>
    intro s id p k v nb hw hp hb hst hdue
    exact ⟨fun ht => event_next (resendMbox_renews hw hp hb hst hdue (decide_eq_false (Nat.not_le.mpr ht))),
      fun ht => event_next (resendMbox_renews hw hp hb hst hdue (decide_eq_true ht))⟩
  case expiry =>
    intro s eid id r hw hr hdue
    obtain ⟨hlapse, rfl⟩ := reservationExpires_lapses hw hr hdue
    exact event_next hlapse

end Sys2Proof.Proofs.MessageArrivals

/-! SUPPORT. The queue instructions (R334 to R336, R342): each sends its operation to the Yard at the queue's home. -/

namespace Sys2Proof.Proofs.QueueInstructions

open Sys2Proof.Machine
open Sys2Proof.Proofs.BarrierInstructions (bind_of_ok)
open Sys2Proof.Proofs.GlobalMemory (ok_of_bind)
open Sys2Proof.Proofs.ThreadInstructions (request_asks)

/-! ## Operations on a queue (R335) -/

/-- The pending result of an operation on a queue, a pop's with its acquire to come, and the state that holds it. -/
def queuePend (e : Env) (acq : Bool) (s : State) : Nat × State :=
  let q := (e.upd s).pendL (if acq then (Env.wide e.od 2).target else e.od.target) 1
  (q.1, q.2.modThr e.eid e.slot fun t => { t with pend := t.pend.map fun x => if x.id = q.1 then { x with acq := acq } else x })

theorem queueReq_sends {e : Env} {nr acq : Bool} {dev : Nat} {body : Body} {r : State × List Nat} (hj : e.t.joins = [])
    (hr : sendRelease e e.s nr (scopeYard e.eid dev) = .ok r) :
    queueReq e nr acq dev body =
      .ok (e.send (queuePend e acq r.1).2 (yardUnit dev) 4 r.2 (queuePend e acq r.1).1 body) := by
  rw [queueReq, bind_of_ok (noJoin_ok hj), hr]
  rfl

/-- A pop releases nothing. -/
theorem pop_sends {e : Env} {dev : Nat} {body : Body} (hj : e.t.joins = []) :
    queueReq e true true dev body =
      .ok (e.send (queuePend e true e.s).2 (yardUnit dev) 4 [] (queuePend e true e.s).1 body) :=
  queueReq_sends (r := (e.s, [])) hj rfl

/-! ## `qmk` (R335) -/

/-- The operands of `qmk`: a line, and fields in range. -/
structure QmkOperands (e : Env) : Prop where
  aligned : addrOf e.a0 % 64 = 0
  low : bits e.b0 7 1 = 0
  mid : bits e.b0 15 13 = 0
  high : bits e.b0 63 29 = 0
  size : bits e.b0 12 8 ≤ 20

/-- The place at key `k` can hold the queue: this pod's DRAM, within one page. -/
def QmkFits (e : Env) (k : Nat) : Prop :=
  keyIsHost k = false ∧ keyIsLm k = false ∧ e.s0.hasDev (k / 2 ^ 39) = true ∧
    addrOf e.a0 + 64 + 8 * 2 ^ bits e.b0 12 8 ≤ (pageSpan e (addrOf e.a0)).2

theorem qmkEff_checked {e : Env} {k : Nat} {ks : List Nat} {c : Bool} (hon : e.on) (h : QmkOperands e)
    (hx : xlThread e 255 (addrOf e.a0) 1 true = .ok (k :: ks, c)) :
    qmkEff e =
      if keyIsHost k = true ∨ keyIsLm k = true ∨ ¬ e.s0.hasDev (k / 2 ^ 39) = true ∨
          ¬ decide (addrOf e.a0 + 64 + 8 * 2 ^ bits e.b0 12 8 ≤ (pageSpan e (addrOf e.a0)).2) = true then
        .ok (e.doneL [(0, fitRaw e.od.w (resWord stSTATE 0))] 0)
      else e.noJoin >>= fun _ => e.request true 0 (yardUnit (k / 2 ^ 39)) 4 (.taskOp 11 [k % 2 ^ 39, e.b0]) := by
  have hok : (addrOf e.a0 % 64 == 0 && bits e.b0 7 1 == 0 && bits e.b0 15 13 == 0 && bits e.b0 63 29 == 0 &&
      decide (bits e.b0 12 8 ≤ 20)) = true := by
    simp [h.aligned, h.low, h.mid, h.high, h.size]
  rw [qmkEff, thread_of_act hon]
  exact (bind_of_ok (need_ok hok) _).trans (bind_of_ok hx _)

theorem qmkEff_asks {e : Env} {k : Nat} {ks : List Nat} {c : Bool} (hon : e.on) (hj : e.t.joins = []) (h : QmkOperands e)
    (hx : xlThread e 255 (addrOf e.a0) 1 true = .ok (k :: ks, c)) (hfits : QmkFits e k) :
    qmkEff e = .ok (e.asked (yardUnit (k / 2 ^ 39)) 4 (.taskOp 11 [k % 2 ^ 39, e.b0]) (e.s, [])) := by
  obtain ⟨hhost, hlm, hdev, hpage⟩ := hfits
  rw [qmkEff_checked hon h hx, if_neg (by rw [hhost, hlm, hdev, decide_eq_true hpage]; decide), bind_of_ok (noJoin_ok hj)]
  exact request_asks (r := (e.s, [])) rfl

theorem qmkEff_refuses {e : Env} {k : Nat} {ks : List Nat} {c : Bool} (hon : e.on) (h : QmkOperands e)
    (hx : xlThread e 255 (addrOf e.a0) 1 true = .ok (k :: ks, c)) (hfits : ¬ QmkFits e k) :
    qmkEff e = .ok (e.doneL [(0, fitRaw e.od.w (resWord stSTATE 0))] 0) := by
  rw [qmkEff_checked hon h hx, if_pos]
  unfold QmkFits at hfits
  rw [decide_eq_true_eq]
  simpa only [Classical.not_and_iff_not_or_not, Bool.not_eq_false] using hfits

/-- Settles O36: the operation goes to the Yard once its queue's home is found. -/
theorem queueInstructions : Obligations.QueueInstructions := by
  unfold Obligations.QueueInstructions
  intro f
  refine ⟨?push, ?pop, ?popW, fun k ks c => ⟨?qmk, ?qmkState⟩, ?qmkFree⟩
  case push =>
    refine endsBy_of pushEff (fun _ => rfl) fun e x hf hp hx => ?_
    subst hf
    obtain ⟨hon, hj⟩ := hp
    obtain ⟨⟨d, pa⟩, hh, hrest⟩ := ok_of_bind hx
    obtain ⟨r, hr, hx⟩ := ok_of_bind hrest
    cases hx
    rw [pushEff, thread_of_act hon, bind_of_ok hh]
    exact queueReq_sends hj hr
  case pop =>
    refine endsBy_of (fun e => e.thread fun _ => do
      let (d, pa) ← queueHome e
      queueReq e true true d (.pop pa none)) (fun _ => rfl) fun e x _ hp hx => ?_
    obtain ⟨⟨hon, hj⟩, _⟩ := hp
    rw [thread_of_act hon, bind_of_ok hx]
    exact pop_sends hj
  case popW =>
    refine endsBy_of popWEff (fun _ => rfl) fun e x _ hp hx => ?_
    obtain ⟨⟨hon, hj⟩, hlim⟩ := hp
    rw [popWEff, thread_of_act hon, bind_of_ok (need_ok (decide_eq_true hlim)), bind_of_ok hx]
    exact pop_sends hj
  case qmk =>
    refine ends_of qmkEff (fun _ => rfl) fun e _ hp => ?_
    obtain ⟨⟨⟨hon, hj⟩, hal, hlow, hmid, hhigh, hsize, hx⟩, hfits⟩ := hp
    exact qmkEff_asks hon hj ⟨hal, hlow, hmid, hhigh, hsize⟩ hx hfits
  case qmkState =>
    refine ends_of qmkEff (fun _ => rfl) fun e _ hp => ?_
    obtain ⟨⟨⟨hon, _⟩, hal, hlow, hmid, hhigh, hsize, hx⟩, hfits⟩ := hp
    exact qmkEff_refuses hon ⟨hal, hlow, hmid, hhigh, hsize⟩ hx hfits
  case qmkFree =>
    refine endsBy_of (fun e => e.thread fun _ => do
      let (d, pa) ← queueHome e
      e.noJoin
      e.request true 0 (yardUnit d) 4 (.taskOp 12 [pa])) (fun _ => rfl) fun e x _ hp hx => ?_
    obtain ⟨hon, hj⟩ := hp
    rw [thread_of_act hon, bind_of_ok hx]
    exact (bind_of_ok (noJoin_ok hj) _).trans (request_asks (r := (e.s, [])) rfl)

end Sys2Proof.Proofs.QueueInstructions

/-! SUPPORT. Pushes and pops at their Yard (R337 to R342). -/

namespace Sys2Proof.Proofs.QueueArrivals

open Sys2Proof.Machine
open Sys2Proof.Proofs.ThreadEvents (event_next)

variable {s : State} {p : Packet}

/-- The state in which an operation meets its queue: what was due has expired. -/
def expired (s : State) (p : Packet) : State := expireDue (eidDev p.dst) (s.dev (eidDev p.dst)).qops.length s

/-! ## Pushes -/

section Push

variable {pa v : Nat} {q : QEntry}

theorem pushArrival_next (hp : readyPkt? s = some p) : exec .pushArrival s = .next (pushArrives s p) := by
  show execPushArrival s = _
  simp only [execPushArrival, event, hp]

theorem push_noQueue (hb : p.body = .push pa v) (hq : queueAt (expired s p) (eidDev p.dst) pa = none) :
    pushArrives s p = answer (expired s p) p (.result (pushVal stSTATE)) := by
  unfold expired at hq
  simp only [pushArrives, hb, hq, expired]

theorem push_meets {o : QOp} (hb : p.body = .push pa v) (hq : queueAt (expired s p) (eidDev p.dst) pa = some q)
    (hs : q.nosplice = false) (ho : (waiting (expired s p) (eidDev p.dst) pa false).head? = some o) :
    pushArrives s p = answer (answerOp (expired s p) (eidDev p.dst) o.pkt (popVal stOK v)) p (.result (pushVal stOK)) := by
  unfold expired at hq ho
  simp only [pushArrives, hb, hq, hs, Bool.false_eq_true, if_false, ho, expired]

/-- What a push that meets no pop does is for its queue to say (R337). -/
theorem push_meets_none (h : q.nosplice = true ∨ waiting (expired s p) (eidDev p.dst) pa false = []) :
    (if q.nosplice = true then none else (waiting (expired s p) (eidDev p.dst) pa false).head?) = none := by
  obtain h | h := h
  · exact if_pos h
  · rw [h, List.head?_nil, ite_self]

theorem push_stored (hb : p.body = .push pa v) (hq : queueAt (expired s p) (eidDev p.dst) pa = some q)
    (h : q.nosplice = true ∨ waiting (expired s p) (eidDev p.dst) pa false = [] ∧
      (q.fifo = true ∧ 0 < q.shadow ∨ 8192 ≤ tableUsed (expired s p) (eidDev p.dst))) :
    pushArrives s p = toMemory (expired s p) (eidDev p.dst) pa p.id v := by
  have hnone := push_meets_none (h.imp id And.left)
  have hstore := h.imp id And.right
  unfold expired at hq hnone hstore
  simp only [pushArrives, hb, hq, hnone, expired]
  exact if_pos hstore

theorem push_waits (hb : p.body = .push pa v) (hq : queueAt (expired s p) (eidDev p.dst) pa = some q) (hs : q.nosplice = false)
    (hw : waiting (expired s p) (eidDev p.dst) pa false = []) (hfifo : q.fifo = false ∨ q.shadow = 0)
    (hroom : tableUsed (expired s p) (eidDev p.dst) < 8192) :
    pushArrives s p = waitOp (expired s p) (eidDev p.dst) p pa (some v) q.window := by
  have hnone := push_meets_none (q := q) (.inr hw)
  have hstays : ¬ (q.nosplice = true ∨ (q.fifo = true ∧ 0 < q.shadow) ∨ 8192 ≤ tableUsed (expired s p) (eidDev p.dst)) := by
    rintro (h | ⟨h1, h2⟩ | h)
    · exact absurd h (ne_true_of_eq_false hs)
    · exact hfifo.elim (fun hf => absurd h1 (ne_true_of_eq_false hf)) fun h0 => absurd h2 (h0 ▸ Nat.lt_irrefl 0)
    · exact absurd h (Nat.not_le.mpr hroom)
  unfold expired at hq hnone hstays
  simp only [pushArrives, hb, hq, hnone, expired]
  exact if_neg hstays

end Push

/-! ## Pops -/

section Pop

variable {pa : Nat} {lim : Option Nat} {q : QEntry}

theorem popArrival_next (hp : readyPkt? s = some p) : exec .popArrival s = .next (popArrives s p) := by
  show execPopArrival s = _
  simp only [execPopArrival, event, hp]

theorem pop_noQueue (hb : p.body = .pop pa lim) (hq : queueAt (expired s p) (eidDev p.dst) pa = none) :
    popArrives s p = answer (expired s p) p (.result (popVal stSTATE 0)) := by
  unfold expired at hq
  simp only [popArrives, hb, hq, expired]

theorem pop_meets {o : QOp} (hb : p.body = .pop pa lim) (hq : queueAt (expired s p) (eidDev p.dst) pa = some q)
    (ho : (waiting (expired s p) (eidDev p.dst) pa true).head? = some o) :
    popArrives s p =
      answer (answerOp (expired s p) (eidDev p.dst) o.pkt (pushVal stOK)) p (.result (popVal stOK (o.push.getD 0))) := by
  obtain ⟨rest, hw⟩ := List.head?_eq_some_iff.mp ho
  unfold expired at hq hw
  simp only [popArrives, hb, hq, hw, expired]

theorem pop_takes (hb : p.body = .pop pa lim) (hq : queueAt (expired s p) (eidDev p.dst) pa = some q)
    (hw : waiting (expired s p) (eidDev p.dst) pa true = []) (hs : 0 < q.shadow) :
    popArrives s p = fromMemory (expired s p) (eidDev p.dst) q p.id := by
  unfold expired at hq hw
  simp only [popArrives, hb, hq, hw, hs, if_true, expired]

/-- How long a pop waits: its own limit, or the queue's window. -/
def popWindow (q : QEntry) : Option Nat → Nat
  | some n => if n = 0 then q.window else n
  | none => q.window

theorem pop_waits (hb : p.body = .pop pa lim) (hq : queueAt (expired s p) (eidDev p.dst) pa = some q)
    (hw : waiting (expired s p) (eidDev p.dst) pa true = []) (hs : q.shadow = 0)
    (hroom : tableUsed (expired s p) (eidDev p.dst) < 8192) (hsplice : lim = none → q.nosplice = false) :
    popArrives s p = waitOp (expired s p) (eidDev p.dst) p pa none (popWindow q lim) := by
  unfold expired at hq hw hroom
  have hempty : ¬ 0 < q.shadow := by omega
  cases lim with
  | none => simp only [popArrives, hb, hq, hw, hempty, if_false, hroom, hsplice rfl, decide_true, Bool.false_eq_true,
      not_false_eq_true, and_self, if_true, expired, popWindow]
  | some n => simp only [popArrives, hb, hq, hw, hempty, if_false, hroom, decide_true, if_true, expired, popWindow]

theorem pop_empty (hb : p.body = .pop pa lim) (hq : queueAt (expired s p) (eidDev p.dst) pa = some q)
    (hw : waiting (expired s p) (eidDev p.dst) pa true = []) (hs : q.shadow = 0)
    (hno : 8192 ≤ tableUsed (expired s p) (eidDev p.dst) ∨ lim = none ∧ q.nosplice = true) :
    popArrives s p = answer (expired s p) p (.result (popVal stEMPTY 0)) := by
  unfold expired at hq hw hno
  have hempty : ¬ 0 < q.shadow := by omega
  simp only [popArrives, hb, hq, hw, hempty, if_false, expired]
  cases lim with
  | none =>
    refine if_neg ?_
    rw [decide_eq_true_eq, Classical.not_and_iff_not_or_not, Classical.not_not, Nat.not_lt]
    exact hno.symm.imp (·.2) id
  | some n => exact if_neg (by rw [decide_eq_true_eq, Nat.not_lt]; exact hno.resolve_right fun h => nomatch h.1)

end Pop

/-! ## Waits that expire, and a cancelled pop (R338, R342) -/

/-- The operation whose time has come first falls through, as a push or a pop. -/
theorem windowExpires_falls {dev id : Nat} {o : QOp} {push : Bool} (hw : s.who = [dev, id]) (ho : firstDue s dev = some o)
    (hid : o.pkt = id) (hpush : o.push.isSome = push) : windowExpires push s = fallThrough s dev o := by
  simp only [windowExpires, hw, ho]
  exact if_pos ⟨hid, hpush⟩

theorem popCancel_answers {n pend : Nat} {o : QOp} (hp : readyPkt? s = some p) (hb : p.body = .popCancel n pend)
    (hw : popUnderWay s p pend = false)
    (ho : ((s.dev (eidDev p.dst)).qops.find? fun o => o.push.isNone && o.src.eid == p.src && o.src.pend == pend) = some o) :
    exec .popWCancel s = .next (answer (answerOp s (eidDev p.dst) o.pkt (popVal stEMPTY 0)) { p with pend := 0 } .quiet) := by
  show execPopWCancel s = _
  simp only [execPopWCancel, event, hp, popCancelArrives, hb, hw, Bool.false_eq_true, if_false, ho]

/-- Settles O37: an operation by what waits and what is stored in its queue. -/
theorem queueOperationsArrive : Obligations.QueueOperationsArrive := by
  unfold Obligations.QueueOperationsArrive
  refine ⟨?push, ?pop, ?expiry, fun s p n pend o hp hb hw ho => popCancel_answers hp hb hw ho⟩
  case push =>
    intro s p pa v hp hb dev t
    refine ⟨fun hq => ?noQueue, fun q hq => ⟨fun o hs ho => ?meets, fun h => ?stored, fun hs hw hfifo hroom => ?waits⟩⟩
    all_goals rw [pushArrival_next hp]
    case noQueue => exact congrArg Host.Outcome.next (push_noQueue hb hq)
    case meets => exact congrArg Host.Outcome.next (push_meets hb hq hs ho)
    case stored => exact congrArg Host.Outcome.next (push_stored hb hq h)
    case waits => exact congrArg Host.Outcome.next (push_waits hb hq hs hw hfifo hroom)
  case pop =>
    intro s p pa lim hp hb dev t
    refine ⟨fun hq => ?noQueue, fun q hq => ⟨fun o ho => ?meets, fun hw hs => ?takes, fun hw hs hroom hsplice => ?waits,
      fun hw hs hno => ?empty⟩⟩
    all_goals rw [popArrival_next hp]
    case noQueue => exact congrArg Host.Outcome.next (pop_noQueue hb hq)
    case meets => exact congrArg Host.Outcome.next (pop_meets hb hq ho)
    case takes => exact congrArg Host.Outcome.next (pop_takes hb hq hw hs)
    case waits =>
      refine congrArg Host.Outcome.next ((pop_waits hb hq hw hs hroom hsplice).trans ?_)
      cases lim <;> rfl
    case empty => exact congrArg Host.Outcome.next (pop_empty hb hq hw hs hno)
  case expiry =>
    intro s dev id o hw ho hid
    refine ⟨fun v hv => event_next ((windowExpires_falls hw ho hid (by rw [hv]; rfl)).trans ?_),
      fun hv => event_next ((windowExpires_falls hw ho hid (by rw [hv]; rfl)).trans ?_)⟩
    all_goals simp only [fallThrough, hv]

end Sys2Proof.Proofs.QueueArrivals

/-! SUPPORT. `red`, `cbcast` and `cgath` (R362, R371, R372, R374): a call reads its block, finds its plan and its member, and is answered or
posted. -/

namespace Sys2Proof.Proofs.CollectiveCalls

open Sys2Proof.Machine
open Sys2Proof.Proofs.BarrierInstructions (bind_of_ok)

/-- The call that the words `w` of a block describe, for member `m` of a plan. -/
def blockCall (w : List Nat) (p : Plan) (m : Nat) (e : Env) : Call :=
  { (default : Call) with
    member := m, epoch := (p.member m).next, block := e.b0, src := bits (w.getD 0 0) 55 0, dst := bits (w.getD 1 0) 55 0
    len := bits (w.getD 2 0) 31 0, root := bits (w.getD 2 0) 57 48, deadline := w.getD 3 0, st := 1 }

/-- Member `m` brings data to a call of a kind: everyone but to a broadcast, to which only its root does. -/
def brings (kind : Nat) (w : List Nat) (m : Nat) : Bool := kind != 1 || some m == some (bits (w.getD 2 0) 57 48)

/-- The length of a call as its spans are checked. -/
def spanLen (w : List Nat) : Nat := min (bits (w.getD 2 0) 31 0) 65536

/-- A collective instruction has read its block and names a plan by a handle in range. -/
structure BlockRead (e : Env) (w : List Nat) : Prop where
  on : e.on
  low : bits e.a0 15 6 = 0
  high : e.a0 < 2 ^ 24
  words : ownWords e e.b0 64 32 = .ok w

/-- Its plan is there, its core is member `m`, and the spans of its operands are in order. -/
structure CallFound (e : Env) (kind : Nat) (w : List Nat) (k : Nat) (p : Plan) (m : Nat) : Prop where
  plan : planFind e.s0 e.asid e.a0 e.dev = some (k, p)
  member : (firstIdx p.members.length fun i => (p.member i).eid == e.eid) = some m
  span : callSpan e p.inBytes (brings kind w m) (bits (w.getD 0 0) 55 0) (spanLen w) (bits (w.getD 1 0) 55 0)
    (p.resultLen (spanLen w)) = .ok ()

theorem planHandle_ok {e : Env} {h : Nat} (hlow : bits h 15 6 = 0) (hhigh : h < 2 ^ 24) : e.planHandle h = .ok () := by
  refine need_ok ?_
  rw [hlow, Nat.div_eq_of_lt hhigh]
  rfl

/-- The last part of a call that its plan does not turn away. -/
def callPosts (e : Env) (kind : Nat) (w : List Nat) (k : Nat) (p : Plan) (m : Nat) : Except Stop State := do
  e.noJoin
  if 32 < e.c.rlocks.length + 1 + b2n (brings kind w m) then .error .block
  else
    match sendRelease e e.s (bit e.f.md 1) (p.members.foldl (fun a x => max a (scopeTo e.eid x.eid)) 2) with
    | .error x => .error x
    | .ok (s, ids) => .ok (e.answers (postCall e k p m (blockCall w p m e) (brings kind w m) s ids) stOK 0)

theorem callEff_found {e : Env} {kind k m : Nat} {w : List Nat} {p : Plan} (h : BlockRead e w) (hf : CallFound e kind w k p m) :
    callEff kind e =
      if callStatus p kind (some m) (blockCall w p m e) (bits (w.getD 2 0) 47 32) ≠ stOK then
        .ok (e.answers e.s (callStatus p kind (some m) (blockCall w p m e) (bits (w.getD 2 0) 47 32)) 0)
      else callPosts e kind w k p m := by
  rw [callEff, thread_of_act h.on, bind_of_ok h.words, bind_of_ok (planHandle_ok h.low h.high)]
  simp only [hf.plan, Option.map_some, Option.getD_some, hf.member, Option.elim_some]
  exact bind_of_ok hf.span _

theorem callEff_posts {e : Env} {kind k m : Nat} {w : List Nat} {p : Plan} {r : State × List Nat} (h : BlockRead e w)
    (hf : CallFound e kind w k p m)
    (hst : callStatus p kind (some m) (blockCall w p m e) (bits (w.getD 2 0) 47 32) = stOK) (hj : e.t.joins = [])
    (hroom : e.c.rlocks.length + 1 + b2n (brings kind w m) ≤ 32)
    (hr : sendRelease e e.s (bit e.f.md 1) (p.members.foldl (fun a x => max a (scopeTo e.eid x.eid)) 2) = .ok r) :
    callEff kind e = .ok (e.answers (postCall e k p m (blockCall w p m e) (brings kind w m) r.1 r.2) stOK 0) := by
  rw [callEff_found h hf, if_neg (not_not_intro hst), callPosts, bind_of_ok (noJoin_ok hj), if_neg (Nat.not_lt.mpr hroom), hr]

theorem callEff_stale {e : Env} {kind : Nat} {w : List Nat} (h : BlockRead e w)
    (hnone : planFind e.s0 e.asid e.a0 e.dev = none)
    (hspan : callSpan e 1 (kind != 1) (bits (w.getD 0 0) 55 0) (spanLen w) (bits (w.getD 1 0) 55 0)
      ((default : Plan).resultLen (spanLen w)) = .ok ()) :
    callEff kind e = .ok (e.answers e.s stSTALE 0) := by
  rw [← Bool.or_false (kind != 1)] at hspan
  rw [callEff, thread_of_act h.on, bind_of_ok h.words, bind_of_ok (planHandle_ok h.low h.high)]
  simp only [hnone, Option.map_none, Option.getD_none]
  exact bind_of_ok hspan _

/-- Settles O38: the status of a call that is found decides, and a handle without a plan is stale. -/
theorem collectiveCalls : Obligations.CollectiveCalls := by
  unfold Obligations.CollectiveCalls
  intro f kind i w hi d good call reads span found
  have hexec : ∀ s, exec i s = issue (formRed f) false false (callEff kind) f s := by
    obtain ⟨rfl, rfl⟩ | ⟨rfl, rfl⟩ | ⟨rfl, rfl⟩ := hi <;> exact fun _ => rfl
  refine ⟨fun k p m => ?posts, fun k p m st hst => ?turned, ?stale⟩
  case posts =>
    refine endsBy_of (callEff kind) hexec fun e r hf hp hr => ?_
    subst hf
    obtain ⟨⟨hon, hlow, hhigh, hw⟩, ⟨hplan, hmem, hspan⟩, hst, hj, hroom⟩ := hp
    exact callEff_posts ⟨hon, hlow, hhigh, hw⟩ ⟨hplan, hmem, hspan⟩ hst hj hroom hr
  case turned =>
    refine ends_of (callEff kind) hexec fun e hf hp => ?_
    obtain ⟨⟨hon, hlow, hhigh, hw⟩, ⟨hplan, hmem, hspan⟩, rfl⟩ := hp
    exact (callEff_found ⟨hon, hlow, hhigh, hw⟩ ⟨hplan, hmem, hspan⟩).trans (if_pos hst)
  case stale =>
    refine ends_of (callEff kind) hexec fun e hf hp => ?_
    obtain ⟨⟨hon, hlow, hhigh, hw⟩, hnone, hspan⟩ := hp
    exact callEff_stale ⟨hon, hlow, hhigh, hw⟩ hnone hspan

end Sys2Proof.Proofs.CollectiveCalls

/-! SUPPORT. The instructions about the results of calls and about plans (R356, R373, R375 to R377). -/

namespace Sys2Proof.Proofs.CallResults

open Sys2Proof.Machine
open Sys2Proof.Proofs.BarrierInstructions (bind_of_ok)
open Sys2Proof.Proofs.CollectiveCalls (planHandle_ok)

variable {e : Env} {w : List Nat}

/-! ## `redw` (R375) -/

/-- `redw` on a block that is read and has no faulted contribution: the block's state decides. -/
theorem redwEff_decides (hon : e.on) (hw : ownWords e e.a0 64 32 = .ok w) (hcalm : e.t.collFault.find? (·.1 == e.a0) = none) :
    redwEff e =
      let st := w.getD 8 0 % 16
      if st = 0 then .ok (e.answers e.s stSTATE 0)
      else if ¬ readsBound e.t then .error .block
      else if st = 1 then .error (.wait { what := .call e.a0 e.f.imm.toNat, f := e.f, issued := e.s0.cycle e.eid })
      else .ok (acquire (e.answers e.s stOK (st + bits (w.getD 9 0) 10 0 * 2 ^ 16)) e.eid e.slot 4) := by
  rw [redwEff, thread_of_act hon, bind_of_ok hw]
  simp only [hcalm]
  exact bind_of_ok rfl _

theorem redwEff_state (hon : e.on) (hw : ownWords e e.a0 64 32 = .ok w) (hcalm : e.t.collFault.find? (·.1 == e.a0) = none)
    (hst : w.getD 8 0 % 16 = 0) : redwEff e = .ok (e.answers e.s stSTATE 0) :=
  (redwEff_decides hon hw hcalm).trans (if_pos hst)

theorem redwEff_waits (hon : e.on) (hw : ownWords e e.a0 64 32 = .ok w) (hcalm : e.t.collFault.find? (·.1 == e.a0) = none)
    (hst : w.getD 8 0 % 16 = 1) (hb : readsBound e.t = true) :
    redwEff e = .error (.wait { what := .call e.a0 e.f.imm.toNat, f := e.f, issued := e.s0.cycle e.eid }) :=
  (redwEff_decides hon hw hcalm).trans ((if_neg (by omega)).trans ((if_neg (not_not_intro hb)).trans (if_pos hst)))

theorem redwEff_returns (hon : e.on) (hw : ownWords e e.a0 64 32 = .ok w) (hcalm : e.t.collFault.find? (·.1 == e.a0) = none)
    (hst : 2 ≤ w.getD 8 0 % 16) (hb : readsBound e.t = true) :
    redwEff e =
      .ok (acquire (e.answers e.s stOK (w.getD 8 0 % 16 + bits (w.getD 9 0) 10 0 * 2 ^ 16)) e.eid e.slot 4) :=
  (redwEff_decides hon hw hcalm).trans ((if_neg (by omega)).trans ((if_neg (not_not_intro hb)).trans (if_neg (by omega))))

/-! ## `redr` (R376) -/

/-- The type of `redr`, FP32 for a raw one. -/
def redrCode (f : Fields) : Nat := if f.etype.toNat = 0 then 6 else f.etype.toNat

/-- A lane of `redr`. -/
def redrAt (e : Env) (t : Ty) (l : Nat) : Nat × Flags :=
  redrLane e t (redrCode e.f) (bits e.b0 10 0) (bits e.b0 26 16) (e.t.seed.getD l 1).toNat (e.a l)

theorem redrEff_writes {t : Ty} (ht : Ty.ofCode (redrCode e.f) = some t) :
    redrEff e = .ok (stepSeeds e 1 (e.doneL (e.dlanes.map fun l => (l, (redrAt e t l).1))
      ((e.dlanes.map (redrAt e t)).foldl (fun fl x => fl ||| x.2) 0))) := by
  unfold redrCode at ht
  simp only [redrEff, ht, List.map_map, List.foldl_map, Function.comp_def, redrAt, redrCode]

/-! ## `redfix` (R377) -/

section Redfix

variable {k : Nat} {p : Plan} {c : Call}

/-- What `redfix` that ends without a correction leaves. -/
def fixEnds (e : Env) (st : Nat) : State := e.answers (dropFix e.s e.eid e.slot) st 0

theorem redfixEff_noCall (hon : e.on) (hw : ownWords e e.a0 64 32 = .ok w) (hnone : callAt e.s0 e.asid e.eid e.a0 = none) :
    redfixEff e = .ok (fixEnds e stSTATE) := by
  rw [redfixEff, thread_of_act hon, bind_of_ok hw]
  simp only [hnone]
  exact congrArg Except.ok rfl

/-- How many corrections `redfix` applies. -/
def fixCount (e : Env) (p : Plan) (c : Call) : Nat := if bit e.f.md 0 then (heldFor p c).length else 1

/-- Its last part, once a correction waits. -/
def fixApplies (e : Env) (k : Nat) (p : Plan) (c : Call) : Except Stop State :=
  if ¬ readsBound e.t then .error .block
  else if p.op = 7 then redfixUser e k p c (fixCount e p c)
  else if 32 ≤ e.c.rlocks.length then .error .block
  else
    match applyFixes k c.id (fixCount e p c) e.s0 with
    | (s, some (cause, va)) => fixTrap e s cause va
    | _ => .ok (e.answers (acquire (applyFixes k c.id (fixCount e p c) e.s).1 e.eid e.slot 4) stOK
        ((heldFor p c).length - fixCount e p c))

theorem redfixEff_found (hon : e.on) (hw : ownWords e e.a0 64 32 = .ok w)
    (hc : callAt e.s0 e.asid e.eid e.a0 = some (k, p, c)) :
    redfixEff e =
      if p.freed = true ∨ ¬ e.s0.holdsPlan p e.dev = true then .ok (fixEnds e stSTALE)
      else if p.kind = 1 ∨ p.mode ≠ 2 ∨ (c.st ≠ 2 ∧ c.st ≠ 3) then .ok (fixEnds e stSTATE)
      else if (heldFor p c).isEmpty then .ok (fixEnds e stEMPTY)
      else fixApplies e k p c := by
  rw [redfixEff, thread_of_act hon, bind_of_ok hw]
  simp only [hc]
  rfl

/-- The plan of the call is there. -/
def FixLive (e : Env) (p : Plan) : Prop := p.freed = false ∧ e.s0.holdsPlan p e.dev = true

/-- Corrections of the call can be applied: the plan collects them, and the call has its result. -/
def Fixable (e : Env) (p : Plan) (c : Call) : Prop := FixLive e p ∧ p.kind ≠ 1 ∧ p.mode = 2 ∧ (c.st = 2 ∨ c.st = 3)

theorem not_fixLive : ¬ FixLive e p ↔ p.freed = true ∨ ¬ e.s0.holdsPlan p e.dev = true := by
  rw [FixLive, Classical.not_and_iff_not_or_not, Bool.not_eq_false]

theorem not_fixable_of_live (hl : FixLive e p) :
    ¬ Fixable e p c ↔ p.kind = 1 ∨ p.mode ≠ 2 ∨ (c.st ≠ 2 ∧ c.st ≠ 3) := by
  rw [Fixable, Classical.not_and_iff_not_or_not, Classical.not_and_iff_not_or_not, Classical.not_and_iff_not_or_not, not_or, Classical.not_not,
    or_iff_right (not_not_intro hl)]

theorem redfixEff_stale (hon : e.on) (hw : ownWords e e.a0 64 32 = .ok w) (hc : callAt e.s0 e.asid e.eid e.a0 = some (k, p, c))
    (hl : ¬ FixLive e p) : redfixEff e = .ok (fixEnds e stSTALE) :=
  (redfixEff_found hon hw hc).trans (if_pos (not_fixLive.mp hl))

theorem redfixEff_state (hon : e.on) (hw : ownWords e e.a0 64 32 = .ok w) (hc : callAt e.s0 e.asid e.eid e.a0 = some (k, p, c))
    (hl : FixLive e p) (hf : ¬ Fixable e p c) : redfixEff e = .ok (fixEnds e stSTATE) :=
  (redfixEff_found hon hw hc).trans
    ((if_neg fun h => not_fixLive.mpr h hl).trans (if_pos ((not_fixable_of_live hl).mp hf)))

/-- `redfix` on a call whose corrections can be applied. -/
theorem redfixEff_fixable (hon : e.on) (hw : ownWords e e.a0 64 32 = .ok w)
    (hc : callAt e.s0 e.asid e.eid e.a0 = some (k, p, c)) (hf : Fixable e p c) :
    redfixEff e = if (heldFor p c).isEmpty then .ok (fixEnds e stEMPTY) else fixApplies e k p c :=
  (redfixEff_found hon hw hc).trans
    ((if_neg fun h => not_fixLive.mpr h hf.1).trans (if_neg fun h => (not_fixable_of_live hf.1).mpr h hf))

theorem fixApplies_applies {s' : State} (hop : p.op ≠ 7) (hb : readsBound e.t = true) (hroom : e.c.rlocks.length < 32)
    (hdone : applyFixes k c.id (fixCount e p c) e.s0 = (s', none)) :
    fixApplies e k p c = .ok (e.answers (acquire (applyFixes k c.id (fixCount e p c) e.s).1 e.eid e.slot 4) stOK
      ((heldFor p c).length - fixCount e p c)) := by
  rw [fixApplies, if_neg (not_not_intro hb), if_neg hop, if_neg (Nat.not_le.mpr hroom), hdone]

end Redfix

/-! ## `cplan` and `cplan.free` (R356, R373) -/

theorem cplanEff_invalid (hon : e.on) (hp : readPlan e (addrOf e.a0) = .ok none) :
    cplanEff e = .ok (e.answers (farDone e.s e.eid e.slot 0) stSTATE 0) := by
  rw [cplanEff, thread_of_act hon]
  simp only [hp]
  exact congrArg Except.ok rfl

/-- A plan that waits for its node devices to prepare, and the requests to them. -/
def planAsked (e : Env) (p : Plan) : State :=
  let x := (e.upd (farDone e.s e.eid e.slot 0)).pendL e.od.target 1
  p.devs.foldl (fun y d => e.send y (yardUnit d) 3 [] 0 (.planPrep x.2.nextId))
    { x.2.fresh.2 with plans := Keyed.put x.2.plans x.2.nextId { p with
        prep := p.devs, src := some { eid := e.eid, slot := e.slot, pend := x.1, ipc := e.pc, word := e.t.word } } }

theorem cplanEff_asks {p : Plan} (hon : e.on) (hp : readPlan e (addrOf e.a0) = .ok (some p)) (hj : e.t.joins = []) :
    cplanEff e = .ok (planAsked e p) := by
  rw [cplanEff, thread_of_act hon]
  simp only [hp]
  exact bind_of_ok (noJoin_ok hj) _

/-- A handle names a plan, on the thread's device or, when it does not hold it, anywhere in the pod. -/
def Names (e : Env) (k : Nat) (p : Plan) : Prop :=
  planFind e.s0 e.asid e.a0 e.dev = some (k, p) ∨
    planFind e.s0 e.asid e.a0 e.dev = none ∧ planAny e.s0 e.asid e.a0 = some (k, p)

theorem cplanFreeEff_named {k : Nat} {p : Plan} (hon : e.on) (hlow : bits e.a0 15 6 = 0) (hhigh : e.a0 < 2 ^ 24)
    (h : Names e k p) :
    cplanFreeEff e = if (p.calls.any (·.st == 1)) = true then .ok (e.answers e.s stSTATE 0)
      else .ok (e.answers (modPlan e.s k Plan.discard) stOK 0) := by
  rw [cplanFreeEff, thread_of_act hon, bind_of_ok (planHandle_ok hlow hhigh)]
  obtain h | ⟨hn, h⟩ := h
  · simp only [h]
    cases planAny e.s0 e.asid e.a0 <;> exact rfl
  · simp only [hn, h]
    exact rfl

theorem cplanFreeEff_stale (hon : e.on) (hlow : bits e.a0 15 6 = 0) (hhigh : e.a0 < 2 ^ 24)
    (hf : planFind e.s0 e.asid e.a0 e.dev = none) (ha : planAny e.s0 e.asid e.a0 = none) :
    cplanFreeEff e = .ok (e.answers e.s stSTALE 0) := by
  rw [cplanFreeEff, thread_of_act hon, bind_of_ok (planHandle_ok hlow hhigh)]
  simp only [hf, ha]
  exact congrArg Except.ok rfl

/-- Settles O39: each instruction by the state of its block, of its call or of its plan. -/
theorem callResults : Obligations.CallResults := by
  unfold Obligations.CallResults
  intro f w st block calm
  refine ⟨?redwState, ?redwWaits, ?redw, fun t ht => ?redr, ?fixNoCall, fun k p c => ⟨?fixStale, ?fixState, ?fixEmpty, fun s' => ?fix⟩,
    ?cplanBad, fun p => ?cplan, fun k p => ⟨?freeBusy, ?free⟩, ?freeStale⟩
  case redwState => exact ends_of redwEff (fun _ => rfl) fun e _ ⟨⟨hon, hw⟩, hcalm, hst⟩ => redwEff_state hon hw hcalm hst
  case redwWaits =>
    refine waits_of redwEff (fun _ => rfl) fun e hf hp => ?_
    subst hf
    obtain ⟨⟨hon, hw⟩, hcalm, hst, hb⟩ := hp
    exact redwEff_waits hon hw hcalm hst hb
  case redw => exact ends_of redwEff (fun _ => rfl) fun e _ ⟨⟨hon, hw⟩, hcalm, hst, hb⟩ => redwEff_returns hon hw hcalm hst hb
  case redr => exact ends_of redrEff (fun _ => rfl) fun e hf _ => by subst hf; exact redrEff_writes ht
  case fixNoCall => exact ends_of redfixEff (fun _ => rfl) fun e _ ⟨⟨hon, hw⟩, hnone⟩ => redfixEff_noCall hon hw hnone
  case fixStale => exact ends_of redfixEff (fun _ => rfl) fun e _ ⟨⟨⟨hon, hw⟩, hc⟩, hl⟩ => redfixEff_stale hon hw hc hl
  case fixState => exact ends_of redfixEff (fun _ => rfl) fun e _ ⟨⟨⟨hon, hw⟩, hc⟩, hl, hf⟩ => redfixEff_state hon hw hc hl hf
  case fixEmpty =>
    exact ends_of redfixEff (fun _ => rfl) fun e _ ⟨⟨⟨hon, hw⟩, hc⟩, hf, hnone⟩ =>
      (redfixEff_fixable hon hw hc hf).trans (if_pos (List.isEmpty_iff.mpr hnone))
  case fix =>
    refine ends_of redfixEff (fun _ => rfl) fun e hf hp => ?_
    subst hf
    obtain ⟨⟨⟨hon, hw⟩, hc⟩, hfix, hsome, hop, hb, hroom, hdone⟩ := hp
    exact (redfixEff_fixable hon hw hc hfix).trans
      ((if_neg (mt List.isEmpty_iff.mp hsome)).trans (fixApplies_applies hop hb hroom hdone))
  case cplanBad => exact ends_of cplanEff (fun _ => rfl) fun e _ ⟨hon, hp⟩ => cplanEff_invalid hon hp
  case cplan => exact ends_of cplanEff (fun _ => rfl) fun e _ ⟨hon, hp, hj⟩ => cplanEff_asks hon hp hj
  case freeBusy =>
    exact ends_of cplanFreeEff (fun _ => rfl) fun e _ ⟨⟨hon, hlow, hhigh, hn⟩, hbusy⟩ =>
      (cplanFreeEff_named hon hlow hhigh hn).trans (if_pos hbusy)
  case free =>
    exact ends_of cplanFreeEff (fun _ => rfl) fun e _ ⟨⟨hon, hlow, hhigh, hn⟩, hidle⟩ =>
      (cplanFreeEff_named hon hlow hhigh hn).trans (if_neg (ne_true_of_eq_false hidle))
  case freeStale =>
    exact ends_of cplanFreeEff (fun _ => rfl) fun e _ ⟨hon, hlow, hhigh, hf, ha⟩ => cplanFreeEff_stale hon hlow hhigh hf ha

end Sys2Proof.Proofs.CallResults

/-! SUPPORT. What follows a collective call (R358, R361, R363 to R370 and R375). -/

namespace Sys2Proof.Proofs.CollectiveSteps

open Sys2Proof.Machine
open Sys2Proof.Proofs.ThreadEvents (event_next)

variable {s : State} {k : Nat} {p : Plan} {pk : Packet}

/-- A condition that counts staging: a share that fits is not short. -/
theorem stagingShort_fits {dev n : Nat} (h : stagingUsed s dev + n ≤ 2 ^ 24) : ¬ stagingShort s dev n = true :=
  fun hs => absurd (of_decide_eq_true hs) (Nat.not_lt.mpr h)

theorem stagingShort_room {dev n : Nat} (h : n = 0 ∨ stagingUsed s dev + n ≤ 2 ^ 24) :
    ¬ (0 < n ∧ stagingShort s dev n = true) := by
  rintro ⟨hpos, hs⟩
  exact stagingShort_fits (h.resolve_left (by omega)) hs

/-- A call that ended for another reason than a late start takes no part any more. -/
theorem not_ended {c : Call} (h : c.st = 4 → c.abort = 4) : ¬ (c.st = 4 ∧ c.abort ≠ 4) := fun ⟨h4, hne⟩ => hne (h h4)

/-! ## Contributions and forwards (R363, R364) -/

section Arrivals

variable {id : Nat} {c : Call}

theorem contributionArrival_contrib (hp : readyPkt? s = some pk) (hb : pk.body = .contrib k id) :
    contributionArrival s = contribArrives s pk k id := by
  simp only [contributionArrival, hp, hb]

theorem contributionArrival_forward {node epoch : Nat} {r : Share} (hp : readyPkt? s = some pk)
    (hb : pk.body = .forward k node epoch r) : contributionArrival s = forwardArrives s pk k node epoch r := by
  simp only [contributionArrival, hp, hb]

theorem contribArrives_found (hk : Keyed.get? s.plans k = some p) (hc : p.calls.find? (·.id == id) = some c) :
    ((Keyed.get? s.plans k).bind fun p => (p.calls.find? (·.id == id)).map fun c => (p, c)) = some (p, c) := by
  simp only [hk, Option.bind_some, hc, Option.map_some]

theorem contribArrives_drops (hk : Keyed.get? s.plans k = some p) (hc : p.calls.find? (·.id == id) = some c)
    (h : s.nodeOpen p (p.member c.member).node = false ∨ c.st = 4 ∧ c.abort ≠ 4) :
    contribArrives s pk k id = (dropLock s pk.src c.id).dropPkt pk.id := by
  simp only [contribArrives, contribArrives_found hk hc]
  exact if_pos (h.imp_left ne_true_of_eq_false)

theorem contribArrives_places {bs : List Byte} (hk : Keyed.get? s.plans k = some p)
    (hc : p.calls.find? (·.id == id) = some c) (ho : s.nodeOpen p (p.member c.member).node = true)
    (hst : c.st = 4 → c.abort = 4)
    (hroom : stagingUsed s (eidDev pk.src) +
      (if p.kind = 0 then p.resultLen c.len else if p.kind ≠ 1 ∨ c.root = c.member then c.len else 0) ≤ 2 ^ 24)
    (hbs : engineAll s pk.src (unitSlot pk.id) s.nextId pk.asid false (c.src : Int)
      (if p.kind ≠ 1 ∨ c.root = c.member then c.len else 0) = .ok bs) :
    contribArrives s pk k id = admitAll (placeShare
        (answer (dropLock (farDone s pk.src (unitSlot pk.id) 0) pk.src c.id) pk .quiet) k
        (p.member c.member).node (p.member c.member).slot c.epoch
        { bitmap := if p.kind ≠ 1 ∨ c.root = c.member then [c.member] else [], len := c.len, root := c.root, deadline := c.deadline,
          elems := (piecesBy p.inBytes bs (bs.length / p.inBytes)).map p.elemOf }) k := by
  simp only [contribArrives, contribArrives_found hk hc, hbs]
  exact (if_neg (not_or_intro (not_not_intro ho) (not_ended hst))).trans (if_neg (stagingShort_fits hroom))

theorem forwardArrives_places {node epoch j : Nat} {r : Share} (hk : Keyed.get? s.plans k = some p)
    (hj : (p.node node).parent = some j) (ho : s.nodeOpen p j = true) (hg : p.nodeGone node = false)
    (hroom : stagingUsed s (p.node j).dev + p.shareLen r ≤ 2 ^ 24) :
    forwardArrives s pk k node epoch r = admitAll (placeShare (answer s pk .quiet) k j (p.node node).pslot epoch r) k := by
  simp only [forwardArrives, hk, hj]
  exact (if_neg (not_or_intro (not_not_intro ho) (ne_true_of_eq_false hg))).trans (if_neg (stagingShort_fits hroom))

/-- A prepare request is answered, its device is prepared, and the last one commits the plan. -/
theorem planPrepares_does (hp : readyPkt? s = some pk) (hb : pk.body = .planPrep k)
    (hk : Keyed.get? (answer s pk .quiet).plans k = some p) :
    planPrepares s =
      let s' := answer s pk .quiet
      let p' : Plan := { p with prep := p.prep.filter (· != eidDev pk.dst) }
      let t : State := { s' with plans := Keyed.put s'.plans k p' }
      if p'.prep.isEmpty = true ∧ p'.src.isSome = true then planCommit t k p' else t := by
  simp only [planPrepares, hp, hb, hk]

end Arrivals

/-! ## Epochs open and are forwarded (R364, R365) -/

theorem forwardTick_pokes {node epoch : Nat} (hw : s.who = [k, node, epoch]) :
    forwardTick s = admitAll (pokeNode s k node epoch) k := by
  simp only [forwardTick, hw]

theorem pokeNode_forwards {node epoch : Nat} {x : NEpoch} (hk : Keyed.get? s.plans k = some p)
    (hx : p.epochAt node epoch = some x) (hf : x.forwarded = false) (ho : s.nodeOpen p node = true)
    (hd : p.complete x = true ∨ p.due x (nodeTick s p node) = true) : pokeNode s k node epoch = forwardNode s k x := by
  simp only [pokeNode, hk, hx]
  exact if_pos ⟨ne_true_of_eq_false hf, ho, hd⟩

theorem pokeNode_forwarded {node epoch : Nat} {x : NEpoch} (hk : Keyed.get? s.plans k = some p)
    (hx : p.epochAt node epoch = some x) (hf : x.forwarded = true) : pokeNode s k node epoch = s := by
  simp only [pokeNode, hk, hx]
  exact if_neg fun h => h.1 hf

theorem epochOpen_learns {node epoch : Nat} (hk : Keyed.get? s.plans k = some p) (hw : s.who = [k, node, epoch])
    (h : s.nodeOpen p node = true ∧ (p.opened.any (·.1 == epoch)) = true ∧ (p.epochAt node epoch).isNone = true) :
    epochOpen s =
      let mine := (List.range p.nodes.length).filter fun i => (p.node i).dev == (p.node node).dev
      let maxd := p.nodes.foldl (fun m x => max m x.depth) 0
      let deepest := (List.range (maxd + 1)).flatMap fun d => mine.filter fun i => (p.node i).depth + d == maxd
      admitAll (deepest.foldl (fun s i => learn s k i epoch) s) k := by
  simp only [epochOpen, hw, hk]
  exact if_pos h

/-! ## User routines (R361) -/

section Routines

variable {node epoch n y : Nat} {j : Job}

theorem userRoutineRun_steps (hk : Keyed.get? s.plans k = some p) (hw : s.who = [k, node, epoch, n])
    (hj : p.jobs.find? (fun j => j.named node epoch n) = some j) : userRoutineRun s = stepJob s k p j := by
  simp only [userRoutineRun, hw, hk, Option.bind_some, hj, Option.map_some]

theorem stepJob_starts {slot : Nat} {v : Share} {rest : List (Nat × Share)} (hc : j.core = none)
    (hr : j.rest = (slot, v) :: rest) (hy : freeYard s (p.node j.node).dev = some y) :
    stepJob s k p j = startRoutine s k p j slot v y := by
  simp only [stepJob, hc, hr, hy]

/-- What a routine that has ended leaves: the job's share with what lies on the yard core. -/
def taken (s : State) (j : Job) (y : Nat) : Share :=
  { j.acc with
    bitmap := match j.rest with | (_, v) :: _ => j.acc.bitmap ++ v.bitmap | [] => j.acc.bitmap
    elems := ((List.range j.acc.len).map fun i => s.byte (lmKey y (0x10000 + i))).map fun b => .pat b.toNat }

theorem stepJob_takes (hc : j.core = some y) (ht : s.thr? y 0 = none) :
    stepJob s k p j =
      if j.rest.length ≤ 1 ∧ j.member.isNone = true then
        admitAll (sendUp (modPlan s k fun p => { p with jobs := p.jobs.filter fun x => x != j }) k j.node j.epoch (taken s j y)) k
      else modPlan s k fun p => { p with
        jobs := p.jobs.map fun x => if x = j then { j with acc := taken s j y, rest := j.rest.drop 1, core := none } else x } := by
  simp only [stepJob, hc, ht]
  rfl

variable {t : Thread} {i : TrapInfo}

theorem stepJob_aborts (hc : j.core = some y) (ht : s.thr? y 0 = some t) (hst : t.status = .trapped i) (hm : j.member = none) :
    stepJob s k p j = abortEpoch (modPlan (s.modCore y fun c => { c with threads := [] }) k
        fun p => { p with jobs := p.jobs.filter fun x => x != j }) k j.epoch 6 := by
  simp only [stepJob, hc, ht, hst, hm]

theorem stepJob_abortsCall {m : Nat} {c : Call} (hc : j.core = some y) (ht : s.thr? y 0 = some t) (hst : t.status = .trapped i)
    (hm : j.member = some m) (hcall : (p.calls.find? fun c => c.member == m && c.epoch == j.epoch) = some c) :
    stepJob s k p j =
      let u := abortEpoch (modPlan (s.modCore y fun c => { c with threads := [] }) k
        fun p => { p with jobs := p.jobs.filter fun x => x != j }) k j.epoch 6
      blkPut (modPlan (dropLock u (p.member m).eid j.lock) k fun p =>
        p.setCall { c with st := 4, abort := 6 }) (p.member m).eid c.block 64 8 (4 + 6 * 256) := by
  simp only [stepJob, hc, ht, hst, hm, hcall]

theorem routineWatchdog_traps {eid : Nat} (hw : s.who = [eid]) (ht : s.thr? eid 0 = some t) (hy : isYard eid = true)
    (hn : 65536 ≤ t.issued) (hst : t.status = .ready) :
    routineWatchdog s = takeTrap s eid 0 { code := 9, ipc := t.pc.toNat, rpc := t.pc.toNat, word := t.word } := by
  simp only [routineWatchdog, hw, ht]
  exact if_pos ⟨hy, hn, hst⟩

end Routines

/-! ## Results (R366, R367) -/

section Results

variable {i w : Nat} {r : RResult}

theorem resultDelivery_arrives (hw : s.who = [w]) (hp : readyBody? s = some (pk, .planResult k i r)) :
    resultDelivery s = resultArrives s pk k i r := by
  simp only [resultDelivery, hw, hp]

theorem resultArrives_closed (hk : Keyed.get? s.plans k = some p) (ho : s.nodeOpen p i = false) :
    resultArrives s pk k i r = answer s pk .quiet := by
  simp only [resultArrives, hk]
  exact if_pos (ne_true_of_eq_false ho)

theorem resultArrives_goesOn (hk : Keyed.get? s.plans k = some p) (ho : s.nodeOpen p i = true)
    (hroom : let n := (((p.awaiting i r.epoch).filter fun m => !p.posted m r.epoch).map fun _ => p.shareLen r.share).sum
      n = 0 ∨ stagingUsed s (eidDev pk.dst) + n ≤ 2 ^ 24) :
    resultArrives s pk k i r = sendDown (modPlan (answer s pk .quiet) k fun p' =>
        { p' with results := p'.results ++ (p.awaiting i r.epoch).map fun m => (m, r) }) p i fun j => .planResult k j r := by
  simp only [resultArrives, hk]
  exact (if_neg (not_not_intro ho)).trans (if_neg (stagingShort_room hroom))

variable {m epoch n : Nat} {c : Call}

theorem resultDelivery_delivers (hk : Keyed.get? s.plans k = some p) (hw : s.who = [k, m, epoch])
    (hr : p.results.find? (fun x => x.1 == m && x.2.epoch == epoch) = some (n, r)) (hf : p.freed = false)
    (hreach : p.reaches m = true ∨ p.cutOff.contains (p.node (p.member m).node).dev = true) :
    resultDelivery s = deliverResult s k p m r := by
  simp only [resultDelivery, hw, hk, hr]
  exact if_neg (not_or_intro (ne_true_of_eq_false hf) (not_not_intro hreach))

/-- A posted call whose core hosts its context and whose block is open. -/
structure Posted (s : State) (p : Plan) (m : Nat) (r : RResult) (c : Call) : Prop where
  call : p.calls.find? (fun c => c.member == m && c.epoch == r.epoch && c.st == 1) = some c
  hosts : (s.core (p.member m).eid).ctx = some p.asid
  opens : blkOpen s (p.member m).eid c.block = none

theorem deliverResult_aborts (h : Posted s p m r c) (ha : r.abort ≠ 0) :
    deliverResult s k p m r = putStatus s k p c r r.abort := by
  simp only [deliverResult, h.call, h.hosts, h.opens, if_true, if_pos ha]

theorem deliverResult_writes (h : Posted s p m r c) (ha : r.abort = 0) (hw : c.wrote = false) :
    deliverResult s k p m r = putStatus (putResult s p c r).1 k p c r (putResult s p c r).2 := by
  simp only [deliverResult, h.call, h.hosts, h.opens, if_true, if_neg (not_not_intro ha), if_neg (ne_true_of_eq_false hw)]

end Results

/-! ## Corrections (R363, R368) -/

section Corrections

variable {node epoch i w : Nat} {r : Share}

theorem shakeOutCommit_commits (hp : readyBody? s = some (pk, .shake k node epoch r)) (hg : p.nodeGone node = false)
    (ho : (answer s pk .quiet).nodeOpen p p.root = true) (hk : Keyed.get? (answer s pk .quiet).plans k = some p) :
    shakeOutCommit s =
      let t := modPlan (answer s pk .quiet) k fun p => { p with shakes := p.shakes ++ [(epoch, r)] }
      if p.sent epoch then sendShakes t k epoch else t := by
  simp only [shakeOutCommit, hp, hk]
  exact if_neg (not_or_intro (not_not_intro ho) (ne_true_of_eq_false hg))

theorem correctionArrival_arrives (hw : s.who = [w]) (hp : readyBody? s = some (pk, .planFix k i epoch r)) :
    correctionArrival s = fixArrives s pk k i epoch r := by
  simp only [correctionArrival, hw, hp]

theorem fixArrives_closed (hk : Keyed.get? s.plans k = some p) (ho : s.nodeOpen p i = false) :
    fixArrives s pk k i epoch r = answer s pk .quiet := by
  simp only [fixArrives, hk]
  exact if_pos (ne_true_of_eq_false ho)

theorem fixArrives_goesOn (hk : Keyed.get? s.plans k = some p) (ho : s.nodeOpen p i = true)
    (hroom : p.membersOf i = [] ∨ stagingUsed s (eidDev pk.dst) + (p.membersOf i).length * p.shareLen r ≤ 2 ^ 24) :
    fixArrives s pk k i epoch r = sendDown (modPlan (answer s pk .quiet) k fun p' =>
        { p' with fixes := p'.fixes ++ (p.membersOf i).map fun m => (m, epoch, r) }) p i fun j => .planFix k j epoch r := by
  have hfits : ¬ (p.membersOf i ≠ [] ∧ stagingShort s (eidDev pk.dst) ((p.membersOf i).length * p.shareLen r) = true) :=
    fun ⟨hne, hs⟩ => stagingShort_fits (hroom.resolve_left hne) hs
  simp only [fixArrives, hk]
  exact (if_neg (not_not_intro ho)).trans (if_neg hfits)

variable {m e : Nat} {c : Call}

theorem correctionArrival_settles (hk : Keyed.get? s.plans k = some p) (hw : s.who = [k, m])
    (hd : dueFix s p m = some (i, e, r, c)) : correctionArrival s = settleFix s k p m i e r c := by
  simp only [correctionArrival, hw, hk, Option.bind_some, hd, Option.map_some]

theorem settleFix_discards (h : c.discard = true ∨ c.st = 4 ∧ c.abort ≠ 4) :
    settleFix s k p m i e r c = modPlan s k fun p => { p with fixes := p.fixes.eraseIdx i } :=
  if_pos h

theorem settleFix_holds (hd : c.discard = false) (hst : c.st = 4 → c.abort = 4)
    (ho : blkOpen s (p.member m).eid c.block = none) :
    settleFix s k p m i e r c =
      blkAdd (modPlan (modPlan s k fun p => { p with fixes := p.fixes.eraseIdx i }) k
        fun p => { p with held := p.held ++ [(m, e, r)] }) (p.member m).eid c.block 80 2 1 := by
  simp only [settleFix, ho]
  exact if_neg (not_or_intro (ne_true_of_eq_false hd) (not_ended hst))

end Corrections

/-! ## Lost devices (R370) -/

section Losses

variable {x d : Nat}

theorem modPlan_at (hk : Keyed.get? s.plans k = some p) {f g : Plan → Plan} (h : f p = g p) : modPlan s k f = modPlan s k g := by
  simp only [modPlan, hk, h]

/-- A live plan of which both devices are members, one of which has declared the other unreachable. -/
structure Declared (s : State) (p : Plan) (x d : Nat) : Prop where
  live : p.freed = false
  source : p.devs.contains x = true
  member : p.devs.contains d = true
  cut : (s.dev x).unreachable.contains d = true

theorem planDeviceLost_sees (hk : Keyed.get? s.plans k = some p) (hw : s.who = [k, x, d]) (hs : p.sees s x d = true) :
    planDeviceLost s = loseSight s k x d false := by
  simp only [planDeviceLost, hw, hk]
  exact if_pos hs

theorem sees_root (h : Declared s p x d) (hr : (p.node p.root).dev = d) (hc : p.cutOff.contains x = false) :
    p.sees s x d = true := by
  simp only [Plan.sees, h.live, h.source, h.member, h.cut, hr, hc, beq_self_eq_true, Bool.not_false, Bool.and_true, Bool.true_or]

theorem sees_fromRoot (h : Declared s p x d) (hr : (p.node p.root).dev = x) (hne : x ≠ d) (hl : p.lost.contains d = false) :
    p.sees s x d = true := by
  have hd : (d != x) = true := bne_iff_ne.mpr hne.symm
  simp only [Plan.sees, h.live, h.source, h.member, h.cut, hr, hl, hd, beq_self_eq_true, Bool.not_false, Bool.and_true, Bool.or_true]

theorem loseRoot_cuts (hk : Keyed.get? s.plans k = some p) (h : Declared s p x d) (hc : p.cutOff.contains x = false) :
    loseRoot s k x = modPlan s k fun p => { p with
      cutOff := x :: p.cutOff
      jobs := p.jobs.filter fun j => (p.node j.node).dev != x || j.member.isSome
      results := p.results ++ (p.calls.filter fun c => c.st == 1 && (p.node (p.member c.member).node).dev == x &&
        !p.results.any fun r => r.1 == c.member && r.2.epoch == c.epoch).map fun c => (c.member, RResult.aborted c.epoch 2) } := by
  refine modPlan_at hk (if_neg ?_)
  rintro (h' | h' | h')
  · exact absurd h' (ne_true_of_eq_false hc)
  · exact absurd h' (ne_true_of_eq_false h.live)
  · exact h' h.source

theorem planDeviceLost_root (hk : Keyed.get? s.plans k = some p) (hw : s.who = [k, x, d]) (h : Declared s p x d)
    (hr : (p.node p.root).dev = d) (hc : p.cutOff.contains x = false) : planDeviceLost s = loseRoot s k x := by
  rw [planDeviceLost_sees hk hw (sees_root h hr hc)]
  simp only [loseSight, hk]
  exact if_pos hr

theorem planDeviceLost_member (hk : Keyed.get? s.plans k = some p) (hw : s.who = [k, x, d]) (h : Declared s p x d)
    (hr : (p.node p.root).dev = x) (hne : x ≠ d) (hl : p.lost.contains d = false) : planDeviceLost s = loseDevice s k d := by
  rw [planDeviceLost_sees hk hw (sees_fromRoot h hr hne hl)]
  simp only [loseSight, hk]
  exact (if_neg fun h' => hne (hr.symm.trans h')).trans (congrArg (loseDevice s k) (if_neg Bool.false_ne_true))

/-- A plan has a member device less: under the strict mode it is dead, under another one it goes on. -/
theorem loseDevice_member (hk : Keyed.get? s.plans k = some p) (h : Declared s p x d)
    (hr : (p.node p.root).dev ≠ d) (hl : p.lost.contains d = false) :
    loseDevice s k d =
      let t := modPlan s k fun p => { p with lost := d :: p.lost }
      if p.mode = 0 then
        modPlan ((((p.calls.filter fun c => c.st == 1).map (·.epoch)).eraseDups).foldl (fun s e => abortEpoch s k e 1) t) k
          fun p => { p with dead := true }
      else admitAll (p.epochs.foldl (fun s x => pokeNode s k x.node x.epoch) t) k := by
  have hlive : ¬ (p.lost.contains d = true ∨ p.freed = true ∨ ¬ p.devs.contains d = true) := by
    rintro (h' | h' | h')
    · exact absurd h' (ne_true_of_eq_false hl)
    · exact absurd h' (ne_true_of_eq_false h.live)
    · exact h' h.member
  simp only [loseDevice, hk]
  refine (if_neg hlive).trans ?_
  simp only [hr, false_or, if_false]

end Losses

/-! ## `redw` (R375) -/

theorem redwTimeout_ends {eid slot b lim : Nat} {t : Thread} {w : Waiting} (hw : s.who = [eid, slot]) (ht : s.thr? eid slot = some t)
    (hst : t.status = .waiting w) (hwhat : w.what = .call b lim) (hcalm : (t.collFault.any fun x => x.1 == b) = false)
    (hend : t.drainReq = true ∨ 0 < lim ∧ w.issued + lim ≤ s.cycle eid) :
    redwTimeout s = endWait s eid slot w (some (resWord stEMPTY 0)) := by
  simp only [redwTimeout, hw, ht, hst, hwhat]
  exact (if_neg (ne_true_of_eq_false hcalm)).trans (if_pos hend)

/-- Settles O40. -/
theorem collectiveEvents : Obligations.CollectiveEvents := by
  unfold Obligations.CollectiveEvents
  intro s k p hk
  refine ⟨fun pk hp => ⟨?dropped, ?placed, ?forwarded, ?prepared⟩, ?tick, ?opens, ?routine, ?watchdog, ?result, ?deliver, ?shake,
    ?fix, ?settle, ?lost, ?redw⟩
  case dropped => exact fun id c hb hc h => event_next ((contributionArrival_contrib hp hb).trans (contribArrives_drops hk hc h))
  case placed =>
    intro id c bs hb hc ho hst data len hroom hbs
    exact event_next ((contributionArrival_contrib hp hb).trans (contribArrives_places hk hc ho hst hroom hbs))
  case forwarded =>
    exact fun node epoch r j hb hj ho hg hroom =>
      event_next ((contributionArrival_forward hp hb).trans (forwardArrives_places hk hj ho hg hroom))
  case prepared =>
    intro hb hk'
    have hdoes := planPrepares_does hp hb hk'
    refine ⟨fun hne => event_next (hdoes.trans (if_neg fun h => hne (List.isEmpty_iff.mp h.1))),
      fun hnil hsrc => event_next (hdoes.trans (if_pos ⟨List.isEmpty_iff.mpr hnil, hsrc⟩))⟩
  case tick =>
    intro node epoch x hw hx
    have hpoke := forwardTick_pokes hw
    exact ⟨fun hf ho hd => event_next (hpoke.trans (congrArg (admitAll · k) (pokeNode_forwards hk hx hf ho hd))),
      fun hf => event_next (hpoke.trans (congrArg (admitAll · k) (pokeNode_forwarded hk hx hf)))⟩
  case opens =>
    intro node epoch hw ho hopen hnone
    exact event_next (epochOpen_learns hk hw ⟨ho, hopen, Option.isNone_iff_eq_none.mpr hnone⟩)
  case routine =>
    intro node epoch n j hw hj
    have hstep := userRoutineRun_steps hk hw hj
    refine ⟨fun slot v rest y hc hr hy => event_next (hstep.trans (stepJob_starts hc hr hy)), fun y hc ht => ?_,
      fun y t i hc ht hst hm => event_next (hstep.trans (stepJob_aborts hc ht hst hm)),
      fun y t i m c hc ht hst hm hcall => event_next (hstep.trans (stepJob_abortsCall hc ht hst hm hcall))⟩
    have htakes := hstep.trans (stepJob_takes hc ht)
    refine ⟨fun hlast hm => event_next (htakes.trans (if_pos ⟨hlast, Option.isNone_iff_eq_none.mpr hm⟩)),
      fun hmore => event_next (htakes.trans (if_neg ?_))⟩
    rintro ⟨hlast, hm⟩
    exact hmore.elim (fun h => by omega) (fun h => h (Option.isNone_iff_eq_none.mp hm))
  case watchdog => exact fun eid t hw ht hy hn hst => event_next (routineWatchdog_traps hw ht hy hn hst)
  case result =>
    intro w pk i r hw hp
    have harrives := resultDelivery_arrives hw hp
    exact ⟨fun ho => event_next (harrives.trans (resultArrives_closed hk ho)),
      fun ho hroom => event_next (harrives.trans (resultArrives_goesOn hk ho hroom))⟩
  case deliver =>
    intro m epoch n r c hw hr hf hreach hc hosts hopens
    have hdelivers := resultDelivery_delivers hk hw hr hf hreach
    have hposted : Posted s p m r c := ⟨hc, hosts, hopens⟩
    exact ⟨fun ha => event_next (hdelivers.trans (deliverResult_aborts hposted ha)),
      fun ha hwr => event_next (hdelivers.trans (deliverResult_writes hposted ha hwr))⟩
  case shake => exact fun pk node epoch r hp hg ho hk' => event_next (shakeOutCommit_commits hp hg ho hk')
  case fix =>
    intro w pk i epoch r hw hp
    have harrives := correctionArrival_arrives hw hp
    exact ⟨fun ho => event_next (harrives.trans (fixArrives_closed hk ho)),
      fun ho hroom => event_next (harrives.trans (fixArrives_goesOn hk ho hroom))⟩
  case settle =>
    intro m i e r c hw hd
    have hsettles := correctionArrival_settles hk hw hd
    exact ⟨fun h => event_next (hsettles.trans (settleFix_discards h)),
      fun h hst ho => event_next (hsettles.trans (settleFix_holds h hst ho))⟩
  case lost =>
    intro x d hw hlive hx hd hcut
    have h : Declared s p x d := ⟨hlive, hx, hd, hcut⟩
    refine ⟨fun hr hc => event_next ((planDeviceLost_root hk hw h hr hc).trans (loseRoot_cuts hk h hc)),
      fun hr hne hl hmode => event_next ?strict, fun hr hne hl hmode => event_next ?lenient⟩
    case strict =>
      exact (planDeviceLost_member hk hw h hr hne hl).trans
        ((loseDevice_member hk h (fun h' => hne (hr.symm.trans h')) hl).trans (if_pos hmode))
    case lenient =>
      exact (planDeviceLost_member hk hw h hr hne hl).trans
        ((loseDevice_member hk h (fun h' => hne (hr.symm.trans h')) hl).trans (if_neg hmode))
  case redw =>
    exact fun eid slot t w b lim hw ht hst hwhat hcalm hend => event_next (redwTimeout_ends hw ht hst hwhat hcalm hend)

end Sys2Proof.Proofs.CollectiveSteps

/-! SUPPORT. The instructions of the system group and `gang` (R354, R384, R388, R392 to R394, R399 to R401). -/

namespace Sys2Proof.Proofs.SystemGroup

open Sys2Proof.Machine
open Sys2Proof.Proofs.BarrierInstructions (bind_of_ok bind_of_error need_traps)
open Sys2Proof.Proofs.ThreadInstructions (request_asks)

variable {e : Env}

/-! ## `eret` -/

theorem eretEff_asks (hon : e.on) (h1 : bits e.a0 31 22 = 0) (h2 : bits e.a0 63 37 = 0) (h3 : bits e.b0 31 2 = 0)
    (h4 : bits e.b0 63 51 = 0) (hj : e.t.joins = []) :
    eretEff e = .ok (e.asked (bits e.a0 21 0) 3 (.eret (bits e.a0 36 32) (bits e.b0 1 0) (bits e.b0 50 32)) (e.s, [])) := by
  have hfields : e.need (bits e.a0 31 22 == 0 && bits e.a0 63 37 == 0 && bits e.b0 31 2 == 0 && bits e.b0 63 51 == 0) 2 = .ok () :=
    need_ok (by rw [h1, h2, h3, h4]; rfl)
  rw [eretEff, thread_of_act hon, bind_of_ok hfields, bind_of_ok (noJoin_ok hj)]
  exact request_asks rfl

/-! ## `drain` and `drain.res` -/

section Drain

/-- The committed instances that a `drain` names, with a property. -/
def drained (e : Env) (live : Inst → Bool) : List Nat :=
  instsOf e.s0 e.dev e.asid fun i => i.committed && live i && (e.f.md == 0 || i.gid == e.a0)

theorem drained_all (e : Env) : drained e (fun _ => true) =
    instsOf e.s0 e.dev e.asid fun i => i.committed && (e.f.md == 0 || i.gid == e.a0) := by
  simp only [drained, Bool.and_true]

/-- A `drain` whose GID is in range: it answers STATE when it names none, and else marks what does not drain yet. -/
theorem drainEff_decides (hon : e.on) (hgid : e.f.md = 1 → e.a0 < 2 ^ 16) :
    drainEff e =
      if e.f.md = 1 ∧ (drained e fun _ => true).isEmpty = true then .ok (e.answers e.s stSTATE 0)
      else .ok (e.answers ((drained e fun i => !i.draining).foldl (fun s g => drainInst s e.dev e.asid g) e.s) stOK
        (drained e fun i => !i.draining).length) := by
  rw [drainEff, thread_of_act hon, drained_all]
  by_cases hmd : e.f.md = 1
  · have hneed : e.need (decide (e.a0 < 2 ^ 16)) 2 = .ok () := need_ok (decide_eq_true (hgid hmd))
    exact (if_pos hmd).trans (bind_of_ok hneed _)
  · exact (if_neg hmd).trans (bind_of_ok rfl _)

theorem drainEff_marks (hon : e.on) (h : e.f.md = 1 → e.a0 < 2 ^ 16 ∧ drained e (fun _ => true) ≠ []) :
    drainEff e = .ok (e.answers ((drained e fun i => !i.draining).foldl (fun s g => drainInst s e.dev e.asid g) e.s) stOK
        (drained e fun i => !i.draining).length) :=
  (drainEff_decides hon fun hmd => (h hmd).1).trans (if_neg fun hnone => (h hnone.1).2 (List.isEmpty_iff.mp hnone.2))

theorem drainEff_none (hon : e.on) (hmd : e.f.md = 1) (hgid : e.a0 < 2 ^ 16) (hnone : drained e (fun _ => true) = []) :
    drainEff e = .ok (e.answers e.s stSTATE 0) :=
  (drainEff_decides hon fun _ => hgid).trans (if_pos ⟨hmd, List.isEmpty_iff.mpr hnone⟩)

theorem drainEff_traps (hon : e.on) (hmd : e.f.md = 1) (hgid : 2 ^ 16 ≤ e.a0) : drainEff e = .error (.trap (e.info 2)) := by
  have hneed : e.need (decide (e.a0 < 2 ^ 16)) 2 = .error (.trap (e.info 2)) :=
    need_traps (decide_eq_false (Nat.not_lt.mpr hgid))
  rw [drainEff, thread_of_act hon]
  exact (if_pos hmd).trans (bind_of_error hneed _)

end Drain

/-! ## `frz` and `frz.res` -/

section Freeze

/-- An order reaches its core: on the own device, on one that the pod does not hold, or on one that a route leads to. -/
theorem reach_reaches {k : Except Stop State}
    (h : eidDev e.a0 = e.dev ∨ e.s0.hasDev (eidDev e.a0) = false ∨
      ¬ (e.s0.dev e.dev).unreachable.contains (eidDev e.a0) = true ∧ e.s0.reaches e.dev (eidDev e.a0) = true) :
    e.reach k = k := by
  by_cases hnear : eidDev e.a0 = e.dev ∨ ¬ e.s0.hasDev (eidDev e.a0) = true
  · exact if_pos hnear
  · obtain ⟨hdev, hthere⟩ := not_or.mp hnear
    obtain ⟨hcut, hroute⟩ := (h.resolve_left hdev).resolve_left fun hno => hthere (ne_true_of_eq_false hno)
    exact (if_neg hnear).trans ((if_neg hcut).trans (if_pos hroute))

/-- An order to a device that counts as unreachable is abandoned, which the thread is told. -/
theorem reach_told {k : Except Stop State} (hdev : eidDev e.a0 ≠ e.dev) (hthere : e.s0.hasDev (eidDev e.a0) = true)
    (hcut : (e.s0.dev e.dev).unreachable.contains (eidDev e.a0) = true) :
    e.reach k = .ok (deferTrap { e.s with nextId := e.s.nextId + 1 } e.eid e.slot e.s.nextId
      { e.info 10 with cause := 6, lane := 255, defer := true }) :=
  (if_neg (not_or_intro hdev (not_not_intro hthere))).trans (if_pos hcut)

/-- What `frz` does once its order reaches the core. -/
def frzAt (e : Env) : Except Stop State :=
  if frzBad e = true ∨ (e.s0.core e.a0).frozen = true ∨ (e.s0.core e.a0).freezing.isSome = true then
    .ok (e.answers e.s stSTATE 0)
  else
    match e.pendL e.od.target 1 with
    | (p, s) =>
      .ok (tryFreeze (s.modCore e.a0 fun c => { c with freezing := some { eid := e.eid, slot := e.slot, pend := p } }) e.a0)

theorem frzEff_orders (hon : e.on) (ha : e.a0 < 2 ^ 22) : frzEff e = e.reach (frzAt e) := by
  have hneed : e.need (decide (e.a0 < 2 ^ 22)) 2 = .ok () := need_ok (decide_eq_true ha)
  rw [frzEff, thread_of_act hon]
  exact bind_of_ok hneed _

theorem frzAt_freezes (hgood : frzBad e = false) (hfrozen : (e.s0.core e.a0).frozen = false)
    (hidle : (e.s0.core e.a0).freezing = none) :
    frzAt e = .ok (match e.pendL e.od.target 1 with
      | (p, s) => tryFreeze (s.modCore e.a0 fun c => { c with freezing := some { eid := e.eid, slot := e.slot, pend := p } }) e.a0) := by
  refine if_neg ?_
  rw [hgood, hfrozen, hidle]
  decide

/-- What `frz.res` does once its order reaches the core. -/
def frzResAt (e : Env) : Except Stop State :=
  if frzBad e = true ∨ ¬ (e.s0.core e.a0).frozen = true then .ok (e.answers e.s stSTATE 0)
  else
    .ok (e.answers ((e.s0.core e.a0).threads.foldl (fun s (i, _) =>
      match s.thr? e.a0 i with | some t => thawThread s e.a0 i t | none => s)
        ((e.s0.core e.a0).spill.foldl replay
          (reloadImage (e.s.modCore e.a0 fun c => { c with frozen := false, spill := [] }) e.a0)))
      stOK (e.s0.core e.a0).spill.length)

theorem frzResEff_orders (hon : e.on) (ha : e.a0 < 2 ^ 22) : frzResEff e = e.reach (frzResAt e) := by
  have hneed : e.need (decide (e.a0 < 2 ^ 22)) 2 = .ok () := need_ok (decide_eq_true ha)
  rw [frzResEff, thread_of_act hon]
  exact bind_of_ok hneed _

theorem frzResAt_thaws (hgood : frzBad e = false) (hfrozen : (e.s0.core e.a0).frozen = true) :
    frzResAt e = .ok (e.answers ((e.s0.core e.a0).threads.foldl (fun s (i, _) =>
      match s.thr? e.a0 i with | some t => thawThread s e.a0 i t | none => s)
        ((e.s0.core e.a0).spill.foldl replay
          (reloadImage (e.s.modCore e.a0 fun c => { c with frozen := false, spill := [] }) e.a0)))
      stOK (e.s0.core e.a0).spill.length) :=
  if_neg (not_or_intro (ne_true_of_eq_false hgood) (not_not_intro hfrozen))

end Freeze

/-! ## `gang` -/

section Launch

variable {w : List Nat}

/-- The descriptor of a `gang` has no reserved bit set and names a device. -/
def wellFormed (w : List Nat) : Prop :=
  bits (w.getD 0 0) 63 56 = 0 ∧ bits (w.getD 1 0) 63 56 = 0 ∧ bits (w.getD 2 0) 63 8 = 0 ∧ gangDevs w ≠ []

theorem wellFormed_iff (w : List Nat) : ¬ wellFormed w ↔
    bits (w.getD 0 0) 63 56 ≠ 0 ∨ bits (w.getD 1 0) 63 56 ≠ 0 ∨ bits (w.getD 2 0) 63 8 ≠ 0 ∨ (gangDevs w).isEmpty = true := by
  unfold wellFormed
  rw [Classical.not_and_iff_not_or_not, Classical.not_and_iff_not_or_not, Classical.not_and_iff_not_or_not, Classical.not_not,
    List.isEmpty_iff]

/-- The start tick of a `gang` that names none is 100,000 ticks ahead. -/
def startTick (e : Env) (w : List Nat) : Nat := if w.getD 3 0 = 0 then (e.s0.dev e.dev).tick + 100000 else w.getD 3 0

theorem startTick_eq (e : Env) (w : List Nat) :
    (if w.getD 3 0 = 0 then (e.s0.dev e.dev).tick + 100000 else w.getD 3 0) = startTick e w := rfl

/-- The gang that a `gang` makes, its start, identity and result given. -/
def launched (e : Env) (w : List Nat) (start id gid pid : Nat) : Gang :=
  { id := id, asid := e.asid, src := { eid := e.eid, slot := e.slot, pend := pid, ipc := e.pc, word := e.t.word }
    template := w.getD 0 0, rename := w.getD 1 0, queue := w.getD 2 0
    tstart := start
    devs := gangDevs w, gid := gid, die := eidDie e.eid % 4, refusedG := [], round := 1, prepared := []
    refusals := [], waits := [] }

/-- What a `gang` does once its first round is asked: a gang that waits for no device is decided. -/
def decided (s : State) (id : Nat) : State :=
  match s.gangs.find? (·.id == id) with
  | some g => if g.waits.isEmpty = true then gangDecide s g else s
  | none => s

/-- A gang of which no device has to be waited for is decided at once. -/
theorem decided_isEmpty (s : State) (id : Nat) :
    decided s id =
    match s.gangs.find? (·.id == id) with
      | some g => if g.waits = [] then gangDecide s g else s
      | none => s := by
  unfold decided
  cases s.gangs.find? (·.id == id) with
  | none => rfl
  | some g => simp only [List.isEmpty_iff]

theorem gangEff_malformed (hon : e.on) (hw : ownWords e e.a0 64 20 = .ok w) (h : ¬ wellFormed w) :
    gangEff e = .ok (e.answers e.s stSTATE 0) := by
  rw [gangEff, thread_of_act hon, bind_of_ok hw]
  exact if_pos ((wellFormed_iff w).mp h)

variable {r : State × List Nat}

theorem gangEff_noRoom (hon : e.on) (hw : ownWords e e.a0 64 20 = .ok w) (h : wellFormed w)
    (hgid : gangGid e.s0 e.dev e.asid [] = none) (hj : e.t.joins = []) (hr : sendRelease e e.s false 4 = .ok r) :
    gangEff e = .ok (e.answers r.1 stNOMEM 0) := by
  rw [gangEff, thread_of_act hon, bind_of_ok hw]
  simp only [hr, hgid]
  exact (if_neg fun hbad => (wellFormed_iff w).mpr hbad h).trans (bind_of_ok (noJoin_ok hj) _)

theorem gangEff_begins {n : Nat} (hon : e.on) (hw : ownWords e e.a0 64 20 = .ok w) (h : wellFormed w)
    (hgid : gangGid e.s0 e.dev e.asid [] = some n) (hj : e.t.joins = [])
    (hr : sendRelease e e.s false 4 = .ok r) :
    gangEff e = .ok (match (e.upd r.1).pendL e.od.target 1 with
      | (pid, s) =>
        let s' := gangRound s.fresh.2 (launched e w (startTick e w) s.nextId n pid) r.2
        match s'.gangs.find? (·.id == s.nextId) with
        | some g => if g.waits = [] then gangDecide s' g else s'
        | none => s') := by
  rw [gangEff, thread_of_act hon, bind_of_ok hw]
  simp only [hr, hgid, startTick_eq]
  refine (if_neg fun hbad => (wellFormed_iff w).mpr hbad h).trans ((bind_of_ok (noJoin_ok hj) _).trans ?_)
  generalize startTick e w = start
  generalize (e.upd r.1).pendL e.od.target 1 = x
  obtain ⟨pid, s⟩ := x
  dsimp only [State.fresh, launched]
  generalize gangRound _ _ r.2 = s'
  exact congrArg Except.ok (decided_isEmpty s' s.nextId)

end Launch

/-- Settles O42. -/
theorem systemInstructions : Obligations.SystemInstructions := by
  unfold Obligations.SystemInstructions
  intro f w all cut named lost told gang good
  refine ⟨?eret, ?marks, ?none, ?range, ?resumes, ?refused, ?freezes, ?unfrozen, ?thaws, ?toldFrz, ?toldRes, ?malformed, ?noRoom,
    fun n => ?begins⟩
  case eret =>
    refine ends_of eretEff (fun _ => rfl) fun e hf hp => ?_
    subst hf
    obtain ⟨hon, h1, h2, h3, h4, hj⟩ := hp
    exact eretEff_asks hon h1 h2 h3 h4 hj
  case marks =>
    refine ends_of drainEff (fun _ => rfl) fun e hf hp => ?_
    subst hf
    exact drainEff_marks hp.1 hp.2
  case none =>
    refine ends_of drainEff (fun _ => rfl) fun e hf hp => ?_
    subst hf
    obtain ⟨hon, hmd, hgid, hnone⟩ := hp
    exact drainEff_none hon hmd hgid hnone
  case range =>
    refine traps_of drainEff (fun _ => rfl) fun e hf hp => ?_
    subst hf
    obtain ⟨hon, hmd, hgid⟩ := hp
    exact drainEff_traps hon hmd hgid
  case resumes =>
    refine ends_of drainResEff (fun _ => rfl) fun e hf hon => ?_
    rw [drainResEff, thread_of_act hon]
    exact congrArg Except.ok rfl
  case refused =>
    refine ends_of frzEff (fun _ => rfl) fun e hf hp => ?_
    obtain ⟨⟨hon, ha, hreach⟩, hbad⟩ := hp
    exact (frzEff_orders hon ha).trans ((reach_reaches hreach).trans (if_pos hbad))
  case freezes =>
    refine ends_of frzEff (fun _ => rfl) fun e hf hp => ?_
    obtain ⟨⟨hon, ha, hreach⟩, hgood, hfrozen, hidle⟩ := hp
    exact (frzEff_orders hon ha).trans ((reach_reaches hreach).trans (frzAt_freezes hgood hfrozen hidle))
  case unfrozen =>
    refine ends_of frzResEff (fun _ => rfl) fun e hf hp => ?_
    obtain ⟨⟨hon, ha, hreach⟩, hbad⟩ := hp
    exact (frzResEff_orders hon ha).trans ((reach_reaches hreach).trans (if_pos (hbad.imp_right ne_true_of_eq_false)))
  case thaws =>
    refine ends_of frzResEff (fun _ => rfl) fun e hf hp => ?_
    obtain ⟨⟨hon, ha, hreach⟩, hgood, hfrozen⟩ := hp
    exact (frzResEff_orders hon ha).trans ((reach_reaches hreach).trans (frzResAt_thaws hgood hfrozen))
  case toldFrz =>
    refine ends_of frzEff (fun _ => rfl) fun e hf hp => ?_
    obtain ⟨hon, ha, hdev, hthere, hcut⟩ := hp
    exact (frzEff_orders hon ha).trans (reach_told hdev hthere hcut)
  case toldRes =>
    refine ends_of frzResEff (fun _ => rfl) fun e hf hp => ?_
    obtain ⟨hon, ha, hdev, hthere, hcut⟩ := hp
    exact (frzResEff_orders hon ha).trans (reach_told hdev hthere hcut)
  case malformed =>
    refine ends_of gangEff (fun _ => rfl) fun e hf hp => ?_
    obtain ⟨⟨hon, hw⟩, hbad⟩ := hp
    exact gangEff_malformed hon hw hbad
  case noRoom =>
    refine endsBy_of gangEff (fun _ => rfl) fun e r hf hp hr => ?_
    obtain ⟨⟨hon, hw⟩, hgood, hgid, hj⟩ := hp
    exact gangEff_noRoom hon hw hgood hgid hj hr
  case begins =>
    refine endsBy_of gangEff (fun _ => rfl) fun e r hf hp hr => ?_
    obtain ⟨⟨hon, hw⟩, hgood, hgid, hj⟩ := hp
    refine (gangEff_begins hon hw hgood hgid hj hr).trans ?_
    simp only [startTick_eq]
    generalize startTick e w = start
    generalize (e.upd r.1).pendL e.od.target 1 = x
    obtain ⟨pid, s⟩ := x
    refine congrArg Except.ok ?_
    dsimp only [launched] <;> generalize gangRound s.fresh.2 _ r.2 = s' <;> rfl

end Sys2Proof.Proofs.SystemGroup

/-! SUPPORT. `ctxsv` and `ctxld` (R380, R389 to R391). -/

namespace Sys2Proof.Proofs.ContextImage

open Sys2Proof.Machine
open Sys2Proof.Proofs.BarrierInstructions (bind_of_ok)

variable {e : Env}

/-- The mask of slots that B gives. -/
def slotMask (e : Env) : Nat := (simm14 e.f.b).toNat

/-! ## `ctxsv` (R390) -/

section Save

/-- The thread as its image holds it: the run's results written, D with OK and VALUE 0. -/
def imageThread (e : Env) : Thread :=
  (((e.s.thr? e.eid e.slot).getD e.t).flush e.s0.free).write e.od fun l => if l = 0 then some 0 else none

/-- The image that `ctxsv` writes. -/
def image (e : Env) : List Byte :=
  imageOf e.c (imageThread e) (e.pc + e.len) (slotMask e) (imageSlots e (slotMask e))

/-- A `ctxsv` whose results have landed and whose joins are done. -/
structure Quiet (e : Env) : Prop where
  on : e.on
  landed : e.t.allLanded = true
  joined : e.t.joins = []

/-- A `ctxsv` that can save: no live slice or predicate has an error, its save area is in order, no command works on its slots. -/
structure Saves (e : Env) (ks : List Nat) : Prop extends Quiet e where
  sound : e.t.imageEcc = none
  aligned : addrOf e.a0 % 64 = 0
  named : slotMask e / 2 ^ min e.slots 4 = 0
  area : areaKeys e (addrOf e.a0) (image e).length true = .ok ks
  idle : ∀ m ∈ e.c.mxq, m.phys ∈ (imageSlots e (slotMask e)).map (·.2) → (e.c.accs.getD m.phys default).fault ≠ none

theorem ctxsvEff_traps {c : Nat} (h : Quiet e) (hecc : e.t.imageEcc = some c) :
    ctxsvEff e = .error (.trap { e.info 11 with cause := c }) := by
  rw [ctxsvEff, thread_of_act h.on, bind_of_ok (settled_ok h.landed)]
  simp only [h.joined, List.isEmpty_nil, hecc]
  exact (if_neg (not_not_intro trivial)).trans (bind_of_ok rfl _)

/-- A command of the queue that works on a slot of the image, which has no fault. -/
theorem no_command (h : ∀ m ∈ e.c.mxq, m.phys ∈ (imageSlots e (slotMask e)).map (·.2) → (e.c.accs.getD m.phys default).fault ≠ none) :
    ¬ (e.c.mxq.any fun m => ((imageSlots e (slotMask e)).map (·.2)).contains m.phys &&
      (e.c.accs.getD m.phys default).fault.isNone) = true := by
  rw [List.any_eq_true]
  rintro ⟨m, hm, hboth⟩
  obtain ⟨hin, hnone⟩ := Bool.and_eq_true_iff.mp hboth
  exact h m hm (List.contains_iff_mem.mp hin) (Option.isNone_iff_eq_none.mp hnone)

theorem faulted_iff (e : Env) :
    (((imageSlots e (slotMask e)).map (·.2)).any fun p => (e.c.accs.getD p default).fault.isSome) = true ↔
      ∃ x ∈ imageSlots e (slotMask e), (e.c.accs.getD x.2 default).fault ≠ none := by
  simp only [List.any_map, List.any_eq_true, Function.comp_apply, Option.isSome_iff_ne_none]

/-- The outcome of a `ctxsv` that can save: STATE for a faulted slot, or its stores and the join that completes its result. -/
def saved (e : Env) (ks : List Nat) : State :=
  match e.pendL e.od.target 1 with
  | (pid, s) =>
    let s := s.modThr e.eid e.slot fun t => { t with pend := t.pend.map fun (x : Pend) =>
      if x.id = pid then { x with vals := [(0, fitRaw e.od.w (resWord stOK (image e).length))] } else x }
    holdJoin e (issueImage e s.nextId (addrOf e.a0) ks (image e) s) 3 pid [s.nextId]

theorem ctxsvEff_decides {ks : List Nat} (h : Saves e ks) :
    ctxsvEff e =
      if (((imageSlots e (slotMask e)).map (·.2)).any fun p => (e.c.accs.getD p default).fault.isSome) = true then
        .ok (e.answers e.s stSTATE 0)
      else .ok (saved e ks) := by
  have hneed : e.need (addrOf e.a0 % 64 == 0 && (simm14 e.f.b).toNat / 2 ^ min e.slots 4 == 0) 2 = .ok () :=
    need_ok (Bool.and_eq_true_iff.mpr ⟨beq_iff_eq.mpr h.aligned, beq_iff_eq.mpr h.named⟩)
  have hidle := no_command h.idle
  have harea := h.area
  rw [ctxsvEff, thread_of_act h.on, bind_of_ok (settled_ok h.landed)]
  simp only [h.joined, List.isEmpty_nil, h.sound]
  refine (if_neg (not_not_intro trivial)).trans ((bind_of_ok rfl _).trans ((bind_of_ok hneed _).trans ?_))
  exact (bind_of_ok harea _).trans (if_neg hidle)

end Save

/-! ## `ctxld` (R391) -/

section Load

/-- A byte of a save area as the thread sees it, and several of them. -/
def seenAt (e : Env) (k : Nat) : Option Byte := farSeen e.s0 e.eid e.slot e.s0.nextId k
def seen (e : Env) (ks : List Nat) : List Byte := ks.map fun k => (seenAt e k).getD 0

/-- The bytes of a save area can be read: no error in own LM, no home that counts as unreachable, every far line there. -/
structure Readable (e : Env) (ks : List Nat) : Prop where
  sound : ∀ k ∈ ks, k ∈ e.s0.bad → keyIsLm k = true → e.s0.far e.dev k = true
  reached : ∀ k ∈ ks, e.s0.cutKey e.dev k = false
  read : ∃ x, farRead e.s0 e.asid e.eid e.slot e.s0.nextId ks = .ok x
  known : ∀ k ∈ ks, seenAt e k ≠ none

theorem areaRead_reads {s : State} {va : Nat} {ks : List Nat} {k : Unit → Except Stop State} (h : Readable e ks) :
    areaRead (e.upd s) va ks k = k () := by
  obtain ⟨hsound, hreached, ⟨x, hread⟩, hknown⟩ := h
  have h1 : ¬ (ks.any fun x => e.s0.bad.contains x && keyIsLm x && !e.s0.far e.dev x) = true := by
    rw [List.any_eq_true]
    rintro ⟨k, hk, hbad⟩
    simp only [Bool.and_eq_true, List.contains_iff_mem, Bool.not_eq_true'] at hbad
    obtain ⟨⟨hbad, hlm⟩, hfar⟩ := hbad
    exact absurd (hsound k hk hbad hlm) (ne_true_of_eq_false hfar)
  have h2 : ¬ (ks.any (e.s0.cutKey e.dev)) = true := by
    rw [List.any_eq_true]
    rintro ⟨k, hk, hcut⟩
    exact absurd hcut (ne_true_of_eq_false (hreached k hk))
  have h3 : ¬ (ks.any fun k => (farSeen e.s0 e.eid e.slot e.s0.nextId k).isNone) = true := by
    rw [List.any_eq_true]
    rintro ⟨k, hk, hnone⟩
    exact hknown k hk (Option.isNone_iff_eq_none.mp hnone)
  refine (if_neg h1).trans ((if_neg h2).trans ?_)
  show (match farRead e.s0 e.asid e.eid e.slot e.s0.nextId ks with
    | .error (some s) => _
    | .error none => _
    | .ok _ => _) = _
  simp only [hread]
  exact if_neg h3

/-- The thread's bytes of far lines are not wanted any more. -/
def doneState (e : Env) : State := farDone e.s e.eid e.slot 0

/-- The size that an image's head names. -/
def sizeOf (h : Nat) : Nat := h % 2 ^ 32

/-- What an image's head may not ask of this thread. -/
abbrev Illegal (e : Env) (h : Nat) : Prop :=
  bits h 51 48 / 2 ^ min e.slots 4 ≠ 0 ∨ (bits h 51 48 ||| slotMask e) ≠ slotMask e ∨
    (bits h 55 52 ≠ 0 ∧ ¬ isWTile (eidEp e.eid) = true) ∨ bits h 47 32 % 64 ≠ 0 ∨ bits h 47 32 = 0 ∨ 512 < bits h 47 32

theorem illegal_iff (e : Env) (h : Nat) :
    Illegal e h ↔ ¬ (bits h 51 48 / 2 ^ min e.slots 4 = 0 ∧ (bits h 51 48 ||| slotMask e) = slotMask e ∧
      (bits h 55 52 = 0 ∨ isWTile (eidEp e.eid) = true) ∧ bits h 47 32 % 64 = 0 ∧ bits h 47 32 ≠ 0 ∧ bits h 47 32 ≤ 512) := by
  unfold Illegal
  rw [Classical.not_and_iff_not_or_not, Classical.not_and_iff_not_or_not, Classical.not_and_iff_not_or_not, Classical.not_and_iff_not_or_not,
    Classical.not_and_iff_not_or_not, not_or, Classical.not_not, Nat.not_le]

/-- The state of a thread that its image has been restored to, its slots with it. -/
def restored (e : Env) (h : Nat) (bs : List Byte) : State :=
  let k := bits h 47 32 / 64
  let sl := imageSlots e (bits h 51 48)
  let units := if k ≤ e.t.units.length then e.t.units.take k else e.t.units ++ (freeUnits e.c).take (k - e.t.units.length)
  (sl.zipIdx).foldl (fun s ((j, p), i) => modAcc s e.eid p fun a =>
      restoreSlot a (bit (bits h 55 52) j) (bs.drop (384 + 256 * ((sizeOf h - 384 - 4104 * sl.length) / 256) + 4104 * i)))
    ((unitsAsked (doneState e) e.eid rankSwin).modThr e.eid e.slot fun t => restoreThread (t.resize (64 * k) units) bs)

/-- The last part of a `ctxld` whose head is in order. -/
def restores (e : Env) (h : Nat) : Except Stop State := do
  let ks ← areaKeys e (addrOf e.a0) (sizeOf h) false
  let wk ← areaKeys e (addrOf e.a0) 8 true
  areaRead (e.upd (doneState e)) (addrOf e.a0) ks fun _ =>
    if (e.c.mxq.any fun m => (imageSlots e (bits h 51 48)).any (·.2 == m.phys)) = true then .error .block
    else .ok (issueStore (e.upd (doneState e)) (restored e h (seen e ks)).nextId 0 true (restored e h (seen e ks))
      { lane := 0, va := addrOf e.a0, keys := wk, cache := false } 0)

/-- A `ctxld` that can read the head of its image. -/
structure HeadRead (e : Env) (ks : List Nat) : Prop extends Quiet e where
  aligned : addrOf e.a0 % 64 = 0
  area : areaKeys e (addrOf e.a0) 8 false = .ok ks
  reads : Readable e ks

theorem ctxldEff_decides {ks : List Nat} (h : HeadRead e ks) :
    ctxldEff e =
      if sizeOf (ofBytes (seen e ks)) = 0 then .ok (e.answers (doneState e) stEMPTY 0)
      else if Illegal e (ofBytes (seen e ks)) then .ok (e.answers (doneState e) stSTATE 0)
      else if e.t.units.length + (freeUnits e.c).length < bits (ofBytes (seen e ks)) 47 32 / 64 then
        .ok (e.answers (unitsAsked (doneState e) e.eid rankSwin) stNOMEM 0)
      else restores e (ofBytes (seen e ks)) := by
  have hneed : e.need (addrOf e.a0 % 64 == 0) 2 = .ok () := need_ok (beq_iff_eq.mpr h.aligned)
  rw [ctxldEff, thread_of_act h.on, bind_of_ok (settled_ok h.landed), bind_of_ok (noJoin_ok h.joined)]
  refine (bind_of_ok hneed _).trans ((bind_of_ok h.area _).trans ((areaRead_reads h.reads).trans ?_))
  refine ite_congr rfl (fun _ => rfl) fun _ => ite_congr rfl (fun _ => rfl) fun _ => ite_congr rfl (fun _ => rfl) fun _ => rfl

theorem restores_stores {h : Nat} {ks wk : List Nat} (hks : areaKeys e (addrOf e.a0) (sizeOf h) false = .ok ks)
    (hwk : areaKeys e (addrOf e.a0) 8 true = .ok wk) (hread : Readable e ks)
    (hidle : ∀ m ∈ e.c.mxq, m.phys ∉ (imageSlots e (bits h 51 48)).map (·.2)) :
    restores e h = .ok (issueStore (e.upd (doneState e)) (restored e h (seen e ks)).nextId 0 true (restored e h (seen e ks))
      { lane := 0, va := addrOf e.a0, keys := wk, cache := false } 0) := by
  have hfree : ¬ (e.c.mxq.any fun m => (imageSlots e (bits h 51 48)).any (·.2 == m.phys)) = true := by
    rw [List.any_eq_true]
    rintro ⟨m, hm, hslot⟩
    obtain ⟨x, hx, heq⟩ := List.any_eq_true.mp hslot
    exact hidle m hm (List.mem_map.mpr ⟨x, hx, beq_iff_eq.mp heq⟩)
  rw [restores, bind_of_ok hks, bind_of_ok hwk, areaRead_reads hread]
  exact if_neg hfree

end Load

/-- Settles O43. -/
theorem contextImages : Obligations.ContextImages := by
  unfold Obligations.ContextImages
  intro f ks mask va now saves far seenBytes reads off head loads legal room
  refine ⟨fun c => ?ecc, ?faulted, ?saved, ?empty, ?illegal, ?noRoom, fun bs wk => ?restored⟩
  case ecc =>
    refine traps_of ctxsvEff (fun _ => rfl) fun e hf hp => ?_
    obtain ⟨hon, hl, hj, hecc⟩ := hp
    exact ctxsvEff_traps ⟨hon, hl, hj⟩ hecc
  case faulted =>
    refine ends_of ctxsvEff (fun _ => rfl) fun e hf hp => ?_
    subst hf
    obtain ⟨⟨hon, hecc, hl, hj, hal, hmask, harea, hidle⟩, hfault⟩ := hp
    exact (ctxsvEff_decides ⟨⟨hon, hl, hj⟩, hecc, hal, hmask, harea, hidle⟩).trans (if_pos ((faulted_iff e).mpr hfault))
  case saved =>
    refine ends_of ctxsvEff (fun _ => rfl) fun e hf hp => ?_
    subst hf
    obtain ⟨⟨hon, hecc, hl, hj, hal, hmask, harea, hidle⟩, hsound⟩ := hp
    refine (ctxsvEff_decides ⟨⟨hon, hl, hj⟩, hecc, hal, hmask, harea, hidle⟩).trans (if_neg fun h => ?_)
    obtain ⟨x, hx, hfault⟩ := (faulted_iff e).mp h
    exact hfault (hsound x hx)
  case empty =>
    refine ends_of ctxldEff (fun _ => rfl) fun e hf hp => ?_
    subst hf
    obtain ⟨⟨hon, hl, hj, hal, harea, h1, h2, h3, h4⟩, hzero⟩ := hp
    exact (ctxldEff_decides ⟨⟨hon, hl, hj⟩, hal, harea, h1, h2, h3, h4⟩).trans (if_pos hzero)
  case illegal =>
    refine ends_of ctxldEff (fun _ => rfl) fun e hf hp => ?_
    subst hf
    obtain ⟨⟨hon, hl, hj, hal, harea, h1, h2, h3, h4⟩, hsize, hbad⟩ := hp
    exact (ctxldEff_decides ⟨⟨hon, hl, hj⟩, hal, harea, h1, h2, h3, h4⟩).trans
      ((if_neg hsize).trans (if_pos ((illegal_iff _ _).mpr hbad)))
  case noRoom =>
    refine ends_of ctxldEff (fun _ => rfl) fun e hf hp => ?_
    subst hf
    obtain ⟨⟨hon, hl, hj, hal, harea, h1, h2, h3, h4⟩, hsize, hgood, hroom⟩ := hp
    exact (ctxldEff_decides ⟨⟨hon, hl, hj⟩, hal, harea, h1, h2, h3, h4⟩).trans
      ((if_neg hsize).trans ((if_neg fun hbad => (illegal_iff _ _).mp hbad hgood).trans (if_pos (Nat.lt_of_not_le hroom))))
  case restored =>
    refine ends_of ctxldEff (fun _ => rfl) fun e hf hp => ?_
    subst hf
    obtain ⟨⟨hon, hl, hj, hal, harea, h1, h2, h3, h4⟩, hsize, hgood, hroom, hbs, hwk, ⟨r1, r2, r3, r4⟩, hidle⟩ := hp
    exact (ctxldEff_decides ⟨⟨hon, hl, hj⟩, hal, harea, h1, h2, h3, h4⟩).trans
      ((if_neg hsize).trans ((if_neg fun hbad => (illegal_iff _ _).mp hbad hgood).trans
        ((if_neg (Nat.not_lt.mpr hroom)).trans (restores_stores hbs hwk ⟨r1, r2, r3, r4⟩ hidle))))

end Sys2Proof.Proofs.ContextImage

/-! SUPPORT. The requests of `eret`, of a freeze and of a gang launch as they arrive (R354, R393, R400). -/

namespace Sys2Proof.Proofs.SystemArrivals

open Sys2Proof.Machine
open Sys2Proof.Proofs.ThreadEvents (event_next)

variable {s : State} {p : Packet}

/-! ## `eret` (R400) -/

section Return

variable {slot act target : Nat}

theorem eretArrival_next (hp : readyPkt? s = some p) : exec .eretRequestArrival s = .next (eretArrives s p) := by
  show execEretRequestArrival s = _
  simp only [execEretRequestArrival, event, hp]

/-- The core or the slot that an `eret` names is none that holds a thread of its context. -/
def noThread (s : State) (p : Packet) (slot : Nat) : Prop :=
  s.hasCore p.dst = false ∨ isYard p.dst = true ∨ (s.core p.dst).ctx ≠ some p.asid ∨ 16 ≤ slot

theorem eretArrives_refuses (hb : p.body = .eret slot act target) (h : noThread s p slot) :
    eretArrives s p = answerWord s p (resWord stSTATE 0) := by
  simp only [eretArrives, hb]
  exact if_pos (h.imp_left ne_true_of_eq_false)

/-- An `eret` that its core takes up waits for a thread that it ends, or resumes one. -/
theorem eretArrives_acts (hb : p.body = .eret slot act target) (hcore : s.hasCore p.dst = true) (hyard : isYard p.dst = false)
    (hctx : (s.core p.dst).ctx = some p.asid) (hslot : slot < 16) :
    eretArrives s p =
      if endWaits s p.dst slot act = true then s
      else match resume s p.dst slot act target with
        | (s', true) => answerWord s' p (resWord stOK 0)
        | (_, false) => answerWord s p (resWord stSTATE 0) := by
  have hthere : ¬ (¬ s.hasCore p.dst = true ∨ isYard p.dst = true ∨ (s.core p.dst).ctx ≠ some p.asid ∨ 16 ≤ slot) := by
    rintro (h | h | h | h)
    · exact h hcore
    · exact absurd h (ne_true_of_eq_false hyard)
    · exact h hctx
    · omega
  simp only [eretArrives, hb]
  exact if_neg hthere

end Return

/-! ## Arrivals at a frozen core (R393) -/

section Frozen

variable {id : Nat}

theorem spillCatch_acts (hw : s.who = [id]) (hp : s.pkt? id = some p) (hh : p.here s = true) (hc : p.body.caught = true) :
    spillCatch s = if (s.core p.dst).frozen = true then spillPkt s p.dst p else if p.body.own = true then replay s id else s := by
  simp only [spillCatch, hw, hp]
  exact if_neg (not_not_intro ⟨hh, hc⟩)

end Frozen

/-! ## Gang launch (R354) -/

section Launch

variable {id : Nat} {g : Gang}

/-- The state in which a gang is told, as `g'`, that a device has answered. -/
def toldGang (s : State) (p : Packet) (id : Nat) (g' : Gang) : State := answer (modGang s id fun _ => g') p .quiet

/-- The gang with a device less to wait for. -/
def heard (g : Gang) (p : Packet) : Gang := { g with waits := g.waits.filter (· != eidDev p.dst) }

/-- What a prepare does once it is known how its device answers: the gang's last device decides it. -/
def prepareTold (s : State) (p : Packet) (id : Nat) (g' : Gang) : State :=
  if g'.waits = [] then gangDecide (toldGang s p id g') g' else toldGang s p id g'

/-- The state in which a device has done with reading the template. -/
def readDone (s : State) (p : Packet) (g : Gang) : State :=
  farDone s (dieUnit (eidDev p.dst * 4 + g.die)) (unitSlot g.id) 0

theorem isEmpty_ite {α β : Type} (l : List α) (a b : β) : (if l.isEmpty = true then a else b) = if l = [] then a else b :=
  ite_congr (propext List.isEmpty_iff) (fun _ => rfl) fun _ => rfl

theorem gangPrepares_refuses {st : Nat} (hp : readyPkt? s = some p) (hb : p.body = .gangPrep id)
    (hg : s.gangs.find? (·.id == id) = some g) (h : gangPrepareOn s (eidDev p.dst) g = .error (.inr st)) :
    gangPrepares s = prepareTold (readDone s p g) p id (heard { g with refusals := g.refusals ++ [(eidDev p.dst, st)] } p) := by
  simp only [gangPrepares, hp, hb, hg, h]
  exact isEmpty_ite _ _ _

theorem gangPrepares_makes {t : State} (hp : readyPkt? s = some p) (hb : p.body = .gangPrep id)
    (hg : s.gangs.find? (·.id == id) = some g) (h : gangPrepareOn s (eidDev p.dst) g = .ok t) :
    gangPrepares s = prepareTold t p id (heard { g with prepared := g.prepared ++ [eidDev p.dst] } p) := by
  simp only [gangPrepares, hp, hb, hg, h]
  exact isEmpty_ite _ _ _

variable {dev : Nat}

/-- A device on which a gang may be prepared: it hosts the context, its tick is locked, and the queue is there. -/
def Up (s : State) (dev : Nat) (g : Gang) : Prop :=
  (s.ctx? dev g.asid).isSome = true ∧ (s.dev dev).locked = true ∧ (queueRing s (dev * 4 + g.die) g.asid g.queue).isSome = true

theorem up_iff (s : State) (dev : Nat) (g : Gang) : ¬ Up s dev g ↔
    ((s.ctx? dev g.asid).isNone = true ∨ ¬ (s.dev dev).locked = true ∨
      (queueRing s (dev * 4 + g.die) g.asid g.queue).isNone = true) := by
  unfold Up
  rw [Classical.not_and_iff_not_or_not, Classical.not_and_iff_not_or_not, Bool.not_eq_true, Option.isSome_eq_false_iff, Bool.not_eq_true (Option.isSome _),
    Option.isSome_eq_false_iff]

theorem gangPrepareOn_down (h : ¬ Up s dev g) : gangPrepareOn s dev g = .error (.inr stSTATE) := by
  unfold gangPrepareOn
  exact if_pos ((up_iff s dev g).mp h)

/-- A prepare that reads its template and its rename words: the checks decide. -/
theorem gangPrepareOn_reads {t : Tmpl} {rb : List Byte} (h : Up s dev g)
    (ht : readTemplate s (dieUnit (dev * 4 + g.die)) (unitSlot g.id) g.asid g.template = .ok t)
    (hr : engineAll s (dieUnit (dev * 4 + g.die)) (unitSlot g.id) s.nextId g.asid false (g.rename : Int) 128 = .ok rb) :
    gangPrepareOn s dev g =
      match checkTemplate (farDone s (dieUnit (dev * 4 + g.die)) (unitSlot g.id) 0) dev g.asid (dev * 4 + g.die) t (some g.gid) with
      | .error st => .error (.inr st)
      | .ok _ => .ok (makeInst (farDone s (dieUnit (dev * 4 + g.die)) (unitSlot g.id) 0) dev g.asid (dev * 4 + g.die) g.gid g.queue t
          (words rb 16) (some g.tstart)) := by
  simp only [gangPrepareOn, ht, hr]
  exact if_neg fun hno => (up_iff s dev g).mpr hno h

theorem gangCommits_aborts (hp : readyPkt? s = some p) (hb : p.body = .gangCommit id)
    (hg : s.gangs.find? (·.id == id) = some g) (hrest : g.waits.filter (· != eidDev p.dst) ≠ []) (hphase : g.phase ≠ 2) :
    gangCommits s = toldGang (gangAbort s (eidDev p.dst) g.asid g.gid) p id (heard g p) := by
  simp only [gangCommits, hp, hb, hg, if_neg hphase]
  exact if_pos fun h => hrest (List.isEmpty_iff.mp h)

theorem gangCommits_commits (hp : readyPkt? s = some p) (hb : p.body = .gangCommit id)
    (hg : s.gangs.find? (·.id == id) = some g) (hphase : g.phase = 2) :
    gangCommits s =
      let t := toldGang { s with insts := s.insts.map fun (d, i) =>
        (d, if d = eidDev p.dst ∧ i.asid = g.asid ∧ i.gid = g.gid then { i with committed := true } else i) } p id (heard g p)
      if g.waits.filter (· != eidDev p.dst) = [] then gangAnswer t (heard g p) (resWord stOK (g.gid + 2 ^ 16 * g.devs.length))
      else t := by
  simp only [gangCommits, hp, hb, hg, if_pos hphase, ite_not]
  exact isEmpty_ite _ _ _

theorem gangArms_arms {asid gid d : Nat} {i : Inst} {t : Nat} (hw : s.who = [dev, asid, gid])
    (hi : s.insts.find? (fun (d, i) => d == dev && i.asid == asid && i.gid == gid) = some (d, i)) (ha : i.armAt = some t)
    (hc : i.committed = true) (ht : t ≤ (s.dev dev).tick) :
    gangArms s =
      let s' : State := { s with insts := s.insts.map fun (d, x) =>
        (d, if d = dev ∧ x.asid = asid ∧ x.gid = gid then { x with armAt := none, since := dieCycle s x.die } else x) }
      ((instRecs s' dev asid gid).map (·.handle)).foldl (armInst i.queue) s' := by
  simp only [gangArms, hw, hi, ha]
  exact if_neg (not_or_intro (not_not_intro hc) (Nat.not_lt.mpr ht))

end Launch

/-- Settles O44. -/
theorem systemEvents : Obligations.SystemEvents := by
  unfold Obligations.SystemEvents
  intro s p
  refine ⟨fun slot act target hp hb => ⟨?refused, ?waits, ?resumes⟩, ?caught, ?replayed, fun id g hp hg => ?_, ?arms⟩
  case refused => exact fun h => (eretArrival_next hp).trans (congrArg Host.Outcome.next (eretArrives_refuses hb h))
  case waits =>
    exact fun hcore hyard hctx hslot hend => (eretArrival_next hp).trans
      (congrArg Host.Outcome.next ((eretArrives_acts hb hcore hyard hctx hslot).trans (if_pos hend)))
  case resumes =>
    exact fun hcore hyard hctx hslot hend => (eretArrival_next hp).trans
      (congrArg Host.Outcome.next ((eretArrives_acts hb hcore hyard hctx hslot).trans (if_neg (ne_true_of_eq_false hend))))
  case caught => exact fun id hw hp hh hfrozen hc => event_next ((spillCatch_acts hw hp hh hc).trans (if_pos hfrozen))
  case replayed =>
    exact fun id hw hp hh hfrozen hc hown => event_next
      ((spillCatch_acts hw hp hh hc).trans ((if_neg (ne_true_of_eq_false hfrozen)).trans (if_pos hown)))
  case arms => exact fun dev asid gid d i t hw hi ha hc ht => event_next (gangArms_arms hw hi ha hc ht)
  intro dev rest told die off up read refused
  refine ⟨fun hb hdown => ?down, fun t rb st hb hup hread hst => ?turned, fun t rb x hb hup hread hx => ?makes,
    fun hb hrest hphase => ?aborts, fun hb hphase => ?commits⟩
  case down => exact event_next (gangPrepares_refuses hp hb hg (gangPrepareOn_down hdown))
  case turned =>
    have hon := gangPrepareOn_reads hup hread.1 hread.2
    exact event_next (gangPrepares_refuses hp hb hg (hon.trans (by rw [hst])))
  case makes =>
    have hon := gangPrepareOn_reads hup hread.1 hread.2
    exact event_next (gangPrepares_makes hp hb hg (hon.trans (by rw [hx])))
  case aborts => exact event_next (gangCommits_aborts hp hb hg hrest hphase)
  case commits => exact event_next (gangCommits_commits hp hb hg hphase)

end Sys2Proof.Proofs.SystemArrivals

/-! SUPPORT. The steps of a dispatcher (R281, R283 to R296, R302, R311). -/

namespace Sys2Proof.Proofs.DispatcherSteps

open Sys2Proof.Machine
open Sys2Proof.Proofs.ThreadEvents (event_next)

variable {s : State} {h : Nat} {r : Rec}

/-! ## Queues and selection (R281, R283, R284) -/

section Queues

variable {die asid q k : Nat} {ring : Ring}

theorem queueRingTake_faults {c : Nat} (hw : s.who = [die, asid, q]) (ht : takeable s die asid q = some (k, ring))
    (hx : xlBlock s (die / 4) asid (ring.entry ring.take) 8 false = .error c) :
    queueRingTake s = freezeQueue (postDispatch s (die / 4) asid
      { code := 12, cause := c, unit := 5, lane := 255, va := ring.entry ring.take } { eid := dieEid die, queue := q }) die asid q := by
  simp only [queueRingTake, hw, ht, hx]

theorem queueRingTake_submits {ek : Nat} (hw : s.who = [die, asid, q]) (ht : takeable s die asid q = some (k, ring))
    (hx : xlBlock s (die / 4) asid (ring.entry ring.take) 8 false = .ok ek) :
    queueRingTake s = submitTaken (takeDone s k) die asid q (s.rd ek 8 % 2 ^ 32) ring.take := by
  simp only [queueRingTake, hw, ht, hx]

theorem priorityAging_ages (hw : s.who = [h]) :
    priorityAging s = s.modRec h fun r => if r.tabled then { r with prio := prioOf s r } else r := by
  simp only [priorityAging, hw]

theorem dispatchSelection_selects (hw : s.who = [die]) : dispatchSelection s = selectOnce (selectOnce s die) die := by
  simp only [dispatchSelection, hw]

theorem selectOnce_binds {b : Nat} {ahead : Bool} (hs : selection s die = some (r, b, ahead)) :
    selectOnce s die = bindTask (leaveTable
      (s.modDie die fun d => { d with grants := d.grants.set (prioOf s r) ((r.queue + 1) % 256) }) r.handle) r.handle b ahead := by
  simp only [selectOnce, hs]

end Queues

/-! ## Prefetches (R287, R290, R295) -/

section Prefetch

variable {j : Nat} {o : TaskOp} {bs : List Byte} {s' : State} {c va : Nat}

theorem operandPrefetch_lands {q : Nat} {rest : List (Nat × List Byte)} (hw : s.who = [h, j]) (hr : s.rec? h = some r)
    (ho : r.ops[j]? = some o) (hj : j ≠ 4) (hf : o.fetch = 1) (hb : o.buf = (q, bs) :: rest) :
    operandPrefetch s = landOp s r j o := by
  simp only [operandPrefetch, hw, hr, if_neg hj, ho, if_neg (not_not_intro hf)]
  exact if_pos fun hnil => List.cons_ne_nil _ _ (hb.symm.trans hnil)

/-- The state with the part `bs` from place `q` of an operand written up to its first line's end, `rest` still to be written. -/
def landed (s : State) (r : Rec) (j : Nat) (o : TaskOp) (q : Nat) (bs : List Byte) (rest : List (Nat × List Byte)) : State :=
  let n := 64 - (o.lmofs + q) % 64
  let t := (opCores r o).foldl (fun s e =>
    match s.binding? e r.handle with
    | some b => putBytes s (((List.range (min n bs.length)).map fun i => lmKey e (b.dataLo + o.lmofs + q + i)).zip bs)
    | none => s) s
  t.setRec { r with ops := r.ops.set j (TaskOp.settled { o with
    buf := if n < bs.length then (q + n, bs.drop n) :: rest else rest }) }

theorem landOp_landed {q : Nat} {rest : List (Nat × List Byte)} (hb : o.buf = (q, bs) :: rest) :
    landOp s r j o = landed s r j o q bs rest := by
  simp only [landOp, hb]
  rfl

theorem operandPrefetch_reads (hw : s.who = [h, j]) (hr : s.rec? h = some r) (ho : r.ops[j]? = some o) (hj : j ≠ 4)
    (hf : o.fetch = 1) (hb : o.buf = []) (hline : fetchLine s r (addrOf o.src) o.len o.got = .ok bs) :
    operandPrefetch s =
      fetchDone (((h, j) :: fellows s h j o.got o).foldl (fun s x => takeLine s x.1 x.2 o.got bs) s) r (addrOf o.src) o.got := by
  simp only [operandPrefetch, hw, hr, if_neg hj, ho, if_neg (not_not_intro hf), if_neg (not_not_intro hb), hline]

theorem prefetchFault_operand (hw : s.who = [h, j]) (hr : s.rec? h = some r) (ho : r.ops[j]? = some o) (hj : j ≠ 4)
    (hf : o.fetch = 1) (hb : o.buf = []) (hline : fetchLine s r (addrOf o.src) o.len o.got = .error (.fault s' c va)) :
    prefetchFault s = taskFault (postDispatch (s'.setRec { r with ops := r.ops.set j { o with fetch := 3 } }) (State.hDev h) r.asid
        { code := 12, cause := c, unit := 5, index := j, lane := 255, va := va } (taskOrigin r (r.berth.getD 0))) h := by
  simp only [prefetchFault, hw, hr, if_neg hj, ho, hline]
  exact if_neg (not_or_intro (not_not_intro hf) (not_not_intro hb))

theorem prefetchFault_text (hw : s.who = [h, 4]) (hr : s.rec? h = some r) (ht : r.text = 1)
    (hline : textLine s r = .error (.fault s' c va)) :
    prefetchFault s = taskFault (postDispatch (s'.setRec { r with text := 3 }) (State.hDev h) r.asid
      { code := 12, cause := c, unit := 6, lane := 255, va := va } (taskOrigin r (r.berth.getD 0))) h := by
  simp only [prefetchFault, hw, hr, if_true, hline]
  exact if_neg (not_not_intro ht)

theorem operandPrefetch_text (hw : s.who = [h, 4]) (hr : s.rec? h = some r) (ht : r.text = 1) (hline : textLine s r = .ok bs) :
    operandPrefetch s =
      let n := r.textGot + bs.length
      (fetchDone (r.loads.foldl (fun s e =>
        match codeAt (s.core e) r.code r.codegr with
        | some g => putBytes s (((List.range bs.length).map fun i => lmKey e (4096 * g + r.textGot + i)).zip bs)
        | none => s) s) r r.code r.textGot).setRec { r with textGot := n, text := if r.codegr * 4096 ≤ n then 2 else 1 } := by
  simp only [operandPrefetch, hw, hr, if_true, hline]
  exact if_neg (not_not_intro ht)

end Prefetch

/-! ## Threads and completions (R289, R292, R311, R387) -/

theorem threadCreation_creates (hw : s.who = [h]) (hr : s.rec? h = some r) (hrun : runnable r = true) :
    threadCreation s = (State.berthCores r).foldl (createOn r) (s.setRec { r with state := .running }) := by
  simp only [threadCreation, hw, hr]
  exact if_pos hrun

section Completion

/-- What a completion does once its threads and commands have ended and its dirty windows are written back. -/
theorem taskCompletion_goesOn (hw : s.who = [h]) (hr : s.rec? h = some r) (ht : s.taskThreads h = [])
    (hc : commandsOf s r = false) (hst : r.state = .done)
    (hclean : (State.ranOn r).find? (fun e => (s.core e).stash.any (dirtyIn s e h (doneScope s r))) = none)
    (hleft : leftWrites s r = false) :
    taskCompletion s =
      if suspends s r = true then
        if outstanding s 3 (completionJoin s r 3) = true then s
        else suspendCheck (suspendTask s r) (State.hDev h) r.asid r.gid
      else finishTask s r := by
  have hends : ¬ ((r.state ≠ .done ∧ r.state ≠ .cancelling) ∨ ¬ (s.taskThreads h).isEmpty = true ∨ commandsOf s r = true) := by
    rintro (hne | hne | hne)
    · exact hne.1 hst
    · exact hne (List.isEmpty_iff.mpr ht)
    · exact absurd hne (ne_true_of_eq_false hc)
  have hdone : r.state ≠ .cancelling := fun hcan => absurd (hst.symm.trans hcan) (by decide)
  simp only [taskCompletion, hw, hr, hclean]
  exact (if_neg hends).trans ((if_neg hdone).trans (if_neg (ne_true_of_eq_false hleft)))

theorem taskCompletion_cancels (hw : s.who = [h]) (hr : s.rec? h = some r) (ht : s.taskThreads h = [])
    (hc : commandsOf s r = false) (hst : r.state = .cancelling) (hleft : leftWrites s r = false) :
    taskCompletion s = cancelDone s r := by
  have hends : ¬ ((r.state ≠ .done ∧ r.state ≠ .cancelling) ∨ ¬ (s.taskThreads h).isEmpty = true ∨ commandsOf s r = true) := by
    rintro (hne | hne | hne)
    · exact hne.2 hst
    · exact hne (List.isEmpty_iff.mpr ht)
    · exact absurd hne (ne_true_of_eq_false hc)
  simp only [taskCompletion, hw, hr]
  exact (if_neg hends).trans ((if_pos hst).trans (if_neg (ne_true_of_eq_false hleft)))

end Completion

/-! ## Quiescence (R302) -/

/-- The record of a quiescence, with the fault of its snapshot when there is one. -/
def quietInfo (f : Option (Nat × Nat)) : TrapInfo :=
  { code := 0x20, cause := (f.map (·.1)).getD 0, lane := 255, va := (f.map (·.2)).getD 0 }

theorem quietInfo_eq (f : Option (Nat × Nat)) :
    (match f with
      | some (c, va) => ({ code := 0x20, cause := c, lane := 255, va := va } : TrapInfo)
      | none => { code := 0x20, lane := 255 }) = quietInfo f := by
  cases f with
  | none => exact congrArg id rfl
  | some x => exact congrArg id rfl

theorem quiescenceExpiry_reports {dev asid gid d n : Nat} {i : Inst} {s' : State} {f : Option (Nat × Nat)}
    (hw : s.who = [dev, asid, gid])
    (hi : s.insts.find? (fun (d, i) => d == dev && i.asid == asid && i.gid == gid) = some (d, i)) (htold : i.told = false)
    (harm : i.armAt = none) (hdue : 2 ^ i.qexp ≤ dieCycle s i.die - i.since)
    (hsnap : writeSnap dev asid (if i.snap = 0 then [] else (snapshot s dev asid gid).take (i.snapLen / 16)) i.snap 0 s =
      (s', n, f)) :
    quiescenceExpiry s = postDispatch { s' with insts := s'.insts.map fun (d, x) =>
        (d, if d = dev ∧ x.asid = asid ∧ x.gid = gid then { x with told := true } else x) }
      dev asid (quietInfo f) { eid := dieEid i.die, queue := i.queue, gid := gid, aux := n } := by
  have hreports : ¬ (i.told = true ∨ i.armAt.isSome = true ∨ dieCycle s i.die - i.since < 2 ^ i.qexp) := by
    rintro (ht | ha | hlt)
    · exact absurd ht (ne_true_of_eq_false htold)
    · rw [harm] at ha
      exact absurd ha Bool.false_ne_true
    · omega
  simp only [quiescenceExpiry, hw, hi, hsnap]
  exact (if_neg hreports).trans (congrArg (postDispatch _ dev asid · _) (quietInfo_eq f))

/-- Settles O45. -/
theorem dispatcherEvents : Obligations.DispatcherEvents := by
  unfold Obligations.DispatcherEvents
  intro s
  refine ⟨fun die asid q k ring hw ht => ⟨?faults, ?submits⟩, ?ages, ?selects, ?binds,
    fun h j r o hw hr ho hj hf => ⟨?lands, ?reads, ?operandFault⟩, ?textFault, ?text, ?creates,
    fun h r hw hr ht hc => ⟨?cancels, fun hst hclean hleft => ⟨?finishes, ?suspended⟩⟩, ?quiet⟩
  case faults => exact fun c hx => event_next (queueRingTake_faults hw ht hx)
  case submits => exact fun ek hx => event_next (queueRingTake_submits hw ht hx)
  case ages => exact fun h r hw _ _ => event_next (priorityAging_ages hw)
  case selects => exact fun die hw => event_next (dispatchSelection_selects hw)
  case binds => exact fun die r b ahead hs => selectOnce_binds hs
  case lands => exact fun q bs rest hb => event_next ((operandPrefetch_lands hw hr ho hj hf hb).trans (landOp_landed hb))
  case reads => exact fun bs hb hline => event_next (operandPrefetch_reads hw hr ho hj hf hb hline)
  case operandFault => exact fun s' c va hb hline => event_next (prefetchFault_operand hw hr ho hj hf hb hline)
  case textFault => exact fun h r s' c va hw hr ht hline => event_next (prefetchFault_text hw hr ht hline)
  case text => exact fun h r bs hw hr ht hline => event_next (operandPrefetch_text hw hr ht hline)
  case creates => exact fun h r hw hr hrun => event_next (threadCreation_creates hw hr hrun)
  case cancels => exact fun hst hleft => event_next (taskCompletion_cancels hw hr ht hc hst hleft)
  case finishes =>
    exact fun hno => event_next ((taskCompletion_goesOn hw hr ht hc hst hclean hleft).trans (if_neg (ne_true_of_eq_false hno)))
  case suspended =>
    exact fun hsus hout => event_next ((taskCompletion_goesOn hw hr ht hc hst hclean hleft).trans
      ((if_pos hsus).trans (if_neg (ne_true_of_eq_false hout))))
  case quiet =>
    exact fun dev asid gid d i hw hi htold harm hdue s' n f hsnap =>
      event_next (quiescenceExpiry_reports hw hi htold harm hdue hsnap)

end Sys2Proof.Proofs.DispatcherSteps

/-! SUPPORT. The steps of memory (R187, R188, R206, R213, R214, R219, R231, R240). -/

namespace Sys2Proof.Proofs.MemorySteps

open Sys2Proof.Machine
open Sys2Proof.Proofs.ThreadEvents (event_next)

variable {s : State} {a : Access}

/-! ## Accesses at their home -/

section Home

theorem dueAccess_due {id : Nat} {atomic : Bool} (hw : s.who = [id]) (ha : s.accs.find? (·.id == id) = some a)
    (hat : a.atomic = atomic) (hmay : mayPerform s a = true) (hf : (s.core a.eid).frozen = false) :
    dueAccess s atomic = some a := by
  simp only [dueAccess, hw, ha, Option.bind_some]
  exact if_pos ⟨hat, hmay, fun h => absurd h.2 (ne_true_of_eq_false hf)⟩

theorem homeAccess_next (hd : dueAccess s false = some a) : exec .homeAccess s = .next (performPiece s a) := by
  show execHomeAccess s = _
  simp only [execHomeAccess, event, hd]

theorem atomicAtHome_next (hd : dueAccess s true = some a) : exec .atomicAtHome s = .next (atomicAtHome s a) := by
  show execAtomicAtHome s = _
  simp only [execAtomicAtHome, event, hd]

variable {o n : Nat} {rest : List (Nat × Nat)}

/-- The bytes of the piece in hand. -/
def pieceKeys (a : Access) (o n : Nat) : List Nat := (List.range n).map fun i => a.keys.getD (o + i) 0

/-- The state in which an access goes on as `b`. -/
def later (s : State) (a b : Access) : State := { s with accs := s.accs.map fun x => if x.id = a.id then b else x }

/-- A store's piece written. -/
def stored (s : State) (a : Access) (o n d : Nat) : State :=
  putBytes s ((pieceKeys a o n).zip (toBytes n (d / 2 ^ (8 * o))))

/-- What a load's piece leaves in the caches, and its value so far. -/
def loaded (s : State) (a : Access) (o : Nat) : State :=
  if a.fill then l1dFill s a (a.keys.getD o 0) else if a.drop then dropOwn s a.eid (a.keys.getD o 0) else s
def loadedNum (s : State) (a : Access) (o n : Nat) : Nat := a.got + pieceNum s a (pieceKeys a o n) * 2 ^ (8 * o)

theorem homePiece_store {d : Nat} (hp : a.pieces = (o, n) :: rest) (hop : a.op = .store d) :
    homePiece s a =
      if rest.isEmpty = true then
        if homeError s a (pieceKeys a o n) = true then failHome (stored s a o n d) a else endHome (stored s a o n d) a none
      else later (stored s a o n d) a { a with pieces := rest } := by
  simp only [homePiece, hp, hop]
  exact ite_congr rfl (fun _ => rfl) fun _ => rfl

theorem homePiece_load (hp : a.pieces = (o, n) :: rest) (hop : a.op = .load) :
    homePiece s a =
      if homeError s a (pieceKeys a o n) = true then failHome s a
      else if rest.isEmpty = true then
        endHome (loaded s a o) a
          (some (if a.ty = 99 then loadedNum s a o n else loadFit a.ty a.dw a.keys.length (loadedNum s a o n)))
      else later (loaded s a o) a { a with pieces := rest, got := loadedNum s a o n } := by
  simp only [homePiece, hp, hop]
  exact ite_congr rfl (fun _ => rfl) fun _ => ite_congr rfl (fun _ => rfl) fun _ => rfl

theorem homePiece_nibble {hi : Bool} {w : Nat} (hp : a.pieces = (o, n) :: rest) (hop : a.op = .nibble hi w) :
    homePiece s a =
      if homeError s a (pieceKeys a o n) = true then failHome s a
      else
        let old := seenNum s a.eid a.slot a.id (pieceKeys a o n)
        later s a { a with op := .store (if hi then old % 16 + 16 * (w % 16) else old / 16 * 16 + w % 16) } := by
  simp only [homePiece, hp, hop]
  exact ite_congr rfl (fun _ => rfl) fun _ => rfl

theorem performPiece_far (h : a.isNear = false) : performPiece s a = homePiece s a := if_neg (ne_true_of_eq_false h)

end Home

/-! ## Atomics (R206, R231) -/

section Atomics

/-- The state in which no L1D of the atomic's tile holds its line. -/
def lineLeft (s : State) (a : Access) : State :=
  match a.keys with
  | k :: _ => dropOwn (dropLine s (eidTile a.eid) a.eid k) a.eid k
  | [] => s

theorem lineLeft_cons {k : Nat} {ks : List Nat} (hk : a.keys = k :: ks) :
    lineLeft s a = dropOwn (dropLine s (eidTile a.eid) a.eid k) a.eid k := by
  simp only [lineLeft, hk]

/-- The new value that an atomic writes, if it writes one. -/
def newOf (s : State) (a : Access) : Option Nat :=
  match a.op with
  | .amo op ty b => some (amoNew op ty (s.numAt a.keys) b)
  | .cas cmp v => if s.numAt a.keys = cmp then some v else none
  | _ => none

def written (a : Access) (t : State) : Option Nat → State
  | some v => putBytes t (a.keys.zip (toBytes a.keys.length v))
  | none => t

/-- The old value goes to the result of the atomic. -/
def tellOld (s : State) (a : Access) (t : State) : State :=
  let old := if codeSgn a.ty then loadFit a.ty a.dw a.keys.length (s.numAt a.keys) else fitRaw a.dw (s.numAt a.keys)
  if (t.core a.eid).frozen = true ∧ (a.pkt? t).isNone = true then reply (endAccess t a.id) a.eid a.slot a.pend [(a.lane, old)]
  else endHome t a (some old)

theorem performAtomic_eq (s : State) (a : Access) :
    performAtomic s a =
      if homeError s a a.keys = true then failHome s a else tellOld s a (written a (lineLeft s a) (newOf s a)) := by
  unfold performAtomic
  exact ite_congr rfl (fun _ => rfl) fun _ => (by unfold tellOld written lineLeft newOf; exact ite_congr rfl (fun _ => rfl) fun _ => rfl)

variable {k : Nat} {ks : List Nat}

theorem atomicAtHome_global (hk : a.keys = k :: ks) (hlm : keyIsLm k = false) : atomicAtHome s a = performAtomic s a := by
  simp only [atomicAtHome, hk]
  exact if_neg (ne_true_of_eq_false hlm)

theorem performAtomic_writes (hk : a.keys = k :: ks) (he : homeError s a a.keys = false) :
    performAtomic s a =
      tellOld s a (written a (dropOwn (dropLine s (eidTile a.eid) a.eid k) a.eid k) (newOf s a)) := by
  rw [performAtomic_eq, if_neg (ne_true_of_eq_false he), lineLeft_cons hk]

theorem written_cas (a : Access) (t : State) (c : Prop) [Decidable c] (v : Nat) :
    written a t (if c then some v else none) = if c then putBytes t (a.keys.zip (toBytes a.keys.length v)) else t :=
  apply_ite (written a t) c (some v) none

theorem atomicAtHome_queues (hk : a.keys = k :: ks) (hlm : keyIsLm k = true) (hf : (s.core (keyCore k)).frozen = false)
    (hq : ((s.core (keyCore k)).handlerQ.contains (.atomic a.id) || s.net.any fun p => p.body == .lmAtomic a.id) = false)
    (hroom : (s.core (keyCore k)).handlerQ.length < 64) :
    atomicAtHome s a = s.setCore (keyCore k) { s.core (keyCore k) with
        handlerQ := (s.core (keyCore k)).handlerQ ++ [.atomic a.id] } := by
  simp only [atomicAtHome, hk]
  exact (if_pos hlm).trans ((if_neg (ne_true_of_eq_false hq)).trans
    ((if_neg (ne_true_of_eq_false hf)).trans (if_neg (Nat.not_le.mpr hroom))))

theorem lmAtomicMicrocode_performs {eid id slot : Nat} {rest : List HMsg} (hw : s.who = [eid])
    (hq : (s.core eid).handlerQ = .atomic id :: rest) (hslot : freeHandler (s.core eid) = some slot)
    (hf : (s.core eid).frozen = false) (ha : s.accs.find? (·.id == id) = some a) :
    lmAtomicMicrocode s = performAtomic (s.setCore eid { s.core eid with handlerQ := rest }) a := by
  simp only [lmAtomicMicrocode, hw, hq, hslot, ha]
  exact if_neg (ne_true_of_eq_false hf)

end Atomics

/-! ## Uncorrectable errors -/

theorem uncorrectable_memory {key : Nat} (h : key < 2 ^ 70) (hb : s.bad.contains key = false) :
    uncorrectable s key = { s with bad := s.bad ++ [key] } :=
  (if_pos h).trans (if_neg (ne_true_of_eq_false hb))

theorem uncorrectable_thread {eid slot k : Nat} (hs : slot < 32) (hk : k < 2 ^ 15) :
    uncorrectable s (2 ^ 70 + (32 * eid + slot) * 2 ^ 15 + k) =
      s.modThr eid slot fun t => { t with ecc := k :: t.ecc.filter (· != k) } := by
  have hx : 2 ^ 70 + (32 * eid + slot) * 2 ^ 15 + k - 2 ^ 70 = (32 * eid + slot) * 2 ^ 15 + k := by omega
  have hcore : ((32 * eid + slot) * 2 ^ 15 + k) / 2 ^ 20 = eid := by omega
  have hslot : ((32 * eid + slot) * 2 ^ 15 + k) / 2 ^ 15 % 32 = slot := by omega
  have hplace : ((32 * eid + slot) * 2 ^ 15 + k) % 2 ^ 15 = k := by omega
  rw [uncorrectable, if_neg (by omega), hx]
  dsimp only
  rw [hcore, hslot, hplace]

/-! ## Page walks (R213, R214) -/

theorem walkStart_starts {die i : Nat} (hw : s.who = [die])
    (hi : (firstIdx (s.die die).walks.length fun i => ((s.die die).walks[i]?).any fun w => !w.running) = some i)
    (hroom : ((s.die die).walks.filter (·.running)).length < 64) :
    walkStart s = s.modDie die fun d => { d with walks := d.walks.modify i fun w => { w with running := true } } := by
  simp only [walkStart, hw, State.modDie, hi]
  rw [if_pos hroom]

section Walk

variable {die asid vpn : Nat} {w : Walk}

/-- The die without the walk that has ended. -/
def walked (s : State) (die asid vpn : Nat) : State :=
  s.modDie die fun d => { d with walks := d.walks.filter fun x => !(x.asid == asid && x.vpn == vpn) }

theorem pageWalk_translates {t : TlbEntry} (hw : s.who = [die, asid, vpn])
    (hwalk : ((s.die die).walks.find? fun w => w.asid == asid && w.vpn == vpn && w.running) = some w)
    (ht : walk (walked s die asid vpn) (die / 4) asid vpn = .ok t) :
    pageWalk s = w.slots.foldl (fun s (e, i) =>
      let x := engineWalked s e asid vpn (.ok t)
      if i = engineSlot then x else x.modCore e fun c => { c with tlb := tlbPut 64 c.tlb t }) (walked s die asid vpn) := by
  unfold walked at ht
  simp only [pageWalk, hw, hwalk, ht, walked]

theorem pageWalk_faults {c : Nat} (hw : s.who = [die, asid, vpn])
    (hwalk : ((s.die die).walks.find? fun w => w.asid == asid && w.vpn == vpn && w.running) = some w)
    (ht : walk (walked s die asid vpn) (die / 4) asid vpn = .error c) :
    pageWalk s = w.slots.foldl (fun s (e, i) =>
      if i = engineSlot then engineWalked s e asid vpn (.error c)
      else s.modThr e i fun t => { t with walkFault := some (asid, vpn, c) }) (walked s die asid vpn) := by
  unfold walked at ht
  simp only [pageWalk, hw, hwalk, ht, walked]

end Walk

/-! ## Releases (R231, R240) -/

section Releases

variable {eid slot id : Nat} {t : Thread}

theorem joinComplete_completes {j : Join} (hw : s.who = [eid, slot, id]) (ht : s.thr? eid slot = some t)
    (hj : t.joins.find? (·.id == id) = some j) (hc : j.complete s = true) :
    joinComplete s =
      let s' := tryFreeze (s.modThr eid slot fun t => { t with joins := t.joins.filter (·.id != id) }) eid
      if j.pend = 0 then s' else finishPend s' eid slot j.pend [] := by
  simp only [joinComplete, hw, ht, Option.bind_some, hj]
  exact if_pos hc

theorem tlbinvAck_replies {p : Pend} (hw : s.who = [eid, slot, id]) (ht : s.thr? eid slot = some t)
    (hp : t.pend.find? (·.id == id) = some p) (htlb : p.tlb = true) (hneed : p.need ≠ 0)
    (hdone : (s.accs.any fun a => decide (a.id < id) && eidDev a.eid == eidDev eid && (s.core a.eid).ctx == (s.core eid).ctx) = false) :
    tlbinvAck s = reply s eid slot id [(0, 0)] := by
  simp only [tlbinvAck, hw, ht, Option.bind_some, hp]
  exact (if_neg (ne_true_of_eq_false hdone)).trans (if_pos ⟨htlb, hneed⟩)

end Releases

/-! ## Stash windows (R187, R188) -/

section Stash

variable {eid gran i g : Nat} {w : Stash} {x : StashGr}

theorem stashFill_fills (hw : s.who = [eid, gran]) (hg : (s.core eid).stashOf (4096 * gran) = some (i, g)) :
    stashFill s = fillGran s eid i g := by
  simp only [stashFill, hw, hg]

theorem stashWriteback_writes (hw : s.who = [eid, gran]) (hg : (s.core eid).stashOf (4096 * gran) = some (i, g))
    (hwin : (s.core eid).stash[i]? = some w) (hx : granOf s eid i g = some x) :
    stashWriteback s = (wbBytes eid ((s.core eid).ctx.getD 0) i g (w.lo + 4096 * g) (w.va + 4096 * g) (runsOf (dirtyOffs x)) s).1 := by
  simp only [stashWriteback, hw, hg, hwin, hx]

/-- A granule is filled when it is wanted and empty or stale, a stale one once no earlier access to it is on its way. -/
def Due (s : State) (eid g : Nat) (w : Stash) (x : StashGr) : Prop :=
  (x.filled = false ∨ x.stale = true) ∧ x.want = true ∧ (x.stale = true → granInUse s eid (w.lo / 4096 + g) = false)

theorem due_iff (s : State) (eid g : Nat) (w : Stash) (x : StashGr) : ¬ Due s eid g w x ↔
    ((x.filled = true ∧ ¬ x.stale = true) ∨ ¬ x.want = true ∨ (x.stale = true ∧ granInUse s eid (w.lo / 4096 + g) = true)) := by
  unfold Due
  rw [Classical.not_and_iff_not_or_not, Classical.not_and_iff_not_or_not, not_or, Classical.not_imp, Bool.not_eq_false, Bool.not_eq_false]

theorem fillGran_rests (hwin : (s.core eid).stash[i]? = some w) (hx : granOf s eid i g = some x) (h : ¬ Due s eid g w x) :
    fillGran s eid i g = s := by
  simp only [fillGran, hwin, hx]
  exact if_pos ((due_iff s eid g w x).mp h)

theorem fillGran_keeps (hwin : (s.core eid).stash[i]? = some w) (hx : granOf s eid i g = some x) (h : Due s eid g w x)
    (hs : x.stale = true) (hd : x.dirty ≠ 0) :
    fillGran s eid i g = modGran s eid i g fun x => { x with stale := false, want := false } := by
  simp only [fillGran, hwin, hx]
  exact (if_neg fun hno => (due_iff s eid g w x).mpr hno h).trans (if_pos ⟨hs, hd⟩)

/-- A fill that ends with a code. -/
def fillFails (s : State) (eid i g c : Nat) : State := modGran s eid i g fun x => { x with want := false, fault := some c }

/-- A fill that is due and finds its granule clean. -/
structure Fills (s : State) (eid i g : Nat) (w : Stash) (x : StashGr) : Prop where
  window : (s.core eid).stash[i]? = some w
  granule : granOf s eid i g = some x
  due : Due s eid g w x
  clean : x.stale = true → x.dirty = 0

theorem fillGran_faults {c : Nat} (h : Fills s eid i g w x)
    (hxl : xlCore s eid ((s.core eid).ctx.getD 0) (w.va + 4096 * g) false = .fault c) :
    fillGran s eid i g = fillFails s eid i g c := by
  simp only [fillGran, h.window, h.granule, hxl]
  exact (if_neg fun hno => (due_iff s eid g w x).mpr hno h.due).trans (if_neg fun hk => hk.2 (h.clean hk.1))

/-- A byte of the filled page as its owner reads it. -/
def pageByte (s : State) (eid g : Nat) (w : Stash) (k : Nat) : Option Byte :=
  farSeen s eid (fillSlot (w.lo / 4096 + g)) s.nextId k

/-- The granule filled from the page at `k`, its dirty bytes kept. -/
def filled (s : State) (eid i g : Nat) (w : Stash) (x : StashGr) (k : Nat) : State :=
  let lo := lmKey eid (w.lo + 4096 * g)
  let bs := ((List.range 4096).filter fun o => !x.dirty.getLsbD o).map fun o => (lo + o, (pageByte s eid g w (k + o)).getD 0)
  modGran (farDone ((s.setBytes bs).mend lo 4096) eid (fillSlot (w.lo / 4096 + g)) 0) eid i g fun x =>
    { x with filled := true, stale := false, want := false, fault := none }

variable {k : Nat} {n : Bool}

theorem fillGran_cut (h : Fills s eid i g w x)
    (hxl : xlCore s eid ((s.core eid).ctx.getD 0) (w.va + 4096 * g) false = .ok k n)
    (hcut : s.cutKey (eidDev eid) k = true) : fillGran s eid i g = fillFails s eid i g 10 := by
  simp only [fillGran, h.window, h.granule, hxl]
  exact (if_neg fun hno => (due_iff s eid g w x).mpr hno h.due).trans
    ((if_neg fun hk => hk.2 (h.clean hk.1)).trans (if_pos hcut))

theorem fillGran_reads {u : Unit} (h : Fills s eid i g w x)
    (hxl : xlCore s eid ((s.core eid).ctx.getD 0) (w.va + 4096 * g) false = .ok k n)
    (hcut : s.cutKey (eidDev eid) k = false)
    (hr : farRead s ((s.core eid).ctx.getD 0) eid (fillSlot (w.lo / 4096 + g)) 0 ((List.range 4096).map (k + ·)) = .ok u) :
    fillGran s eid i g =
      if (((List.range 4096).map (k + ·)).any fun k => (pageByte s eid g w k).isNone) = true then
        farDone (fillFails s eid i g 11) eid (fillSlot (w.lo / 4096 + g)) 0
      else filled s eid i g w x k := by
  simp only [fillGran, h.window, h.granule, hxl, hr]
  exact (if_neg fun hno => (due_iff s eid g w x).mpr hno h.due).trans
    ((if_neg fun hk => hk.2 (h.clean hk.1)).trans (if_neg (ne_true_of_eq_false hcut)))

end Stash

/-- Settles O46. -/
theorem memoryEvents : Obligations.MemoryEvents := by
  unfold Obligations.MemoryEvents
  intro s
  refine ⟨fun id a hw ha hmay hf => ⟨fun hat => ⟨fun hnear => ?near, fun o n rest hfar hp => ?home⟩, ?atomicError, ?atomic, ?queued⟩,
    ?microcode, ?memoryError, ?threadError, ?walkStart, ?walk, ?join, ?tlbinv, ?stash⟩
  case near => exact (homeAccess_next (dueAccess_due hw ha hat hmay hf)).trans (congrArg Host.Outcome.next (if_pos hnear))
  case home =>
    have hnext : exec .homeAccess s = .next (homePiece s a) :=
      (homeAccess_next (dueAccess_due hw ha hat hmay hf)).trans (congrArg Host.Outcome.next (performPiece_far hfar))
    refine ⟨fun d hop => ?store, fun hop => ?load, fun hi w hop => ?nibble⟩
    case store =>
      have hdoes := hnext.trans (congrArg Host.Outcome.next (homePiece_store hp hop))
      exact ⟨fun hrest herr => hdoes.trans (congrArg Host.Outcome.next ((if_pos (List.isEmpty_iff.mpr hrest)).trans (if_pos herr))),
        fun hrest herr => hdoes.trans (congrArg Host.Outcome.next ((if_pos (List.isEmpty_iff.mpr hrest)).trans (if_neg herr))),
        fun hrest => hdoes.trans (congrArg Host.Outcome.next (if_neg fun hnil => hrest (List.isEmpty_iff.mp hnil)))⟩
    case load =>
      have hdoes := hnext.trans (congrArg Host.Outcome.next (homePiece_load hp hop))
      exact ⟨fun herr => hdoes.trans (congrArg Host.Outcome.next (if_pos herr)),
        fun herr hrest => hdoes.trans (congrArg Host.Outcome.next ((if_neg herr).trans (if_pos (List.isEmpty_iff.mpr hrest)))),
        fun herr hrest => hdoes.trans
          (congrArg Host.Outcome.next ((if_neg herr).trans (if_neg fun hnil => hrest (List.isEmpty_iff.mp hnil))))⟩
    case nibble =>
      have hdoes := hnext.trans (congrArg Host.Outcome.next (homePiece_nibble hp hop))
      exact ⟨fun herr => hdoes.trans (congrArg Host.Outcome.next (if_pos herr)),
        fun herr => hdoes.trans (congrArg Host.Outcome.next (if_neg herr))⟩
  case atomicError =>
    intro k ks hat hk hlm herr
    refine (atomicAtHome_next (dueAccess_due hw ha hat hmay hf)).trans (congrArg Host.Outcome.next ?_)
    rw [atomicAtHome_global hk hlm, performAtomic_eq, if_pos herr]
  case atomic =>
    intro k ks hat hk hlm herr
    have hdoes := (atomicAtHome_next (dueAccess_due hw ha hat hmay hf)).trans
      (congrArg Host.Outcome.next ((atomicAtHome_global hk hlm).trans (performAtomic_writes hk herr)))
    refine ⟨fun op ty b hop => hdoes.trans ?_, fun cmp v hop => hdoes.trans ?_⟩
    · have hnew : newOf s a = some (amoNew op ty (s.numAt a.keys) b) := by simp only [newOf, hop]
      rw [hnew]
      exact congrArg Host.Outcome.next rfl
    · have hnew : newOf s a = if s.numAt a.keys = cmp then some v else none := by simp only [newOf, hop]
      rw [hnew, written_cas]
      exact congrArg Host.Outcome.next rfl
  case queued =>
    exact fun k ks hat hk hlm hcf hq hroom => (atomicAtHome_next (dueAccess_due hw ha hat hmay hf)).trans
      (congrArg Host.Outcome.next (atomicAtHome_queues hk hlm hcf hq hroom))
  case microcode => exact fun eid id rest slot a hw hq hslot hf ha => event_next (lmAtomicMicrocode_performs hw hq hslot hf ha)
  case memoryError => exact fun key hkey hb => event_next (uncorrectable_memory hkey hb)
  case threadError => exact fun eid slot k hs hk => event_next (uncorrectable_thread hs hk)
  case walkStart => exact fun die i hw hi hroom => event_next (walkStart_starts hw hi hroom)
  case walk =>
    exact fun die asid vpn w hw hwalk =>
      ⟨fun t ht => event_next (pageWalk_translates hw hwalk ht), fun c ht => event_next (pageWalk_faults hw hwalk ht)⟩
  case join => exact fun eid slot id t j hw ht hj hc => event_next (joinComplete_completes hw ht hj hc)
  case tlbinv => exact fun eid slot id t p hw ht hp htlb hneed hdone => event_next (tlbinvAck_replies hw ht hp htlb hneed hdone)
  case stash =>
    intro eid gran i g hw hg w x hwin hx
    have hfill := stashFill_fills hw hg
    refine ⟨fun hno => event_next (hfill.trans (fillGran_rests hwin hx hno)),
      fun hdue hs hd => event_next (hfill.trans (fillGran_keeps hwin hx hdue hs hd)),
      fun hdue hclean => ⟨fun k n hxl => ?reads, fun c hxl => ?faults⟩, event_next (stashWriteback_writes hw hg hwin hx)⟩
    case faults => exact event_next (hfill.trans (fillGran_faults ⟨hwin, hx, hdue, hclean⟩ hxl))
    case reads =>
      have hfills : Fills s eid i g w x := ⟨hwin, hx, hdue, hclean⟩
      exact ⟨fun hcut => event_next (hfill.trans (fillGran_cut hfills hxl hcut)),
        fun u hcut hr hbad => event_next (hfill.trans ((fillGran_reads hfills hxl hcut hr).trans (if_pos hbad))),
        fun u hcut hr hgood => event_next (hfill.trans
          ((fillGran_reads hfills hxl hcut hr).trans (if_neg (ne_true_of_eq_false hgood))))⟩

end Sys2Proof.Proofs.MemorySteps

/-! SUPPORT. Barrier updates, episodes, and what reaches an edge's ring (R193 to R197, R229, R267, R271, R273, R385). -/

namespace Sys2Proof.Proofs.BarrierAndEdgeSteps

open Sys2Proof.Machine
open Sys2Proof.Proofs.ThreadEvents (event_next)

variable {s : State} {p : Packet}

/-! ## Barrier objects (R229, R267, R271) -/

section Barriers

variable {key kind n : Nat}

theorem barrierUpdate_next (hp : readyPkt? s = some p) : exec .barrierUpdate s = .next (barrierArrives s p) := by
  show execBarrierUpdate s = _
  simp only [execBarrierUpdate, event, hp]

/-- The state after an update of the object at a key: the threads that wait for a completed phase are woken. -/
def updated (s : State) (key kind n : Nat) : State :=
  let r := (barAt s key).update kind n
  if r.2 then wakeBarrier (putBar s key r.1) (keyCore key) (keyOff key) else putBar s key r.1

theorem barUpdate_updated (s : State) (key kind n : Nat) :
    barUpdate s key kind n = ((barAt s key).phase, updated s key kind n) := rfl

theorem barrierArrives_updates (hb : p.body = .barrier key kind n) (hheld : barHeld s p key = false)
    (hfull : emptyGran s [key] = none) :
    barrierArrives s p = if p.pend = 0 then answer (updated s key kind n) p .quiet
      else answerWord (updated s key kind n) p (b2n (barAt s key).phase) := by
  simp only [barrierArrives, hb, hfull, barUpdate_updated]
  exact if_neg (ne_true_of_eq_false hheld)

theorem staAck_arrives {eid slot id : Nat} {a : Ack} (hw : s.who = [eid, slot, id])
    (ha : s.acks.find? (fun a => a.id == id && a.eid == eid && a.slot == slot) = some a)
    (hafter : outstanding s a.scope a.after = false) (hown : outstanding s 2 a.own = false) :
    staAck s = (barUpdate { s with acks := s.acks.filter (·.id != id) } (lmKey eid a.obj) 1 0).2 := by
  simp only [staAck, hw, ha, hafter, hown, Bool.or_false]
  exact if_neg Bool.false_ne_true

theorem bwaitTimeout_ends {eid slot o lim : Nat} {t : Thread} {w : Waiting} (hw : s.who = [eid, slot])
    (ht : s.thr? eid slot = some t) (hst : t.status = .waiting w) (hwhat : w.what = .barrier o lim)
    (hend : t.drainReq = true ∨ 0 < lim ∧ w.issued + lim ≤ s.cycle eid) :
    bwaitTimeout s = endWait s eid slot w (some 1) := by
  simp only [bwaitTimeout, hw, ht, hst, hwhat]
  exact if_pos hend

end Barriers

/-! ## Group barriers (R273) -/

/-- The tables of the members' devices at the end of an episode. -/
def episodeEnded (s : State) (key : Nat) (g : Group) : State :=
  (g.eids.map eidDev).eraseDups.foldl (fun x d =>
    let k := groupKey d (key / 256 % 65536) (key % 256)
    match Keyed.get? x.groups k with
    | some g => { x with groups := Keyed.put x.groups k g.next }
    | none => x) s

theorem gbarComplete_completes {key : Nat} {g : Group} (hw : s.who = [key]) (hg : Keyed.get? s.groups key = some g)
    (hne : g.eids ≠ []) (harr : ∀ e ∈ g.eids, (memberGroup s key e).arrived.contains e = true) (hj : groupJoined s g = true) :
    gbarComplete s = g.eids.foldl (fun x e => gbarWake x key (groupScope e g.eids) e (memberGroup s key e).early)
      (episodeEnded s key g) := by
  have hends : ¬ (g.eids.isEmpty = true ∨ ¬ g.eids.all (fun e => (memberGroup s key e).arrived.contains e) = true ∨
      ¬ groupJoined s g = true) := by
    rintro (h | h | h)
    · exact hne (List.isEmpty_iff.mp h)
    · exact h (List.all_eq_true.mpr harr)
    · exact h hj
  simp only [gbarComplete, hw, hg]
  exact if_neg hends

/-! ## Edge rings (R193 to R197, R385) -/

section Edges

variable {g : Edge}

/-- What a reservation at a live ring does. -/
theorem reserve_live (hr : reservation? s = some (p, g.id)) (hg : s.edge? g.id = some g) (hn : g.ntok ≠ 0) :
    reserve s =
      if ¬ g.placed = true then s
      else if (g.waiting s).headD p.id = p.id ∧ ¬ g.full = true then
        answer (s.setEdge { g with resv := g.resv + 1, waitq := (g.waiting s).filter (· != p.id) }) p .quiet
      else if (g.waiting s).contains p.id = true then s
      else (s.setPkt { p with state := .recorded }).setEdge { g with waitq := g.waiting s ++ [p.id] } := by
  simp only [reserve, hr, hg]
  exact if_neg hn

theorem reserve_waits (hr : reservation? s = some (p, g.id)) (hg : s.edge? g.id = some g) (hn : g.ntok ≠ 0)
    (hp : g.placed = false) : reserve s = s :=
  (reserve_live hr hg hn).trans (if_pos (ne_true_of_eq_false hp))

theorem reserve_grants (hr : reservation? s = some (p, g.id)) (hg : s.edge? g.id = some g) (hn : g.ntok ≠ 0)
    (hp : g.placed = true) (hfirst : (g.waiting s).headD p.id = p.id) (hroom : g.full = false) :
    reserve s = answer (s.setEdge { g with resv := g.resv + 1, waitq := (g.waiting s).filter (· != p.id) }) p .quiet :=
  (reserve_live hr hg hn).trans ((if_neg (not_not_intro hp)).trans (if_pos ⟨hfirst, ne_true_of_eq_false hroom⟩))

theorem reserve_records (hr : reservation? s = some (p, g.id)) (hg : s.edge? g.id = some g) (hn : g.ntok ≠ 0)
    (hp : g.placed = true) (hno : (g.waiting s).headD p.id ≠ p.id ∨ g.full = true) (hnew : (g.waiting s).contains p.id = false) :
    reserve s = (s.setPkt { p with state := .recorded }).setEdge { g with waitq := g.waiting s ++ [p.id] } :=
  (reserve_live hr hg hn).trans ((if_neg (not_not_intro hp)).trans ((if_neg fun h => hno.elim (fun hne => hne h.1) h.2).trans
    (if_neg (ne_true_of_eq_false hnew))))

theorem tokenArrives_puts {bs : List Byte} (hp : readyPkt? s = some p) (hb : p.body = .edgeToken g.id bs)
    (hg : s.edge? g.id = some g) (hn : g.ntok ≠ 0) : tokenArrives s = answer (putToken s g bs) p .quiet := by
  simp only [tokenArrives, hp, hb, hg, if_neg hn]

theorem eosArrives_puts {n : Nat} (hp : readyPkt? s = some p) (hb : p.body = .eosMark g.id n) (hg : s.edge? g.id = some g)
    (hn : g.ntok ≠ 0) (hprod : g.nprod ≠ 0) : eosArrives s = answer (putEos s g) p .quiet := by
  simp only [eosArrives, hp, hb, hg, if_neg (not_or_intro hn hprod)]

theorem drainMarker_injects {id : Nat} (hw : s.who = [id]) (hg : s.edge? id = some g) (hdue : markerDue s g = true) :
    drainMarker s = s.setEdge { g with queue := g.queue ++ [.drain], marker := true } := by
  simp only [drainMarker, hw, hg]
  exact if_pos hdue

end Edges

/-- Settles O47. -/
theorem barrierAndEdgeEvents : Obligations.BarrierAndEdgeEvents := by
  unfold Obligations.BarrierAndEdgeEvents
  intro s
  refine ⟨?update, ?sta, ?bwait, ?group, ?reserved, ?arrives, ?marker⟩
  case update =>
    exact fun p key kind n hp hb hheld hfull =>
      (barrierUpdate_next hp).trans (congrArg Host.Outcome.next (barrierArrives_updates hb hheld hfull))
  case sta => exact fun eid slot id a hw ha hafter hown => event_next (staAck_arrives hw ha hafter hown)
  case bwait => exact fun eid slot t w o lim hw ht hst hwhat hend => event_next (bwaitTimeout_ends hw ht hst hwhat hend)
  case group => exact fun key g hw hg hne harr hj => event_next (gbarComplete_completes hw hg hne harr hj)
  case reserved =>
    exact fun p g hr hg hn => ⟨fun hp => event_next (reserve_waits hr hg hn hp),
      fun hp hfirst hroom => event_next (reserve_grants hr hg hn hp hfirst hroom),
      fun hp hno hnew => event_next (reserve_records hr hg hn hp hno hnew)⟩
  case arrives =>
    exact fun p g hp hg hn => ⟨fun bs hb => event_next (tokenArrives_puts hp hb hg hn),
      fun n hb hprod => event_next (eosArrives_puts hp hb hg hn hprod)⟩
  case marker => exact fun id g hw hg hdue => event_next (drainMarker_injects hw hg hdue)

end Sys2Proof.Proofs.BarrierAndEdgeSteps

/-! SUPPORT. Requests between devices, links, and the tick (R344, R348 to R353). -/

namespace Sys2Proof.Proofs.FabricSteps

open Sys2Proof.Machine
open Sys2Proof.Proofs.ThreadEvents (event_next)

variable {s : State} {p : Packet}

/-! ## Where a packet may be

A packet that is abroad goes to its port, leaves it, or arrives: at most one of the three. -/

theorem not_mayQueue_of_mayLeave (h : p.mayLeave s = true) : ¬ p.mayQueue s = true := by
  simp only [Packet.mayLeave, Packet.mayQueue, Bool.and_eq_true, Option.isSome_iff_ne_none, Option.isNone_iff_eq_none] at h ⊢
  exact fun hq => h.1.1.2 hq.1.2

theorem not_mayQueue_of_mayArrive (h : p.mayArrive s = true) : ¬ p.mayQueue s = true := by
  intro hq
  simp only [Packet.mayArrive, Packet.mayQueue, Bool.and_eq_true, Bool.not_eq_true'] at h hq
  obtain ⟨⟨⟨⟨-, hknown⟩, hout⟩, -⟩, -⟩ := hq
  rw [if_pos hknown, Bool.and_eq_true] at h
  exact absurd h.2.1 (ne_true_of_eq_false hout)

/-- A packet that is not abroad does none of the three. -/
theorem at_home (h : p.abroad = false) :
    ¬ p.mayQueue s = true ∧ ¬ p.mayLeave s = true ∧ ¬ p.mayArrive s = true := by
  simp only [Packet.mayQueue, Packet.mayLeave, Packet.mayArrive, h, Bool.false_and, Bool.false_eq_true, not_false_iff, and_self]

theorem not_abroad_of_arrived (h : p.state = .arrived) : p.abroad = false := by
  simp only [Packet.abroad, h]
  exact Bool.and_false _

section Moves

variable {id : Nat}

/-- What a packet does at its next step. -/
theorem requestArrives_moves (hw : s.who = [id]) (hp : s.pkt? id = some p) :
    requestArrives s =
      if p.mayQueue s = true then s.setPkt { p with queued := some (s.tickOf p.tail) }
      else if p.mayLeave s = true then leavesPort s p
      else if p.mayArrive s = true then (if p.state = .answered then replyArrives s p else unitServes s p)
      else if p.state = .arrived ∧ p.stale s = true then sayStale s p
      else match p.body with
        | .taskOp .. => if p.ready s then unitArrive s p else s
        | .engine => if p.ready s then engineAtHome s p else s
        | _ => s := by
  simp only [requestArrives, hw, hp] <;> rfl

theorem requestArrives_leaves (hw : s.who = [id]) (hp : s.pkt? id = some p) (h : p.mayLeave s = true) :
    requestArrives s = leavesPort s p :=
  (requestArrives_moves hw hp).trans ((if_neg (not_mayQueue_of_mayLeave h)).trans (if_pos h))

theorem requestArrives_arrives (hw : s.who = [id]) (hp : s.pkt? id = some p) (hl : p.mayLeave s = false)
    (h : p.mayArrive s = true) :
    requestArrives s = if p.state = .answered then replyArrives s p else unitServes s p :=
  (requestArrives_moves hw hp).trans ((if_neg (not_mayQueue_of_mayArrive h)).trans
    ((if_neg (ne_true_of_eq_false hl)).trans (if_pos h)))

theorem requestArrives_stale (hw : s.who = [id]) (hp : s.pkt? id = some p) (hst : p.state = .arrived) (h : p.stale s = true) :
    requestArrives s = sayStale s p := by
  obtain ⟨hq, hl, ha⟩ := at_home (s := s) (not_abroad_of_arrived hst)
  exact (requestArrives_moves hw hp).trans
    ((if_neg hq).trans ((if_neg hl).trans ((if_neg ha).trans (if_pos ⟨hst, h⟩))))

/-- What stands at its unit and is not too old is performed there. -/
theorem requestArrives_performs (hw : s.who = [id]) (hp : s.pkt? id = some p) (hab : p.abroad = false) (h : p.stale s = false) :
    requestArrives s =
      match p.body with
      | .taskOp .. => if p.ready s then unitArrive s p else s
      | .engine => if p.ready s then engineAtHome s p else s
      | _ => s := by
  obtain ⟨hq, hl, ha⟩ := at_home (s := s) hab
  exact (requestArrives_moves hw hp).trans ((if_neg hq).trans ((if_neg hl).trans ((if_neg ha).trans
    (if_neg fun hs => absurd hs.2 (ne_true_of_eq_false h)))))

end Moves

/-! ## Departure (R348, R351) -/

section Departure

variable {i : Nat}

theorem leavesPort_plain (hi : waitPort s p = some i) (h : p.crosses = false ∨ p.state = .answered) :
    leavesPort s p = (noteWait s p i).setPkt { p with out := true } := by
  simp only [leavesPort, hi]
  exact if_pos (h.imp_left ne_true_of_eq_false)

theorem leavesPort_again (hi : waitPort s p = some i) (hc : p.crosses = true) (ha : p.state ≠ .answered)
    (ht : p.tick0.isSome = true) : leavesPort s p = (noteWait s p i).setPkt { p with out := true } := by
  obtain ⟨t, ht⟩ := Option.isSome_iff_exists.mp ht
  simp only [leavesPort, hi, ht, Option.isSome_some, if_true, Option.getD_some]
  exact if_neg (not_or_intro (not_not_intro hc) ha)

theorem leavesPort_first (hi : waitPort s p = some i) (hc : p.crosses = true) (ha : p.state ≠ .answered) (ht : p.tick0 = none) :
    leavesPort s p =
      let now := s.tickOf p.src
      let t := noteWait s p i
      ({ t with used := (p.key, p.seq, now) :: t.used.filter fun x =>
          !(x.1.1 / 4096 == eidDev p.src && decide (x.2.2 + 4 * t.trt + 2000 ≤ now)) } : State).setPkt
        { p with tells := (t.gaps.filter fun g => g.2 == p.key).map (·.1), tick0 := some now, out := true } := by
  simp only [leavesPort, hi, ht, Option.isSome_none, Bool.false_eq_true, if_false, Option.getD_none]
  exact if_neg (not_or_intro (not_not_intro hc) ha)

end Departure

/-! ## At the unit (R348, R350) -/

section Unit

/-- The state in which the unit has heard what the sender abandoned. -/
def gapsHeard (s : State) (p : Packet) : State := { s with gaps := s.gaps.filter fun g => !p.tells.contains g.1 }

theorem unitServes_serves (s : State) (p : Packet) :
    unitServes s p =
      if p.reads s = true ∨ ¬ p.crosses = true ∨ ¬ p.known s = true then (gapsHeard s p).setPkt { p with state := .arrived }
      else
        match s.cache.find? fun c => c.unit == p.unit && c.src == p.src && c.cls == p.cls && c.seq == p.seq with
        | some c => (gapsHeard s p).setPkt (p.withReply c.reply)
        | none =>
          if p.stale s = true then sayStale (gapsHeard s p) p
          else if 64 ≤ cacheUsed s p.unit then retryLater (gapsHeard s p) p p.dst
          else (gapsHeard s p).setPkt { p with state := .arrived } := rfl

theorem unitServes_plain (h : p.reads s = true ∨ p.crosses = false ∨ p.known s = false) :
    unitServes s p = (gapsHeard s p).setPkt { p with state := .arrived } :=
  (unitServes_serves s p).trans (if_pos (h.imp_right (Or.imp ne_true_of_eq_false ne_true_of_eq_false)))

theorem not_plain (hr : p.reads s = false) (hc : p.crosses = true) (hk : p.known s = true) :
    ¬ (p.reads s = true ∨ ¬ p.crosses = true ∨ ¬ p.known s = true) :=
  not_or_intro (ne_true_of_eq_false hr) (not_or_intro (not_not_intro hc) (not_not_intro hk))

theorem unitServes_cached {c : CachedReply} (hr : p.reads s = false) (hc : p.crosses = true) (hk : p.known s = true)
    (hold : s.cache.find? (fun c => c.unit == p.unit && c.src == p.src && c.cls == p.cls && c.seq == p.seq) = some c) :
    unitServes s p = (gapsHeard s p).setPkt (p.withReply c.reply) := by
  rw [unitServes_serves, if_neg (not_plain hr hc hk), hold]

theorem unitServes_new (hr : p.reads s = false) (hc : p.crosses = true) (hk : p.known s = true)
    (hold : s.cache.find? (fun c => c.unit == p.unit && c.src == p.src && c.cls == p.cls && c.seq == p.seq) = none) :
    unitServes s p =
      if p.stale s = true then sayStale (gapsHeard s p) p
      else if 64 ≤ cacheUsed s p.unit then retryLater (gapsHeard s p) p p.dst
      else (gapsHeard s p).setPkt { p with state := .arrived } := by
  rw [unitServes_serves, if_neg (not_plain hr hc hk), hold]

end Unit

/-! ## Replies (R349) -/

theorem replyArrives_lost (h : replyLost s p = true) :
    replyArrives s p = { s.setPkt { p with state := .done } with
      accs := s.accs.map fun a => if p.body = .access a.id ∧ a.op = .load then a.again else a } := if_pos h

theorem replyArrives_taken (h : replyLost s p = false) :
    replyArrives s p =
      match p.ans with
      | .later => retryTaken s p p.dst
      | .stale => giveUp (nackNote s p.src p.dst) p
      | .full => fullTaken s p
      | a => takeAnswer (s.dropPkt p.id) p a := if_neg (ne_true_of_eq_false h)

theorem replyArrives_answer (h : replyLost s p = false) (h1 : p.ans ≠ .later) (h2 : p.ans ≠ .stale) (h3 : p.ans ≠ .full) :
    replyArrives s p = takeAnswer (s.dropPkt p.id) p p.ans := by
  rw [replyArrives_taken h]
  generalize p.ans = a at h1 h2 h3
  split
  · exact absurd rfl h1
  · exact absurd rfl h2
  · exact absurd rfl h3
  · exact congrArg id rfl

/-! ## An engine's line at its home (R219, R260) -/

section Engine

variable {f : FarAccess}

/-- The bytes of a line as the home sends them: those without an error. -/
def lineBytes (s : State) (f : FarAccess) : List (Nat × Byte) :=
  (((List.range 64).map (64 * f.line + ·)).filter fun k => !s.bad.contains k).map fun k =>
    (k, seenByte s f.eid (min f.slot 31) (if f.id = 0 then s.nextId else f.id) k)

theorem engineAtHome_writes (hf : s.fars.find? (·.pkt == p.id) = some f) (hwr : f.write = true)
    (hfull : emptyGran s (f.bytes.map (·.1)) = none) :
    engineAtHome s p =
      if (f.bytes.any fun x => s.bad.contains x.1 && !keyIsLm x.1) = true then answer s p (.result [])
      else answer (putBytes s f.bytes) p .quiet := by
  simp only [engineAtHome, hf, hwr, if_true, hfull, List.any_map, Function.comp_def]

theorem engineAtHome_reads (hf : s.fars.find? (·.pkt == p.id) = some f) (hrd : f.write = false)
    (hfull : emptyGran s ((List.range 64).map (64 * f.line + ·)) = none) :
    engineAtHome s p =
      answer { s with fars := s.fars.map fun x => if x.pkt = p.id then { x with bytes := lineBytes s f } else x } p .quiet := by
  simp only [engineAtHome, hf, hrd, Bool.false_eq_true, if_false, hfull, lineBytes]

end Engine

/-! ## Retransmission and abandonment (R349) -/

section Retries

variable {id : Nat}

theorem retransmit_resends (hw : s.who = [id]) (hp : s.pkt? id = some p) (h : resendDue s p = true) :
    retransmit s = s.setPkt
      (if p.state = .done then { p with resent := p.resent + 1, state := .flying, out := false, queued := none, escape := false }
       else { p with resent := p.resent + 1 }) := by
  simp only [retransmit, hw, hp]
  exact if_pos h

theorem abandonment_gives (hw : s.who = [id]) (hp : s.pkt? id = some p) (h : giveUpDue s p = true) :
    abandonment s = giveUp s p := by
  simp only [abandonment, hw, hp]
  exact if_pos h

/-- A gap that is noted changes nothing else. -/
theorem noteGap_cases (s : State) (p : Packet) : noteGap s p = s ∨ noteGap s p = { s with gaps := s.gaps ++ [(p.id, p.key)] } :=
  by
  unfold noteGap
  split
  · exact .inr rfl
  · exact .inl rfl

theorem giveUp_access {id' : Nat} {a : Access} (hb : p.body = .access id') (ha : s.accs.find? (·.id == id') = some a) :
    giveUp s p = loseAccess (noteGap s p) a (if cutOff s p.src p.dst = true ∨ p.known s = false then 7 else 6) := by
  have hcause : ∀ c k : Bool, (if c = true ∨ ¬ k = true then 7 else 6) = if c = true ∨ k = false then 7 else 6 :=
    fun c k => ite_congr (congrArg (c = true ∨ ·) (Bool.not_eq_true k)) (fun _ => rfl) fun _ => rfl
  have hgap : (noteGap s p).accs.find? (·.id == id') = some a ∧ cutOff (noteGap s p) p.src p.dst = cutOff s p.src p.dst ∧
      p.known (noteGap s p) = p.known s := by
    obtain h | h := noteGap_cases s p <;> rw [h] <;> exact ⟨ha, rfl, rfl⟩
  obtain ⟨hacc, hcut, hknown⟩ := hgap
  simp only [giveUp, hb, hacc, hcut, hknown]
  exact congrArg (loseAccess _ a) (hcause _ _)

theorem abandonment_access {a : Access} (hw : s.who = [id]) (hp : s.pkt? id = none) (ha : s.accs.find? (·.id == id) = some a)
    (h : accessDue s a = true) : abandonment s = loseAccess s a 7 := by
  simp only [abandonment, hw, hp, ha]
  exact if_pos h

theorem laterResend_resends (hw : s.who = [id]) (hp : s.pkt? id = some p) (h : p.state = .later ∧ p.due ≤ s.tickOf p.src) :
    laterResend s = s.setPkt { p with state := .flying, out := false, queued := none, escape := false } := by
  simp only [laterResend, hw, hp]
  exact if_pos h

theorem escapes_moves {i : Nat} (hw : s.who = [id]) (hp : s.pkt? id = some p) (hi : waitPort s p = some i)
    (h : escapeDue s p i = true) :
    escapes s =
      let n := (portOf s (eidDev p.tail) i).moved + 1
      ((modPort s (eidDev p.tail) i fun x => { x with moved := n }).setPkt { p with escape := true }).record
        (eidDev p.tail) 4 10 0 (some i) (some n) := by
  simp only [escapes, hw, hp, Option.bind_some, hi, Option.map_some]
  exact if_pos h

end Retries

/-! ## Ports, links and reachability (R351, R352) -/

section Links

variable {dev port other : Nat}

theorem cacheExpires_drops {unit seq : Nat} (hw : s.who = [unit, seq]) :
    cacheExpires s = { s with
      cache := s.cache.filter fun c => !(c.unit == unit && c.seq == seq && decide (c.freeAt ≤ s.tickOf (unit % 2 ^ 22))) } := by
  simp only [cacheExpires, hw]

theorem thresholdNew_sets (hw : s.who = [dev, port]) (h : thresholdDue s dev port = true) :
    thresholdNew s = modPort s dev port fun p => { p with
      vcs := p.vcs.map fun v => { v with threshold := max 2000 (min 200000 (4 * wait99 v.waits)) }
      computed := (s.dev dev).yard } := by
  simp only [thresholdNew, hw]
  exact if_pos h

theorem removeRoute_removes (hw : s.who = [dev, port]) (hr : (portOf s dev port).routed = true)
    (hu : (portOf s dev port).up = false) :
    removeRoute s = (noteRoutes (modPort s dev port fun p => { p with routed := false })).record dev 4 5 0 (some port) none := by
  simp only [removeRoute, hw]
  exact if_pos ⟨hr, ne_true_of_eq_false hu⟩

theorem declareLost_declares (hw : s.who = [dev, other]) (h : lostDue s dev other = true) :
    declareLost s = (s.modDev dev fun d =>
      { d with unreachable := d.unreachable ++ [other]
               adrift := d.adrift || (s.dev other).master }).record dev 4 5 (other * 4096) none none := by
  simp only [declareLost, hw]
  exact if_pos h

theorem routeFound_finds (hw : s.who = [dev, other]) (h : foundDue s dev other = true) :
    routeFound s = s.modDev dev fun d =>
      { d with unreachable := d.unreachable.filter (· != other), noRoute := Keyed.del d.noRoute other } := by
  simp only [routeFound, hw]
  exact if_pos h

theorem apertureDiscard_counts (hw : s.who = [dev]) (h : s.accels ≠ []) :
    apertureDiscard s = (s.modDev dev fun d =>
      { d with discarded := (s.dev dev).discarded + 1 }).record dev 4 11 0 none (some ((s.dev dev).discarded + 1)) := by
  simp only [apertureDiscard, hw]
  exact if_neg fun hnil => h (List.isEmpty_iff.mp hnil)

end Links

/-! ## The tick (R353) -/

section Tick

variable {dev : Nat}

theorem measureTick_measures {mdev : Nat} {m : Device} (hw : s.who = [dev]) (hnot : (s.dev dev).master = false)
    (hlinked : (s.dev dev).linked = true)
    (hm : s.devs.find? (fun x => x.2.master && x.2.linked && !(s.dev dev).unreachable.contains x.1) = some (mdev, m)) :
    measureTick s =
      let n := Config.passed s.free 62
      setLock (s.modDev dev fun d =>
        { d with err := n, measured := d.tick, adrift := false
                 slew := slewFor d.tick m.tick n (Config.passed s.free 63) (Config.happens s.free 1) }) dev (decide (n ≤ 15)) := by
  have hmaster := List.find?_some hm
  have hany : (s.devs.any fun (m, v) => v.master && v.linked && !(s.dev dev).unreachable.contains m) = true :=
    List.any_eq_true.mpr ⟨(mdev, m), List.mem_of_find?_eq_some hm, hmaster⟩
  have hdue : measureDue s dev = true := by
    rw [measureDue, hlinked, hnot]
    exact hany
  simp only [measureTick, hw, hm]
  exact (if_neg fun h => absurd h.2 (ne_true_of_eq_false hnot)).trans (if_pos hdue)

theorem loseLock_loses (hw : s.who = [dev]) (h : lockLossDue s dev = true) : loseLock s = setLock s dev false := by
  simp only [loseLock, hw]
  exact if_pos h

theorem nameMaster_names (hw : s.who = [dev]) (h : masterDue s dev = true) :
    nameMaster s =
      let s' : State := { s with devs := s.devs.map fun (d, v) =>
        (d, if d = dev then { v with master := true, slew := 0, adrift := false, err := 0 } else { v with master := false }) }
      setLock (s'.devs.foldl (fun x y =>
        x.record y.1 4 ((Config.freeWord x.free (2 ^ 72)).toNat % 256) (dev * 4096) none none) s') dev true := by
  simp only [nameMaster, hw]
  exact if_pos h

end Tick

/-! ## Joining (R344, R347, R353) -/

section Joining

variable {dev : Nat}

theorem joins_device {ticks : Nat} (hctx : (s.ctxs.any fun (k, _) => k / 65536 == dev) = false)
    (hacc : s.accels.contains dev = false) (hw : s.who ≠ [1]) (hj : (s.dev dev).joined = false) (hd : dev < 1024) :
    joins s dev ticks = s.modDev dev fun d => { d with tick := d.tick + ticks, joined := true } := by
  refine (if_neg hw).trans (if_neg ?_)
  rintro (h | h | h | h)
  · exact absurd h (ne_true_of_eq_false hj)
  · omega
  · exact absurd h (ne_true_of_eq_false hacc)
  · exact absurd h (ne_true_of_eq_false hctx)

theorem joins_accelerator {ticks : Nat} (hacc : s.accels.contains dev = false) (hw : s.who = [1]) (hno : s.hasDev dev = false)
    (hd : dev < 1024) : joins s dev ticks = { s with accels := s.accels ++ [dev] } := by
  refine (if_pos hw).trans (if_neg ?_)
  rintro (h | h | h)
  · exact absurd h (ne_true_of_eq_false hno)
  · exact absurd h (ne_true_of_eq_false hacc)
  · omega

/-- A device whose number may be set. -/
structure Unnumbered (s : State) (dev num : Nat) : Prop where
  range : num < 1024
  there : s.hasDev dev = true
  linked : (s.dev dev).linked = true
  fresh : (s.dev dev).numbered = false
  unloaded : (s.ctxs.any fun (k, _) => k / 65536 == dev) = false
  free : num ≠ dev → s.hasDev num = false ∧ s.accels.contains num = false

/-- The pod's retransmit time, when an event brings one in range. -/
def timed (s : State) (who : List Nat) : State :=
  match who with
  | [x] => if 256000 ≤ x ∧ x ≤ 16000000 then { s with trt := x } else s
  | _ => s

theorem setNumber_sets {num : Nat} (h : Unnumbered s dev num) :
    setNumber s dev num =
      if num = dev then timed (s.modDev dev fun d => { d with numbered := true }) s.who
      else noteRoutes (renumber (timed (s.modDev dev fun d => { d with numbered := true }) s.who) dev num) := by
  unfold setNumber
  refine (if_neg ?_).trans (ite_congr rfl (fun _ => rfl) fun _ => rfl)
  rintro (hno | hno | hno | hno | hno | hno)
  · exact hno h.there
  · exact hno h.linked
  · exact absurd h.range (Nat.not_lt.mpr hno)
  · obtain ⟨hd, ha⟩ := h.free hno.1
    exact hno.2.elim (fun hx => absurd hx (ne_true_of_eq_false hd)) (fun hx => absurd hx (ne_true_of_eq_false ha))
  · exact absurd hno (ne_true_of_eq_false h.fresh)
  · exact absurd hno (ne_true_of_eq_false h.unloaded)

end Joining

/-- Settles O48. -/
theorem fabricEvents : Obligations.FabricEvents := by
  unfold Obligations.FabricEvents
  intro s
  refine ⟨fun id p hw hp => ⟨?queues, fun i hl hi => ⟨?plain, fun hc ha => ⟨?again, ?first⟩⟩, fun hl har hst => ?unit,
      fun hl har hst hkept => ?reply, ?lost, ?stale, fun hab hs hready => ⟨?taskOp, fun f hb hf => ?line⟩,
      ?resend, ?giveUp, ?loseAccess, ?later, ?escape⟩,
    ?access, ?cache, ?threshold, ?linkDown, ?linkUp, ?route, fun dev other hw => ⟨?unreachable, ?found⟩,
    fun dev hw => ⟨?aperture, ?measure, ?lock, ?master⟩, ?fails, fun dev ticks hctx hacc => ⟨?joined, ?accelerator, ?numbered⟩⟩
  case queues => exact fun h => event_next ((requestArrives_moves hw hp).trans (if_pos h))
  case plain => exact fun h => event_next ((requestArrives_leaves hw hp hl).trans (leavesPort_plain hi h))
  case again => exact fun ht => event_next ((requestArrives_leaves hw hp hl).trans (leavesPort_again hi hc ha ht))
  case first => exact fun ht => event_next ((requestArrives_leaves hw hp hl).trans (leavesPort_first hi hc ha ht))
  case unit =>
    have hserves := (requestArrives_arrives hw hp hl har).trans (if_neg hst)
    refine ⟨fun h => event_next (hserves.trans (unitServes_plain h)), fun hr hc hk =>
      ⟨fun c hold => event_next (hserves.trans (unitServes_cached hr hc hk hold)), fun hold => ?new⟩⟩
    have hnew := hserves.trans (unitServes_new hr hc hk hold)
    exact ⟨fun h => event_next (hnew.trans (if_pos h)), fun h =>
      ⟨fun hfull => event_next (hnew.trans ((if_neg (ne_true_of_eq_false h)).trans (if_pos hfull))),
        fun hroom => event_next (hnew.trans ((if_neg (ne_true_of_eq_false h)).trans (if_neg (Nat.not_le.mpr hroom))))⟩⟩
  case reply =>
    have hreply := (requestArrives_arrives hw hp hl har).trans (if_pos hst)
    have htaken := hreply.trans (replyArrives_taken hkept)
    refine ⟨fun h => event_next (htaken.trans ?_), fun h => event_next (htaken.trans ?_), fun h => event_next (htaken.trans ?_),
      fun h1 h2 h3 => event_next (hreply.trans (replyArrives_answer hkept h1 h2 h3))⟩ <;> rw [h]
  case lost =>
    exact fun hl har hst h => event_next ((requestArrives_arrives hw hp hl har).trans ((if_pos hst).trans (replyArrives_lost h)))
  case stale => exact fun hst h => event_next (requestArrives_stale hw hp hst h)
  case taskOp =>
    intro op args hb
    refine event_next ((requestArrives_performs hw hp hab hs).trans ?_)
    simp only [hb]
    exact if_pos hready
  case line =>
    have hhome : requestArrives s = engineAtHome s p := by
      refine (requestArrives_performs hw hp hab hs).trans ?_
      simp only [hb]
      exact if_pos hready
    refine ⟨fun hwr hfull => ?_, fun hrd hfull => event_next (hhome.trans (engineAtHome_reads hf hrd hfull))⟩
    have hwrites := hhome.trans (engineAtHome_writes hf hwr hfull)
    exact ⟨fun hbad => event_next (hwrites.trans (if_pos hbad)),
      fun hgood => event_next (hwrites.trans (if_neg (ne_true_of_eq_false hgood)))⟩
  case resend => exact fun h => event_next (retransmit_resends hw hp h)
  case giveUp => exact fun h => event_next (abandonment_gives hw hp h)
  case loseAccess => exact fun id' a h hb ha => event_next ((abandonment_gives hw hp h).trans (giveUp_access hb ha))
  case later => exact fun hst hdue => event_next (laterResend_resends hw hp ⟨hst, hdue⟩)
  case escape => exact fun i hi h => event_next (escapes_moves hw hp hi h)
  case access => exact fun id a hw hp ha h => event_next (abandonment_access hw hp ha h)
  case cache => exact fun unit seq hw => event_next (cacheExpires_drops hw)
  case threshold => exact fun dev port hw h => event_next (thresholdNew_sets hw h)
  case linkDown => exact fun dev port => rfl
  case linkUp =>
    intro dev port h
    show event (fun s => if port < 24 then retrain s dev port else s) s = _
    exact event_next (if_pos h)
  case route => exact fun dev port hw hr hu => event_next (removeRoute_removes hw hr hu)
  case unreachable => exact fun h => event_next (declareLost_declares hw h)
  case found => exact fun h => event_next (routeFound_finds hw h)
  case aperture => exact fun h => event_next (apertureDiscard_counts hw h)
  case measure => exact fun mdev m hnot hlinked hm => event_next (measureTick_measures hw hnot hlinked hm)
  case lock => exact fun h => event_next (loseLock_loses hw h)
  case master => exact fun h => event_next (nameMaster_names hw h)
  case fails => exact fun dev h => event_next (if_pos h)
  case joined => exact fun hw hj hd => event_next (joins_device hctx hacc hw hj hd)
  case accelerator => exact fun hw hno hd => event_next (joins_accelerator hacc hw hno hd)
  case numbered =>
    intro num hr ht hl hf hfree t u
    show event (fun s => setNumber s dev num) s = _
    exact event_next (setNumber_sets ⟨hr, ht, hl, hf, hctx, hfree⟩)

end Sys2Proof.Proofs.FabricSteps

/-! SUPPORT. The host port, power, resets, attestation and soft errors (R395, R402 to R413). -/

namespace Sys2Proof.Proofs.PlatformSteps

open Sys2Proof.Machine
open Sys2Proof.Proofs.ThreadEvents (event_next)

variable {s : State} {dev : Nat}

/-! ## The host's registers (R402, R403) -/

section Registers

variable {fn k : Nat}

/-- A function's registers changed. -/
def reg (dev fn : Nat) (g : HostFn → HostFn) (s : State) : State :=
  s.modDev dev fun d => { d with fns := d.fns.mapIdx fun i h => if i = fn then g h else h }

theorem modFn_up (hup : hostUp s dev = true) (g : HostFn → HostFn) : modFn s dev fn g = reg dev fn g s := if_pos hup

theorem fnRingOp_ring (hk : fnRing s dev fn = some k) (g : State → Nat → Nat × State) : fnRingOp s dev fn g = g s k := by
  simp only [fnRingOp, hk]

theorem rres_reserves (hup : hostUp s dev = true) (hk : fnRing s dev fn = some k) :
    rres s dev fn = modFn (ringRes s k).2 dev fn fun h => { h with read := BitVec.ofNat 64 (ringRes s k).1 } := by
  simp only [rres, fnRingOp_ring hk]
  exact if_neg (not_not_intro hup)

theorem rpub_publishes {val : Nat} (hup : hostUp s dev = true) (hk : fnRing s dev fn = some k) :
    rpub s dev fn val = modFn (ringPub s k (val % 2 ^ 64)).2 dev fn fun h =>
      { h with rpubRes := BitVec.ofNat 64 (ringPub s k (val % 2 ^ 64)).1 } := by
  unfold rpub
  rw [fnRingOp_ring hk]
  exact if_neg (not_not_intro hup)

theorem rtake_takes (hup : hostUp s dev = true) (hk : fnRing s dev fn = some k) (h : takeStatus (ringAt s k) = 0) :
    rtake s dev fn = reg dev fn (fun h => { h with read := BitVec.ofNat 64 (resWord stOK (ringAt s k).take) }) s := by
  simp only [rtake, fnRingOp_ring hk, h]
  exact modFn_up hup _

theorem rdone_takes {val : Nat} (hup : hostUp s dev = true) (hk : fnRing s dev fn = some k) (hok : (ringAt s k).ok = true)
    (ht : (ringAt s k).take = val) : rdone s dev fn val = takeDone s k := by
  simp only [rdone, hk]
  exact (if_neg (not_not_intro hup)).trans (if_pos ⟨hok, ht⟩)

end Registers

/-! ## BAR2 (R402) -/

section Bar

variable {fn off n : Nat} {ks : List Nat}

/-- The host reaches a function of the device. -/
theorem reached (hup : hostUp s dev = true) (hfn : fn < 17) : ¬ (¬ hostUp s dev = true ∨ 17 ≤ fn) :=
  not_or_intro (not_not_intro hup) (Nat.not_le.mpr hfn)

theorem barAccess_writes {v : Nat} (hup : hostUp s dev = true) (hfn : fn < 17) (hks : barKeys s dev fn off n true = some ks) :
    barAccess s dev fn off n (some v) = { putBytes s (ks.zip (toBytes n v)) with bad := s.bad.filter fun k => !ks.contains k } := by
  simp only [barAccess, Option.isSome_some, hks]
  exact if_neg (reached hup hfn)

theorem barAccess_reads (hup : hostUp s dev = true) (hfn : fn < 17) (hks : barKeys s dev fn off n false = some ks)
    (hgood : (ks.any s.bad.contains) = false) :
    barAccess s dev fn off n none = reg dev fn (fun h => { h with read := BitVec.ofNat 64 (s.numAt ks) }) s := by
  simp only [barAccess, Option.isSome_none, hks, hgood, Bool.false_eq_true, if_false]
  exact (if_neg (reached hup hfn)).trans (modFn_up hup _)

theorem barAccess_refuses {v : Nat} (hup : hostUp s dev = true) (hfn : fn < 17) (hks : barKeys s dev fn off n true = none) :
    barAccess s dev fn off n (some v) =
      (s.modDev dev fun d => { d with refusedBar := d.refusedBar + 1 }).record dev 4 12 (hostEid dev fn) none (some off) := by
  simp only [barAccess, Option.isSome_some, hks]
  exact if_neg (reached hup hfn)

end Bar

/-! ## The context switch (R395, R404) -/

section Switch

variable {core : Nat}

theorem startSwitch_busy {may : Bool} {run : Option Nat} (hup : hostUp s dev = true)
    (h : (s.core (coreIndexEid dev core)).switching.isSome = true) : startSwitch s dev core may run = ctxAnswer s dev stRETRY 0 :=
  (if_neg (not_not_intro hup)).trans (if_pos h)

/-- A switch of a core that is at rest starts, or is answered STATE. -/
theorem startSwitch_idle {may : Bool} {run : Option Nat} (hup : hostUp s dev = true)
    (h : (s.core (coreIndexEid dev core)).switching = none) :
    startSwitch s dev core may run =
      if may = true ∧ mayCtxsw s dev core = true then
        s.modCore (coreIndexEid dev core) fun c => { c with switching := some run }
      else ctxAnswer s dev stSTATE 0 := by
  unfold startSwitch
  refine (if_neg (not_not_intro hup)).trans (if_neg ?_)
  rw [h]
  exact Bool.false_ne_true

/-- The state with the core's switch at its end. -/
def switched (s : State) (dev core : Nat) : State := s.modCore (coreIndexEid dev core) fun c => { c with switching := none }

theorem ctxswOut_ends (hw : s.who = [1]) (h : (s.core (coreIndexEid dev core)).switching = some none) :
    ctxswOut s dev core =
      if mayCtxsw (switched s dev core) dev core = true then switchOut (switched s dev core) dev core
      else ctxAnswer (switched s dev core) dev stSTATE 0 := by
  unfold ctxswOut
  exact (if_pos hw).trans (if_pos h)

theorem ctxswIn_ends {pa : Nat} (hw : s.who = [1]) (h : (s.core (coreIndexEid dev core)).switching = some (some pa)) :
    ctxswIn s dev core =
      if mayCtxsw (switched s dev core) dev core = true then switchTo (switched s dev core) dev core pa
      else ctxAnswer (switched s dev core) dev stSTATE 0 := by
  simp only [ctxswIn, h]
  exact if_pos hw

theorem ctxswOut_starts (hw : s.who ≠ [1]) : ctxswOut s dev core = startSwitch s dev core true none := by
  unfold ctxswOut
  exact if_neg hw

theorem ctxswIn_starts (hw : s.who ≠ [1]) :
    ctxswIn s dev core = startSwitch s dev core (s.core (coreIndexEid dev core)).ctx.isNone (some (fnOf s dev 0).ctxdesc.toNat) := by
  unfold ctxswIn
  exact if_neg hw

variable {asid : Nat} {x : Ctx} {t : State}

theorem switchOut_faults {cause va : Nat} (hctx : (s.core (coreIndexEid dev core)).ctx = some asid)
    (hx : s.ctx? dev asid = some x) (hwb : writeBack s (coreIndexEid dev core) asid (fun _ => true) = (t, some (cause, va))) :
    switchOut s dev core = ctxAnswer (postRecord (drainWb t (coreIndexEid dev core)) dev asid
      { code := 12, cause := cause, unit := 3, lane := 255, va := va } { eid := coreIndexEid dev core }) dev stSTATE 1 := by
  simp only [switchOut, hctx, Option.bind_some, hx, Option.map_some, hwb]

theorem switchOut_saves {u : State} (hctx : (s.core (coreIndexEid dev core)).ctx = some asid)
    (hx : s.ctx? dev asid = some x) (hwb : writeBack s (coreIndexEid dev core) asid (fun _ => true) = (t, none))
    (hs : saveCore (drainWb t (coreIndexEid dev core)) (coreIndexEid dev core) asid x = .ok u) :
    switchOut s dev core = ctxAnswer (reapPlans (u.modCore (coreIndexEid dev core) Core.unload)) dev stOK 0 := by
  simp only [switchOut, hctx, Option.bind_some, hx, Option.map_some, hwb]
  exact congrArg (afterSave t dev (coreIndexEid dev core)) hs

theorem switchTo_loads {pa : Nat} {u : State} (hctx : (s.core (coreIndexEid dev core)).ctx = none)
    (hread : readCtx s dev pa = some (asid, x)) (hin : switchIn (loadCtx s dev asid x) (coreIndexEid dev core) asid = .ok u) :
    switchTo s dev core pa = ctxAnswer
      (bindFns (u.modDie (eidDie (coreIndexEid dev core)) fun d => { d with grants := List.replicate 8 0 }) dev asid) dev stOK 0 := by
  simp only [switchTo, hctx, Option.isSome_none, hread, hin]
  exact if_neg Bool.false_ne_true

end Switch

/-! ## Power (R405, R406) -/

section Power

variable {die : Nat}

theorem thermalStop_stops (hw : s.who = [die]) (h : 1100 ≤ (s.die die).temp) :
    thermalStop s = s.modDie die fun d => { d with stopped := true } := by
  simp only [thermalStop, hw]
  exact if_pos h

theorem thermalResume_resumes (hw : s.who = [die]) (h : (s.die die).stopped = true ∧ (s.die die).temp < 1000) :
    thermalResume s = s.modDie die fun d => { d with stopped := false } := by
  simp only [thermalResume, hw]
  exact if_pos h

end Power

/-! ## Resets and attestation (R408, R409, R413) -/

section Resets

theorem warmReset_resets (hd : s.hasDev dev = true) (h9 : (s.dev dev).stage ≠ 9) (h0 : (s.dev dev).stage ≠ 0) :
    warmReset s dev = (clearDevice s dev).record dev 4 7 0 none none := by
  unfold warmReset
  exact if_neg (not_or_intro (not_not_intro hd) (not_or_intro h9 h0))

theorem thermalCutoff_cuts (hd : s.hasDev dev = true) (h : 1150 ≤ hottest s dev) :
    thermalCutoff s dev =
      let c := clearDevice (loseMaster s dev) dev
      (c.modDev dev fun d => { d with stage := 0, cutoff := true }).record dev 4
        ((Config.freeWord c.free (2 ^ 74)).toNat % 256) 0 none none := by
  unfold thermalCutoff
  exact if_neg (not_or_intro (not_not_intro hd) (Nat.not_lt.mpr h))

/-- A device as the boot ROM finds it. -/
def atBoot (s : State) (dev : Nat) : State :=
  let c := clearDevice (loseMaster s dev) dev
  { c with recorders := c.recorders.filter fun (k, _) => k / 8 != dev }

/-- The boot ROM takes a bank, or none. -/
def booted (c : State) (dev : Nat) : Option Bank → State
  | some b => (c.modDev dev fun d =>
      { d with image := BitVec.ofNat 64 b.digest
               fuseVer := if Config.happens c.free 0 then b.ver else d.fuseVer }).record dev 4 7 0 none none
  | none => (c.modDev dev fun d => { d with stage := 9 }).record dev 4 13 0 none none

theorem coldReset_boots {ok : Bool} {ver digest : Nat} {c : State} (b : Option Bank) (hd : s.hasDev dev = true)
    (hc : atBoot s dev = c) (hb : (banksOf ok ver digest c.who).find? (c.dev dev).accepts = b) :
    coldReset s dev ok ver digest = noteRoutes (unnumber (booted c dev b) dev) := by
  subst hc
  unfold coldReset
  refine (if_neg (not_not_intro hd)).trans ?_
  exact congrArg (fun b => noteRoutes (unnumber (booted (atBoot s dev) dev b) dev)) hb

theorem trainPcie_trains {width rate : Nat} (hd : s.hasDev dev = true) (ht : mayTrain (s.dev dev) = true) (hw : 1 ≤ width)
    (hw' : width ≤ 16) (hr : 1 ≤ rate) (hr' : rate ≤ 128) :
    trainPcie s dev width rate = s.modDev dev fun d => { d with stage := 5, linkWidth := width, linkRate := rate } := by
  unfold trainPcie
  refine if_neg ?_
  rintro (h | h | h | h | h | h)
  · exact h hd
  · exact h ht
  all_goals omega

theorem spdmAnswer_answers {code : Nat} {l : List (BitVec 64)} (h : (s.dev dev).stage = 5 ∨ (s.dev dev).stage = 9) :
    spdmAnswer s dev code l = s.modDev dev fun d => { d with spdm := some (code, l) } := if_pos h

theorem spdmOpen_answers (code : Nat) (h : (s.dev dev).stage = 5 ∨ (s.dev dev).stage = 9) :
    spdmOpen s dev code = s.modDev dev fun d => { d with spdm := some (code, [Config.freeWord s.free (2 ^ 75)]) } :=
  spdmAnswer_answers h

end Resets

/-! ## Soft errors (R410) -/

section Patrol

variable {die page : Nat}

/-- The corrections of a page within the last 24 hours. -/
def recent (s : State) (die page : Nat) : List Nat :=
  ((Keyed.get? (s.recorder die).pages page).getD []).filter fun x => decide ((s.dev (die / 8)).tick < x + 86400 * 10 ^ 9)

/-- The state with a correction counted, the page's recent ones noted. -/
def patrolled (s : State) (die page : Nat) (l : List Nat) : State :=
  scrub (s.modRecorder die fun r => { r with pages := Keyed.put r.pages page l }) die 0

theorem patrol_counts (h : (recent s die page).length < 15) :
    patrol s die page = patrolled s die page ((s.dev (die / 8)).tick :: recent s die page) := by
  have hfew : ¬ 16 ≤ ((s.dev (die / 8)).tick :: recent s die page).length := by
    rw [List.length_cons]
    omega
  exact (if_neg hfew).trans (congrArg (patrolled s die page) (if_neg hfew))

end Patrol

/-- Settles O49. -/
theorem platformEvents : Obligations.PlatformEvents := by
  unfold Obligations.PlatformEvents
  intro s dev reg'
  refine ⟨fun hup => ⟨fun fn val off => ⟨?register, ?cap, ?recsel, fun k hk => ⟨?rres, ?rpub, ?rtake, ?rdone⟩⟩,
      fun fn off n ks v hfn => ⟨?barWrite, ?barRead, ?barRefuse⟩, fun core hw => ⟨?busy, ?starts, ?refused⟩⟩,
    fun core hw => ⟨?out, ?into, ?stopped⟩, ?dvfs, fun die hw => ⟨?stop, ?resume⟩,
    fun hd => ⟨?warm, ?cutoff, fun ok ver digest => ⟨?recovery, ?accepted⟩, ?train⟩, fun hst => ⟨?spdm, ?measure⟩, ?scrub, ?patrol⟩
  case register =>
    show event (fun s => modFn s dev fn (writeReg fn off (BitVec.ofNat 64 val))) s = _
    exact event_next (modFn_up hup _)
  case cap =>
    show event (fun s => setCap s dev val) s = _
    exact event_next (modFn_up hup _)
  case recsel =>
    show event (fun s => setRecsel s dev val) s = _
    exact event_next (modFn_up hup _)
  case rres =>
    show event (fun s => rres s dev fn) s = _
    exact event_next (rres_reserves hup hk)
  case rpub =>
    show event (fun s => rpub s dev fn val) s = _
    exact event_next (rpub_publishes hup hk)
  case rtake =>
    intro h
    show event (fun s => rtake s dev fn) s = _
    exact event_next (rtake_takes hup hk h)
  case rdone =>
    intro hok ht
    show event (fun s => rdone s dev fn val) s = _
    exact event_next (rdone_takes hup hk hok ht)
  case barWrite =>
    intro hks
    show event (fun s => barAccess s dev fn off n (some v)) s = _
    exact event_next (barAccess_writes hup hfn hks)
  case barRead =>
    intro hks hgood
    show event (fun s => barAccess s dev fn off n none) s = _
    exact event_next (barAccess_reads hup hfn hks hgood)
  case barRefuse =>
    intro hks
    show event (fun s => barAccess s dev fn off n (some v)) s = _
    exact event_next (barAccess_refuses hup hfn hks)
  case busy =>
    exact fun h => ⟨event_next (g := fun s => ctxswOut s dev core) ((ctxswOut_starts hw).trans (startSwitch_busy hup h)),
      event_next (g := fun s => ctxswIn s dev core) ((ctxswIn_starts hw).trans (startSwitch_busy hup h))⟩
  case starts =>
    intro hidle hmay
    refine ⟨event_next (g := fun s => ctxswOut s dev core) ?_, fun hctx => event_next (g := fun s => ctxswIn s dev core) ?_,
      fun hctx => event_next (g := fun s => ctxswIn s dev core) ?_⟩
    · exact (ctxswOut_starts hw).trans ((startSwitch_idle hup hidle).trans (if_pos ⟨rfl, hmay⟩))
    · exact (ctxswIn_starts hw).trans
        ((startSwitch_idle hup hidle).trans (if_pos ⟨Option.isNone_iff_eq_none.mpr hctx, hmay⟩))
    · exact (ctxswIn_starts hw).trans
        ((startSwitch_idle hup hidle).trans (if_neg fun h => hctx (Option.isNone_iff_eq_none.mp h.1)))
  case refused =>
    intro hidle hmay
    have hno : ∀ may : Bool, ¬ (may = true ∧ mayCtxsw s dev core = true) := fun may h => absurd h.2 (ne_true_of_eq_false hmay)
    exact ⟨event_next (g := fun s => ctxswOut s dev core)
        ((ctxswOut_starts hw).trans ((startSwitch_idle hup hidle).trans (if_neg (hno _)))),
      event_next (g := fun s => ctxswIn s dev core)
        ((ctxswIn_starts hw).trans ((startSwitch_idle hup hidle).trans (if_neg (hno _))))⟩
  case out =>
    intro hsw hmay asid x t hctx hx
    have hout := (ctxswOut_ends hw hsw).trans (if_pos hmay)
    exact ⟨fun cause va hwb => event_next (g := fun s => ctxswOut s dev core) (hout.trans (switchOut_faults hctx hx hwb)),
      fun u hwb hs => event_next (g := fun s => ctxswOut s dev core) (hout.trans (switchOut_saves hctx hx hwb hs))⟩
  case into =>
    exact fun pa asid x u hsw hmay hctx hread hin => event_next (g := fun s => ctxswIn s dev core)
      ((ctxswIn_ends hw hsw).trans ((if_pos hmay).trans (switchTo_loads hctx hread hin)))
  case stopped =>
    exact fun hno =>
      ⟨fun hsw => event_next (g := fun s => ctxswOut s dev core)
        ((ctxswOut_ends hw hsw).trans (if_neg (ne_true_of_eq_false hno))),
      fun pa hsw => event_next (g := fun s => ctxswIn s dev core)
        ((ctxswIn_ends hw hsw).trans (if_neg (ne_true_of_eq_false hno)))⟩
  case dvfs => exact fun die power temp => event_next (g := fun s => dvfs s die power temp) rfl
  case stop => exact fun h => event_next (thermalStop_stops hw h)
  case resume => exact fun h1 h2 => event_next (thermalResume_resumes hw ⟨h1, h2⟩)
  case warm => exact fun h9 h0 => event_next (g := fun s => warmReset s dev) (warmReset_resets hd h9 h0)
  case cutoff => exact fun h => event_next (g := fun s => thermalCutoff s dev) (thermalCutoff_cuts hd h)
  case recovery =>
    intro hnone
    have hboots := coldReset_boots none hd rfl hnone
    exact event_next (g := fun s => coldReset s dev ok ver digest) hboots
  case accepted =>
    intro b hb
    have hboots := coldReset_boots (some b) hd rfl hb
    exact event_next (g := fun s => coldReset s dev ok ver digest) hboots
  case train =>
    exact fun width rate ht hw hw' hr hr' => event_next (g := fun s => trainPcie s dev width rate) (trainPcie_trains hd ht hw hw' hr hr')
  case spdm =>
    intro i code h
    have hopen : exec i s = event (fun s => spdmOpen s dev code) s := by
      simp only [List.mem_cons, Prod.mk.injEq, List.not_mem_nil, or_false] at h
      obtain ⟨rfl, rfl⟩ | ⟨rfl, rfl⟩ | ⟨rfl, rfl⟩ | ⟨rfl, rfl⟩ | ⟨rfl, rfl⟩ | ⟨rfl, rfl⟩ | ⟨rfl, rfl⟩ | ⟨rfl, rfl⟩ := h <;> rfl
    exact hopen.trans (event_next (spdmOpen_answers code hst))
  case measure => exact event_next (g := fun s => spdmAnswer s dev 6 (measurements s dev)) (spdmAnswer_answers hst)
  case scrub => exact fun die word => event_next (g := fun s => scrub s die (Config.sramOf word + 1)) rfl
  case patrol =>
    intro die page now l h
    exact event_next (g := fun s => patrol s die page) (patrol_counts h)

end Sys2Proof.Proofs.PlatformSteps

/-! SUPPORT. What lane 0 decides (R98): an effect of the thread does not happen when it is inactive, instruction by instruction. -/

namespace Sys2Proof.Proofs.InactiveLane0

open Sys2Proof.Machine

/-- An instruction of the list of R98, with its form and what it allows in handlers and on yard cores, only issues when lane 0 is
inactive. -/
def OnlyIssues (f : Fields) (x : Option Form × Bool × Bool × Instr) : Prop :=
  Ends x.1 x.2.1 x.2.2.1 f x.2.2.2 (fun e => ¬ e.on) (fun e => e.s)

section
variable {f : Fields} {form : Option Form} {hOk yOk : Bool} {i : Instr}

theorem act_of_not_on {e : Env} (h : ¬ e.on) : e.act 0 = false := eq_false_of_ne_true h

/-- Whatever the effect is, if it leaves the state of the issue when lane 0 is inactive, the instruction only issues then. -/
theorem onlyIssues_of (eff : Env → Except Stop State) (hx : ∀ s, exec i s = issue form hOk yOk eff f s)
    (he : ∀ e : Env, e.act 0 = false → eff e = .ok e.s) : OnlyIssues f (form, hOk, yOk, i) :=
  ends_of eff hx fun e _ h => he e (act_of_not_on h)

/-- An effect that is the thread's is none when lane 0 is inactive. -/
theorem onlyIssues_thread {k : Env → Unit → Except Stop State}
    (hx : ∀ s, exec i s = issue form hOk yOk (fun e => e.thread (k e)) f s) : OnlyIssues f (form, hOk, yOk, i) :=
  onlyIssues_of _ hx fun _ h => thread_of_inactive h _

theorem inv_onlyIssues : OnlyIssues f (formInv f, true, false, .inv f) :=
  onlyIssues_of (fun e => .ok (invEff e)) (fun _ => rfl) fun e h => by simp [invEff, h]

theorem tlbinv_onlyIssues : OnlyIssues f (formTlbinv f, true, false, .tlbinv f) :=
  onlyIssues_of (fun e => .ok (tlbinvEff e)) (fun _ => rfl) fun e h => by simp [tlbinvEff, h]

/-- `tkdone`, with a fire mask or without, ends as `exit` does, whose effect is the thread's. -/
theorem tkdone_onlyIssues : OnlyIssues f (formTkdone f, false, false, .tkdone f) :=
  onlyIssues_of tkdoneEff (fun _ => rfl) fun e h => by
    simp only [tkdoneEff, h, Bool.false_eq_true, and_false, if_false]
    exact thread_of_inactive h _

theorem trapEff_onlyIssues (code : Nat) (hx : ∀ s, exec i s = issue form hOk yOk (trapEff code) f s) :
    OnlyIssues f (form, hOk, yOk, i) :=
  onlyIssues_of (trapEff code) hx fun e h => by simp [trapEff, h]

/-- What holds of every member of a list holds of the one that is named. -/
theorem onlyIssues_of_mem {l : List (Option Form × Bool × Bool × Instr)} (ha : ∀ x ∈ l, OnlyIssues f x)
    (h : (form, hOk, yOk, i) ∈ l) : Ends form hOk yOk f i (fun e => ¬ e.on) (fun e => e.s) := ha _ h

end

/-- Settles O52: the effects of the listed instructions are the thread's, but for five that ask for lane 0 themselves. -/
theorem inactiveThreadEffects : Obligations.InactiveThreadEffects := by
  unfold Obligations.InactiveThreadEffects
  intro f form hOk yOk i h
  refine onlyIssues_of_mem ?_ h
  simp only [List.forall_mem_cons]
  iterate 31 refine ⟨onlyIssues_thread fun _ => rfl, ?_⟩
  refine ⟨inv_onlyIssues, tlbinv_onlyIssues, ?_⟩
  iterate 20 refine ⟨onlyIssues_thread fun _ => rfl, ?_⟩
  refine ⟨tkdone_onlyIssues, ?_⟩
  iterate 28 refine ⟨onlyIssues_thread fun _ => rfl, ?_⟩
  refine ⟨trapEff_onlyIssues _ fun _ => rfl, ?_⟩
  refine ⟨onlyIssues_thread fun _ => rfl, ?_⟩
  refine ⟨trapEff_onlyIssues _ fun _ => rfl, ?_⟩
  iterate 7 refine ⟨onlyIssues_thread fun _ => rfl, ?_⟩
  exact List.forall_mem_nil _

end Sys2Proof.Proofs.InactiveLane0

/-! SUPPORT. The slot that a core grants (R95): the first handler slot, or the thread slot that precedes every other ready one. -/

namespace Sys2Proof.Proofs.Selector

open Sys2Proof.Machine

/-! ## Thread slots -/

/-- Slot `x` comes no later than `y` in the order of stamps, then from the pointer on. -/
def Precedes (ptr : Nat) (x y : Nat × Thread) : Prop :=
  x.2.stamp < y.2.stamp ∨ x.2.stamp = y.2.stamp ∧ (x.1 + 16 - ptr) % 16 ≤ (y.1 + 16 - ptr) % 16

theorem Precedes.refl (ptr : Nat) (x : Nat × Thread) : Precedes ptr x x := .inr ⟨rfl, Nat.le_refl _⟩

theorem Precedes.trans {ptr : Nat} {x y z : Nat × Thread} (h : Precedes ptr x y) (k : Precedes ptr y z) : Precedes ptr x z := by
  unfold Precedes at *
  omega

/-- The better of the best slot so far and the next one: what `threadGrant` folds with. -/
def better (ptr : Nat) (best : Option (Nat × Thread)) (x : Nat × Thread) : Option (Nat × Thread) :=
  match best with
  | none => some x
  | some b =>
    if x.2.stamp < b.2.stamp ∨ (x.2.stamp = b.2.stamp ∧ (x.1 + 16 - ptr) % 16 < (b.1 + 16 - ptr) % 16) then some x
    else best

theorem threadGrant_eq (ptr : Nat) (l : List (Nat × Thread)) : threadGrant ptr l = l.foldl (better ptr) none := rfl

theorem better_some (ptr : Nat) (b x : Nat × Thread) :
    ∃ y, better ptr (some b) x = some y ∧ (y = b ∨ y = x) ∧ Precedes ptr y b ∧ Precedes ptr y x := by
  unfold better Precedes
  dsimp only
  split
  · exact ⟨x, rfl, .inr rfl, by omega, by omega⟩
  · exact ⟨b, rfl, .inl rfl, by omega, by omega⟩

theorem foldl_better (ptr : Nat) (l : List (Nat × Thread)) (b : Nat × Thread) :
    ∃ x, l.foldl (better ptr) (some b) = some x ∧ x ∈ b :: l ∧ ∀ y ∈ b :: l, Precedes ptr x y := by
  induction l generalizing b with
  | nil => exact ⟨b, rfl, List.mem_singleton.2 rfl, fun y hy => List.mem_singleton.1 hy ▸ Precedes.refl ptr b⟩
  | cons a r ih =>
    obtain ⟨c, hc, hcab, hb, ha⟩ := better_some ptr b a
    obtain ⟨x, hx, hm, hp⟩ := ih c
    have hxc : Precedes ptr x c := hp c List.mem_cons_self
    refine ⟨x, by rw [List.foldl_cons, hc, hx], ?_, ?_⟩
    · rcases List.mem_cons.1 hm with rfl | hr
      · rcases hcab with rfl | rfl
        · exact List.mem_cons_self
        · exact List.mem_cons_of_mem _ List.mem_cons_self
      · exact List.mem_cons_of_mem _ (List.mem_cons_of_mem _ hr)
    · intro y hy
      rcases List.mem_cons.1 hy with rfl | hy
      · exact hxc.trans hb
      · rcases List.mem_cons.1 hy with rfl | hy
        · exact hxc.trans ha
        · exact hp y (List.mem_cons_of_mem _ hy)

theorem threadGrant_none {ptr : Nat} {l : List (Nat × Thread)} : threadGrant ptr l = none ↔ l = [] := by
  cases l with
  | nil => exact ⟨fun _ => rfl, fun _ => rfl⟩
  | cons a r =>
    obtain ⟨x, hx, -⟩ := foldl_better ptr r a
    have h : threadGrant ptr (a :: r) = some x := hx
    simp [h]

theorem threadGrant_first {ptr : Nat} {l : List (Nat × Thread)} {x : Nat × Thread} (h : threadGrant ptr l = some x) :
    x ∈ l ∧ ∀ y ∈ l, Precedes ptr x y := by
  cases l with
  | nil => cases h
  | cons a r =>
    obtain ⟨y, hy, hm, hp⟩ := foldl_better ptr r a
    obtain rfl : y = x := Option.some.inj (hy.symm.trans h)
    exact ⟨hm, hp⟩

/-! ## Handler slots -/

/-- In a list without a repeated slot, a slot stands for its number. -/
theorem eq_of_slot_eq {l : List (Nat × Thread)} (hnd : (l.map (·.1)).Nodup) {x y : Nat × Thread} (hx : x ∈ l) (hy : y ∈ l)
    (h : x.1 = y.1) : x = y := by
  induction l with
  | nil => cases hx
  | cons z l ih =>
    rw [List.map_cons, List.nodup_cons] at hnd
    obtain ⟨hz, hnd⟩ := hnd
    obtain hxz | hxl := List.mem_cons.mp hx <;> obtain hyz | hyl := List.mem_cons.mp hy
    · exact hxz.trans hyz.symm
    · exact absurd (List.mem_map.mpr ⟨y, hyl, by rw [← h, hxz]⟩) hz
    · exact absurd (List.mem_map.mpr ⟨x, hxl, by rw [h, hyz]⟩) hz
    · exact ih hnd hxl hyl

/-- In a list without a repeated slot, the slot with a number is the one that is found. -/
theorem mem_iff_find {l : List (Nat × Thread)} (hnd : (l.map (·.1)).Nodup) {k : Nat} {x : Nat × Thread} :
    l.find? (·.1 == k) = some x ↔ x ∈ l ∧ x.1 = k := by
  constructor
  · intro h
    exact ⟨List.mem_of_find?_eq_some h, by simpa using List.find?_some h⟩
  · rintro ⟨hm, rfl⟩
    cases h : l.find? (·.1 == x.1) with
    | none => exact absurd (List.find?_eq_none.1 h x hm) (by simp)
    | some y =>
      have hy : y.1 = x.1 := by simpa using List.find?_some h
      rw [eq_of_slot_eq hnd (List.mem_of_find?_eq_some h) hm hy]

section
variable {l : List (Nat × Thread)} (hnd : (l.map (·.1)).Nodup) (hlo : ∀ x ∈ l, 16 ≤ x.1) (hhi : ∀ x ∈ l, x.1 < 18)
include hnd hlo hhi

theorem handlerGrant_first {x : Nat × Thread} (h : handlerGrant l = some x) :
    x ∈ l ∧ ∀ y ∈ l, x.2.startNo < y.2.startNo ∨ x.2.startNo = y.2.startNo ∧ x.1 ≤ y.1 := by
  have hf := fun k (y : Nat × Thread) => mem_iff_find hnd (k := k) (x := y)
  have hk : ∀ y ∈ l, l.find? (·.1 == 16) = some y ∨ l.find? (·.1 == 17) = some y := fun y hy => by
    have := hlo y hy
    have := hhi y hy
    rcases show y.1 = 16 ∨ y.1 = 17 by omega with h | h
    · exact .inl ((hf 16 y).2 ⟨hy, h⟩)
    · exact .inr ((hf 17 y).2 ⟨hy, h⟩)
  unfold handlerGrant at h
  cases ha : l.find? (·.1 == 16) with
  | none =>
    cases hb : l.find? (·.1 == 17) with
    | none => simp [ha, hb] at h
    | some b =>
      obtain rfl : b = x := by simpa [ha, hb] using h
      refine ⟨((hf 17 b).1 hb).1, fun y hy => ?_⟩
      obtain rfl : b = y := by simpa [ha, hb] using hk y hy
      exact .inr ⟨rfl, Nat.le_refl _⟩
  | some a =>
    obtain ⟨ham, ha1⟩ := (hf 16 a).1 ha
    cases hb : l.find? (·.1 == 17) with
    | none =>
      obtain rfl : a = x := by simpa [ha, hb] using h
      refine ⟨ham, fun y hy => ?_⟩
      obtain rfl : a = y := by simpa [ha, hb] using hk y hy
      exact .inr ⟨rfl, Nat.le_refl _⟩
    | some b =>
      obtain ⟨hbm, hb1⟩ := (hf 17 b).1 hb
      have hy' : ∀ y ∈ l, a = y ∨ b = y := fun y hy => by simpa [ha, hb] using hk y hy
      simp only [ha, hb] at h
      split at h
      · obtain rfl := Option.some.inj h
        exact ⟨hbm, fun y hy => by rcases hy' y hy with rfl | rfl <;> omega⟩
      · obtain rfl := Option.some.inj h
        exact ⟨ham, fun y hy => by rcases hy' y hy with rfl | rfl <;> omega⟩

theorem handlerGrant_none : handlerGrant l = none ↔ l = [] := by
  constructor
  · intro h
    refine Classical.byContradiction fun hl => ?_
    obtain ⟨y, hy⟩ := List.exists_mem_of_ne_nil l hl
    have := hlo y hy
    have := hhi y hy
    have hf := fun k => mem_iff_find hnd (k := k) (x := y)
    unfold handlerGrant at h
    cases ha : l.find? (·.1 == 16) with
    | none =>
      simp only [ha] at h
      rcases show y.1 = 16 ∨ y.1 = 17 by omega with k | k
      · simp [(hf 16).2 ⟨hy, k⟩] at ha
      · simp [(hf 17).2 ⟨hy, k⟩] at h
    | some a =>
      simp only [ha] at h
      split at h
      · split at h <;> cases h
      · cases h
      · simp_all
  · rintro rfl
    rfl

end

/-! ## The slot granted -/

/-- The ready slots of a core, as `grantOf` lists them. -/
def readySlots (c : Core) : List (Nat × Thread) := c.slots.filter fun x => x.2.status == .ready

/-- The ready handler slots, and the ready thread slots. -/
def readyHandlers (c : Core) : List (Nat × Thread) := (readySlots c).filter fun x => decide (16 ≤ x.1)
def readyThreads (c : Core) : List (Nat × Thread) := (readySlots c).filter fun x => decide (x.1 < 16)

theorem mem_readySlots {c : Core} {x : Nat × Thread} : x ∈ readySlots c ↔ x ∈ c.slots ∧ x.2.status = .ready := by
  simp [readySlots]

theorem mem_readyHandlers {c : Core} {x : Nat × Thread} :
    x ∈ readyHandlers c ↔ (x ∈ c.slots ∧ x.2.status = .ready) ∧ 16 ≤ x.1 := by
  simp [readyHandlers, mem_readySlots]

theorem mem_readyThreads {c : Core} {x : Nat × Thread} :
    x ∈ readyThreads c ↔ (x ∈ c.slots ∧ x.2.status = .ready) ∧ x.1 < 16 := by
  simp [readyThreads, mem_readySlots]

theorem grantOf_handler {c : Core} {x : Nat × Thread} (h : handlerGrant (readyHandlers c) = some x) : grantOf c = some x := by
  unfold grantOf
  simp only [readyHandlers, readySlots] at h
  simp only [h]

theorem grantOf_thread {c : Core} (h : handlerGrant (readyHandlers c) = none) :
    grantOf c = threadGrant c.ptr (readyThreads c) := by
  unfold grantOf
  simp only [readyHandlers, readySlots] at h
  simp only [h]
  rfl

theorem slots_sublist (c : Core) : (c.slots).Sublist c.threads := List.filter_sublist

section
variable {c : Core} (hnd : (c.threads.map (·.1)).Nodup) (hhi : ∀ x ∈ c.threads, x.1 < 18)
include hnd hhi

theorem readyHandlers_shape : ((readyHandlers c).map (·.1)).Nodup ∧ (∀ x ∈ readyHandlers c, 16 ≤ x.1) ∧
    ∀ x ∈ readyHandlers c, x.1 < 18 := by
  have hs : (readyHandlers c).Sublist c.threads := (List.filter_sublist.trans List.filter_sublist).trans (slots_sublist c)
  exact ⟨hnd.sublist (hs.map _), fun x hx => (mem_readyHandlers.1 hx).2, fun x hx => hhi x (hs.subset hx)⟩

theorem grantOf_none : grantOf c = none ↔ ∀ k u, ¬ ((k, u) ∈ c.slots ∧ u.status = .ready) := by
  obtain ⟨h1, h2, h3⟩ := readyHandlers_shape hnd hhi
  have hh := handlerGrant_none h1 h2 h3
  constructor
  · intro h k u hr
    cases hg : handlerGrant (readyHandlers c) with
    | some x => simp [grantOf_handler hg] at h
    | none =>
      rw [grantOf_thread hg, threadGrant_none] at h
      by_cases hk : 16 ≤ k
      · exact List.not_mem_nil (hh.1 hg ▸ mem_readyHandlers.2 ⟨hr, hk⟩)
      · exact List.not_mem_nil (h ▸ mem_readyThreads.2 ⟨hr, by omega⟩)
  · intro h
    have hH : readyHandlers c = [] := List.eq_nil_iff_forall_not_mem.2 fun x hx => h x.1 x.2 (mem_readyHandlers.1 hx).1
    have hT : readyThreads c = [] := List.eq_nil_iff_forall_not_mem.2 fun x hx => h x.1 x.2 (mem_readyThreads.1 hx).1
    rw [grantOf_thread (hh.2 hH), threadGrant_none]
    exact hT

theorem grantOf_some {slot : Nat} {t : Thread} (h : grantOf c = some (slot, t)) :
    ((slot, t) ∈ c.slots ∧ t.status = .ready) ∧
    (16 ≤ slot → ∀ k u, (k, u) ∈ c.slots ∧ u.status = .ready → 16 ≤ k →
      t.startNo < u.startNo ∨ t.startNo = u.startNo ∧ slot ≤ k) ∧
    (slot < 16 → ∀ k u, (k, u) ∈ c.slots ∧ u.status = .ready → k < 16 ∧
      (t.stamp < u.stamp ∨ t.stamp = u.stamp ∧ (slot + 16 - c.ptr) % 16 ≤ (k + 16 - c.ptr) % 16)) := by
  obtain ⟨h1, h2, h3⟩ := readyHandlers_shape hnd hhi
  cases hg : handlerGrant (readyHandlers c) with
  | some x =>
    obtain rfl : x = (slot, t) := Option.some.inj ((grantOf_handler hg).symm.trans h)
    obtain ⟨hm, hf⟩ := handlerGrant_first h1 h2 h3 hg
    obtain ⟨hr, hlo⟩ := mem_readyHandlers.1 hm
    exact ⟨hr, fun _ k u hu hk => hf (k, u) (mem_readyHandlers.2 ⟨hu, hk⟩), fun hlt => absurd hlo (by simp; omega)⟩
  | none =>
    rw [grantOf_thread hg] at h
    obtain ⟨hm, hf⟩ := threadGrant_first h
    obtain ⟨hr, hlt⟩ := mem_readyThreads.1 hm
    have hE : readyHandlers c = [] := (handlerGrant_none h1 h2 h3).1 hg
    refine ⟨hr, fun hlo => absurd hlt (by simp; omega), fun _ k u hu => ?_⟩
    have hk : k < 16 := by
      refine Nat.lt_of_not_le fun hk => ?_
      exact List.not_mem_nil (hE ▸ mem_readyHandlers.2 ⟨hu, hk⟩)
    exact ⟨hk, hf (k, u) (mem_readyThreads.2 ⟨hu, hk⟩)⟩

end

/-! ## What the grant records -/

theorem touchInst_core (s : State) (d a g e : Nat) : (s.touchInst d a g).core e = s.core e := by
  unfold State.touchInst
  split <;> rfl

theorem grant_core (s : State) (eid slot : Nat) (t : Thread) (k : Nat) :
    (grant s eid slot t k).core eid = (grantPort s eid slot t k).core eid := by
  unfold grant
  dsimp only
  split
  · split
    · exact touchInst_core ..
    · rfl
  · rfl

/-- The issue port and the pointer after a grant. -/
theorem grantPort_port (s : State) (eid slot : Nat) (t : Thread) (k : Nat) :
    ((grantPort s eid slot t k).core eid).busy = s.cycle eid + 1 + k ∧
      ((grantPort s eid slot t k).core eid).ptr = if slot < 16 then (slot + 1) % 16 else (s.core eid).ptr := by
  simp [grantPort, State.setThr, State.core_modCore]

/-- Settles O55: the selection is a first element of the ready slots, and the grant writes port, pointer and stamp. -/
theorem theSelectorGrants : Obligations.TheSelectorGrants := by
  unfold Obligations.TheSelectorGrants
  refine ⟨fun c hnd hhi => ⟨grantOf_none hnd hhi, fun slot t h => grantOf_some hnd hhi h⟩, fun s eid slot k t => ?_⟩
  obtain ⟨hb, hp⟩ := grantPort_port s eid slot t k
  intro s'
  refine ⟨?_, grant_thr s eid slot t k, fun h => ?_, fun h => ?_⟩
  · rw [grant_core, hb]
  · rw [grant_core, hp, if_pos h]
  · rw [grant_core, hp, if_neg (Nat.not_lt.2 h)]

end Sys2Proof.Proofs.Selector

/-! SUPPORT. The instructions that write D alone (R71, R73, R76): what their effects leave, and that the destination of each spans its
width once. -/

namespace Sys2Proof.Proofs.RegisterFrame

open Sys2Proof.Machine

/-! ## Forms whose destination spans its width once -/

section
variable {f : Fields} {c : Prop} {_ : Decidable c} {fm : Form}

theorem dspan_ite (h : fm.dspan = 1) : ((if c then some fm else none).getD {}).dspan = 1 := by
  split
  · exact h
  · rfl

theorem dspan_map_ite {g : Form → Form} (h : (g fm).dspan = 1) :
    (((if c then some fm else none).map g).getD {}).dspan = 1 := by
  split
  · exact h
  · rfl

theorem dspan_formMovi : ((formMovi f).getD {}).dspan = 1 := by unfold formMovi; split <;> rfl

theorem dspan_formExt : ((formExt f).getD {}).dspan = 1 := by unfold formExt; split <;> rfl

theorem dspan_formPack : ((formPack f).getD {}).dspan = 1 := by unfold formPack; split <;> rfl

theorem dspan_formField : ((formField f).getD {}).dspan = 1 := by unfold formField; split <;> rfl

theorem dspan_formIns : ((formIns f).getD {}).dspan = 1 := by unfold formIns formField; split <;> rfl

theorem dspan_formLane : ((formLane f).getD {}).dspan = 1 := by unfold formLane; split <;> rfl

theorem dspan_formShfl : ((formShfl f).getD {}).dspan = 1 := by
  unfold formShfl
  split
  · rfl
  · exact dspan_ite rfl

theorem dspan_formSclr : ((formSclr f).getD {}).dspan = 1 := by unfold formSclr; split <;> rfl

end

/-! ## Effects -/

/-- The effect `eff` of the instruction in hand ends in a state that leaves what the state of its issue leaves; `z` says whether FPSR
and the generators are kept, too. -/
def Framed (z : Bool) (form : Option Form) (eff : Env → Except Stop State) (e : Env) : Prop :=
  ∀ d t s, Leaves (touched (form.getD {}) e.f) z d e.eid e.slot t s e.s →
    ∃ r, eff e = .ok r ∧ Leaves (touched (form.getD {}) e.f) z d e.eid e.slot t s r

section
variable {form : Option Form} {e : Env}

theorem framed_doneI (hd : (form.getD {}).dspan = 1) (vals : Env → List (Nat × Nat)) :
    Framed true form (fun e => .ok (e.doneI (vals e) 0)) e :=
  fun _ _ _ h => ⟨_, rfl, doneI_leaves h (Nat.le_of_eq hd.symm) _ _ fun _ => rfl⟩

theorem framed_doneL (hd : (form.getD {}).dspan = 1) (vals : Env → List (Nat × Nat)) (fl : Env → BitVec 6) :
    Framed true form (fun e => .ok (e.doneL (vals e) (fl e))) e :=
  fun _ _ _ h => ⟨_, rfl, doneL_leaves h (Nat.le_of_eq hd.symm) _ _⟩

/-- A float result, at once or to land, with its flags and the steps of the generators. -/
theorem doneF_leaves {d : Bool} {t : Thread} {s : State} (hd : (form.getD {}).dspan = 1)
    (h : Leaves (touched (form.getD {}) e.f) false d e.eid e.slot t s e.s) (isL : Bool) (vals : List (Nat × Nat)) (fl : BitVec 6) :
    Leaves (touched (form.getD {}) e.f) false d e.eid e.slot t s (e.doneF isL vals fl) := by
  unfold Env.doneF
  split
  · exact doneL_leaves h (Nat.le_of_eq hd.symm) _ _
  · exact doneI_leaves h (Nat.le_of_eq hd.symm) _ _ nofun

theorem framed_fred (hd : (form.getD {}).dspan = 1) : Framed false form (fun e => .ok (fredEff e)) e := by
  refine fun _ _ _ h => ⟨_, rfl, ?_⟩
  unfold fredEff
  split
  · exact seed_leaves h _
  · exact seed_leaves (doneF_leaves hd h true _ _) _

theorem framed_fsplit (hd : (form.getD {}).dspan = 1) : Framed false form (fun e => .ok (fsplitEff e)) e := by
  refine fun _ _ _ h => ⟨_, rfl, stepSeeds_leaves ?_ _⟩
  split
  · exact doneL_leaves h (Nat.le_of_eq hd.symm) _ _
  · exact doneI_leaves h (Nat.le_of_eq hd.symm) _ _ nofun

theorem framed_padd (hd : (form.getD {}).dspan = 1)
    (h : ∀ l ∈ e.dlanes, paddBad e l = false ∧ (paddOff e l).isSome = true) : Framed true form paddEff e := by
  intro d t s hl
  have h1 : e.dlanes.find? (paddBad e) = none := List.find?_eq_none.2 fun l hm => by simp [(h l hm).1]
  have h2 : (e.dlanes.find? fun l => (paddOff e l).isNone) = none :=
    List.find?_eq_none.2 fun l hm => by simpa [Option.isSome_iff_ne_none] using (h l hm).2
  refine ⟨e.doneI (e.dlanes.map fun l => (l, paddVal e l)) 0, ?_, doneI_leaves hl (Nat.le_of_eq hd.symm) _ _ fun _ => rfl⟩
  simp only [paddEff, h1, h2]

theorem framed_sclr (hd : (form.getD {}).dspan = 1) (h : e.f.md = 0) : Framed true form sclrEff e :=
  fun _ _ _ hl => ⟨_, if_pos h, doneI_leaves hl (Nat.le_of_eq hd.symm) _ _ fun _ => rfl⟩

end

/-! ## Instructions -/

/-- An instruction of the list, with its form, and whether it may change FPSR and the generators, keeps the rest of its thread and of
the machine. -/
def Frame (f : Fields) (x : Option Form × Instr × Bool) : Prop := ∀ (s t : State) (th u : Thread),
  (x.2.1 = .padd f → ∀ l ∈ (hand x.1 f s th).dlanes, paddBad (hand x.1 f s th) l = false ∧ (paddOff (hand x.1 f s th) l).isSome = true) →
  (x.2.1 = .sclr f → f.md = 0) →
  Issues x.1 true true f s th → mboxesOf (x.1.getD {}) f = [] → f.m = false →
  exec x.2.1 s = .next t → t.thr? s.cur.1 s.cur.2 = some u →
  KeepsRest s.cur.1 s.cur.2 s t ∧ KeepsThread (touched (x.1.getD {}) f) th u ∧
    u.deadRead = (th.deadRead || th.readsDead (x.1.getD {}) f) ∧
    (x.2.2 = false → u.fpsr = th.fpsr ∧ u.seed = th.seed) ∧ (∀ b, th.fpsr.getLsbD b = true → u.fpsr.getLsbD b = true)

section
variable {f : Fields} {form : Option Form} {i : Instr} {isFloat : Bool}

/-- What an effect leaves, the retirement of its instruction leaves. -/
theorem frame_of (eff : Env → Except Stop State) (hx : ∀ s, exec i s = issue form true true eff f s)
    (he : ∀ s th, (i = .padd f → ∀ l ∈ (hand form f s th).dlanes,
        paddBad (hand form f s th) l = false ∧ (paddOff (hand form f s th) l).isSome = true) → (i = .sclr f → f.md = 0) →
      Framed (!isFloat) form eff (hand form f s th)) : Frame f (form, i, isFloat) := by
  intro s t th u hp hc hi hb hm ht hu
  obtain ⟨r, hr, hl⟩ := he s th hp hc _ _ _ (issueEnv_leaves (!isFloat) (form.getD {}) f s s.cur.1 s.cur.2 th hb)
  obtain rfl : retired s th f r = t := Host.Outcome.next.inj (((hx s).trans (issue_ends hi hr)).symm.trans ht)
  obtain ⟨k1, v, hv, k2, k3, k4, k5⟩ := retired_leaves hm hl
  obtain rfl : v = u := Option.some.inj (hv.symm.trans hu)
  exact ⟨k1, k2, k3, fun h => k4 (by simpa using h), k5⟩

theorem frame_doneI (hd : (form.getD {}).dspan = 1) {vals : Env → List (Nat × Nat)}
    (hx : ∀ s, exec i s = issue form true true (fun e => .ok (e.doneI (vals e) 0)) f s) : Frame f (form, i, false) :=
  frame_of _ hx fun _ _ _ _ => framed_doneI hd _

theorem frame_doneL (hd : (form.getD {}).dspan = 1) {vals : Env → List (Nat × Nat)} {fl : Env → BitVec 6}
    (hx : ∀ s, exec i s = issue form true true (fun e => .ok (e.doneL (vals e) (fl e))) f s) : Frame f (form, i, false) :=
  frame_of _ hx fun _ _ _ _ => framed_doneL hd _ _

theorem frame_doneF (hd : (form.getD {}).dspan = 1) {n : Env → Nat} {isL : Bool} {vals : Env → List (Nat × Nat)}
    {fl : Env → BitVec 6}
    (hx : ∀ s, exec i s = issue form true true (fun e => .ok (stepSeeds e (n e) (e.doneF isL (vals e) (fl e)))) f s) :
    Frame f (form, i, true) :=
  frame_of _ hx fun _ _ _ _ _ _ _ h => ⟨_, rfl, stepSeeds_leaves (doneF_leaves hd h _ _ _) _⟩

theorem fdot2_frame : Frame f (formFdot2 f, .fdot2 f, true) :=
  frame_of _ (fun _ => rfl) fun _ _ _ _ _ _ _ h =>
    ⟨_, rfl, stepSeeds_leaves (doneI_leaves h (Nat.le_of_eq (dspan_ite rfl).symm) _ _ nofun) _⟩

theorem fred_frame : Frame f (formFred f, .fred f, true) :=
  frame_of (fun e => .ok (fredEff e)) (fun _ => rfl) fun _ _ _ _ => framed_fred (dspan_map_ite rfl)

theorem fsplit_frame : Frame f (formFsplit f, .fsplit f, true) :=
  frame_of (fun e => .ok (fsplitEff e)) (fun _ => rfl) fun _ _ _ _ => framed_fsplit (dspan_ite rfl)

theorem padd_frame : Frame f (formPadd f, .padd f, false) :=
  frame_of paddEff (fun _ => rfl) fun _ _ hp _ => framed_padd (dspan_ite rfl) (hp rfl)

theorem sclr_frame : Frame f (formSclr f, .sclr f, false) :=
  frame_of sclrEff (fun _ => rfl) fun _ _ _ hc => framed_sclr dspan_formSclr (hc rfl)

/-- What holds of every member of a list holds of the one that is named. -/
theorem frame_of_mem {l : List (Option Form × Instr × Bool)} (ha : ∀ x ∈ l, Frame f x) (h : (form, i, isFloat) ∈ l) :
    Frame f (form, i, isFloat) := ha _ h

end

/-- Settles O57: each instruction of the list ends in writes of D, of the generators and of FPSR, and these leave the rest. -/
theorem registerInstructionsFrame : Obligations.RegisterInstructionsFrame := by
  unfold Obligations.RegisterInstructionsFrame
  intro f form i isFloat s t th u h
  refine frame_of_mem ?_ h s t th u
  simp only [List.forall_mem_cons]
  refine ⟨frame_doneI (dspan_ite rfl) fun _ => rfl, frame_doneI dspan_formMovi fun _ => rfl, frame_doneI (dspan_ite rfl) fun _ => rfl,
    frame_doneI dspan_formExt fun _ => rfl, frame_doneI dspan_formExt fun _ => rfl, frame_doneI dspan_formPack fun _ => rfl,
    frame_doneI dspan_formField fun _ => rfl, frame_doneI dspan_formIns fun _ => rfl, frame_doneI (dspan_ite rfl) fun _ => rfl,
    frame_doneL dspan_formLane fun _ => rfl, frame_doneL dspan_formShfl fun _ => rfl, frame_doneL (dspan_ite rfl) fun _ => rfl, ?_⟩
  iterate 21 refine ⟨frame_doneI (dspan_ite rfl) fun _ => rfl, ?_⟩
  iterate 2 refine ⟨frame_doneL (dspan_ite rfl) fun _ => rfl, ?_⟩
  refine ⟨frame_doneI (dspan_ite rfl) fun _ => rfl, frame_doneL (dspan_map_ite rfl) fun _ => rfl,
    frame_doneL (dspan_map_ite rfl) fun _ => rfl, ?_⟩
  iterate 5 refine ⟨frame_doneI (dspan_ite rfl) fun _ => rfl, ?_⟩
  iterate 19 refine ⟨frame_doneF (dspan_ite rfl) fun _ => rfl, ?_⟩
  exact ⟨fdot2_frame, fred_frame, fsplit_frame, padd_frame, sclr_frame, List.forall_mem_nil _⟩

end Sys2Proof.Proofs.RegisterFrame

/-! SUPPORT. A step of the machine (R91, R95): every instruction and event answers a next state, and the instruction that a core grants
is among the moves. -/

namespace Sys2Proof.Proofs.StepRuns

open Sys2Proof.Machine

/-- Instructions issue and events happen: each answers a next state. -/
theorem exec_next (i : Instr) (s : State) : ∃ t, exec i s = .next t := by
  cases i <;> exact ⟨_, rfl⟩

theorem runMove_of_next {s u : State} {m : Move}
    (h : exec m.i { s with cur := m.cur, who := m.who, inputs := if m.input then s.inputs.drop 1 else s.inputs } = .next u) :
    runMove s m = .next (passTime (noteWakes (notePast s u))) := by
  unfold runMove
  rw [h]

theorem runMove_next (s : State) (m : Move) : ∃ t, runMove s m = .next t := by
  obtain ⟨u, hu⟩ := exec_next m.i
    { s with cur := m.cur, who := m.who, inputs := if m.input then s.inputs.drop 1 else s.inputs }
  exact ⟨_, runMove_of_next hu⟩

theorem step_of_pick {s : State} {m : Move} (h : pickMove (refresh s) (moves (refresh s)) = some m) :
    step s = runMove (refresh s) m := by
  simp only [step, h]

theorem step_of_none {s : State} (h : pickMove (refresh s) (moves (refresh s)) = none) :
    step s = .next (passTime (refresh s)) := by
  simp only [step, h]

theorem next_of_decode {t : Thread} {i : Instr} {n : Nat} (h : decode t.code = .ok (i, n)) : t.next = i := by
  simp only [Thread.next, h]

theorem issueMoves_sub_moves {s : State} {m : Move} (h : m ∈ issueMoves s) : m ∈ moves s :=
  List.mem_append_right _ (List.mem_append_left _ h)

/-- The instruction of the thread that a core grants is one that it may issue. -/
theorem mem_issueMoves {s : State} {e slot : Nat} {c : Core} {t : Thread} (hc : (e, c) ∈ s.cores) (hi : c.issues s e = true)
    (hg : grantOf c = some (slot, t)) : { i := t.next, cur := (e, slot) } ∈ issueMoves s := by
  refine List.mem_flatMap.2 ⟨(e, c), hc, ?_⟩
  simp only [hi, hg, if_true]
  exact List.mem_singleton.2 rfl

/-- Settles O54: the three clauses are the cases of `step`. -/
theorem stepRunsTheDecodedInstruction : Obligations.StepRunsTheDecodedInstruction := by
  unfold Obligations.StepRunsTheDecodedInstruction
  refine fun s => ⟨?_, fun hm => ?_, ?_⟩
  · intro e slot n c t i m hc hi hg hd
    obtain rfl := next_of_decode hd
    refine ⟨issueMoves_sub_moves (mem_issueMoves hc hi hg), fun hp u hu => ?_⟩
    rw [step_of_pick hp]
    exact runMove_of_next hu
  · exact step_of_none (by rw [hm]; rfl)
  · cases hp : pickMove (refresh s) (moves (refresh s)) with
    | none => exact ⟨_, step_of_none hp⟩
    | some m =>
      rw [step_of_pick hp]
      exact runMove_next _ m

end Sys2Proof.Proofs.StepRuns

/-! SUPPORT. Worked words of the spec, decoded. -/

namespace Sys2Proof.Proofs.WorkedWords

open Sys2Proof.Machine

/-- Settles O50: the decoder run on the words. -/
theorem workedWordsDecode : Obligations.WorkedWordsDecode := by
  unfold Obligations.WorkedWordsDecode Reads
  dsimp only
  and_intros <;> decide +kernel

end Sys2Proof.Proofs.WorkedWords

/-! SUPPORT. The state after reset, and a new thread. -/

namespace Sys2Proof.Proofs.Reset

open Sys2Proof.Machine

/-- After reset every core is as `Core.reset` has it. -/
theorem core_reset (e : Nat) : State.reset.core e = Core.reset (eidPos e) := rfl

theorem accs_reset (pos : Nat) :
    (Core.reset pos).accs.all (fun a => decide (a.val = List.replicate 1024 0) && a.fault.isNone) = true := by
  refine List.all_eq_true.2 fun a ha => ?_
  obtain rfl : a = AccSlot.reset := (List.mem_replicate.1 ha).2
  exact Bool.and_eq_true_iff.2 ⟨decide_eq_true rfl, rfl⟩

section
variable (pc swinv scal : Nat) (units : List Nat) (task : BitVec 32) (targ : List (BitVec 64))

/-- In a new thread the slices of the window are live. -/
theorem newThread_vlive {n : Nat} (hn : n < 512) :
    (newThread pc swinv units scal task targ).vlive.getLsbD n = decide (n < swinv) := by
  show (BitVec.ofNat 512 (2 ^ swinv - 1)).getLsbD n = _
  rw [BitVec.getLsbD_ofNat, Nat.testBit_two_pow_sub_one, decide_eq_true hn, Bool.true_and]

theorem newThread_slive {n : Nat} (hn : n < 256) : (newThread pc swinv units scal task targ).slive.getLsbD n = true := by
  show (BitVec.allOnes 256).getLsbD n = true
  rw [BitVec.getLsbD_allOnes, decide_eq_true hn]

theorem newThread_lane {l : Nat} (hl : l < 32) : (newThread pc swinv units scal task targ).lane l = 0 := by
  show ((List.replicate 32 (0 : BitVec 2048)).getD l 0).toNat = 0
  simp only [List.getD_eq_getElem?_getD, List.getElem?_replicate_of_lt hl, Option.getD_some]
  exact BitVec.toNat_zero

theorem newThread_scal : (newThread pc swinv units scal task targ).scal.toNat = scal % 2 ^ 1024 := by
  rw [show (newThread pc swinv units scal task targ).scal = BitVec.ofNat 1024 scal from rfl, BitVec.toNat_ofNat]

theorem newThread_pred {k : Nat} (h1 : 1 ≤ k) (h7 : k ≤ 7) : (newThread pc swinv units scal task targ).pred k = 0 := by
  show (List.replicate 7 (0 : BitVec 32)).getD (k - 1) 0 = 0
  simp only [List.getD_eq_getElem?_getD, List.getElem?_replicate_of_lt (show k - 1 < 7 by omega)]
  rfl

end

/-- Settles O59: the values of `State.reset` and of `newThread`. -/
theorem theStateAfterReset : Obligations.TheStateAfterReset := by
  unfold Obligations.TheStateAfterReset
  refine ⟨rfl, rfl, rfl, rfl, rfl, rfl, rfl, rfl, rfl, fun _ => rfl, rfl, fun e => ?_, fun pc swinv units scal task targ => ?_⟩
  · exact ⟨rfl, rfl, rfl, rfl, rfl, rfl, rfl, rfl, rfl, rfl, accs_reset _, rfl⟩
  · exact ⟨BitVec.toNat_ofNat .., rfl, rfl, rfl, rfl, fun n hn => newThread_vlive _ _ _ _ _ _ hn, fun n hn => newThread_slive _ _ _ _ _ _ hn,
      fun l hl => newThread_lane _ _ _ _ _ _ hl, newThread_scal _ _ _ _ _ _, fun k h1 h7 => newThread_pred _ _ _ _ _ _ h1 h7, rfl, rfl⟩

end Sys2Proof.Proofs.Reset

/-! SUPPORT. Memory keeps its canonical form: what the accessors of the state and the shared operations of a thread leave of memory. -/

namespace Sys2Proof.Proofs.MemoryKept

open Sys2Proof.Machine

/-- The canonical form of a memory, as a proposition. -/
def Wf (m : List Host.Cell) : Prop := Memory.wf m = true

/-- Every state that a description stops with has a memory with `C`. -/
def Held (C : List Host.Cell → Prop) : Stop → Prop
  | .fail s _ => C s.mem
  | .start s => C s.mem
  | .hold s _ => C s.mem
  | .trap _ => True
  | .block => True
  | .park => True
  | .wait _ => True

/-- The state of a step of an engine has a memory with `C`. -/
def StepTo (C : List Host.Cell → Prop) : EngineStep → Prop
  | .go s => C s.mem
  | .wait s => C s.mem
  | .fault s _ _ => C s.mem

/-- What a computation ends with meets `Q`, and what it fails with meets `H`. -/
def Reaches {ε α : Type} (H : ε → Prop) (Q : α → Prop) : Except ε α → Prop
  | .ok a => Q a
  | .error x => H x

theorem mem_ite (c : Prop) [Decidable c] (s t : State) : (if c then s else t).mem = if c then s.mem else t.mem :=
  apply_ite State.mem c s t

/-- A fold of steps that keep memory keeps it. -/
theorem foldl_mem {α : Type} {g : State → α → State} (h : ∀ s x, (g s x).mem = s.mem) (l : List α) (s : State) :
    (l.foldl g s).mem = s.mem := by
  induction l generalizing s with
  | nil => rfl
  | cons x r ih => exact (ih (g s x)).trans (h s x)

theorem foldl_wf {α : Type} {g : State → α → State} (h : ∀ s x, Wf s.mem → Wf (g s x).mem) (l : List α) (s : State)
    (hs : Wf s.mem) : Wf (l.foldl g s).mem := by
  induction l generalizing s with
  | nil => exact hs
  | cons x r ih => exact ih (g s x) (h s x hs)

theorem setByte_wf (s : State) (k : Nat) (b : Byte) (h : Wf s.mem) : Wf (s.setByte k b).mem := State.setByte_wf s k b h

theorem setBytes_wf (s : State) (l : List (Nat × Byte)) (h : Wf s.mem) : Wf (s.setBytes l).mem := State.setBytes_wf l s h

theorem wr_wf (s : State) (k n v : Nat) (h : Wf s.mem) : Wf (s.wr k n v).mem := State.wr_wf s k n v h
section
variable {ε α β : Type} {H : ε → Prop}

theorem reaches_ok {Q : α → Prop} {a : α} (h : Q a) : Reaches H Q (.ok a : Except ε α) := h

theorem reaches_bind {R : α → Prop} {Q : β → Prop} {x : Except ε α} {k : α → Except ε β} (hx : Reaches H R x)
    (hk : ∀ a, R a → Reaches H Q (k a)) : Reaches H Q (x >>= k) := by
  cases x with
  | ok a => exact hk a hx
  | error y => exact hx

theorem reaches_mono {G : ε → Prop} {Q R : α → Prop} {x : Except ε α} (h : Reaches G Q x) (h1 : ∀ y, G y → H y) (h2 : ∀ a, Q a → R a) :
    Reaches H R x := by
  cases x with
  | ok a => exact h2 a h
  | error y => exact h1 y h

theorem reaches_mapM {g : α → Except ε β} (h : ∀ x, Reaches H (fun _ => True) (g x)) (l : List α) :
    Reaches H (fun _ => True) (l.mapM g) := by
  induction l with
  | nil => exact trivial
  | cons x r ih =>
    rw [List.mapM_cons]
    exact reaches_bind (h x) fun _ _ => reaches_bind ih fun _ _ => trivial

theorem reaches_forIn {g : α → β → Except ε (ForInStep β)} (h : ∀ x b, Reaches H (fun _ => True) (g x b)) (l : List α) (b : β) :
    Reaches H (fun _ => True) (forIn l b g) := by
  induction l generalizing b with
  | nil => exact trivial
  | cons x r ih =>
    rw [List.forIn_cons]
    refine reaches_bind (h x b) fun c _ => ?_
    cases c with
    | done _ => exact trivial
    | yield _ => exact ih _

theorem reaches_forM {g : α → Except ε PUnit} (h : ∀ x, Reaches H (fun _ => True) (g x)) (l : List α) :
    Reaches H (fun _ => True) (l.forM g) := by
  induction l with
  | nil => exact trivial
  | cons x r ih => exact reaches_bind (h x) fun _ _ => ih

end

theorem held_wf {m : List Host.Cell} {x : Stop} (hx : Held (· = m) x) (hm : Wf m) : Held Wf x := by
  cases x <;> grind [Held]

theorem stepTo_wf {m : List Host.Cell} {x : EngineStep} (hx : StepTo (· = m) x) (hm : Wf m) : StepTo Wf x := by
  cases x <;> grind [StepTo]


theorem reaches_of_ok {ε α : Type} {H : ε → Prop} {Q : α → Prop} {x : Except ε α} {a : α} (h : x = .ok a) (hx : Reaches H Q x) : Q a := by
  subst h
  exact hx

theorem reaches_error {ε α : Type} {H : ε → Prop} {Q : α → Prop} {x : Except ε α} {y : ε} (h : x = .error y) (hx : Reaches H Q x) : H y := by
  subst h
  exact hx

/-- What fails with what another computation fails with. -/
theorem reaches_again {ε α β : Type} {H : ε → Prop} {Q : α → Prop} {R : β → Prop} {x : Except ε α} {y : ε} (h : x = .error y)
    (hx : Reaches H Q x) : Reaches H R (.error y : Except ε β) := by
  subst h
  exact hx

/-- A check that keeps memory, where memory is canonical. -/
theorem reaches_held {α : Type} {m : List Host.Cell} {Q : α → Prop} {x : Except Stop α} (hx : Reaches (Held (· = m)) Q x) (hm : Wf m) :
    Reaches (Held Wf) Q x :=
  reaches_mono hx (fun _ h => held_wf h hm) fun _ h => h

theorem stepTo_go {C : List Host.Cell → Prop} {x : EngineStep} {s : State} (h : x = .go s) (hx : StepTo C x) : C s.mem := by
  subst h
  exact hx

theorem stepTo_wait {C : List Host.Cell → Prop} {x : EngineStep} {s : State} (h : x = .wait s) (hx : StepTo C x) : C s.mem := by
  subst h
  exact hx

theorem stepTo_fault {C : List Host.Cell → Prop} {α : Type} {Q : α → Prop} {x : Except EngineStep α} {s : State} {c va : Nat}
    (h : x = .error (.fault s c va)) (hx : Reaches (StepTo C) Q x) : C s.mem := by
  subst h
  exact hx

theorem stepTo_of_error {α : Type} {m : List Host.Cell} {Q : α → Prop} {u : Except EngineStep α} (hu : Reaches (StepTo (· = m)) Q u) (hm : Wf m)
    {x : EngineStep} (h : u = .error x) : StepTo Wf x :=
  stepTo_wf (reaches_error h hu) hm

theorem wfFrom_mono {l : List Host.Cell} {a b : Nat} (hab : a ≤ b) (h : Memory.wfFrom b l = true) : Memory.wfFrom a l = true := by
  cases l with
  | nil => rfl
  | cons c r => grind [Memory.wfFrom]

theorem wfFrom_filter (p : Host.Cell → Bool) (l : List Host.Cell) (a : Nat) (h : Memory.wfFrom a l = true) :
    Memory.wfFrom a (l.filter p) = true := by
  induction l generalizing a with
  | nil => rfl
  | cons c r ih =>
    unfold Memory.wfFrom at h
    rw [Bool.and_eq_true, Bool.and_eq_true] at h
    obtain ⟨⟨ha, hz⟩, hr⟩ := h
    rw [List.filter_cons]
    split
    · unfold Memory.wfFrom
      rw [ha, hz, ih _ hr]
      rfl
    · exact wfFrom_mono (Nat.le_succ_of_le (of_decide_eq_true ha)) (ih _ hr)

/-! Sys2Proof/Machine/Mem.lean -/

@[simp] theorem mend_mem (s : State) (k n : Nat) : (State.mend s k n).mem = s.mem := by
  unfold State.mend
  split <;> rfl

@[simp] theorem record_mem (s : State) (dev die type eid : Nat) (arg0 arg1 : Option Nat) :
    (State.record s dev die type eid arg0 arg1).mem = s.mem := (rfl)

@[simp] theorem fresh_mem (s : State) : (State.fresh s).2.mem = s.mem := (rfl)

@[simp] theorem modGran_mem (s : State) (eid i g : Nat) (f : StashGr → StashGr) : (modGran s eid i g f).mem = s.mem := (rfl)

@[simp] theorem markDirty_mem (s : State) (k : Nat) : (markDirty s k).mem = s.mem := by
  unfold markDirty
  grind [modGran_mem]

theorem putBytes_wf (s : State) (x1 : List (Nat × Byte)) (hm : Wf s.mem) : Wf (putBytes s x1).mem := by
  fun_induction putBytes s x1 <;> grind [markDirty_mem, setByte_wf, foldl_mem, foldl_wf]

theorem putNum_wf (s : State) (k n v : Nat) (hm : Wf s.mem) : Wf (putNum s k n v).mem := by
  unfold putNum
  grind [putBytes_wf]

/-! Sys2Proof/Machine/Rings.lean -/

@[simp] theorem watchRaise_mem (s : State) (k : Nat) : (watchRaise s k).mem = s.mem := (rfl)

theorem ringRes_wf (s : State) (k : Nat) (hm : Wf s.mem) : Wf (ringRes s k).2.mem := by
  unfold ringRes
  grind [putNum_wf]

theorem ringPub_wf (s : State) (k i : Nat) (hm : Wf s.mem) : Wf (ringPub s k i).2.mem := by
  have hp := fun n p => putNum_wf _ (k + 40) 8 p (putNum_wf s (k + 24) 8 n hm)
  unfold ringPub
  dsimp only
  split
  · exact hm
  · split
    · exact hm
    · dsimp only
      split
      · exact hp _ _
      · rw [watchRaise_mem]
        exact hp _ _

theorem takeDone_wf (s : State) (k : Nat) (hm : Wf s.mem) : Wf (takeDone s k).mem := by
  unfold takeDone
  grind [putNum_wf]

@[simp] theorem dropRecord_mem (s : State) (dev asid : Nat) : (dropRecord s dev asid).mem = s.mem := by
  simp [dropRecord]

theorem postRecord_wf (s : State) (dev asid : Nat) (t : TrapInfo) (o : Origin) (hm : Wf s.mem) : Wf (postRecord s dev asid t o).mem := by
  unfold postRecord
  grind [State.modCtx_mem, dropRecord_mem, putNum_wf, record_mem, !ringPub_wf, !ringRes_wf, foldl_mem, foldl_wf]

/-! Sys2Proof/Machine/Operands.lean -/

@[simp] theorem modT_mem (e : Env) (g : Thread → Thread) : (Env.modT e g).mem = e.s.mem := by
  simp [Env.modT]

@[simp] theorem doneI_mem (e : Env) (vals : List (Nat × Nat)) (fl : BitVec 6) : (Env.doneI e vals fl).mem = e.s.mem := by
  simp [Env.doneI]

@[simp] theorem doneL_mem (e : Env) (vals : List (Nat × Nat)) (fl : BitVec 6) : (Env.doneL e vals fl).mem = e.s.mem := by
  simp [Env.doneL]

@[simp] theorem pendL_mem (e : Env) (tg : Target) (need : Nat) : (Env.pendL e tg need).2.mem = e.s.mem := by
  simp [Env.pendL]

@[simp] theorem wideI_mem (e : Env) (sp : Nat) (vals : List (Nat × Nat)) (fl : BitVec 6) : (Env.wideI e sp vals fl).mem = e.s.mem := by
  simp [Env.wideI]

@[simp] theorem wideL_mem (e : Env) (sp : Nat) (vals : List (Nat × Nat)) (fl : BitVec 6) : (Env.wideL e sp vals fl).mem = e.s.mem := by
  simp [Env.wideL]

/-! Sys2Proof/Machine/Flags.lean -/

@[simp] theorem stepSeeds_mem (e : Env) (n : Nat) (s : State) : (stepSeeds e n s).mem = s.mem := by
  unfold stepSeeds
  split <;> simp

/-! Sys2Proof/Machine/Ops.lean -/

@[simp] theorem enterReady_mem (s : State) (eid slot : Nat) (t : Thread) : (enterReady s eid slot t).mem = s.mem := (rfl)

@[simp] theorem touchInst_mem (s : State) (dev asid gid : Nat) : (State.touchInst s dev asid gid).mem = s.mem := by
  unfold State.touchInst
  split <;> rfl

theorem markFrozen_wf (s : State) (die asid q : Nat) (on : Bool) (hm : Wf s.mem) : Wf (markFrozen s die asid q on).mem := by
  unfold markFrozen
  grind [putNum_wf]

theorem freezeQueue_wf (s : State) (die asid q : Nat) (hm : Wf s.mem) : Wf (freezeQueue s die asid q).mem := by
  unfold freezeQueue
  grind [State.modDie_mem, markFrozen_wf]

@[simp] theorem freeOnCore_mem (s : State) (h eid : Nat) : (freeOnCore s h eid).mem = s.mem := (rfl)

@[simp] theorem reclaim_mem (s : State) (eid : Nat) : (reclaim s eid).mem = s.mem := by
  unfold reclaim
  grind [State.setCore_mem, foldl_mem]

@[simp] theorem freeRing_mem (s : State) (g : Edge) : (freeRing s g).mem = s.mem := by
  unfold freeRing
  split <;> rfl

@[simp] theorem dropEdge_mem (s : State) (g : Edge) : (dropEdge s g).mem = s.mem := by
  simp [dropEdge]

@[simp] theorem freeCode_mem (s : State) (eid : Nat) (p : Nat → Nat → Bool) : (freeCode s eid p).mem = s.mem := (rfl)

@[simp] theorem undoBinding_mem (s : State) (h : Nat) (cancel : Bool) : (undoBinding s h cancel).mem = s.mem := by
  unfold undoBinding
  grind [State.setRec_mem, dropEdge_mem, freeCode_mem, freeOnCore_mem, freeRing_mem, foldl_mem]

theorem taskFault_wf (s : State) (h : Nat) (hm : Wf s.mem) : Wf (taskFault s h).mem := by
  unfold taskFault
  grind [State.setRec_mem, freezeQueue_wf, undoBinding_mem, foldl_mem, foldl_wf]

theorem putCounts_wf (s : State) (g : Edge) (hm : Wf s.mem) : Wf (putCounts s g).mem := by
  unfold putCounts
  grind [mend_mem, wr_wf]

theorem releaseHeld_wf (s : State) (g : Edge) (hm : Wf s.mem) : Wf (releaseHeld s g).mem := by
  unfold releaseHeld
  grind [Held, State.setEdge_mem, putCounts_wf]

@[simp] theorem orphan_mem (s : State) (eid slot : Nat) : (orphan s eid slot).mem = s.mem := (rfl)

@[simp] theorem finishPend_mem (s : State) (eid slot id : Nat) (vals : List (Nat × Nat)) : (finishPend s eid slot id vals).mem = s.mem := by
  simp [finishPend]

theorem writeImage_wf (s : State) (eid : Nat) (hm : Wf s.mem) : Wf (writeImage s eid).mem := by
  unfold writeImage
  grind [State.modCore_mem, setBytes_wf]

@[simp] theorem reloadImage_mem (s : State) (eid : Nat) : (reloadImage s eid).mem = s.mem := by
  unfold reloadImage
  split <;> rfl

theorem tryFreeze_wf (s : State) (eid : Nat) (hm : Wf s.mem) : Wf (tryFreeze s eid).mem := by
  unfold tryFreeze
  grind [State.modTile_mem, State.setCore_mem, finishPend_mem, writeImage_wf]

@[simp] theorem takeBack_mem (s : State) (eid slot : Nat) : (takeBack s eid slot).mem = s.mem := by
  unfold takeBack
  split <;> rfl

@[simp] theorem farDone_mem (s : State) (eid slot id : Nat) : (farDone s eid slot id).mem = s.mem := (rfl)

@[simp] theorem dropFix_mem (s : State) (eid slot : Nat) : (dropFix s eid slot).mem = s.mem := by
  unfold dropFix
  grind [State.modCore_mem]

theorem endThread_wf (s : State) (eid slot : Nat) (drained : Bool) (hm : Wf s.mem) : Wf (endThread s eid slot drained).mem := by
  unfold endThread
  grind [State.modCore_mem, State.modRec_mem, State.setRec_mem, dropFix_mem, farDone_mem, orphan_mem, releaseHeld_wf, takeBack_mem,
    tryFreeze_wf, foldl_mem, foldl_wf]

@[simp] theorem takeSeq_mem (s : State) (k : Nat × Nat × Nat) : (takeSeq s k).mem = s.mem := (rfl)

@[simp] theorem sendPacket_mem (s : State) (p : Packet) : (sendPacket s p).mem = s.mem := by
  unfold sendPacket
  split <;> rfl

@[simp] theorem renewPkt_mem (s : State) (id : Nat) : (renewPkt s id).mem = s.mem := by
  unfold renewPkt
  grind [takeSeq_mem]

@[simp] theorem nackNote_mem (s : State) (at_ peer : Nat) : (nackNote s at_ peer).mem = s.mem := by
  unfold nackNote
  split <;> rfl

theorem endHandler_wf (s : State) (eid slot : Nat) (t : Thread) (hm : Wf s.mem) : Wf (endHandler s eid slot t).mem := by
  unfold endHandler
  grind [State.modCore_mem, nackNote_mem, orphan_mem, sendPacket_mem, tryFreeze_wf]

theorem deliverTrap_wf (s : State) (eid slot : Nat) (i : TrapInfo) (hm : Wf s.mem) : Wf (deliverTrap s eid slot i).mem := by
  unfold deliverTrap
  grind [State.setThr_mem, endHandler_wf, farDone_mem, postRecord_wf, taskFault_wf]

theorem takeTrap_wf (s : State) (eid slot : Nat) (i : TrapInfo) (hm : Wf s.mem) : Wf (takeTrap s eid slot i).mem := by
  unfold takeTrap
  grind [State.setThr_mem, deliverTrap_wf]

theorem nextRun_wf (s : State) (eid slot : Nat) (t : Thread) (hm : Wf s.mem) : Wf (nextRun s eid slot t).mem := by
  unfold nextRun
  grind [State.setThr_mem, deliverTrap_wf, enterReady_mem]

theorem endRun_wf (s : State) (eid slot : Nat) (t : Thread) (hm : Wf s.mem) : Wf (endRun s eid slot t).mem := by
  unfold endRun
  grind [nextRun_wf]

theorem retire_wf (s : State) (eid slot : Nat) (m : Bool) (hm : Wf s.mem) : Wf (retire s eid slot m).mem := by
  unfold retire
  grind [State.setThr_mem, endRun_wf]

theorem landPend_wf (s : State) (eid slot id : Nat) (hm : Wf s.mem) : Wf (landPend s eid slot id).mem := by
  unfold landPend
  grind [State.setThr_mem, deliverTrap_wf, endRun_wf]

@[simp] theorem acquire_mem (s : State) (eid slot scope : Nat) : (acquire s eid slot scope).mem = s.mem := by
  unfold acquire
  split <;> simp

@[simp] theorem offerPlace_mem (s : State) (eid k : Nat) : (offerPlace s eid k).mem = s.mem := by
  unfold offerPlace
  grind [State.setCore_mem, renewPkt_mem]

@[simp] theorem popMbox_mem (s : State) (eid k : Nat) : (popMbox s eid k).mem = s.mem := by
  simp [popMbox]

theorem need_keeps (e : Env) (ok : Bool) (c : Nat) : Reaches (Held (· = e.s.mem)) (fun _ => True) (e.need ok c) := by
  unfold Env.need
  split <;> exact trivial

theorem settled_keeps (e : Env) : Reaches (Held (· = e.s.mem)) (fun _ => True) (Env.settled e) := by
  unfold Env.settled
  grind [Reaches, Held]

@[simp] theorem grantPort_mem (s : State) (eid slot : Nat) (t : Thread) (k : Nat) : (grantPort s eid slot t k).mem = s.mem := (rfl)

@[simp] theorem grant_mem (s : State) (eid slot : Nat) (t : Thread) (k : Nat) : (grant s eid slot t k).mem = s.mem := by
  unfold grant
  grind [grantPort_mem, touchInst_mem]

@[simp] theorem holdAt_mem (s : State) (eid slot : Nat) (t : Thread) (st : TStatus) : (holdAt s eid slot t st).mem = s.mem := by
  simp [holdAt]

@[simp] theorem issueEnv_mem (fm : Form) (f : Fields) (s : State) (eid slot : Nat) (t : Thread) :
    (issueEnv fm f s eid slot t).s.mem = s.mem := by
  unfold issueEnv
  grind [State.modThr_mem, acquire_mem, grant_mem, popMbox_mem, foldl_mem]

theorem conclude_wf (s : State) (eid slot : Nat) (t : Thread) (k : Nat) (f : Fields) (x : Except Stop State) (hm : Wf s.mem)
    (hx : Reaches (Held Wf) (fun t => Wf t.mem) x) : Wf (conclude s eid slot t k f x).mem := by
  have hg (u : State) (t : Thread) (hu : Wf u.mem) : Wf (grant u eid slot t k).mem := by rwa [grant_mem]
  have hh (u : State) (t : Thread) (st : TStatus) (hu : Wf u.mem) : Wf (holdAt u eid slot t st).mem := by rwa [holdAt_mem]
  have hw (u : State) (w : Waiting) (hu : Wf u.mem) : Wf (u.modThr eid slot fun t => { t with status := .waiting w }).mem := by rwa [State.modThr_mem]
  cases x with
  | ok s' =>
    dsimp only [conclude]
    split
    · exact hx
    · exact retire_wf _ _ _ _ hx
  | error y =>
    cases y with
    | trap i => exact takeTrap_wf _ _ _ _ (hg _ _ hm)
    | fail s' i => exact takeTrap_wf _ _ _ _ (hg _ _ hx)
    | block => exact hh _ _ _ hm
    | park => exact hh _ _ _ hm
    | wait w => exact hw _ _ (hg _ _ hm)
    | hold s' w => exact hw _ _ (hg _ _ hx)
    | start s' => exact hh _ _ _ hx

theorem issueAt_wf (form : Option Form) (hOk yOk : Bool) (eff : Env → Except Stop State) (f : Fields) (s : State) (eid slot : Nat)
    (hm : Wf s.mem) (he : ∀ e : Env, e.s0.mem = e.s.mem → Wf e.s.mem → Reaches (Held Wf) (fun t => Wf t.mem) (eff e)) :
    Wf (issueAt form hOk yOk eff f s eid slot).mem := by
  have hh (t : Thread) (st : TStatus) : Wf (holdAt s eid slot t st).mem := by rwa [holdAt_mem]
  unfold issueAt
  split
  · exact hm
  · split
    · exact endThread_wf _ _ _ _ hm
    · split
      · exact hh _ _
      · split
        · exact takeTrap_wf _ _ _ _ ((grant_mem ..).symm ▸ hm)
        · dsimp only
          split
          · refine conclude_wf _ _ _ _ _ _ _ hm (he _ ?_ ?_)
            · exact (issueEnv_mem ..).symm
            · rw [issueEnv_mem]
              exact hm
          · exact hh _ _

theorem endWait_wf (s : State) (eid slot : Nat) (w : Waiting) (v : Option Nat) (hm : Wf s.mem) : Wf (endWait s eid slot w v).mem := by
  unfold endWait
  grind [enterReady_mem, retire_wf]

@[simp] theorem unfault_mem (s : State) (h : Nat) : (unfault s h).mem = s.mem := by
  unfold unfault
  grind [State.setRec_mem]

@[simp] theorem restartEngine_mem (s : State) (eid : Nat) (h : Nat) (i : TrapInfo) : (restartEngine s eid h i).mem = s.mem := by
  unfold restartEngine
  split <;> rfl

theorem resume_wf (s : State) (eid slot act target : Nat) (hm : Wf s.mem) : Wf (resume s eid slot act target).1.mem := by
  unfold resume
  grind [State.setThr_mem, endThread_wf, enterReady_mem, nextRun_wf, restartEngine_mem, retire_wf, takeBack_mem, unfault_mem]

/-! Sys2Proof/Machine/FloatFam.lean -/

@[simp] theorem doneF_mem (e : Env) (isL : Bool) (vals : List (Nat × Nat)) (fl : BitVec 6) : (Env.doneF e isL vals fl).mem = e.s.mem := by
  unfold Env.doneF
  split <;> simp

@[simp] theorem fcmpEff_mem (e : Env) : (fcmpEff e).mem = e.s.mem := by
  unfold fcmpEff
  split <;> simp

@[simp] theorem fredEff_mem (e : Env) : (fredEff e).mem = e.s.mem := by
  unfold fredEff
  split <;> simp

@[simp] theorem fsplitEff_mem (e : Env) : (fsplitEff e).mem = e.s.mem := by
  unfold fsplitEff
  grind [doneI_mem, doneL_mem, stepSeeds_mem]

end Sys2Proof.Proofs.MemoryKept

/-! SUPPORT. Memory keeps its canonical form: the accesses, local and global, the packets and the orderings. -/

namespace Sys2Proof.Proofs.MemoryKept

open Sys2Proof.Machine

/-! Sys2Proof/Machine/Access.lean -/

@[simp] theorem dropLine_mem (s : State) (tile keep key : Nat) : (dropLine s tile keep key).mem = s.mem := (rfl)

@[simp] theorem ownLine_mem (s : State) (eid key : Nat) (b : Byte) : (ownLine s eid key b).mem = s.mem := (rfl)

@[simp] theorem addAccess_mem (s : State) (a : Access) : (addAccess s a).mem = s.mem := by
  unfold addAccess
  split <;> simp

@[simp] theorem dropOwn_mem (s : State) (eid key : Nat) : (dropOwn s eid key).mem = s.mem := (rfl)

@[simp] theorem askWalk_mem (s : State) (eid slot asid vpn : Nat) : (askWalk s eid slot asid vpn).mem = s.mem := (rfl)

theorem xlThread_keeps (e : Env) (lane va n : Nat) (write : Bool) (h0 : e.s0.mem = e.s.mem) :
    Reaches (Held (· = e.s.mem)) (fun _ => True) (xlThread e lane va n write) := by
  simp only [xlThread, Env.trapLane]
  grind [Reaches, Held, askWalk_mem, foldl_mem]

@[simp] theorem askFar_mem (asid eid slot id : Nat) (write : Bool) (bytes : List (Nat × Byte)) (s : State) (line : Nat) :
    (askFar asid eid slot id write bytes s line).mem = s.mem := by
  simp [askFar]

theorem farRead_keeps (s : State) (asid eid slot id : Nat) (ks : List Nat) :
    Reaches (fun o => ∀ t, o = some t → t.mem = s.mem) (fun _ => True) (farRead s asid eid slot id ks) := by
  unfold farRead
  grind [Reaches, foldl_mem, askFar_mem]

theorem waitFill_keeps (e : Env) (lane va : Nat) (ks : List Nat) (h0 : e.s0.mem = e.s.mem) :
    Reaches (Held (· = e.s.mem)) (fun _ => True) (waitFill e lane va ks) := by
  unfold waitFill
  grind [Reaches, Held, modGran_mem]

@[simp] theorem wbPart_mem (eid : Nat) (s : State) (va key : Nat) (bs : List Byte) : (wbPart eid s va key bs).mem = s.mem := by
  simp [wbPart]

@[simp] theorem wbStore_mem (eid va key : Nat) (bs : List Byte) (s : State) : (wbStore eid va key bs s).mem = s.mem := by
  unfold wbStore
  grind [wbPart_mem, foldl_mem]

@[simp] theorem wbRun_mem (s : State) (eid asid i g lm va : Nat) (r : Nat × Nat) : (wbRun s eid asid i g lm va r).1.mem = s.mem := by
  unfold wbRun
  split <;> simp

@[simp] theorem wbBytes_mem (eid asid i g lm va : Nat) (x1 : List (Nat × Nat)) (x2 : State) :
    (wbBytes eid asid i g lm va x1 x2).1.mem = x2.mem := by
  fun_induction wbBytes eid asid i g lm va x1 x2 <;> grind [wbRun_mem, foldl_mem]

@[simp] theorem writeBack_mem (s : State) (eid asid : Nat) (which : Stash → Bool) : (writeBack s eid asid which).1.mem = s.mem := by
  unfold writeBack
  refine List.foldlRecOn _ _ (motive := fun r : State × Option (Nat × Nat) => r.1.mem = s.mem) rfl fun st h i _ => ?_
  split
  · exact h
  · split
    · exact h
    · split
      · exact h
      · refine List.foldlRecOn _ _ (motive := fun r : State × Option (Nat × Nat) => r.1.mem = s.mem) h fun st h i _ => ?_
        grind [wbBytes_mem]

theorem release_keeps (e : Env) (s : State) (mask scope : Nat) (h0 : e.s0.mem = s.mem) :
    Reaches (Held (· = s.mem)) (fun t => t.1.mem = s.mem) (release e s mask scope) := by
  unfold release
  grind [Reaches, Held, writeBack_mem]

@[simp] theorem holdJoin_mem (e : Env) (s : State) (scope pend : Nat) (ids : List Nat) : (holdJoin e s scope pend ids).mem = s.mem := by
  unfold holdJoin
  split <;> simp

theorem noJoin_keeps (e : Env) : Reaches (Held (· = e.s.mem)) (fun _ => True) (Env.noJoin e) := by
  unfold Env.noJoin
  grind [Reaches, Held]

theorem sendRelease_keeps (e : Env) (s : State) (nr : Bool) (scope : Nat) (h0 : e.s0.mem = s.mem) :
    Reaches (Held (· = s.mem)) (fun t => t.1.mem = s.mem) (sendRelease e s nr scope) := by
  unfold sendRelease
  grind [Reaches, Held, holdJoin_mem, !release_keeps]

@[simp] theorem send_mem (e : Env) (s : State) (dst cls : Nat) (after : List Nat) (pend : Nat) (body : Body) (sub : Nat) :
    (Env.send e s dst cls after pend body sub).mem = s.mem := by
  simp [Env.send]

theorem xlWant_keeps (e : Env) (vec write : Bool) (w : Want) (h0 : e.s0.mem = e.s.mem) :
    Reaches (Held (· = e.s.mem)) (fun _ => True) (xlWant e vec write w) := by
  unfold xlWant
  split
  · exact trivial
  · grind [Reaches, Held, !xlThread_keeps]

theorem checkGlobal_keeps (e : Env) (vec write : Bool) (ws : List Want) (mid : Except Stop Unit) (each : Got → Except Stop Unit)
    (hit : Got → Bool) (h0 : e.s0.mem = e.s.mem) (hmid : Reaches (Held (· = e.s.mem)) (fun _ => True) mid)
    (heach : ∀ g, Reaches (Held (· = e.s.mem)) (fun _ => True) (each g)) :
    Reaches (Held (· = e.s.mem)) (fun _ => True) (checkGlobal e vec write ws mid each hit) := by
  unfold checkGlobal
  split
  · exact trivial
  · refine reaches_bind hmid fun _ _ => reaches_bind (reaches_mapM (fun w => ?_) ws) fun gs _ => ?_
    · exact reaches_bind (xlWant_keeps e vec write w h0) fun g _ => reaches_bind (heach g) fun _ _ => reaches_ok trivial
    · refine reaches_bind (R := fun _ => True) (reaches_forIn (fun g _ => ?_) gs _) fun _ _ => ?_
      · exact reaches_bind (waitFill_keeps e _ _ _ h0) fun _ _ => reaches_ok trivial
      · split <;> exact trivial

theorem noPop_keeps (e : Env) : Reaches (Held (· = e.s.mem)) (fun _ => True) (Env.noPop e) := by
  unfold Env.noPop
  grind [Reaches, Held]

@[simp] theorem pendGot_mem (s : State) (a : Access) (v : Option Nat) : (pendGot s a v).mem = s.mem := by
  simp [pendGot]

@[simp] theorem issueLoad_mem (e : Env) (pend inst : Nat) (nc regs raw : Bool) (s : State) (g : Got) :
    (issueLoad e pend inst nc regs raw s g).mem = s.mem := by
  unfold issueLoad
  grind [addAccess_mem, pendGot_mem]

@[simp] theorem issuePiece_mem (e : Env) (inst grp : Nat) (regs : Bool) (g : Got) (v : Nat) (s : State) (o n prev : Nat) :
    (issuePiece e inst grp regs g v s o n prev).mem = s.mem := by
  simp [issuePiece]

@[simp] theorem issuePieces_mem (e : Env) (inst grp : Nat) (regs : Bool) (g : Got) (v : Nat) (x1 : List (Nat × Nat)) (x2 : Nat)
    (x3 : State) :
    (issuePieces e inst grp regs g v x1 x2 x3).mem = x3.mem := by
  fun_induction issuePieces e inst grp regs g v x1 x2 x3 <;> grind [issuePiece_mem, foldl_mem]

@[simp] theorem issueStore_mem (e : Env) (inst grp : Nat) (regs : Bool) (s : State) (g : Got) (v : Nat) :
    (issueStore e inst grp regs s g v).mem = s.mem := by
  simp [issueStore]

@[simp] theorem endAccess_mem (s : State) (id : Nat) : (endAccess s id).mem = s.mem := (rfl)

@[simp] theorem cacheReply_mem (s : State) (p : Packet) (a : Answer) : (cacheReply s p a).mem = s.mem := by
  unfold cacheReply
  split <;> rfl

@[simp] theorem replyHome_mem (s : State) (a : Access) (p : Packet) (vs : List (Nat × Nat)) : (replyHome s a p vs).mem = s.mem := by
  unfold replyHome
  split <;> simp

@[simp] theorem endHome_mem (s : State) (a : Access) (v : Option Nat) : (endHome s a v).mem = s.mem := by
  unfold endHome
  grind [endAccess_mem, pendGot_mem, replyHome_mem]

@[simp] theorem deferTrap_mem (s : State) (eid slot key : Nat) (i : TrapInfo) : (deferTrap s eid slot key i).mem = s.mem := by
  simp [deferTrap]

@[simp] theorem tellError_mem (s : State) (a : Access) : (tellError s a).mem = s.mem := by
  unfold tellError
  grind [deferTrap_mem, pendGot_mem]

@[simp] theorem failHome_mem (s : State) (a : Access) : (failHome s a).mem = s.mem := by
  unfold failHome
  split <;> simp

@[simp] theorem loseAck_mem (s : State) (id : Nat) : (loseAck s id).mem = s.mem := (rfl)

@[simp] theorem loseAccess_mem (s : State) (a : Access) (cause : Nat) : (loseAccess s a cause).mem = s.mem := by
  unfold loseAccess
  grind [deferTrap_mem, endAccess_mem, loseAck_mem, pendGot_mem]

@[simp] theorem l1dFill_mem (s : State) (a : Access) (key : Nat) : (l1dFill s a key).mem = s.mem := by
  unfold l1dFill
  grind [State.modCore_mem]

@[simp] theorem nearStep_mem (s : State) (a : Access) : (nearStep s a).mem = s.mem := by
  unfold nearStep
  grind [dropLine_mem, ownLine_mem, foldl_mem]

theorem homePiece_wf (s : State) (a : Access) (hm : Wf s.mem) : Wf (homePiece s a).mem := by
  unfold homePiece
  grind [dropOwn_mem, endAccess_mem, endHome_mem, failHome_mem, l1dFill_mem, putBytes_wf]

theorem performPiece_wf (s : State) (a : Access) (hm : Wf s.mem) : Wf (performPiece s a).mem := by
  unfold performPiece
  grind [homePiece_wf, nearStep_mem]

/-! Sys2Proof/Machine/LocalMem.lean -/

@[simp] theorem loads_mem (e : Env) (nc regs : Bool) (gs : List Got) : (Env.loads e nc regs gs).mem = e.s.mem := by
  unfold Env.loads
  grind [fresh_mem, issueLoad_mem, pendL_mem, foldl_mem]

@[simp] theorem stores_mem (e : Env) (s : State) (grp : Nat) (regs : Bool) (v : Nat → Nat) (gs : List Got) :
    (Env.stores e s grp regs v gs).mem = s.mem := by
  unfold Env.stores
  grind [fresh_mem, issueStore_mem, foldl_mem]

theorem lmCheck_keeps (e : Env) (vec write aligned : Bool) (w : Want) :
    Reaches (Held (· = e.s.mem)) (fun _ => True) (lmCheck e vec write aligned w) := by
  unfold lmCheck
  split
  · exact trivial
  · grind [Reaches, Held, Env.trapLane]

theorem lmChecks_keeps (e : Env) (vec write aligned : Bool) (ws : List Want) (h0 : e.s0.mem = e.s.mem) :
    Reaches (Held (· = e.s.mem)) (fun _ => True) (lmChecks e vec write aligned ws) := by
  unfold lmChecks
  refine reaches_bind (reaches_mapM (fun w => lmCheck_keeps e vec write aligned w) ws) fun gs _ => ?_
  refine reaches_bind (R := fun _ => True) (reaches_forIn (fun g _ => ?_) gs _) fun _ _ => ?_
  · exact reaches_bind (waitFill_keeps e _ _ _ h0) fun _ _ => reaches_ok trivial
  · grind [Reaches, Held, Env.trapLane]

theorem localLoad_keeps (e : Env) (mode n : Nat) (h0 : e.s0.mem = e.s.mem) :
    Reaches (Held (· = e.s.mem)) (fun t => t.mem = e.s.mem) (localLoad e mode n) := by
  simp only [localLoad, bind, Except.bind]
  grind [Reaches, Held, !lmChecks_keeps, loads_mem, foldl_mem]

theorem localStore_keeps (e : Env) (mode n grp : Nat) (h0 : e.s0.mem = e.s.mem) :
    Reaches (Held (· = e.s.mem)) (fun t => t.mem = e.s.mem) (localStore e mode n grp) := by
  simp only [localStore, bind, Except.bind]
  grind [Reaches, Held, !lmChecks_keeps, !noJoin_keeps, stores_mem, foldl_mem]

theorem stashEff_keeps (e : Env) : Reaches (Held (· = e.s.mem)) (fun t => t.mem = e.s.mem) (stashEff e) := by
  simp only [stashEff, bind, Except.bind, Env.thread, Env.need, Env.trap]
  grind [Reaches, Held, State.modCore_mem, doneL_mem, !need_keeps, foldl_mem]

theorem freeStash_wf (s : State) (eid i : Nat) (w : Stash) (hm : Wf s.mem) : Wf (freeStash s eid i w).mem := by
  unfold freeStash
  grind [State.modCore_mem, mend_mem, setBytes_wf, foldl_mem, foldl_wf]

theorem unstashEff_wf (e : Env) (h0 : e.s0.mem = e.s.mem) (hm : Wf e.s.mem) : Reaches (Held Wf) (fun t => Wf t.mem) (unstashEff e) := by
  simp only [unstashEff, Env.thread]
  grind [Reaches, Held, doneL_mem, freeStash_wf, writeBack_mem, foldl_mem, foldl_wf]

theorem wptrEff_keeps (e : Env) (h0 : e.s0.mem = e.s.mem) : Reaches (Held (· = e.s.mem)) (fun t => t.mem = e.s.mem) (wptrEff e) := by
  simp only [wptrEff, bind, Except.bind, Env.thread, Env.need, Env.trap]
  grind [Reaches, Held, State.modThr_mem, acquire_mem, doneL_mem, !need_keeps, foldl_mem]

theorem outPort_keeps (e : Env) (port : Nat) : Reaches (Held (· = e.s.mem)) (fun _ => True) (outPort e port) := by
  simp only [outPort, Env.trap]
  grind [Reaches, Held]

theorem inPort_keeps (e : Env) (port : Nat) : Reaches (Held (· = e.s.mem)) (fun _ => True) (inPort e port) := by
  simp only [inPort, Env.trap]
  grind [Reaches, Held]

theorem tokenBytes_keeps (e : Env) (g : Edge) (h0 : e.s0.mem = e.s.mem) :
    Reaches (Held (· = e.s.mem)) (fun _ => True) (tokenBytes e g) := by
  simp only [tokenBytes, bind, Except.bind, Env.trap]
  grind [Reaches, Held, !lmChecks_keeps, !noPop_keeps, foldl_mem]

@[simp] theorem holdLast_mem (s : State) (n : Nat) : (holdLast s n).mem = s.mem := (rfl)

theorem ewriteEff_keeps (e : Env) (h0 : e.s0.mem = e.s.mem) : Reaches (Held (· = e.s.mem)) (fun t => t.mem = e.s.mem) (ewriteEff e) := by
  unfold ewriteEff Env.thread
  split
  · split
    · exact rfl
    · exact trivial
    · refine reaches_bind (outPort_keeps e _) fun g _ => reaches_bind (tokenBytes_keeps e g h0) fun bs _ => ?_
      refine reaches_bind (noJoin_keeps e) fun _ _ => ?_
      refine reaches_bind (reaches_mono (sendRelease_keeps e e.s0 _ _ rfl) ?_ fun _ h => h) fun r hr => ?_
      · exact fun y h => h0 ▸ h
      · show (State.modThr ..).mem = _
        simp [hr, h0]
  · exact rfl

@[simp] theorem unbindIn_mem (s : State) (eid : Nat) (h id : Nat) : (unbindIn s eid h id).mem = s.mem := (rfl)

theorem ereadEff_wf (e : Env) (h0 : e.s0.mem = e.s.mem) (hm : Wf e.s.mem) :
    Reaches (Held Wf) (fun t => Wf t.mem) (ereadEff e) := by
  have hm0 : Wf e.s0.mem := h0 ▸ hm
  unfold ereadEff Env.thread
  split
  · refine reaches_bind (reaches_held (inPort_keeps e _) hm) fun g _ => ?_
    grind [Reaches, Held, releaseHeld_wf, acquire_mem, doneL_mem, State.setEdge_mem, unbindIn_mem, freeRing_mem, State.modCore_mem]
  · exact hm

theorem ereadRelEff_wf (e : Env) (hm : Wf e.s.mem) : Reaches (Held Wf) (fun t => Wf t.mem) (ereadRelEff e) := by
  unfold ereadRelEff Env.thread
  split
  · exact reaches_bind (reaches_held (inPort_keeps e _) hm) fun g _ => reaches_ok (releaseHeld_wf _ _ hm)
  · exact hm

theorem eosEff_keeps (e : Env) (h0 : e.s0.mem = e.s.mem) : Reaches (Held (· = e.s.mem)) (fun t => t.mem = e.s.mem) (eosEff e) := by
  simp only [eosEff, bind, Except.bind, Env.thread]
  grind [Reaches, Held, State.setEdge_mem, !noJoin_keeps, !outPort_keeps, !sendRelease_keeps, send_mem, foldl_mem]

/-! Sys2Proof/Machine/Net.lean -/

@[simp] theorem setPkt_mem (s : State) (p : Packet) : (State.setPkt s p).mem = s.mem := (rfl)

@[simp] theorem dropPkt_mem (s : State) (id : Nat) : (State.dropPkt s id).mem = s.mem := (rfl)

@[simp] theorem retryTaken_mem (s : State) (p : Packet) (peer : Nat) : (retryTaken s p peer).mem = s.mem := by
  simp [retryTaken]

@[simp] theorem retryLater_mem (s : State) (p : Packet) (unit : Nat) : (retryLater s p unit).mem = s.mem := by
  unfold retryLater
  split <;> simp

@[simp] theorem spillPkt_mem (s : State) (eid : Nat) (p : Packet) : (spillPkt s eid p).mem = s.mem := by
  unfold spillPkt
  split <;> simp

@[simp] theorem reply_mem (s : State) (eid slot pend : Nat) (vs : List (Nat × Nat)) : (reply s eid slot pend vs).mem = s.mem := by
  unfold reply
  split <;> simp

@[simp] theorem tellPhase_mem (s : State) (p : Packet) (ph : Phase) : (tellPhase s p ph).mem = s.mem := by
  simp [tellPhase]

@[simp] theorem tellAnswer_mem (s : State) (eid slot : Nat) (vs : List (Nat × Nat)) : (tellAnswer s eid slot vs).mem = s.mem := by
  unfold tellAnswer
  split <;> simp

@[simp] theorem tellEdge_mem (s : State) (p : Packet) (granted : Bool) (ph : Option Phase) : (tellEdge s p granted ph).mem = s.mem := by
  unfold tellEdge
  split <;> simp

@[simp] theorem tellAccess_mem (s : State) (id : Nat) (vs : List (Nat × Nat)) : (tellAccess s id vs).mem = s.mem := by
  unfold tellAccess
  grind [endAccess_mem, pendGot_mem, reply_mem, tellError_mem]

@[simp] theorem fullTaken_mem (s : State) (p : Packet) : (fullTaken s p).mem = s.mem := (rfl)

@[simp] theorem setFar_mem (s : State) (pkt st : Nat) : (setFar s pkt st).mem = s.mem := (rfl)

@[simp] theorem takeRefusal_mem (s : State) (eid slot pend reason ipc word peer : Nat) :
    (takeRefusal s eid slot pend reason ipc word peer).mem = s.mem := by
  simp [takeRefusal]

@[simp] theorem takeAnswer_mem (s : State) (p : Packet) (a : Answer) : (takeAnswer s p a).mem = s.mem := by
  unfold takeAnswer
  grind [finishPend_mem, nackNote_mem, reply_mem, sendPacket_mem, setFar_mem, takeRefusal_mem, tellAccess_mem, tellAnswer_mem, tellEdge_mem]

@[simp] theorem answer_mem (s : State) (p : Packet) (a : Answer) : (answer s p a).mem = s.mem := by
  unfold answer
  grind [cacheReply_mem, dropPkt_mem, setPkt_mem, takeAnswer_mem]

@[simp] theorem answerWord_mem (s : State) (p : Packet) (v : Nat) : (answerWord s p v).mem = s.mem := by
  simp [answerWord]

@[simp] theorem dropResv_mem (s : State) (p : Packet) : (dropResv s p).mem = s.mem := by
  unfold dropResv
  split <;> rfl

@[simp] theorem abandon_mem (s : State) (p : Packet) (cause : Nat) : (abandon s p cause).mem = s.mem := by
  unfold abandon
  grind [deferTrap_mem, dropPkt_mem, dropResv_mem, finishPend_mem, tellEdge_mem, tellPhase_mem]

@[simp] theorem chanFails_mem (s : State) (eid id cause va : Nat) : (chanFails s eid id cause va).mem = s.mem := (rfl)

@[simp] theorem fillForPacket_mem (s : State) (p : Packet) (x1 : Nat × Nat × Nat) : (fillForPacket s p x1).mem = s.mem := by
  unfold fillForPacket
  grind [answer_mem, chanFails_mem, deferTrap_mem, dropPkt_mem, finishPend_mem, modGran_mem, tellPhase_mem]

@[simp] theorem upd_mem (e : Env) (s : State) : (Env.upd e s).s.mem = s.mem := (rfl)

theorem request_keeps (e : Env) (nr : Bool) (scope dst cls : Nat) (body : Body) (h0 : e.s0.mem = e.s.mem) :
    Reaches (Held (· = e.s.mem)) (fun t => t.mem = e.s.mem) (Env.request e nr scope dst cls body) := by
  unfold Env.request
  grind [Reaches, Held, pendL_mem, !sendRelease_keeps, send_mem, upd_mem]

theorem answered_keeps (e : Env) (k : Nat → Nat → Except Stop State) (ask : Except Stop State) (h0 : e.s0.mem = e.s.mem)
    (hk : ∀ w sc, Reaches (Held (· = e.s.mem)) (fun t => t.mem = e.s.mem) (k w sc))
    (ha : Reaches (Held (· = e.s.mem)) (fun t => t.mem = e.s.mem) ask) :
    Reaches (Held (· = e.s.mem)) (fun t => t.mem = e.s.mem) (e.answered k ask) := by
  unfold Env.answered
  split
  · exact hk _ _
  · exact trivial
  · split
    · exact reaches_ok (deferTrap_mem ..)
    · exact (State.modThr_mem ..).trans h0
  · exact ha

theorem ask_keeps (e : Env) (nr : Bool) (scope dst : Nat) (body : Body) (h0 : e.s0.mem = e.s.mem) :
    Reaches (Held (· = e.s.mem)) (fun t => t.mem = e.s.mem) (Env.ask e nr scope dst body) := by
  simp only [Env.ask, bind, Except.bind]
  grind [Reaches, Held, State.modThr_mem, !noJoin_keeps, !sendRelease_keeps, send_mem, foldl_mem]

theorem target_keeps (e : Env) : Reaches (Held (· = e.s.mem)) (fun _ => True) (Env.target e) := by
  simp only [Env.target, Env.trap]
  grind [Reaches, Held]

theorem performAtomic_wf (s : State) (a : Access) (hm : Wf s.mem) : Wf (performAtomic s a).mem := by
  unfold performAtomic
  grind [dropLine_mem, dropOwn_mem, endAccess_mem, endHome_mem, failHome_mem, putBytes_wf, reply_mem]

/-! Sys2Proof/Machine/Global.lean -/

theorem globalLoad_keeps (e : Env) (vec : Bool) (ws : List Want) (h0 : e.s0.mem = e.s.mem) :
    Reaches (Held (· = e.s.mem)) (fun t => t.mem = e.s.mem) (globalLoad e vec ws) := by
  simp only [globalLoad, bind, Except.bind]
  grind [Reaches, Held, !checkGlobal_keeps, loads_mem, foldl_mem]

theorem globalStore_keeps (e : Env) (vec : Bool) (n : Nat) (ws : List Want) (h0 : e.s0.mem = e.s.mem) :
    Reaches (Held (· = e.s.mem)) (fun t => t.mem = e.s.mem) (globalStore e vec n ws) := by
  simp only [globalStore, bind, Except.bind]
  grind [Reaches, Held, !checkGlobal_keeps, !noJoin_keeps, stores_mem, foldl_mem]

theorem elemsOk_keeps (e : Env) (es : List (Nat × Nat × Option ElemAt)) : Reaches (Held (· = e.s.mem)) (fun _ => True) (elemsOk e es) := by
  simp only [elemsOk, Env.trapLane]
  grind [Reaches, Held]

theorem checkPlaces_keeps (e : Env) (vec write : Bool) (al : Nat) (ws : List Want) (hit : Got → Bool) (h0 : e.s0.mem = e.s.mem) :
    Reaches (Held (· = e.s.mem)) (fun _ => True) (checkPlaces e vec write al ws hit) := by
  unfold checkPlaces
  grind [Reaches, Held, Env.trapLane, checkGlobal_keeps]

theorem ldfOk_keeps (e : Env) (p : FatPtr) : Reaches (Held (· = e.s.mem)) (fun _ => True) (ldfOk e p) := by
  simp only [ldfOk, bind, Except.bind]
  grind [Reaches, Held, need_keeps]

theorem ldfEff_keeps (e : Env) (h0 : e.s0.mem = e.s.mem) : Reaches (Held (· = e.s.mem)) (fun t => t.mem = e.s.mem) (ldfEff e) := by
  simp only [ldfEff, bind, Except.bind]
  grind [Reaches, Held, State.modThr_mem, !checkPlaces_keeps, !elemsOk_keeps, fresh_mem, issueLoad_mem, !ldfOk_keeps, stepSeeds_mem,
    foldl_mem]

theorem stfOk_keeps (e : Env) (p : FatPtr) : Reaches (Held (· = e.s.mem)) (fun _ => True) (stfOk e p) := by
  simp only [stfOk, bind, Except.bind]
  grind [Reaches, Held, need_keeps]

@[simp] theorem stfIssue_mem (e : Env) (inst : Nat) (x1 : State) (x2 : List (StfStore × Got)) : (stfIssue e inst x1 x2).mem = x1.mem := by
  fun_induction stfIssue e inst x1 x2 <;> grind [addAccess_mem, issueStore_mem, foldl_mem]

theorem stfEff_keeps (e : Env) (h0 : e.s0.mem = e.s.mem) : Reaches (Held (· = e.s.mem)) (fun t => t.mem = e.s.mem) (stfEff e) := by
  unfold stfEff
  split
  · exact rfl
  · refine reaches_bind (noJoin_keeps e) fun _ _ => reaches_bind (stfOk_keeps e _) fun _ _ => ?_
    dsimp only
    have hk (r : List StfStore × BitVec 6) :=
      checkPlaces_keeps e true true 1 (r.1.map fun x => { lane := x.lane, va := x.at_, n := x.bytes.length }) (fun _ => false) h0
    split
    · refine reaches_bind (reaches_ok (Q := fun _ => True) trivial) fun r _ => reaches_bind (hk r) fun gs _ => reaches_ok ?_
      split <;> simp
    · split
      · refine reaches_bind (reaches_ok (Q := fun _ => True) trivial) fun r _ => reaches_bind (hk r) fun gs _ => reaches_ok ?_
        split <;> simp
      · exact trivial

@[simp] theorem prfEff_mem (e : Env) : (prfEff e).mem = e.s.mem := by
  unfold prfEff
  grind [addAccess_mem, fresh_mem]

theorem hostAtomicOk_keeps (e : Env) (vec ok : Bool) (g : Got) (ual : Bool) :
    Reaches (Held (· = e.s.mem)) (fun _ => True) (hostAtomicOk e vec ok g ual) := by
  simp only [hostAtomicOk, Env.trapLane]
  grind [Reaches, Held]

@[simp] theorem laneAtomics_mem (e : Env) (p inst dw : Nat) (op : Nat → AccOp) (x1 : List Nat) (x2 : List Got) (x3 : State) :
    (laneAtomics e p inst dw op x1 x2 x3).mem = x3.mem := by
  fun_induction laneAtomics e p inst dw op x1 x2 x3 <;> grind [addAccess_mem, foldl_mem]

theorem atomics_keeps (e : Env) (tg : Target) (dw : Nat) (op : Nat → AccOp) (gs : List Got) (h0 : e.s0.mem = e.s.mem) :
    Reaches (Held (· = e.s.mem)) (fun t => t.mem = e.s.mem) (atomics e tg dw op gs) := by
  unfold atomics
  grind [Reaches, Held, State.modThr_mem, fresh_mem, holdJoin_mem, laneAtomics_mem, !release_keeps]

theorem finishAcq_keeps (e : Env) (k : Except Stop State)
    (hk : Reaches (Held (· = e.s.mem)) (fun t => t.mem = e.s.mem) k) :
    Reaches (Held (· = e.s.mem)) (fun t => t.mem = e.s.mem) (finishAcq e k) := by
  unfold finishAcq
  split
  · split
    · exact reaches_ok ((acquire_mem ..).trans (State.modThr_mem ..))
    · exact trivial
  · exact hk

theorem amoEff_keeps (e : Env) (h0 : e.s0.mem = e.s.mem) : Reaches (Held (· = e.s.mem)) (fun t => t.mem = e.s.mem) (amoEff e) := by
  simp only [amoEff, bind, Except.bind, Env.trapLane]
  grind [Reaches, Held, !atomics_keeps, !checkGlobal_keeps, !finishAcq_keeps, !hostAtomicOk_keeps, !noJoin_keeps, foldl_mem]

theorem casEff_keeps (e : Env) (h0 : e.s0.mem = e.s.mem) : Reaches (Held (· = e.s.mem)) (fun t => t.mem = e.s.mem) (casEff e) := by
  simp only [casEff, bind, Except.bind, Env.thread, Env.trapLane]
  grind [Reaches, Held, !atomics_keeps, !checkGlobal_keeps, !finishAcq_keeps, !hostAtomicOk_keeps, !noJoin_keeps, foldl_mem]

theorem barrierOffOk_keeps (e : Env) (off : Nat) : Reaches (Held (· = e.s.mem)) (fun _ => True) (barrierOffOk e off) := by
  unfold barrierOffOk
  grind [Reaches, Held, need_keeps]

theorem barrierPermOk_keeps (e : Env) (off : Nat) : Reaches (Held (· = e.s.mem)) (fun _ => True) (barrierPermOk e off) := by
  simp only [barrierPermOk, Env.trapLane]
  grind [Reaches, Held]

theorem staEff_keeps (e : Env) (h0 : e.s0.mem = e.s.mem) : Reaches (Held (· = e.s.mem)) (fun t => t.mem = e.s.mem) (staEff e) := by
  unfold staEff
  dsimp only
  split
  · exact rfl
  · refine reaches_bind (noJoin_keeps e) fun _ _ => ?_
    split
    · refine reaches_bind (barrierOffOk_keeps e _) fun _ _ => ?_
      refine reaches_bind (checkGlobal_keeps e _ _ _ _ _ _ h0 (barrierPermOk_keeps e _) fun _ => trivial) fun gs _ => ?_
      refine reaches_bind (waitFill_keeps e _ _ _ h0) fun _ _ => reaches_bind (sendRelease_keeps e e.s _ _ h0) fun r hr => ?_
      exact reaches_ok ((stores_mem ..).trans hr)
    · refine reaches_bind (checkGlobal_keeps e _ _ _ _ _ _ h0 trivial fun _ => trivial) fun gs _ => ?_
      exact reaches_ok (stores_mem ..)

@[simp] theorem dropVa_mem (s : State) (eid asid va : Nat) : (dropVa s eid asid va).mem = s.mem := by
  unfold dropVa
  split <;> rfl

@[simp] theorem invEff_mem (e : Env) : (invEff e).mem = e.s.mem := by
  unfold invEff
  grind [State.modCore_mem, dropVa_mem, foldl_mem]

@[simp] theorem tlbDrop_mem (s : State) (dev asid : Nat) (hit : Nat → Nat → Bool) : (tlbDrop s dev asid hit).mem = s.mem := (rfl)

@[simp] theorem tlbinvEff_mem (e : Env) : (tlbinvEff e).mem = e.s.mem := by
  unfold tlbinvEff
  split <;> simp

/-! Sys2Proof/Machine/Order.lean -/

theorem relEff_keeps (e : Env) (h0 : e.s0.mem = e.s.mem) : Reaches (Held (· = e.s.mem)) (fun t => t.mem = e.s.mem) (relEff e) := by
  simp only [relEff, Env.thread]
  grind [Reaches, Held, holdJoin_mem, pendL_mem, !release_keeps, upd_mem, foldl_mem]

theorem acqEff_keeps (e : Env) : Reaches (Held (· = e.s.mem)) (fun t => t.mem = e.s.mem) (acqEff e) := by
  simp only [acqEff, Env.thread]
  grind [Reaches, Held, acquire_mem, foldl_mem]

theorem fenceEff_keeps (e : Env) (h0 : e.s0.mem = e.s.mem) : Reaches (Held (· = e.s.mem)) (fun t => t.mem = e.s.mem) (fenceEff e) := by
  simp only [fenceEff, Env.thread]
  grind [Reaches, Held, State.modThr_mem, acquire_mem, !release_keeps, foldl_mem]

end Sys2Proof.Proofs.MemoryKept

/-! SUPPORT. Memory keeps its canonical form: the control group, the slices, the threads, the events of memory and the barriers. -/

namespace Sys2Proof.Proofs.MemoryKept

open Sys2Proof.Machine

/-! Sys2Proof/Machine/Control.lean -/

theorem goTo_keeps (e : Env) (t : Int) (s : State) : Reaches (Held (· = s.mem)) (fun t => t.mem = s.mem) (goTo e t s) := by
  simp only [goTo, Env.trap]
  grind [Reaches, Held, State.modThr_mem, foldl_mem]

theorem callTo_keeps (e : Env) (t : Int) : Reaches (Held (· = e.s.mem)) (fun t => t.mem = e.s.mem) (callTo e t) := by
  simp only [callTo, Env.thread]
  grind [Reaches, Held, doneI_mem, !goTo_keeps, foldl_mem]

theorem loopEff_keeps (e : Env) : Reaches (Held (· = e.s.mem)) (fun t => t.mem = e.s.mem) (loopEff e) := by
  simp only [loopEff, Env.thread]
  grind [Reaches, Held, doneI_mem, !goTo_keeps, foldl_mem]

@[simp] theorem setPd_mem (e : Env) (val : Nat → Bool) : (setPd e val).mem = e.s.mem := by
  simp [setPd]

@[simp] theorem pmovEff_mem (e : Env) : (pmovEff e).mem = e.s.mem := by
  unfold pmovEff
  split <;> simp

theorem deferredFirst_keeps (e : Env) (h0 : e.s0.mem = e.s.mem) : Reaches (Held (· = e.s.mem)) (fun _ => True) (Env.deferredFirst e) := by
  unfold Env.deferredFirst
  grind [Reaches, Held, State.modThr_mem]

theorem endSelf_wf (e : Env) (drained : Bool) (h0 : e.s0.mem = e.s.mem) (hm : Wf e.s.mem) :
    Reaches (Held Wf) (fun t => Wf t.mem) (endSelf e drained) := by
  unfold endSelf
  refine reaches_bind (reaches_held (settled_keeps e) hm) fun _ _ => reaches_bind (reaches_held (deferredFirst_keeps e h0) hm) fun _ _ => ?_
  split
  · exact reaches_ok (endThread_wf _ _ _ _ hm)
  · exact trivial

theorem exitEff_wf (e : Env) (h0 : e.s0.mem = e.s.mem) (hm : Wf e.s.mem) : Reaches (Held Wf) (fun t => Wf t.mem) (exitEff e) := by
  unfold exitEff Env.thread
  split
  · refine reaches_bind (reaches_held (settled_keeps e) hm) fun _ _ => ?_
    split
    · exact trivial
    · exact endSelf_wf _ _ h0 hm
  · exact hm

theorem yieldEff_wf (e : Env) (h0 : e.s0.mem = e.s.mem) (hm : Wf e.s.mem) : Reaches (Held Wf) (fun t => Wf t.mem) (yieldEff e) := by
  simp only [yieldEff, Env.thread]
  grind [Reaches, Held, !endSelf_wf, foldl_mem, foldl_wf]

theorem waitEff_keeps (e : Env) (h0 : e.s0.mem = e.s.mem) : Reaches (Held (· = e.s.mem)) (fun t => t.mem = e.s.mem) (waitEff e) := by
  unfold waitEff Env.thread
  split
  · refine reaches_bind (settled_keeps e) fun _ _ => reaches_bind (need_keeps ..) fun _ _ => reaches_bind (need_keeps ..) fun _ _ => ?_
    dsimp only
    split
    · refine reaches_bind (waitFill_keeps e _ _ _ h0) fun _ _ => ?_
      split
      · exact reaches_ok (doneL_mem ..)
      · exact trivial
    · refine reaches_bind (reaches_ok (Q := fun _ => True) trivial) fun _ _ => ?_
      split
      · exact reaches_ok (doneL_mem ..)
      · exact trivial
  · exact rfl

theorem sleepEff_keeps (e : Env) : Reaches (Held (· = e.s.mem)) (fun t => t.mem = e.s.mem) (sleepEff e) := by
  simp only [sleepEff, bind, Except.bind, Env.thread]
  grind [Reaches, Held, !settled_keeps, foldl_mem]

theorem tickAtEff_keeps (e : Env) : Reaches (Held (· = e.s.mem)) (fun t => t.mem = e.s.mem) (tickAtEff e) := by
  simp only [tickAtEff, Env.thread]
  grind [Reaches, Held, foldl_mem]

theorem isyncEff_keeps (e : Env) : Reaches (Held (· = e.s.mem)) (fun t => t.mem = e.s.mem) (isyncEff e) := by
  simp only [isyncEff, bind, Except.bind, Env.thread, Env.need, Env.trap]
  grind [Reaches, Held, modT_mem, !need_keeps, foldl_mem]

@[simp] theorem wrsrEff_mem (e : Env) : (wrsrEff e).mem = e.s.mem := by
  unfold wrsrEff
  grind [State.modCore_mem, modT_mem]

/-! Sys2Proof/Machine/Slice.lean -/

@[simp] theorem deadEff_mem (e : Env) : (deadEff e).mem = e.s.mem := by
  simp [deadEff]

@[simp] theorem unitsAsked_mem (s : State) (eid rank : Nat) : (unitsAsked s eid rank).mem = s.mem := (rfl)

theorem swinEff_keeps (e : Env) : Reaches (Held (· = e.s.mem)) (fun t => t.mem = e.s.mem) (swinEff e) := by
  simp only [swinEff, bind, Except.bind, Env.thread]
  grind [Reaches, Held, State.modThr_mem, !settled_keeps, unitsAsked_mem, foldl_mem]

theorem sclrEff_keeps (e : Env) : Reaches (Held (· = e.s.mem)) (fun t => t.mem = e.s.mem) (sclrEff e) := by
  simp only [sclrEff, bind, Except.bind]
  grind [Reaches, Held, doneI_mem, modT_mem, !settled_keeps, foldl_mem]

/-! Sys2Proof/Machine/Threads.lean -/

@[simp] theorem startThread_mem (s : State) (eid slot : Nat) (t : Thread) : (startThread s eid slot t).mem = s.mem := by
  simp [startThread]

theorem spawnEff_keeps (e : Env) (h0 : e.s0.mem = e.s.mem) : Reaches (Held (· = e.s.mem)) (fun t => t.mem = e.s.mem) (spawnEff e) := by
  simp only [spawnEff, bind, Except.bind, Env.thread]
  grind [Reaches, Held, need_keeps, !noJoin_keeps, !request_keeps, !target_keeps, foldl_mem]

@[simp] theorem spawnArrives_mem (s : State) (p : Packet) : (spawnArrives s p).mem = s.mem := by
  unfold spawnArrives
  grind [acquire_mem, answerWord_mem, startThread_mem, unitsAsked_mem]

/-! Sys2Proof/Machine/MemEv.lean -/

theorem atomicAtHome_wf (s : State) (a : Access) (hm : Wf s.mem) : Wf (atomicAtHome s a).mem := by
  unfold atomicAtHome
  grind [State.setCore_mem, endAccess_mem, performAtomic_wf, sendPacket_mem, spillPkt_mem]

theorem lmAtomicMicrocode_wf (s : State) (hm : Wf s.mem) : Wf (lmAtomicMicrocode s).mem := by
  unfold lmAtomicMicrocode
  grind [State.setCore_mem, performAtomic_wf]

@[simp] theorem uncorrectable_mem (s : State) (key : Nat) : (uncorrectable s key).mem = s.mem := by
  unfold uncorrectable
  grind [State.modThr_mem]

@[simp] theorem walkStart_mem (s : State) : (walkStart s).mem = s.mem := by
  unfold walkStart
  split <;> rfl

@[simp] theorem engineWalked_mem (s : State) (e asid vpn : Nat) (r : Except Nat TlbEntry) :
    (engineWalked s e asid vpn r).mem = s.mem := (rfl)

@[simp] theorem pageWalk_mem (s : State) : (pageWalk s).mem = s.mem := by
  unfold pageWalk
  grind [State.modCore_mem, State.modDie_mem, State.modThr_mem, engineWalked_mem, foldl_mem]

theorem joinComplete_wf (s : State) (hm : Wf s.mem) : Wf (joinComplete s).mem := by
  unfold joinComplete
  grind [State.modThr_mem, finishPend_mem, tryFreeze_wf]

@[simp] theorem tlbinvAck_mem (s : State) : (tlbinvAck s).mem = s.mem := by
  unfold tlbinvAck
  grind [reply_mem]

theorem fillGran_wf (s : State) (eid i g : Nat) (hm : Wf s.mem) : Wf (fillGran s eid i g).mem := by
  have hf := farRead_keeps
  unfold fillGran
  generalize farRead = R at hf ⊢
  split
  · split
    · exact hm
    · split
      · exact hm
      · dsimp only
        split
        · split
          · exact hm
          · split
            · exact hm
            · next t h => exact (show t.mem = s.mem from reaches_error h (hf ..) _ rfl) ▸ hm
            · split
              · exact hm
              · rw [modGran_mem, farDone_mem, mend_mem]
                exact setBytes_wf _ _ hm
        · exact hm
        · exact hm
  · exact hm

theorem stashFill_wf (s : State) (hm : Wf s.mem) : Wf (stashFill s).mem := by
  unfold stashFill
  grind [fillGran_wf]

@[simp] theorem stashWriteback_mem (s : State) : (stashWriteback s).mem = s.mem := by
  unfold stashWriteback
  grind [wbBytes_mem]

/-! Sys2Proof/Machine/Barrier.lean -/

theorem putBar_wf (s : State) (k : Nat) (o : BarObj) (hm : Wf s.mem) : Wf (putBar s k o).mem := by
  unfold putBar
  grind [putNum_wf]

theorem wakeBarrier_wf (s : State) (eid off : Nat) (hm : Wf s.mem) : Wf (wakeBarrier s eid off).mem := by
  unfold wakeBarrier
  grind [acquire_mem, endWait_wf, foldl_mem, foldl_wf]

theorem barUpdate_wf (s : State) (key kind n : Nat) (hm : Wf s.mem) : Wf (barUpdate s key kind n).2.mem := by
  unfold barUpdate
  grind [putBar_wf, wakeBarrier_wf]

theorem barrierArrives_wf (s : State) (p : Packet) (hm : Wf s.mem) : Wf (barrierArrives s p).mem := by
  unfold barrierArrives
  grind [answerWord_mem, answer_mem, !barUpdate_wf, fillForPacket_mem]

theorem ownBar_keeps (e : Env) (off : Nat) (writes : Bool) (h0 : e.s0.mem = e.s.mem) :
    Reaches (Held (· = e.s.mem)) (fun _ => True) (ownBar e off writes) := by
  unfold ownBar
  refine reaches_bind (barrierOffOk_keeps ..) fun _ _ => reaches_bind (barrierPermOk_keeps ..) fun _ _ => ?_
  split
  · exact trivial
  · exact reaches_bind (waitFill_keeps e _ _ _ h0) fun _ _ => reaches_ok trivial

@[simp] theorem sendUpdate_mem (e : Env) (s : State) (key kind n pend : Nat) (after : List Nat) :
    (sendUpdate e s key kind n pend after).mem = s.mem := by
  simp [sendUpdate]

theorem binitEff_keeps (e : Env) (h0 : e.s0.mem = e.s.mem) : Reaches (Held (· = e.s.mem)) (fun t => t.mem = e.s.mem) (binitEff e) := by
  simp only [binitEff, bind, Except.bind, Env.thread]
  grind [Reaches, Held, !need_keeps, !noJoin_keeps, !ownBar_keeps, sendUpdate_mem, foldl_mem]

theorem barvKey_keeps (e : Env) (h0 : e.s0.mem = e.s.mem) : Reaches (Held (· = e.s.mem)) (fun _ => True) (barvKey e) := by
  unfold barvKey
  split
  · exact ownBar_keeps e _ _ h0
  · dsimp only
    split
    · exact trivial
    · split
      · exact reaches_bind (waitFill_keeps e _ _ _ h0) fun _ _ => reaches_ok trivial
      · exact trivial
      · exact trivial

theorem barvEff_keeps (e : Env) (h0 : e.s0.mem = e.s.mem) : Reaches (Held (· = e.s.mem)) (fun t => t.mem = e.s.mem) (barvEff e) := by
  simp only [barvEff, bind, Except.bind, Env.thread]
  grind [Reaches, Held, !barvKey_keeps, !noJoin_keeps, pendL_mem, !sendRelease_keeps, sendUpdate_mem, upd_mem, foldl_mem]

theorem bexpEff_keeps (e : Env) (h0 : e.s0.mem = e.s.mem) : Reaches (Held (· = e.s.mem)) (fun t => t.mem = e.s.mem) (bexpEff e) := by
  simp only [bexpEff, bind, Except.bind, Env.thread]
  grind [Reaches, Held, !noJoin_keeps, !ownBar_keeps, !sendRelease_keeps, sendUpdate_mem, foldl_mem]

theorem readBar_keeps (e : Env) (key : Nat) : Reaches (Held (· = e.s.mem)) (fun _ => True) (readBar e key) := by
  simp only [readBar, bind, Except.bind]
  grind [Reaches, Held, !noPop_keeps]

theorem bwaitEff_keeps (e : Env) (h0 : e.s0.mem = e.s.mem) : Reaches (Held (· = e.s.mem)) (fun t => t.mem = e.s.mem) (bwaitEff e) := by
  simp only [bwaitEff, bind, Except.bind, Env.thread]
  grind [Reaches, Held, acquire_mem, doneL_mem, !ownBar_keeps, !readBar_keeps, foldl_mem]

theorem bwaitTimeout_wf (s : State) (hm : Wf s.mem) : Wf (bwaitTimeout s).mem := by
  unfold bwaitTimeout
  split
  · split
    · split
      · split
        · split
          · exact endWait_wf _ _ _ _ _ hm
          · exact hm
        · exact hm
      · exact hm
    · exact hm
  · exact hm

theorem btestEff_keeps (e : Env) (h0 : e.s0.mem = e.s.mem) : Reaches (Held (· = e.s.mem)) (fun t => t.mem = e.s.mem) (btestEff e) := by
  simp only [btestEff, bind, Except.bind, Env.thread]
  grind [Reaches, Held, doneL_mem, !ownBar_keeps, !readBar_keeps, foldl_mem]

theorem staAck_wf (s : State) (hm : Wf s.mem) : Wf (staAck s).mem := by
  unfold staAck
  grind [!barUpdate_wf]

theorem gbarEff_keeps (e : Env) (h0 : e.s0.mem = e.s.mem) : Reaches (Held (· = e.s.mem)) (fun t => t.mem = e.s.mem) (gbarEff e) := by
  unfold gbarEff Env.thread
  rw [← h0]
  split
  · dsimp only
    split
    · exact trivial
    · next g _ =>
      refine reaches_bind (h0 ▸ need_keeps ..) fun _ _ => ?_
      split
      · split
        · exact trivial
        · exact rfl
      · refine reaches_bind (h0 ▸ noJoin_keeps e) fun _ _ => ?_
        have hr := release_keeps e e.s0 15 (groupScope e.eid g.eids) rfl
        split
        · next h => exact reaches_again h hr
        · next h =>
          have ht := reaches_of_ok h hr
          split
          · exact ht
          · exact (State.modThr_mem ..).trans ht
  · exact h0.symm

theorem gbarWake_wf (s : State) (key scope e : Nat) (early : List (Nat × Nat)) (hm : Wf s.mem) : Wf (gbarWake s key scope e early).mem := by
  unfold gbarWake
  grind [acquire_mem, endWait_wf, foldl_mem, foldl_wf]

theorem gbarComplete_wf (s : State) (hm : Wf s.mem) : Wf (gbarComplete s).mem := by
  unfold gbarComplete
  grind [gbarWake_wf, foldl_mem, foldl_wf]

end Sys2Proof.Proofs.MemoryKept

/-! SUPPORT. Memory keeps its canonical form: the copy channels and the matrix units. -/

namespace Sys2Proof.Proofs.MemoryKept

open Sys2Proof.Machine

/-! Sys2Proof/Machine/Copy.lean -/

theorem engineKey_keeps (s : State) (eid asid : Nat) (lm : Bool) (a : Int) (write : Bool) :
    Reaches (StepTo (· = s.mem)) (fun _ => True) (engineKey s eid asid lm a write) := by
  unfold engineKey
  grind [Reaches, StepTo, askWalk_mem, modGran_mem]

theorem engineRead_keeps (s : State) (eid slot id asid : Nat) (lm : Bool) (a : Int) :
    Reaches (StepTo (· = s.mem)) (fun _ => True) (engineRead s eid slot id asid lm a) := by
  unfold engineRead
  grind [Reaches, StepTo, !engineKey_keeps, farDone_mem, !farRead_keeps]

theorem engineReads_keeps (s : State) (eid slot id asid : Nat) (lm : Bool) (a : Int) (x1 : Nat) :
    Reaches (StepTo (· = s.mem)) (fun _ => True) (engineReads s eid slot id asid lm a x1) := by
  fun_induction engineReads s eid slot id asid lm a x1 <;> grind [Reaches, StepTo, !engineRead_keeps, foldl_mem]

theorem engineAll_keeps (s : State) (eid slot id asid : Nat) (lm : Bool) (a : Int) (x1 : Nat) :
    Reaches (StepTo (· = s.mem)) (fun _ => True) (engineAll s eid slot id asid lm a x1) := by
  fun_induction engineAll s eid slot id asid lm a x1 <;> grind [Reaches, StepTo, !engineRead_keeps, foldl_mem]

theorem farWrite_keeps (s : State) (asid eid slot id va : Nat) (kbs : List (Nat × Byte)) :
    Reaches (StepTo (· = s.mem)) (fun _ => True) (farWrite s asid eid slot id va kbs) :=
  reaches_forM (fun l => by grind [Reaches, StepTo, askFar_mem, farDone_mem]) _

theorem enginePut_wf (s : State) (eid : Nat) (kbs : List (Nat × Byte)) (hm : Wf s.mem) : Wf (enginePut s eid kbs).mem := by
  unfold enginePut
  grind [dropLine_mem, putBytes_wf, foldl_mem, foldl_wf]

theorem dstKeys_keeps (m : CopyCmd) (s : State) (a : Int) : Reaches (StepTo (· = s.mem)) (fun _ => True) (m.dstKeys s a) := by
  unfold CopyCmd.dstKeys
  split
  · exact reaches_mapM (fun _ => engineKey_keeps ..) _
  · grind [Reaches, !engineKey_keeps]

theorem dstSome_keeps (m : CopyCmd) (s : State) (a : Int) (x1 : Nat) :
    Reaches (StepTo (· = s.mem)) (fun _ => True) (CopyCmd.dstSome m s a x1) := by
  fun_induction CopyCmd.dstSome m s a x1 <;> grind [Reaches, StepTo, !dstKeys_keeps, foldl_mem]

theorem objects_keeps (m : CopyCmd) (s : State) (ks : List Nat) : Reaches (StepTo (· = s.mem)) (fun _ => True) (m.objects s ks) := by
  unfold CopyCmd.objects
  split
  · exact trivial
  · exact reaches_mapM (fun _ => by grind [Reaches, StepTo]) _

@[simp] theorem count_mem (m : CopyCmd) (n : Nat) (x1 : State) (x2 : List Nat) : (CopyCmd.count m n x1 x2).mem = x1.mem := by
  fun_induction CopyCmd.count m n x1 x2 <;> grind [sendPacket_mem, foldl_mem]

@[simp] theorem modChan_mem (s : State) (eid ch : Nat) (f : Chan → Chan) : (modChan s eid ch f).mem = s.mem := (rfl)

theorem put_wf (m : CopyCmd) (s : State) (va : Nat) (kbs : List (Nat × Byte)) (hm : Wf s.mem) :
    Reaches (StepTo Wf) (fun t => Wf t.mem) (CopyCmd.put m s va kbs) := by
  unfold CopyCmd.put
  split
  · next h => exact stepTo_wf (reaches_error h (farWrite_keeps ..)) hm
  · exact reaches_ok (enginePut_wf _ _ _ hm)

theorem deliverBuf_wf (s : State) (ch : Nat) (m : CopyCmd) (h : Chan) (hm : Wf s.mem) : StepTo Wf (deliverBuf s ch m h) := by
  unfold deliverBuf
  dsimp only
  split
  · next h => exact stepTo_wf (reaches_error h (dstSome_keeps ..)) hm
  · split
    · next h => exact stepTo_wf (reaches_error h (objects_keeps ..)) hm
    · split
      · next h => exact reaches_error h (put_wf _ _ _ _ hm)
      · next h =>
        have ht := reaches_of_ok (Q := fun t => Wf t.mem) h (put_wf _ _ _ _ hm)
        show Wf (CopyCmd.count ..).mem
        rw [count_mem, modChan_mem]
        exact ht

theorem gatherIndex_keeps (s : State) (m : CopyCmd) (h : Chan) (q : Nat) :
    Reaches (StepTo (· = s.mem)) (fun _ => True) (gatherIndex s m h q) := by
  have hr : Reaches (StepTo (· = s.mem)) (fun _ => True) (gatherIndex.readIdx s m q) := by
    unfold gatherIndex.readIdx
    split
    · exact trivial
    · next h => exact reaches_again h (engineAll_keeps ..)
  unfold gatherIndex
  split
  · split
    · exact trivial
    · exact hr
  · exact hr

theorem readPlain_wf (s : State) (ch : Nat) (m : CopyCmd) (h : Chan) (hm : Wf s.mem) : StepTo Wf (readPlain s ch m h) := by
  unfold readPlain
  dsimp only
  split
  · next hx =>
    split at hx
    · exact stepTo_wf (reaches_error hx (gatherIndex_keeps ..)) hm
    · cases hx
  · split
    · next hx => exact stepTo_wf (reaches_error hx (engineReads_keeps ..)) hm
    · refine deliverBuf_wf _ _ _ _ ?_
      rwa [modChan_mem]

theorem blockWord_keeps (s : State) (m : CopyCmd) (h : Chan) (md : Nat) :
    Reaches (StepTo (· = s.mem)) (fun _ => True) (blockWord s m h md) := by
  have hr : Reaches (StepTo (· = s.mem)) (fun _ => True) (blockWord.readIt s m md) := by
    unfold blockWord.readIt
    split
    · exact trivial
    · next h => exact reaches_again h (engineAll_keeps ..)
  unfold blockWord
  split
  · split
    · exact trivial
    · exact hr
  · exact hr

theorem readDecode_wf (s : State) (ch : Nat) (m : CopyCmd) (h : Chan) (bx : Bx) (hm : Wf s.mem) : StepTo Wf (readDecode s ch m h bx) := by
  unfold readDecode
  dsimp only
  split
  · exact hm
  · split
    · refine deliverBuf_wf _ _ _ _ ?_
      rwa [modChan_mem]
    · next hx => exact stepTo_wf (reaches_error hx (blockWord_keeps ..)) hm
    · next hx _ => exact stepTo_wf (reaches_error hx (engineReads_keeps ..)) hm

theorem stepEncode_wf (s : State) (ch : Nat) (m : CopyCmd) (h : Chan) (bx : Bx) (hm : Wf s.mem) : StepTo Wf (stepEncode s ch m h bx) := by
  have hd {x : EngineStep} {a : Int} {n : Nat} (h : m.dstSome s a n = .error x) : StepTo Wf x :=
    stepTo_wf (reaches_error h (dstSome_keeps ..)) hm
  have hc (n : Nat) (t : State) (g : Chan → Chan) (ht : Wf t.mem) : Wf (modChan t m.eid ch g).mem := by rwa [modChan_mem]
  unfold stepEncode
  dsimp only
  split
  · exact hm
  · split
    · split
      · next h => exact hd h
      · split
        · next h => exact reaches_error h (put_wf _ _ _ _ hm)
        · next h => exact hc 0 _ _ (reaches_of_ok (Q := fun t => Wf t.mem) h (put_wf _ _ _ _ hm))
    · split
      · next h => exact hd h
      · split
        · split
          · next h => exact hd h
          · exact hm
        · split
          · next h => exact stepTo_wf (reaches_error h (objects_keeps ..)) hm
          · split
            · next h => exact reaches_error h (put_wf _ _ _ _ hm)
            · next h =>
              show Wf (CopyCmd.count ..).mem
              rw [count_mem]
              exact hc 0 _ _ (reaches_of_ok (Q := fun t => Wf t.mem) h (put_wf _ _ _ _ hm))
  · split
    · exact hc 0 _ _ hm
    · split
      · next h => exact stepTo_wf (reaches_error h (engineReads_keeps ..)) hm
      · exact hc 0 _ _ hm

theorem done_keeps {C : List Host.Cell → Prop} (eid slot id : Nat) (x : EngineStep) (h : StepTo C x) :
    StepTo C (EngineStep.done eid slot id x) := by
  cases x <;> exact h

theorem copyStep_wf (s : State) (eid ch : Nat) (hm : Wf s.mem) : StepTo Wf (copyStep s eid ch) := by
  unfold copyStep
  grind [Reaches, StepTo, !deliverBuf_wf, !done_keeps, !readDecode_wf, !readPlain_wf, !stepEncode_wf]

theorem copyRequest_wf (s : State) (hm : Wf s.mem) : Wf (copyRequest s).mem := by
  unfold copyRequest
  grind [Reaches, StepTo, !copyStep_wf]

theorem copyFault_wf (s : State) (hm : Wf s.mem) : Wf (copyFault s).mem := by
  unfold copyFault
  grind [Reaches, StepTo, !copyStep_wf, modChan_mem]

@[simp] theorem copyStart_mem (s : State) : (copyStart s).mem = s.mem := by
  unfold copyStart
  grind [State.setCore_mem, modChan_mem]

@[simp] theorem copyComplete_mem (s : State) : (copyComplete s).mem = s.mem := by
  unfold copyComplete
  grind [State.modCore_mem, modChan_mem]

theorem chanTrap_keeps (e : Env) (ch : Nat) : Reaches (Held (· = e.s.mem)) (fun _ => True) (chanTrap e ch) := by
  unfold chanTrap
  grind [Reaches, Held]

theorem ownWords_keeps (e : Env) (off align n : Nat) (h0 : e.s0.mem = e.s.mem) :
    Reaches (Held (· = e.s.mem)) (fun _ => True) (ownWords e off align n) := by
  unfold ownWords
  refine reaches_bind (noPop_keeps e) fun _ _ => reaches_bind (need_keeps ..) fun _ _ => ?_
  dsimp only
  split
  · exact trivial
  · refine reaches_bind (waitFill_keeps e _ _ _ h0) fun _ _ => ?_
    split <;> exact trivial

theorem formatOk_keeps (e : Env) (m : CopyCmd) : Reaches (Held (· = e.s.mem)) (fun _ => True) (formatOk e m) := by
  simp only [formatOk, bind, Except.bind]
  grind [Reaches, Held, need_keeps]

theorem copyCmd_keeps (e : Env) (kind : CopyKind) (h0 : e.s0.mem = e.s.mem) :
    Reaches (Held (· = e.s.mem)) (fun _ => True) (copyCmd e kind) := by
  unfold copyCmd
  refine reaches_bind (ownWords_keeps e _ _ _ h0) fun d _ => ?_
  refine reaches_bind (need_keeps ..) fun _ _ => reaches_bind (need_keeps ..) fun _ _ => ?_
  refine reaches_bind (need_keeps ..) fun _ _ => reaches_bind (need_keeps ..) fun _ _ => ?_
  dsimp only
  split
  · exact reaches_bind (formatOk_keeps e _) fun _ _ => reaches_bind (need_keeps ..) fun _ _ => reaches_ok trivial
  · exact reaches_bind (need_keeps ..) fun _ _ => reaches_ok trivial

theorem copyEff_keeps (kind : Env → CopyKind) (e : Env) (h0 : e.s0.mem = e.s.mem) :
    Reaches (Held (· = e.s.mem)) (fun t => t.mem = e.s.mem) (copyEff kind e) := by
  unfold copyEff Env.thread
  split
  · refine reaches_bind (chanTrap_keeps ..) fun _ _ => reaches_bind (copyCmd_keeps e _ h0) fun m _ => ?_
    refine reaches_bind (noJoin_keeps e) fun _ _ => reaches_bind (noPop_keeps e) fun _ _ => ?_
    dsimp only
    split
    · exact trivial
    · split
      · exact rfl
      · split
        · exact trivial
        · refine reaches_ok ?_
          rw [doneL_mem]
          show State.mem (if _ then _ else _) = _
          rw [mem_ite, modChan_mem, State.modCore_mem, State.modCore_mem, State.modCore_mem, ite_self]
          exact fresh_mem _
  · exact rfl

theorem cpwWait_keeps (e : Env) (chs : List Nat) : Reaches (Held (· = e.s.mem)) (fun t => t.mem = e.s.mem) (cpwWait e chs) := by
  unfold cpwWait
  refine reaches_bind (R := fun _ => True) (reaches_forIn (fun ch _ => ?_) chs _) fun _ _ => ?_
  · exact reaches_bind (chanTrap_keeps e ch) fun _ _ => reaches_ok trivial
  · split
    · exact trivial
    · exact reaches_ok (acquire_mem ..)

theorem cpwDropEff_keeps (e : Env) : Reaches (Held (· = e.s.mem)) (fun t => t.mem = e.s.mem) (cpwDropEff e) := by
  simp only [cpwDropEff, Env.thread]
  grind [Reaches, Held, State.modCore_mem, !cpwWait_keeps, modChan_mem, foldl_mem]

/-! Sys2Proof/Machine/Matrix.lean -/

@[simp] theorem modAcc_mem (s : State) (eid phys : Nat) (g : AccSlot → AccSlot) : (modAcc s eid phys g).mem = s.mem := (rfl)

@[simp] theorem modMx_mem (s : State) (eid id : Nat) (g : MxCmd → MxCmd) : (modMx s eid id g).mem = s.mem := (rfl)

@[simp] theorem dropMx_mem (s : State) (eid id : Nat) : (dropMx s eid id).mem = s.mem := (rfl)

@[simp] theorem startMx_mem (s : State) (eid : Nat) (m : MxCmd) : (startMx s eid m).mem = s.mem := by
  unfold startMx
  split <;> rfl

theorem readStep_keeps (s : State) (eid : Nat) (m : MxCmd) (ptr : Nat) (lm : Bool) (stride depth row step : Nat) :
    Reaches (StepTo (· = s.mem)) (fun _ => True) (readStep s eid m ptr lm stride depth row step) := by
  unfold readStep
  grind [Reaches, StepTo, !engineAll_keeps]

theorem readSteps_keeps (s : State) (eid : Nat) (m : MxCmd) (ptr : Nat) (lm : Bool) (stride depth row step n : Nat) :
    ∀ x, (readSteps s eid m ptr lm stride depth row step n).2 = some x → StepTo (· = s.mem) x.2 := by
  induction n generalizing step with
  | zero => nofun
  | succ n ih =>
    have hr := readStep_keeps s eid m ptr lm stride depth row step
    unfold readSteps
    grind [Reaches]

@[simp] theorem stageRow_mem (s : State) (eid : Nat) (m : MxCmd) : (stageRow s eid m).mem = s.mem := by
  unfold stageRow
  dsimp only
  generalize (if m.stage.length < m.rowsA then (m.pa, m.la, m.sa, m.stage.length) else (m.pb, m.lb, m.sb, m.stage.length - m.rowsA)) = w
  have hr := readSteps_keeps s eid m w.1 w.2.1 w.2.2.1 (m.depth (isWTile eid)) w.2.2.2 ((s.core eid).mxPos m) ((s.core eid).quantum (isWTile eid) m)
  split
  · next h => exact hr _ (congrArg Prod.snd h)
  · next h => exact hr _ (congrArg Prod.snd h)
  · next h =>
    rw [modMx_mem, farDone_mem]
    split
    · exact hr _ (congrArg Prod.snd h)
    · rfl

@[simp] theorem stagerFetch_mem (s : State) : (stagerFetch s).mem = s.mem := by
  unfold stagerFetch
  grind [stageRow_mem]

@[simp] theorem stageResident_mem (s : State) (eid : Nat) : (stageResident s eid).mem = s.mem := by
  unfold stageResident
  grind [stageRow_mem, foldl_mem]

@[simp] theorem runStep_mem (s : State) (eid left : Nat) (m : MxCmd) : (runStep s eid left m).mem = s.mem := by
  simp [runStep]

@[simp] theorem mxArbiter_mem (s : State) (t : Nat) : (mxArbiter s t).mem = s.mem := by
  unfold mxArbiter
  grind [State.modTile_mem, runStep_mem, stageResident_mem, foldl_mem]

@[simp] theorem mxuArbitrate_mem (s : State) : (mxuArbitrate s).mem = s.mem := by
  unfold mxuArbitrate
  grind [State.modTile_mem, mxArbiter_mem, runStep_mem]

@[simp] theorem notePort_mem (s : State) (eid : Nat) : (notePort s eid).mem = s.mem := by
  unfold notePort
  grind [State.modTile_mem]

theorem loadRow_keeps (s : State) (eid : Nat) (m : MxCmd) : StepTo (· = s.mem) (loadRow s eid m) := by
  unfold loadRow
  grind [Reaches, StepTo, !engineAll_keeps, farDone_mem, modAcc_mem]

theorem storeKeys_keeps (s : State) (eid : Nat) (lm : Bool) (a x1 : Nat) :
    Reaches (StepTo (· = s.mem)) (fun _ => True) (storeKeys s eid lm a x1) := by
  fun_induction storeKeys s eid lm a x1 <;> grind [Reaches, StepTo, !engineKey_keeps, foldl_mem]

theorem storeRow_keeps (s : State) (eid : Nat) (m : MxCmd) : StepTo (· = s.mem) (storeRow s eid m) := by
  unfold storeRow
  grind [Reaches, StepTo, addAccess_mem, modAcc_mem, !storeKeys_keeps]

theorem portStep_keeps (s : State) (eid : Nat) (m : MxCmd) : StepTo (· = s.mem) (portStep s eid m) := by
  unfold portStep
  grind [Reaches, StepTo, !loadRow_keeps, startMx_mem, !storeRow_keeps]

@[simp] theorem accPortCommand_mem (s : State) : (accPortCommand s).mem = s.mem := by
  unfold accPortCommand
  split
  · next eid _ =>
    split
    · next m _ =>
      have hp := portStep_keeps s eid m
      split
      · next h => exact stepTo_go (C := (· = s.mem)) h hp
      · next h => exact stepTo_wait (C := (· = s.mem)) h hp
      · rfl
    · rfl
  · rfl

@[simp] theorem msteerTokenWrite_mem (s : State) : (msteerTokenWrite s).mem = s.mem := by
  unfold msteerTokenWrite
  grind [State.setEdge_mem, modAcc_mem, sendPacket_mem]

@[simp] theorem mxuFault_mem (s : State) : (mxuFault s).mem = s.mem := by
  unfold mxuFault
  grind [modAcc_mem, modMx_mem, startMx_mem]

@[simp] theorem mxuCommandComplete_mem (s : State) : (mxuCommandComplete s).mem = s.mem := by
  unfold mxuCommandComplete
  grind [dropMx_mem, modAcc_mem]

theorem slotTrap_keeps (e : Env) (logical : Nat) (a : AccSlot) : Reaches (Held (· = e.s.mem)) (fun _ => True) (slotTrap e logical a) := by
  unfold slotTrap
  grind [Reaches, Held]

theorem physOf_keeps (e : Env) (logical : Nat) : Reaches (Held (· = e.s.mem)) (fun _ => True) (physOf e logical) := by
  simp only [physOf, Env.trap]
  grind [Reaches, Held]

theorem mxOperand_keeps (e : Env) (ptr stride rows k : Nat) :
    Reaches (Held (· = e.s.mem)) (fun _ => True) (mxOperand e ptr stride rows k) := by
  simp only [mxOperand, Env.trap]
  grind [Reaches, Held]

theorem enqueue_keeps (e : Env) (m : MxCmd) (spans : List (Bool × Int × Int)) :
    Reaches (Held (· = e.s.mem)) (fun t => t.mem = e.s.mem) (enqueue e m spans) := by
  simp only [enqueue, bind, Except.bind, Env.need, Env.trap]
  grind [Reaches, Held, State.modCore_mem, fresh_mem, !need_keeps, !noJoin_keeps, !noPop_keeps, foldl_mem]

theorem slotOf_keeps (e : Env) : Reaches (Held (· = e.s.mem)) (fun _ => True) (slotOf e) := by
  simp only [slotOf, bind, Except.bind]
  grind [Reaches, Held, !physOf_keeps, !slotTrap_keeps]

theorem mmaEff_keeps (kind : Nat) (e : Env) :
    Reaches (Held (· = e.s.mem)) (fun t => t.mem = e.s.mem) (mmaEff kind e) := by
  unfold mmaEff Env.thread
  split
  · refine reaches_bind (slotOf_keeps e) fun p _ => reaches_bind (need_keeps ..) fun _ _ => ?_
    dsimp only
    split
    · exact trivial
    · refine reaches_bind (need_keeps ..) fun _ _ => reaches_bind (need_keeps ..) fun _ _ => reaches_bind (need_keeps ..) fun _ _ => ?_
      refine reaches_bind (mxOperand_keeps e _ _ _ _) fun _ _ => reaches_bind (mxOperand_keeps e _ _ _ _) fun _ _ => ?_
      exact enqueue_keeps e _ _
  · exact rfl

theorem moveEff_keeps (e : Env) (p : Nat) (m : MxCmd) (rows : Nat) :
    Reaches (Held (· = e.s.mem)) (fun t => t.mem = e.s.mem) (moveEff e p m rows) := by
  simp only [moveEff, bind, Except.bind]
  grind [Reaches, Held, !enqueue_keeps, !mxOperand_keeps, foldl_mem]

theorem mldEff_keeps (e : Env) : Reaches (Held (· = e.s.mem)) (fun t => t.mem = e.s.mem) (mldEff e) := by
  simp only [mldEff, bind, Except.bind, Env.thread, Env.need, Env.trap]
  grind [Reaches, Held, !moveEff_keeps, !need_keeps, !slotOf_keeps, foldl_mem]

theorem mstEff_keeps (e : Env) : Reaches (Held (· = e.s.mem)) (fun t => t.mem = e.s.mem) (mstEff e) := by
  simp only [mstEff, bind, Except.bind, Env.thread, Env.need, Env.trap]
  grind [Reaches, Held, !moveEff_keeps, !need_keeps, !slotOf_keeps, foldl_mem]

theorem msteerEff_keeps (e : Env) : Reaches (Held (· = e.s.mem)) (fun t => t.mem = e.s.mem) (msteerEff e) := by
  simp only [msteerEff, bind, Except.bind, Env.thread, Env.need, Env.trap]
  grind [Reaches, Held, !enqueue_keeps, !need_keeps, !slotOf_keeps, foldl_mem]

theorem mclrEff_keeps (e : Env) : Reaches (Held (· = e.s.mem)) (fun t => t.mem = e.s.mem) (mclrEff e) := by
  simp only [mclrEff, bind, Except.bind, Env.thread, Env.trap]
  grind [Reaches, Held, dropMx_mem, !enqueue_keeps, modAcc_mem, !physOf_keeps, foldl_mem]

theorem maskSlots_keeps (e : Env) (mask : Nat) :
    Reaches (Held (· = e.s.mem)) (fun _ => True) (maskSlots e mask) :=
  reaches_mapM (fun l => by grind [Reaches, !physOf_keeps]) _

theorem mwaitEff_keeps (e : Env) :
    Reaches (Held (· = e.s.mem)) (fun t => t.mem = e.s.mem) (mwaitEff e) := by
  unfold mwaitEff Env.thread
  split
  · refine reaches_bind (maskSlots_keeps e _) fun ps _ => ?_
    refine reaches_bind (R := fun _ => True) (reaches_forIn (fun x _ => ?_) ps _) fun _ _ => ?_
    · exact reaches_bind (slotTrap_keeps e _ _) fun _ _ => reaches_ok trivial
    · split
      · exact trivial
      · exact reaches_ok rfl
  · exact rfl

theorem mprogEff_keeps (e : Env) : Reaches (Held (· = e.s.mem)) (fun t => t.mem = e.s.mem) (mprogEff e) := by
  simp only [mprogEff, bind, Except.bind, Env.thread]
  grind [Reaches, Held, doneL_mem, !physOf_keeps, foldl_mem]

theorem mweightEff_keeps (e : Env) : Reaches (Held (· = e.s.mem)) (fun t => t.mem = e.s.mem) (mweightEff e) := by
  simp only [mweightEff, bind, Except.bind, Env.thread, Env.need, Env.trap]
  grind [Reaches, Held, State.modCore_mem, !need_keeps, foldl_mem]

end Sys2Proof.Proofs.MemoryKept

/-! SUPPORT. Memory keeps its canonical form: the dispatchers and the tasks. -/

namespace Sys2Proof.Proofs.MemoryKept

open Sys2Proof.Machine

/-! Sys2Proof/Machine/Dispatcher.lean -/

@[simp] theorem freeRec_mem (s : State) (h : Nat) : (freeRec s h).mem = s.mem := by
  unfold freeRec
  grind

theorem allot_mem {s t : State} {die n : Nat} {r : Rec} (h : allot s die r = some (n, t)) : t.mem = s.mem := by
  obtain ⟨m, -, hm⟩ := Option.map_eq_some_iff.1 h
  exact (congrArg (·.2.mem) hm).symm

@[simp] theorem enterTable_mem (s : State) (h : Nat) : (enterTable s h).mem = s.mem := by
  unfold enterTable
  grind [State.modDie_mem, State.setRec_mem]

@[simp] theorem leaveTable_mem (s : State) (h : Nat) : (leaveTable s h).mem = s.mem := by
  unfold leaveTable
  grind [State.modDie_mem, State.modRec_mem]

@[simp] theorem armRec_mem (s : State) (h q qentry : Nat) : (armRec s h q qentry).mem = s.mem := by
  unfold armRec
  grind [State.setRec_mem, enterTable_mem]

theorem postDispatch_wf (s : State) (dev asid : Nat) (i : TrapInfo) (o : Origin) (hm : Wf s.mem) :
    Wf (postDispatch s dev asid i o).mem := by
  unfold postDispatch
  grind [postRecord_wf]

theorem badSubmission_wf (s : State) (die asid : Nat) (h q qentry : Nat) (hm : Wf s.mem) :
    Wf (badSubmission s die asid h q qentry).mem := by
  unfold badSubmission
  grind [freezeQueue_wf, postDispatch_wf]

theorem submitTaken_wf (s : State) (die asid q : Nat) (h qentry : Nat) (hm : Wf s.mem) : Wf (submitTaken s die asid q h qentry).mem := by
  unfold submitTaken
  grind [armRec_mem, badSubmission_wf]

theorem queueRingTake_wf (s : State) (hm : Wf s.mem) : Wf (queueRingTake s).mem := by
  unfold queueRingTake
  grind [freezeQueue_wf, postDispatch_wf, submitTaken_wf, takeDone_wf]

@[simp] theorem priorityAging_mem (s : State) : (priorityAging s).mem = s.mem := by
  unfold priorityAging
  split <;> simp

theorem devWrite_wf (s : State) (dev asid va : Nat) (x1 : List Byte) (hm : Wf s.mem) :
    Reaches (fun _ => True) (fun t => Wf t.mem) (devWrite s dev asid va x1) := by
  fun_induction devWrite s dev asid va x1 <;> grind [Reaches, putBytes_wf, foldl_mem, foldl_wf]

theorem switchIn_wf (s : State) (eid asid : Nat) (hm : Wf s.mem) :
    Reaches (fun _ => True) (fun t => Wf t.mem) (switchIn s eid asid) := by
  fun_cases switchIn s eid asid
  · exact trivial
  · refine reaches_ok ?_
    rw [State.modCore_mem]
    exact setBytes_wf _ _ hm
  · exact trivial
  · exact trivial

theorem zeroGranules_wf (s : State) (eid g n : Nat) (hm : Wf s.mem) : Wf (zeroGranules s eid g n).mem := by
  unfold zeroGranules
  rw [mend_mem]
  exact wfFrom_filter _ _ 0 hm

@[simp] theorem outEdges_mem (s : State) (r : Rec) (x1 : List (EdgeEnt × Nat)) : (outEdges s r x1).2.mem = s.mem := by
  fun_induction outEdges s r x1 <;> grind [fresh_mem, foldl_mem]

@[simp] theorem goToRing_mem (s : State) (id core : Nat) (p : Packet) : (goToRing s id core p).mem = s.mem := by
  unfold goToRing
  grind [takeSeq_mem]

theorem placeRing_wf (s : State) (r : Rec) (eid port : Nat) (e : EdgeEnt) (k : Nat) (gr : Option Nat) (hm : Wf s.mem) :
    Wf (placeRing s r eid port e k gr).2.mem := by
  unfold placeRing
  grind [State.modCore_mem, State.setEdge_mem, fresh_mem, goToRing_mem, wr_wf, zeroGranules_wf, foldl_mem, foldl_wf]

theorem placeInRings_wf (r : Rec) (eid : Nat) (x1 : List ((EdgeEnt × Nat) × Option Nat)) (x2 : Nat) (x3 : State) (hm : Wf x3.mem) :
    Wf (placeInRings r eid x1 x2 x3).2.mem := by
  fun_induction placeInRings r eid x1 x2 x3 <;> grind [!placeRing_wf, foldl_mem, foldl_wf]

theorem bindCore_wf (s : State) (r : Rec) (b i : Nat) (outs : List Nat) (hm : Wf s.mem) : Wf (bindCore s r b i outs).mem := by
  have hs := switchIn_wf s (b + i) r.asid hm
  unfold bindCore
  extract_lets eid s1
  have h1 : Wf s1.mem := by
    dsimp only [s1]
    split
    · split
      · next h => exact reaches_of_ok (Q := fun t => Wf t.mem) h hs
      · rwa [State.modCore_mem]
    · exact hm
  clear_value s1
  split
  · exact h1
  · split
    dsimp only
    have h2 (g : Nat) (c : Core) : Wf (zeroGranules (s1.setCore eid c) eid g r.lmgr).mem := by
      refine zeroGranules_wf _ _ _ _ ?_
      rwa [State.setCore_mem]
    split
    · rw [State.modRec_mem, State.modCore_mem]
      split
      · exact placeInRings_wf _ _ _ _ _ (h2 _ _)
      · exact h2 _ _
    · rw [State.modCore_mem]
      split
      · exact placeInRings_wf _ _ _ _ _ (h2 _ _)
      · exact h2 _ _

@[simp] theorem startFetch_mem (die : Nat) (s : State) (h j : Nat) : (startFetch die s h j).mem = s.mem := by
  unfold startFetch
  grind [State.modDie_mem, State.setRec_mem, fresh_mem]

@[simp] theorem startFetches_mem (s : State) (h : Nat) : (startFetches s h).mem = s.mem := by
  unfold startFetches
  grind [startFetch_mem, foldl_mem]

theorem bindTask_wf (s : State) (h b : Nat) (ahead : Bool) (hm : Wf s.mem) : Wf (bindTask s h b ahead).mem := by
  unfold bindTask
  grind [State.modRec_mem, bindCore_wf, outEdges_mem, record_mem, startFetches_mem, touchInst_mem, foldl_mem, foldl_wf]

theorem selectOnce_wf (s : State) (die : Nat) (hm : Wf s.mem) : Wf (selectOnce s die).mem := by
  unfold selectOnce
  grind [State.modDie_mem, bindTask_wf, leaveTable_mem]

theorem dispatchSelection_wf (s : State) (hm : Wf s.mem) : Wf (dispatchSelection s).mem := by
  unfold dispatchSelection
  grind [selectOnce_wf]

@[simp] theorem fetchDone_mem (s : State) (r : Rec) (va got : Nat) : (fetchDone s r va got).mem = s.mem := (rfl)

theorem fetchLine_keeps (s : State) (r : Rec) (va len got : Nat) :
    Reaches (StepTo (· = s.mem)) (fun _ => True) (fetchLine s r va len got) := by
  unfold fetchLine
  grind [Reaches, StepTo, !engineReads_keeps]

theorem waits_mem (s : State) (x : EngineStep) (h : StepTo (· = s.mem) x) : (EngineStep.waits s x).mem = s.mem := by
  cases x with
  | go _ => exact h
  | wait _ => exact h
  | fault _ _ _ => rfl

@[simp] theorem takeLine_mem (s : State) (h j q : Nat) (bs : List Byte) : (takeLine s h j q bs).mem = s.mem := by
  simp [takeLine]

theorem landOp_wf (s : State) (r : Rec) (j : Nat) (o : TaskOp) (hm : Wf s.mem) : Wf (landOp s r j o).mem := by
  unfold landOp
  grind [State.setRec_mem, putBytes_wf, foldl_mem, foldl_wf]

theorem textLine_keeps (s : State) (r : Rec) : Reaches (StepTo (· = s.mem)) (fun _ => True) (textLine s r) := by
  unfold textLine
  grind [Reaches, StepTo, !fetchLine_keeps]

theorem operandPrefetch_wf (s : State) (hm : Wf s.mem) : Wf (operandPrefetch s).mem := by
  unfold operandPrefetch
  split
  · split
    · exact hm
    · next r _ =>
      have ht := textLine_keeps s r
      have hf := fetchLine_keeps s r
      split
      · split
        · exact hm
        · split
          · next h => rw [waits_mem _ _ (reaches_error h ht)]; exact hm
          · dsimp only
            rw [State.setRec_mem, fetchDone_mem]
            refine foldl_wf (fun t e ht => ?_) _ _ hm
            split
            · exact putBytes_wf _ _ ht
            · exact ht
      · split
        · split
          · exact hm
          · split
            · exact landOp_wf _ _ _ _ hm
            · split
              · next h => rw [waits_mem _ _ (reaches_error h (hf ..))]; exact hm
              · rw [fetchDone_mem, foldl_mem fun t x => takeLine_mem ..]
                exact hm
        · exact hm
  · exact hm

theorem prefetchFault_wf (s : State) (hm : Wf s.mem) : Wf (prefetchFault s).mem := by
  unfold prefetchFault
  split
  · split
    · exact hm
    · next r _ =>
      have ht := textLine_keeps s r
      have hf := fetchLine_keeps s r
      dsimp only
      split
      · split
        · exact hm
        · split
          · next h =>
            refine taskFault_wf _ _ (postDispatch_wf _ _ _ _ _ ?_)
            rw [State.setRec_mem]
            exact stepTo_fault h ht ▸ hm
          · exact hm
      · split
        · split
          · exact hm
          · split
            · next h =>
              refine taskFault_wf _ _ (postDispatch_wf _ _ _ _ _ ?_)
              rw [State.setRec_mem]
              exact stepTo_fault h (hf ..) ▸ hm
            · exact hm
        · exact hm
  · exact hm

@[simp] theorem createOn_mem (r : Rec) (s : State) (eid : Nat) : (createOn r s eid).mem = s.mem := by
  unfold createOn
  grind [State.modCore_mem, acquire_mem, startThread_mem, foldl_mem]

@[simp] theorem threadCreation_mem (s : State) : (threadCreation s).mem = s.mem := by
  unfold threadCreation
  grind [State.setRec_mem, createOn_mem, foldl_mem]

theorem strayDecrement_wf (s : State) (die asid : Nat) (h queue qentry : Nat) (hm : Wf s.mem) :
    Wf (strayDecrement s die asid h queue qentry).mem := by
  unfold strayDecrement
  grind [postDispatch_wf]

theorem applyDecr_wf (s : State) (asid : Nat) (h n mask : Nat) (hm : Wf s.mem) : Wf (applyDecr s asid h n mask).mem := by
  unfold applyDecr
  grind [State.setRec_mem, enterTable_mem, startFetches_mem, strayDecrement_wf]

theorem sendDecr_wf (s : State) (src asid : Nat) (h n mask queue qentry : Nat) (after : List Nat) (hm : Wf s.mem) :
    Wf (sendDecr s src asid h n mask queue qentry after).mem := by
  unfold sendDecr
  grind [sendPacket_mem, strayDecrement_wf]

theorem applyPkt_wf (s : State) (p : Packet) (hm : Wf s.mem) : Wf (applyPkt s p).mem := by
  unfold applyPkt
  grind [answer_mem, applyDecr_wf]

theorem decrementApply_wf (s : State) (hm : Wf s.mem) : Wf (decrementApply s).mem := by
  unfold decrementApply
  grind [applyPkt_wf, foldl_mem, foldl_wf]

theorem suspendCheck_wf (s : State) (dev asid gid : Nat) (hm : Wf s.mem) : Wf (suspendCheck s dev asid gid).mem := by
  unfold suspendCheck
  grind [postDispatch_wf]

@[simp] theorem freeBerth_mem (s : State) (r : Rec) : (freeBerth s r).mem = s.mem := by
  unfold freeBerth
  grind [State.modCore_mem, freeOnCore_mem, foldl_mem]

theorem finishTask_wf (s : State) (r : Rec) (hm : Wf s.mem) : Wf (finishTask s r).mem := by
  unfold finishTask
  grind [freeBerth_mem, freeRec_mem, sendDecr_wf, touchInst_mem, foldl_mem, foldl_wf]

@[simp] theorem suspendEdge_mem (s : State) (g : Edge) : (suspendEdge s g).mem = s.mem := by
  unfold suspendEdge
  split <;> simp

@[simp] theorem suspendTask_mem (s : State) (r : Rec) : (suspendTask s r).mem = s.mem := by
  unfold suspendTask
  grind [State.setRec_mem, enterTable_mem, freeBerth_mem, suspendEdge_mem, foldl_mem]

@[simp] theorem cancelDone_mem (s : State) (r : Rec) : (cancelDone s r).mem = s.mem := by
  unfold cancelDone
  grind [freeBerth_mem, freeRec_mem, freeRing_mem, foldl_mem]

theorem taskCompletion_wf (s : State) (hm : Wf s.mem) : Wf (taskCompletion s).mem := by
  unfold taskCompletion
  split
  · split
    · exact hm
    · split
      · exact hm
      · split
        · split
          · exact hm
          · rwa [cancelDone_mem]
        · split
          · next r _ _ _ _ e _ =>
            have hw := writeBack_mem s e r.asid
            split
            · next h => exact ((congrArg (·.1.mem) h).symm.trans (hw _)) ▸ hm
            · next h =>
              dsimp only
              rw [State.modRec_mem]
              exact taskFault_wf _ _ (postDispatch_wf _ _ _ _ _ (((congrArg (·.1.mem) h).symm.trans (hw _)) ▸ hm))
          · split
            · exact hm
            · split
              · split
                · exact hm
                · refine suspendCheck_wf _ _ _ _ ?_
                  rwa [suspendTask_mem]
              · exact finishTask_wf _ _ hm
  · exact hm

@[simp] theorem withdraw_mem (s : State) (eid slot : Nat) : (withdraw s eid slot).mem = s.mem := by
  unfold withdraw
  grind

theorem cancelThread_wf (s : State) (eid slot : Nat) (hm : Wf s.mem) : Wf (cancelThread s eid slot).mem := by
  unfold cancelThread
  grind [endThread_wf, withdraw_mem]

@[simp] theorem dropFaulted_mem (s : State) (h : Nat) : (dropFaulted s h).mem = s.mem := (rfl)

theorem cancelRec_wf (s : State) (h : Nat) (hm : Wf s.mem) : Wf (cancelRec s h).1.mem := by
  unfold cancelRec
  grind [State.setRec_mem, cancelThread_wf, dropFaulted_mem, freeRec_mem, freeRing_mem, leaveTable_mem, undoBinding_mem, foldl_mem,
    foldl_wf]

theorem writeSnap_wf (dev asid : Nat) (l : List (Nat × Nat)) (va n : Nat) (s : State) (hm : Wf s.mem) :
    Wf (writeSnap dev asid l va n s).1.mem := by
  induction l generalizing va n s with
  | nil => exact hm
  | cons x r ih =>
    have hw := devWrite_wf s dev asid va (toBytes 8 x.1 ++ toBytes 8 x.2) hm
    unfold writeSnap
    grind [Reaches]

theorem quiescenceExpiry_wf (s : State) (hm : Wf s.mem) : Wf (quiescenceExpiry s).mem := by
  unfold quiescenceExpiry
  grind [postDispatch_wf, !writeSnap_wf]

/-! Sys2Proof/Machine/Tasks.lean -/

theorem handle_keeps (e : Env) (v : Nat) : Reaches (Held (· = e.s.mem)) (fun _ => True) (Env.handle e v) := by
  simp only [Env.handle, Env.trap]
  grind [Reaches, Held]

theorem queue_keeps (e : Env) (v : Nat) : Reaches (Held (· = e.s.mem)) (fun _ => True) (Env.queue e v) := by
  simp only [Env.queue, Env.trap]
  grind [Reaches, Held]

theorem taskReq_keeps (e : Env) (nr : Bool) (scope dst op : Nat) (args : List Nat) (h0 : e.s0.mem = e.s.mem) :
    Reaches (Held (· = e.s.mem)) (fun t => t.mem = e.s.mem) (taskReq e nr scope dst op args) := by
  simp only [taskReq, bind, Except.bind]
  grind [Reaches, Held, !noJoin_keeps, !request_keeps, foldl_mem]

theorem readEach_keeps {α : Type} {H : EngineStep → Prop} {rd : Nat → Except EngineStep α}
    (h : ∀ i, Reaches H (fun _ => True) (rd i)) (i n : Nat) : Reaches H (fun _ => True) (readEach rd i n) := by
  induction n generalizing i with
  | zero => exact trivial
  | succ n ih =>
    unfold readEach
    grind [Reaches]

theorem readGroup_keeps {H : EngineStep → Prop} {rd : Nat → Nat → Except EngineStep (List Byte)}
    (h : ∀ a n, Reaches H (fun _ => True) (rd a n)) (a : Nat) : Reaches H (fun _ => True) (readGroup rd a) := by
  unfold readGroup
  grind [Reaches]

theorem readTemplate_keeps (s : State) (eid slot asid va : Nat) :
    Reaches (StepTo (· = s.mem)) (fun _ => True) (readTemplate s eid slot asid va) := by
  have hr (a n : Nat) : Reaches (StepTo (· = s.mem)) (fun _ => True) (engineAll s eid slot s.nextId asid false (a : Int) n) :=
    engineAll_keeps ..
  unfold readTemplate
  dsimp only
  split
  · next h => exact reaches_again h (hr va 64)
  · split
    · exact trivial
    · split
      · exact trivial
      · next h => exact reaches_again h (readEach_keeps (fun i => hr (va + 64 + 256 * i) 256) 0 _)
      · next h _ => exact reaches_again h (readEach_keeps (fun i => readGroup_keeps hr _) 0 _)

@[simp] theorem allotNodes_mem (asid die gid : Nat) (x1 : List (List Nat)) (x2 : State) :
    (allotNodes asid die gid x1 x2).2.mem = x2.mem := by
  fun_induction allotNodes asid die gid x1 x2 <;> grind [allot_mem, foldl_mem]

theorem armInst_wf (q : Nat) (s : State) (h : Nat) (hm : Wf s.mem) : Wf (armInst q s h).mem := by
  unfold armInst
  grind [State.setRec_mem, armRec_mem, badSubmission_wf]

theorem makeInst_wf (s : State) (dev asid die gid q : Nat) (t : Tmpl) (ren : List Nat) (armAt : Option Nat) (hm : Wf s.mem) :
    Wf (makeInst s dev asid die gid q t ren armAt).mem := by
  unfold makeInst
  grind [State.modRec_mem, allotNodes_mem, armInst_wf, foldl_mem, foldl_wf]

theorem ginstEff_wf (e : Env) (h0 : e.s0.mem = e.s.mem) (hm : Wf e.s.mem) : Reaches (Held Wf) (fun t => Wf t.mem) (ginstEff e) := by
  have hx {x : EngineStep} (h : readTemplate e.s0 e.eid e.slot e.asid (addrOf e.a0) = .error x) : StepTo Wf x :=
    stepTo_wf (reaches_error h (readTemplate_keeps ..)) (h0 ▸ hm)
  have hf : Wf (farDone e.s e.eid e.slot 0).mem := by rwa [farDone_mem]
  unfold ginstEff Env.thread
  split
  · refine reaches_bind (reaches_held (ownWords_keeps e _ _ _ h0) hm) fun ren _ => ?_
    refine reaches_bind (reaches_held (need_keeps ..) hm) fun _ _ => ?_
    split
    · next h => exact hx h
    · next h => exact hx h
    · next h => exact hx h
    · dsimp only
      split
      · refine reaches_ok ?_
        rw [doneL_mem]
        exact hf
      · refine reaches_ok ?_
        rw [doneL_mem]
        exact makeInst_wf _ _ _ _ _ _ _ _ _ hf
  · exact hm

theorem tkmkEff_keeps (e : Env) (h0 : e.s0.mem = e.s.mem) : Reaches (Held (· = e.s.mem)) (fun t => t.mem = e.s.mem) (tkmkEff e) := by
  simp only [tkmkEff, bind, Except.bind, Env.thread]
  grind [Reaches, Held, !need_keeps, !ownWords_keeps, !taskReq_keeps, foldl_mem]

theorem tkarmEff_keeps (e : Env) (h0 : e.s0.mem = e.s.mem) : Reaches (Held (· = e.s.mem)) (fun t => t.mem = e.s.mem) (tkarmEff e) := by
  simp only [tkarmEff, bind, Except.bind, Env.thread]
  grind [Reaches, Held, !handle_keeps, !taskReq_keeps, foldl_mem]

theorem tksuccEff_keeps (e : Env) (h0 : e.s0.mem = e.s.mem) : Reaches (Held (· = e.s.mem)) (fun t => t.mem = e.s.mem) (tksuccEff e) := by
  simp only [tksuccEff, bind, Except.bind, Env.thread]
  grind [Reaches, Held, !handle_keeps, !taskReq_keeps, foldl_mem]

theorem tkdecEff_keeps (e : Env) (h0 : e.s0.mem = e.s.mem) : Reaches (Held (· = e.s.mem)) (fun t => t.mem = e.s.mem) (tkdecEff e) := by
  simp only [tkdecEff, bind, Except.bind, Env.thread]
  grind [Reaches, Held, !handle_keeps, !noJoin_keeps, !sendRelease_keeps, send_mem, foldl_mem]

theorem tkdoneEff_wf (e : Env) (h0 : e.s0.mem = e.s.mem) (hm : Wf e.s.mem) : Reaches (Held Wf) (fun t => Wf t.mem) (tkdoneEff e) := by
  unfold tkdoneEff
  split
  · exact exitEff_wf _ (h0.trans (State.modRec_mem ..).symm) ((State.modRec_mem ..).symm ▸ hm)
  · exact exitEff_wf _ h0 hm

theorem tkcanEff_keeps (e : Env) (h0 : e.s0.mem = e.s.mem) : Reaches (Held (· = e.s.mem)) (fun t => t.mem = e.s.mem) (tkcanEff e) := by
  simp only [tkcanEff, bind, Except.bind, Env.thread]
  grind [Reaches, Held, !handle_keeps, !taskReq_keeps, foldl_mem]

theorem tkstEff_keeps (e : Env) (h0 : e.s0.mem = e.s.mem) : Reaches (Held (· = e.s.mem)) (fun t => t.mem = e.s.mem) (tkstEff e) := by
  simp only [tkstEff, bind, Except.bind, Env.thread]
  grind [Reaches, Held, !handle_keeps, !taskReq_keeps, foldl_mem]

theorem tksubEff_keeps (e : Env) (h0 : e.s0.mem = e.s.mem) : Reaches (Held (· = e.s.mem)) (fun t => t.mem = e.s.mem) (tksubEff e) := by
  unfold tksubEff Env.thread
  split
  · refine reaches_bind (queue_keeps ..) fun _ _ => reaches_bind (handle_keeps ..) fun _ _ => reaches_bind (need_keeps ..) fun _ _ => ?_
    exact answered_keeps e _ _ h0 (fun _ _ => reaches_ok (doneL_mem ..)) (ask_keeps e _ _ _ _ h0)
  · exact rfl

@[simp] theorem undoForDrain_mem (s : State) (r : Rec) : (undoForDrain s r).mem = s.mem := by
  unfold undoForDrain
  grind [enterTable_mem, undoBinding_mem]

theorem resumeQueue_wf (s : State) (die asid q : Nat) (hm : Wf s.mem) : Wf (resumeQueue s die asid q).2.mem := by
  unfold resumeQueue
  grind [State.modDie_mem, State.modRec_mem, markFrozen_wf, !resume_wf, undoForDrain_mem, unfault_mem, foldl_mem, foldl_wf]

theorem arrmEff_keeps (e : Env) : Reaches (Held (· = e.s.mem)) (fun t => t.mem = e.s.mem) (arrmEff e) := by
  simp only [arrmEff, bind, Except.bind, Env.thread, Env.need, Env.trap]
  grind [Reaches, Held, State.modCore_mem, doneL_mem, !handle_keeps, !need_keeps, upd_mem, foldl_mem]

theorem arrmFreeEff_keeps (e : Env) : Reaches (Held (· = e.s.mem)) (fun t => t.mem = e.s.mem) (arrmFreeEff e) := by
  simp only [arrmFreeEff, bind, Except.bind, Env.thread, Env.need, Env.trap]
  grind [Reaches, Held, State.modCore_mem, doneL_mem, !need_keeps, upd_mem, foldl_mem]

theorem ringKey_keeps (e : Env) (h0 : e.s0.mem = e.s.mem) : Reaches (Held (· = e.s.mem)) (fun _ => True) (ringKey e) := by
  unfold ringKey
  refine reaches_bind (need_keeps ..) fun _ _ => reaches_bind (xlWant_keeps e _ _ _ h0) fun _ _ => ?_
  exact reaches_bind (hostAtomicOk_keeps ..) fun _ _ => reaches_bind (waitFill_keeps e _ _ _ h0) fun _ _ => reaches_ok trivial

theorem rgtakeEff_keeps (e : Env) (h0 : e.s0.mem = e.s.mem) : Reaches (Held (· = e.s.mem)) (fun t => t.mem = e.s.mem) (rgtakeEff e) := by
  have ho (w : Nat) : ((e.upd e.s).doneL [(0, fitRaw e.od.w w)] 0).mem = e.s.mem := doneL_mem ..
  unfold rgtakeEff Env.thread
  split
  · refine reaches_bind (need_keeps ..) fun _ _ => ?_
    dsimp only
    split
    · exact trivial
    refine reaches_bind (R := fun _ => True) trivial fun _ _ => ?_
    refine reaches_bind (waitFill_keeps e _ _ _ h0) fun _ _ => reaches_bind (ringKey_keeps e h0) fun _ _ => ?_
    refine answered_keeps e _ _ h0 (fun w sc => ?_) ?_
    · split
      · exact reaches_ok (ho w)
      · split
        · exact reaches_ok ((acquire_mem ..).trans (ho w))
        · exact trivial
    · split
      · exact trivial
      · exact ask_keeps e _ _ _ _ h0
  · exact rfl

@[simp] theorem answerTold_mem (s : State) (p : Packet) (w scope : Nat) : (answerTold s p w scope).mem = s.mem := by
  simp [answerTold]

@[simp] theorem answerFailed_mem (s : State) (p : Packet) (code cause va index : Nat) :
    (answerFailed s p code cause va index).mem = s.mem := by
  simp [answerFailed]

theorem submitAt_wf (s : State) (p : Packet) (die q : Nat) (h idx : Nat) (hm : Wf s.mem) : Wf (submitAt s p die q h idx).mem := by
  unfold submitAt
  grind [answerFailed_mem, answerTold_mem, putNum_wf, !ringPub_wf, !ringRes_wf]

theorem entryBytes_keeps (s : State) (p : Packet) (va n : Nat) :
    Reaches (StepTo (· = s.mem)) (fun _ => True) (entryBytes s p va n) :=
  reaches_mapM (fun i => by grind [Reaches, StepTo, !engineKey_keeps]) _

theorem takeAt_wf (s : State) (p : Packet) (k off va : Nat) (hm : Wf s.mem) : Wf (takeAt s p k off va).mem := by
  unfold takeAt
  grind [Reaches, StepTo, answerFailed_mem, answerTold_mem, !entryBytes_keeps, fillForPacket_mem, putBytes_wf, takeDone_wf]

theorem cancelInst_wf (s : State) (dev asid gid : Nat) (hm : Wf s.mem) : Wf (cancelInst s dev asid gid).2.mem :=
  List.foldlRecOn _ _ (motive := fun r : Nat × State => Wf r.2.mem) hm fun x h r _ => cancelRec_wf x.2 r.handle h

@[simp] theorem armAdd_mem (s : State) (r : Rec) (b : Nat) : (armAdd s r b).2.mem = s.mem := by
  unfold armAdd
  grind [State.setRec_mem]

@[simp] theorem succAdd_mem (s : State) (r : Rec) (h mask : Nat) : (succAdd s r h mask).2.mem = s.mem := by
  unfold succAdd
  grind [State.setRec_mem]

theorem onRec_wf (s : State) (p : Packet) (h : Nat) (g : Rec → Nat × State) (hm : Wf s.mem) (hg : ∀ r, Wf (g r).2.mem) :
    Wf (onRec s p h g).mem := by
  unfold onRec
  split
  · rwa [answerWord_mem]
  · dsimp only
    rw [answerWord_mem]
    exact hg _

@[simp] theorem makeRec_mem (s : State) (asid die gid : Nat) (img : List Nat) : (makeRec s asid die gid img).2.mem = s.mem := by
  unfold makeRec
  grind [allot_mem]

theorem atRing_wf (s : State) (p : Packet) (k : Nat) (g : State → Nat × State) (hm : Wf s.mem) (hg : Wf (g s).2.mem) :
    Wf (atRing s p k g).mem := by
  unfold atRing
  grind [answerWord_mem, deferTrap_mem, answer_mem, fillForPacket_mem]

theorem taskArrive_wf (s : State) (p : Packet) (hm : Wf s.mem) : Wf (taskArrive s p).mem := by
  unfold taskArrive
  dsimp only
  split
  · rw [answerWord_mem, makeRec_mem]
    exact hm
  · exact onRec_wf _ _ _ _ hm fun r => by rwa [armAdd_mem]
  · exact onRec_wf _ _ _ _ hm fun r => by rwa [succAdd_mem]
  · exact onRec_wf _ _ _ _ hm fun r => cancelRec_wf _ _ hm
  · split
    · rw [answerWord_mem]
      exact cancelInst_wf _ _ _ _ hm
    · rwa [answerWord_mem]
  · exact onRec_wf _ _ _ _ hm fun r => hm
  · exact submitAt_wf _ _ _ _ _ _ hm
  · rw [answerWord_mem]
    exact resumeQueue_wf _ _ _ _ hm
  · exact atRing_wf _ _ _ _ hm (ringRes_wf _ _ hm)
  · exact atRing_wf _ _ _ _ hm (ringPub_wf _ _ _ hm)
  · exact takeAt_wf _ _ _ _ _ hm
  · exact hm

end Sys2Proof.Proofs.MemoryKept

/-! SUPPORT. Memory keeps its canonical form: the collectives, the conversions, the edges and the messages. -/

namespace Sys2Proof.Proofs.MemoryKept

open Sys2Proof.Machine

/-! Sys2Proof/Machine/Collect.lean -/

@[simp] theorem modPlan_mem (s : State) (k : Nat) (g : Plan → Plan) : (modPlan s k g).mem = s.mem := by
  unfold modPlan
  split <;> rfl

@[simp] theorem reapPlans_mem (s : State) : (reapPlans s).mem = s.mem := (rfl)

@[simp] theorem sendNode_mem (s : State) (p : Plan) (i j : Nat) (b : Body) : (sendNode s p i j b).mem = s.mem := by
  simp [sendNode]

@[simp] theorem sendDown_mem (s : State) (p : Plan) (i : Nat) (b : Nat → Body) : (sendDown s p i b).mem = s.mem := by
  unfold sendDown
  grind [sendNode_mem, foldl_mem]

@[simp] theorem sendTree_mem (s : State) (p : Plan) (b : Nat → Body) : (sendTree s p b).mem = s.mem := by
  simp [sendTree]

theorem blkPut_wf (s : State) (eid block off n v : Nat) (hm : Wf s.mem) : Wf (blkPut s eid block off n v).mem := by
  unfold blkPut
  grind [putNum_wf]

theorem blkAdd_wf (s : State) (eid block off n : Nat) (d : Int) (hm : Wf s.mem) : Wf (blkAdd s eid block off n d).mem := by
  unfold blkAdd
  grind [blkPut_wf]

theorem blkOpen_mem {s t : State} {eid block : Nat} (h : blkOpen s eid block = some t) : t.mem = s.mem := by
  -- the kernel must not run `emptyGran` on the 256 keys of the block, so it becomes a variable before anything is reduced
  obtain ⟨f, hf⟩ : ∃ f, blkOpen = f := ⟨_, rfl⟩
  rw [hf] at h
  delta blkOpen at hf
  subst hf
  obtain ⟨empty, he⟩ : ∃ empty, emptyGran = empty := ⟨_, rfl⟩
  rw [he] at h
  clear he
  dsimp only at h
  split at h
  · obtain rfl := Option.some.inj h
    rfl
  · cases h

theorem collectPut_wf (s : State) (dev : Nat) (kbs : List (Nat × Byte)) (hm : Wf s.mem) : Wf (collectPut s dev kbs).mem := by
  unfold collectPut
  grind [setBytes_wf]

@[simp] theorem dropLock_mem (s : State) (eid owner : Nat) : (dropLock s eid owner).mem = s.mem := (rfl)

@[simp] theorem abortEpoch_mem (s : State) (k epoch code : Nat) : (abortEpoch s k epoch code).mem = s.mem := by
  simp [abortEpoch]

@[simp] theorem sendShakes_mem (s : State) (k epoch : Nat) : (sendShakes s k epoch).mem = s.mem := by
  unfold sendShakes
  grind [modPlan_mem, sendTree_mem, foldl_mem]

@[simp] theorem rootForward_mem (s : State) (k epoch : Nat) (r : Share) : (rootForward s k epoch r).mem = s.mem := by
  unfold rootForward
  split <;> simp

@[simp] theorem sendUp_mem (s : State) (k node epoch : Nat) (r : Share) : (sendUp s k node epoch r).mem = s.mem := by
  unfold sendUp
  grind [rootForward_mem, sendNode_mem]

@[simp] theorem forwardNode_mem (s : State) (k : Nat) (x1 : NEpoch) : (forwardNode s k x1).mem = s.mem := by
  unfold forwardNode
  grind [modPlan_mem, sendUp_mem]

@[simp] theorem pokeNode_mem (s : State) (k node epoch : Nat) : (pokeNode s k node epoch).mem = s.mem := by
  unfold pokeNode
  grind [forwardNode_mem]

@[simp] theorem learn_mem (s : State) (k node epoch : Nat) : (learn s k node epoch).mem = s.mem := by
  unfold learn
  grind [modPlan_mem, pokeNode_mem]

@[simp] theorem placeShare_mem (s : State) (k node slot epoch : Nat) (r : Share) : (placeShare s k node slot epoch r).mem = s.mem := by
  unfold placeShare
  split
  · rfl
  · extract_lets s1 s2
    have h1 : s1.mem = s.mem := by
      dsimp only [s1]
      rw [mem_ite, modPlan_mem, ite_self]
    have h2 : s2.mem = s.mem := (modPlan_mem ..).trans h1
    clear_value s1 s2
    split
    · exact h2
    · extract_lets s3
      have h3 : s3.mem = s.mem := by
        dsimp only [s3]
        split
        · rw [mem_ite, forwardNode_mem, h2, ite_self]
        · exact h2
      clear_value s3
      split
      · exact h3
      · split
        · exact h3
        · split
          · exact (abortEpoch_mem ..).trans h3
          · split
            · rw [mem_ite, sendNode_mem, h3, ite_self]
            · split
              · exact (modPlan_mem ..).trans h3
              · exact (pokeNode_mem ..).trans ((modPlan_mem ..).trans h3)

@[simp] theorem admitStaged_mem (k x1 : Nat) (x2 : State) : (admitStaged k x1 x2).mem = x2.mem := by
  fun_induction admitStaged k x1 x2 <;> grind [modPlan_mem, placeShare_mem, foldl_mem]

@[simp] theorem admitAll_mem (s : State) (k : Nat) : (admitAll s k).mem = s.mem := by
  unfold admitAll
  split <;> simp

theorem stagingFull_wf (s : State) (p : Packet) (c : Option (Nat × Nat)) (hm : Wf s.mem) : Wf (stagingFull s p c).mem := by
  unfold stagingFull
  grind [blkAdd_wf, retryLater_mem]

theorem contribArrives_wf (s : State) (pk : Packet) (k id : Nat) (hm : Wf s.mem) : Wf (contribArrives s pk k id).mem := by
  unfold contribArrives
  grind [Reaches, StepTo, State.modThr_mem, admitAll_mem, answer_mem, dropLock_mem, dropPkt_mem, !engineAll_keeps, farDone_mem,
    placeShare_mem, setPkt_mem, stagingFull_wf]

theorem forwardArrives_wf (s : State) (pk : Packet) (k node epoch : Nat) (r : Share) (hm : Wf s.mem) :
    Wf (forwardArrives s pk k node epoch r).mem := by
  unfold forwardArrives
  grind [admitAll_mem, answer_mem, placeShare_mem, stagingFull_wf]

theorem contributionArrival_wf (s : State) (hm : Wf s.mem) : Wf (contributionArrival s).mem := by
  unfold contributionArrival
  grind [contribArrives_wf, forwardArrives_wf]

@[simp] theorem epochOpen_mem (s : State) : (epochOpen s).mem = s.mem := by
  unfold epochOpen
  grind [admitAll_mem, learn_mem, foldl_mem]

@[simp] theorem forwardTick_mem (s : State) : (forwardTick s).mem = s.mem := by
  unfold forwardTick
  split <;> simp

theorem startRoutine_wf (s : State) (k : Nat) (p : Plan) (j : Job) (slot : Nat) (v : Share) (y : Nat) (hm : Wf s.mem) :
    Wf (startRoutine s k p j slot v y).mem := by
  unfold startRoutine
  grind [State.modCore_mem, modPlan_mem, setBytes_wf, startThread_mem]

theorem stepJob_wf (s : State) (k : Nat) (p : Plan) (j : Job) (hm : Wf s.mem) : Wf (stepJob s k p j).mem := by
  unfold stepJob
  split
  · split
    · exact startRoutine_wf _ _ _ _ _ _ _ hm
    · exact hm
  · exact hm
  · split
    · split
      · dsimp only
        have ha (y : Nat) : Wf (abortEpoch (modPlan (s.modCore y fun c => { c with threads := [] }) k fun p =>
            { p with jobs := p.jobs.filter fun x => x != j }) k j.epoch 6).mem := by
          rwa [abortEpoch_mem, modPlan_mem, State.modCore_mem]
        split
        · split
          · refine blkPut_wf _ _ _ _ _ _ ?_
            rw [modPlan_mem, dropLock_mem]
            exact ha _
          · exact ha _
        · exact ha _
      · exact hm
    · dsimp only
      split
      · rwa [admitAll_mem, sendUp_mem, modPlan_mem]
      · rwa [modPlan_mem]

theorem userRoutineRun_wf (s : State) (hm : Wf s.mem) : Wf (userRoutineRun s).mem := by
  unfold userRoutineRun
  grind [stepJob_wf]

theorem routineWatchdog_wf (s : State) (hm : Wf s.mem) : Wf (routineWatchdog s).mem := by
  unfold routineWatchdog
  grind [takeTrap_wf]

theorem redwWake_wf (s : State) (eid block : Nat) (hm : Wf s.mem) : Wf (redwWake s eid block).mem := by
  unfold redwWake
  grind [acquire_mem, endWait_wf, foldl_mem, foldl_wf]

theorem putStatus_wf (s : State) (k : Nat) (p : Plan) (c : Call) (r : RResult) (code : Nat) (hm : Wf s.mem) :
    Wf (putStatus s k p c r code).mem := by
  unfold putStatus
  grind [blkPut_wf, dropLock_mem, modPlan_mem, redwWake_wf]

theorem putResult_wf (s : State) (p : Plan) (c : Call) (r : RResult) (hm : Wf s.mem) : Wf (putResult s p c r).1.mem := by
  unfold putResult
  grind [collectPut_wf, postRecord_wf]

theorem deliverResult_wf (s : State) (k : Nat) (p : Plan) (m : Nat) (r : RResult) (hm : Wf s.mem) :
    Wf (deliverResult s k p m r).mem := by
  unfold deliverResult
  split
  · exact hm
  · next c _ =>
    have hp : Wf (if r.abort ≠ 0 then (s, r.abort) else if c.wrote then (s, 0) else putResult s p c r).1.mem := by
      split
      · exact hm
      · split
        · exact hm
        · exact putResult_wf _ _ _ _ hm
    dsimp only
    split
    · next h =>
      split at h
      · exact blkOpen_mem h ▸ hm
      · cases h
    · split
      · exact putStatus_wf _ _ _ _ _ _ hp
      · rw [modPlan_mem]
        exact hp

theorem resultArrives_wf (s : State) (pk : Packet) (k i : Nat) (r : RResult) (hm : Wf s.mem) : Wf (resultArrives s pk k i r).mem := by
  unfold resultArrives
  grind [answer_mem, modPlan_mem, sendDown_mem, stagingFull_wf]

theorem resultDelivery_wf (s : State) (hm : Wf s.mem) : Wf (resultDelivery s).mem := by
  unfold resultDelivery
  grind [deliverResult_wf, resultArrives_wf]

@[simp] theorem shakeOutCommit_mem (s : State) : (shakeOutCommit s).mem = s.mem := by
  unfold shakeOutCommit
  grind [answer_mem, modPlan_mem, sendShakes_mem]

theorem fixArrives_wf (s : State) (pk : Packet) (k i epoch : Nat) (r : Share) (hm : Wf s.mem) : Wf (fixArrives s pk k i epoch r).mem := by
  unfold fixArrives
  grind [answer_mem, modPlan_mem, sendDown_mem, stagingFull_wf]

theorem settleFix_wf (s : State) (k : Nat) (p : Plan) (m i e : Nat) (r : Share) (c : Call) (hm : Wf s.mem) :
    Wf (settleFix s k p m i e r c).mem := by
  unfold settleFix
  dsimp only
  split
  · rw [modPlan_mem]
    exact hm
  · split
    · next h => exact blkOpen_mem h ▸ hm
    · refine blkAdd_wf _ _ _ _ _ _ ?_
      rw [modPlan_mem, modPlan_mem]
      exact hm

theorem correctionArrival_wf (s : State) (hm : Wf s.mem) : Wf (correctionArrival s).mem := by
  unfold correctionArrival
  grind [fixArrives_wf, settleFix_wf]

@[simp] theorem loseDevice_mem (s : State) (k d : Nat) : (loseDevice s k d).mem = s.mem := by
  unfold loseDevice
  grind [abortEpoch_mem, admitAll_mem, modPlan_mem, pokeNode_mem, foldl_mem]

@[simp] theorem loseRoot_mem (s : State) (k x1 : Nat) : (loseRoot s k x1).mem = s.mem := by
  simp [loseRoot]

@[simp] theorem loseSight_mem (s : State) (k x1 d : Nat) (up : Bool) : (loseSight s k x1 d up).mem = s.mem := by
  unfold loseSight
  grind [loseDevice_mem, loseRoot_mem]

@[simp] theorem planDeviceLost_mem (s : State) : (planDeviceLost s).mem = s.mem := by
  unfold planDeviceLost
  grind [loseSight_mem]

theorem readPlan_keeps (e : Env) (va : Nat) (h0 : e.s0.mem = e.s.mem) : Reaches (StepTo (· = e.s.mem)) (fun _ => True) (readPlan e va) := by
  unfold readPlan
  grind [Reaches, StepTo, !engineAll_keeps]

theorem cplanEff_keeps (e : Env) (h0 : e.s0.mem = e.s.mem) : Reaches (Held (· = e.s.mem)) (fun t => t.mem = e.s.mem) (cplanEff e) := by
  simp only [cplanEff, bind, Except.bind, Env.thread]
  grind [Reaches, Held, StepTo, doneL_mem, farDone_mem, fresh_mem, !noJoin_keeps, pendL_mem, !readPlan_keeps, send_mem, upd_mem, foldl_mem]

@[simp] theorem planAnswer_mem (s : State) (p : Plan) (v : Nat) : (planAnswer s p v).mem = s.mem := by
  unfold planAnswer
  split <;> simp

theorem planCommit_wf (s : State) (k : Nat) (p : Plan) (hm : Wf s.mem) : Wf (planCommit s k p).mem := by
  unfold planCommit
  grind [State.modDev_mem, modPlan_mem, planAnswer_mem, setBytes_wf, foldl_mem, foldl_wf]

theorem planPrepares_wf (s : State) (hm : Wf s.mem) : Wf (planPrepares s).mem := by
  unfold planPrepares
  grind [answer_mem, planCommit_wf]

theorem planHandle_keeps (e : Env) (h : Nat) : Reaches (Held (· = e.s.mem)) (fun _ => True) (Env.planHandle e h) := by
  unfold Env.planHandle
  grind [Reaches, Held, need_keeps]

theorem cplanFreeEff_keeps (e : Env) : Reaches (Held (· = e.s.mem)) (fun t => t.mem = e.s.mem) (cplanFreeEff e) := by
  simp only [cplanFreeEff, bind, Except.bind, Env.thread]
  grind [Reaches, Held, doneL_mem, modPlan_mem, !planHandle_keeps, upd_mem, foldl_mem]

theorem callSpan_keeps (e : Env) (eb : Nat) (useSrc : Bool) (src srcLen dst dstLen : Nat) (h0 : e.s0.mem = e.s.mem) :
    Reaches (Held (· = e.s.mem)) (fun _ => True) (callSpan e eb useSrc src srcLen dst dstLen) := by
  unfold callSpan
  refine reaches_bind (need_keeps ..) fun _ _ => ?_
  split
  · refine reaches_bind (reaches_forIn (fun a _ => ?_) _ _) fun _ _ => reaches_bind (reaches_forIn (fun a _ => ?_) _ _) fun _ _ => reaches_ok trivial
    · exact reaches_bind (xlThread_keeps e 255 a 1 false h0) fun _ _ => reaches_ok trivial
    · exact reaches_bind (xlThread_keeps e 255 a 1 true h0) fun _ _ => reaches_bind (need_keeps ..) fun _ _ => reaches_ok trivial
  · refine reaches_bind (reaches_forIn (fun a _ => ?_) _ _) fun _ _ => reaches_ok trivial
    exact reaches_bind (xlThread_keeps e 255 a 1 true h0) fun _ _ => reaches_bind (need_keeps ..) fun _ _ => reaches_ok trivial

theorem discardOld_wf (s : State) (k eid m epoch : Nat) (hm : Wf s.mem) : Wf (discardOld s k eid m epoch).mem := by
  unfold discardOld
  grind [blkAdd_wf, blkPut_wf, modPlan_mem]

theorem postCall_wf (e : Env) (k : Nat) (p : Plan) (m : Nat) (c : Call) (useSrc : Bool) (s : State) (ids : List Nat) (hm : Wf s.mem) :
    Wf (postCall e k p m c useSrc s ids).mem := by
  unfold postCall
  grind [State.modCore_mem, blkPut_wf, discardOld_wf, modPlan_mem, send_mem]

theorem callEff_wf (kind : Nat) (e : Env) (h0 : e.s0.mem = e.s.mem) (hm : Wf e.s.mem) :
    Reaches (Held Wf) (fun t => Wf t.mem) (callEff kind e) := by
  have ho (l : List (Nat × Nat)) (u : State) (hu : Wf u.mem) : Wf ((e.upd u).doneL l 0).mem := by
    rw [doneL_mem]
    exact hu
  unfold callEff Env.thread
  split
  · refine reaches_bind (reaches_held (ownWords_keeps e _ _ _ h0) hm) fun w _ => ?_
    refine reaches_bind (reaches_held (planHandle_keeps ..) hm) fun _ _ => ?_
    refine reaches_bind (reaches_held (callSpan_keeps e _ _ _ _ _ _ h0) hm) fun _ _ => ?_
    split
    · exact reaches_ok (ho _ _ hm)
    · dsimp only
      split
      · exact reaches_ok (ho _ _ hm)
      · refine reaches_bind (reaches_held (noJoin_keeps e) hm) fun _ _ => ?_
        split
        · exact trivial
        · have hr (scope : Nat) := sendRelease_keeps e e.s (bit e.f.md 1) scope h0
          split
          · next h => exact held_wf (reaches_error h (hr _)) hm
          · next s ids h =>
            have hs : s.mem = e.s.mem := reaches_of_ok (Q := fun t : State × List Nat => t.1.mem = e.s.mem) h (hr _)
            exact reaches_ok (ho _ _ (postCall_wf _ _ _ _ _ _ _ _ (hs ▸ hm)))
  · exact hm

theorem redwEff_keeps (e : Env) (h0 : e.s0.mem = e.s.mem) : Reaches (Held (· = e.s.mem)) (fun t => t.mem = e.s.mem) (redwEff e) := by
  simp only [redwEff, bind, Except.bind, Env.thread]
  grind [Reaches, Held, acquire_mem, doneL_mem, !ownWords_keeps, foldl_mem]

theorem redwTimeout_wf (s : State) (hm : Wf s.mem) : Wf (redwTimeout s).mem := by
  unfold redwTimeout
  split
  · split
    · split
      · split
        · split
          · rw [enterReady_mem]
            exact hm
          · split
            · exact endWait_wf _ _ _ _ _ hm
            · exact hm
        · exact hm
      · exact hm
    · exact hm
  · exact hm

theorem redrEff_keeps (e : Env) : Reaches (Held (· = e.s.mem)) (fun t => t.mem = e.s.mem) (redrEff e) := by
  unfold redrEff
  grind [Reaches, Held, doneL_mem, stepSeeds_mem]

theorem fixElems_wf (p : Plan) (dev dst : Nat) (r : Share) (x1 x2 : Nat) (x3 : State) (x4 : Flags) (hm : Wf x3.mem) :
    Wf (fixElems p dev dst r x1 x2 x3 x4).1.mem := by
  fun_induction fixElems p dev dst r x1 x2 x3 x4 <;> grind [collectPut_wf, foldl_mem, foldl_wf]

theorem fixStatus_wf (s : State) (k : Nat) (p : Plan) (c : Call) (r : Share) (fl : Flags) (hm : Wf s.mem) :
    Wf (fixStatus s k p c r fl).mem := by
  unfold fixStatus
  grind [blkAdd_wf, blkPut_wf, modPlan_mem]

theorem applyFixes_wf (k id x1 : Nat) (x2 : State) (hm : Wf x2.mem) : Wf (applyFixes k id x1 x2).1.mem := by
  fun_induction applyFixes k id x1 x2 <;> grind [fixElems_wf, fixStatus_wf, modPlan_mem, foldl_mem, foldl_wf]

theorem fixTrap_keeps {α : Type} {Q : α → Prop} (e : Env) (s : State) (cause va : Nat) (hm : Wf s.mem) :
    Reaches (Held Wf) Q (fixTrap e s cause va : Except Stop α) := hm

theorem redfixUser_wf (e : Env) (k : Nat) (p : Plan) (c : Call) (n : Nat) (h0 : e.s0.mem = e.s.mem) (hm : Wf e.s.mem) :
    Reaches (Held Wf) (fun t => Wf t.mem) (redfixUser e k p c n) := by
  have hm0 : Wf e.s0.mem := h0 ▸ hm
  have hd (t : State) (ht : Wf t.mem) : Wf (dropFix t e.eid e.slot).mem := by rwa [dropFix_mem]
  unfold redfixUser
  dsimp only
  split
  · split
    · exact trivial
    · split
      · exact fixTrap_keeps _ _ _ _ (hd _ hm0)
      · refine reaches_ok ?_
        rw [doneL_mem]
        show Wf (acquire ..).mem
        rw [acquire_mem]
        refine foldl_wf (fun t r ht => ?_) _ _ (collectPut_wf _ _ _ (hd _ hm))
        split
        · exact fixStatus_wf _ _ _ _ _ _ ht
        · exact ht
  · split
    · exact trivial
    · split
      · exact fixTrap_keeps _ _ _ _ hm0
      · show Wf (State.modCore ..).mem
        rwa [State.modCore_mem, modPlan_mem, fresh_mem]

theorem redfixEff_wf (e : Env) (h0 : e.s0.mem = e.s.mem) (hm : Wf e.s.mem) : Reaches (Held Wf) (fun t => Wf t.mem) (redfixEff e) := by
  have ho (l : List (Nat × Nat)) (u : State) (hu : Wf u.mem) : Reaches (Held Wf) (fun t => Wf t.mem) (.ok ((e.upd u).doneL l 0)) :=
    reaches_ok ((doneL_mem ..).symm ▸ hu)
  have hm0 : Wf e.s0.mem := h0 ▸ hm
  have hd : Wf (dropFix e.s e.eid e.slot).mem := by rwa [dropFix_mem]
  unfold redfixEff Env.thread
  split
  · refine reaches_bind (reaches_held (ownWords_keeps e _ _ _ h0) hm) fun _ _ => ?_
    dsimp only
    split
    · exact ho _ _ hd
    · split
      · exact ho _ _ hd
      · split
        · exact ho _ _ hd
        · split
          · exact ho _ _ hd
          · split
            · exact trivial
            · split
              · exact redfixUser_wf _ _ _ _ _ h0 hm
              · split
                · exact trivial
                · split
                  · next h => exact fixTrap_keeps _ _ _ _ ((congrArg (·.1.mem) h) ▸ applyFixes_wf _ _ _ _ hm0)
                  · refine ho _ _ ?_
                    rw [acquire_mem]
                    exact applyFixes_wf _ _ _ _ hm
  · exact hm

/-! Sys2Proof/Machine/Conv.lean -/

@[simp] theorem cvtEff_mem (e : Env) : (cvtEff e).mem = e.s.mem := by
  unfold cvtEff
  grind [doneI_mem, doneL_mem, stepSeeds_mem]

@[simp] theorem bxqEff_mem (e : Env) : (bxqEff e).mem = e.s.mem := by
  unfold bxqEff
  split <;> simp

@[simp] theorem bxdEff_mem (e : Env) : (bxdEff e).mem = e.s.mem := by
  unfold bxdEff
  split <;> simp

theorem lscvtEff_keeps (e : Env) : Reaches (Held (· = e.s.mem)) (fun t => t.mem = e.s.mem) (lscvtEff e) := by
  simp only [lscvtEff, Env.trapLane]
  grind [Reaches, Held, doneL_mem, stepSeeds_mem, foldl_mem]

/-! Sys2Proof/Machine/EdgeEv.lean -/

@[simp] theorem reserve_mem (s : State) : (reserve s).mem = s.mem := by
  unfold reserve
  grind [State.setEdge_mem, answer_mem, setPkt_mem]

@[simp] theorem touchEdge_mem (s : State) (g : Edge) : (touchEdge s g).mem = s.mem := by
  unfold touchEdge
  split <;> simp

theorem putToken_wf (s : State) (g : Edge) (bs : List Byte) (hm : Wf s.mem) : Wf (putToken s g bs).mem := by
  unfold putToken
  grind [State.setEdge_mem, putBytes_wf, putCounts_wf, touchEdge_mem]

theorem tokenArrives_wf (s : State) (hm : Wf s.mem) : Wf (tokenArrives s).mem := by
  unfold tokenArrives
  grind [answer_mem, putToken_wf]

theorem putEos_wf (s : State) (g : Edge) (hm : Wf s.mem) : Wf (putEos s g).mem := by
  unfold putEos
  grind [State.setEdge_mem, mend_mem, wr_wf]

theorem eosArrives_wf (s : State) (hm : Wf s.mem) : Wf (eosArrives s).mem := by
  unfold eosArrives
  grind [answer_mem, putEos_wf]

@[simp] theorem drainMarker_mem (s : State) : (drainMarker s).mem = s.mem := by
  unfold drainMarker
  grind [State.setEdge_mem]

/-! Sys2Proof/Machine/Msg.lean -/

theorem sendMsg_keeps (e : Env) (dst need : Nat) (nr : Bool) (tg : Target) (body : Body) (h0 : e.s0.mem = e.s.mem) :
    Reaches (Held (· = e.s.mem)) (fun t => t.mem = e.s.mem) (sendMsg e dst need nr tg body) := by
  simp only [sendMsg, bind, Except.bind]
  grind [Reaches, Held, !noJoin_keeps, pendL_mem, !sendRelease_keeps, send_mem, upd_mem, foldl_mem]

theorem amEff_keeps (e : Env) (h0 : e.s0.mem = e.s.mem) : Reaches (Held (· = e.s.mem)) (fun t => t.mem = e.s.mem) (amEff e) := by
  unfold amEff Env.thread
  grind [Reaches, Held, !need_keeps, !sendMsg_keeps, !target_keeps, reaches_bind]

theorem amrEff_keeps (e : Env) (h0 : e.s0.mem = e.s.mem) : Reaches (Held (· = e.s.mem)) (fun t => t.mem = e.s.mem) (amrEff e) := by
  simp only [amrEff, bind, Except.bind, Env.thread]
  grind [Reaches, Held, !sendMsg_keeps, !target_keeps, foldl_mem]

theorem hendEff_wf (e : Env) (h0 : e.s0.mem = e.s.mem) (hm : Wf e.s.mem) : Reaches (Held Wf) (fun t => Wf t.mem) (hendEff e) := by
  unfold hendEff Env.thread
  split
  · refine reaches_bind (reaches_held (settled_keeps e) hm) fun _ _ => reaches_bind (reaches_held (deferredFirst_keeps e h0) hm) fun _ _ => ?_
    grind [Reaches, Held, tryFreeze_wf, orphan_mem, State.modCore_mem, sendPacket_mem]
  · exact hm

theorem mbsendEff_keeps (e : Env) (h0 : e.s0.mem = e.s.mem) : Reaches (Held (· = e.s.mem)) (fun t => t.mem = e.s.mem) (mbsendEff e) := by
  simp only [mbsendEff, bind, Except.bind, Env.thread]
  grind [Reaches, Held, !noJoin_keeps, !request_keeps, !target_keeps, foldl_mem]

@[simp] theorem activeMessageArrives_mem (s : State) (p : Packet) : (activeMessageArrives s p).mem = s.mem := by
  unfold activeMessageArrives
  grind [State.modCore_mem, answer_mem]

@[simp] theorem handlerStart_mem (s : State) : (handlerStart s).mem = s.mem := by
  unfold handlerStart
  grind [State.modCore_mem, acquire_mem, startThread_mem]

theorem countTag_wf (s : State) (eid tag n : Nat) (hm : Wf s.mem) : Wf (countTag s eid tag n).mem := by
  unfold countTag
  grind [State.setCore_mem, sendDecr_wf]

theorem depositWord_wf (s : State) (p : Packet) (off : Nat) (args : List Nat) (tag : Nat) (hm : Wf s.mem) :
    Wf (depositWord s p off args tag).mem := by
  unfold depositWord
  grind [answer_mem, countTag_wf, putNum_wf, setPkt_mem]

theorem depositArrives_wf (s : State) (p : Packet) (hm : Wf s.mem) : Wf (depositArrives s p).mem := by
  unfold depositArrives
  split
  · split
    · exact depositWord_wf _ _ _ _ _ hm
    · split
      · rwa [answer_mem]
      · dsimp only
        split
        · rwa [answer_mem]
        · split
          · rwa [fillForPacket_mem]
          · exact depositWord_wf _ _ _ _ _ hm
  · exact hm

@[simp] theorem refusalArrives_mem (s : State) (p : Packet) : (refusalArrives s p).mem = s.mem := by
  unfold refusalArrives
  split <;> simp

@[simp] theorem amrReplyArrives_mem (s : State) (p : Packet) : (amrReplyArrives s p).mem = s.mem := by
  unfold amrReplyArrives
  split <;> simp

@[simp] theorem lapse_mem (s : State) (eid : Nat) (r : MbResv) : (lapse s eid r).mem = s.mem := by
  simp [lapse]

@[simp] theorem lapseDue_mem (s : State) (eid : Nat) : (lapseDue s eid).mem = s.mem := by
  unfold lapseDue
  grind [lapse_mem, foldl_mem]

@[simp] theorem refuseFull_mem (s : State) (p : Packet) : (refuseFull s p).mem = s.mem := by
  unfold refuseFull
  split <;> rfl

@[simp] theorem mailboxArrives_mem (s : State) (p : Packet) : (mailboxArrives s p).mem = s.mem := by
  unfold mailboxArrives
  grind [State.setCore_mem, answerWord_mem, lapseDue_mem, refuseFull_mem, setPkt_mem]

@[simp] theorem resendMbox_mem (spent : Bool) (s : State) : (resendMbox spent s).mem = s.mem := by
  unfold resendMbox
  grind [renewPkt_mem]

@[simp] theorem reservationExpires_mem (s : State) : (reservationExpires s).mem = s.mem := by
  unfold reservationExpires
  grind [lapse_mem]

theorem queueHome_keeps (e : Env) (h0 : e.s0.mem = e.s.mem) : Reaches (Held (· = e.s.mem)) (fun _ => True) (queueHome e) := by
  unfold queueHome
  grind [Reaches, Held, !xlThread_keeps]

theorem queueReq_keeps (e : Env) (nr acq : Bool) (dev : Nat) (body : Body) (h0 : e.s0.mem = e.s.mem) :
    Reaches (Held (· = e.s.mem)) (fun t => t.mem = e.s.mem) (queueReq e nr acq dev body) := by
  simp only [queueReq, bind, Except.bind]
  grind [Reaches, Held, State.modThr_mem, !noJoin_keeps, pendL_mem, !sendRelease_keeps, send_mem, upd_mem, foldl_mem]

theorem pushEff_keeps (e : Env) (h0 : e.s0.mem = e.s.mem) : Reaches (Held (· = e.s.mem)) (fun t => t.mem = e.s.mem) (pushEff e) := by
  simp only [pushEff, bind, Except.bind, Env.thread]
  grind [Reaches, Held, !queueHome_keeps, !queueReq_keeps, foldl_mem]

theorem popWEff_keeps (e : Env) (h0 : e.s0.mem = e.s.mem) : Reaches (Held (· = e.s.mem)) (fun t => t.mem = e.s.mem) (popWEff e) := by
  simp only [popWEff, bind, Except.bind, Env.thread]
  grind [Reaches, Held, !need_keeps, !queueHome_keeps, !queueReq_keeps, foldl_mem]

theorem qmkEff_keeps (e : Env) (h0 : e.s0.mem = e.s.mem) : Reaches (Held (· = e.s.mem)) (fun t => t.mem = e.s.mem) (qmkEff e) := by
  simp only [qmkEff, bind, Except.bind, Env.thread]
  grind [Reaches, Held, doneL_mem, !need_keeps, !noJoin_keeps, !request_keeps, !xlThread_keeps, foldl_mem]

@[simp] theorem setQueue_mem (s : State) (dev : Nat) (q : QEntry) : (setQueue s dev q).mem = s.mem := (rfl)

@[simp] theorem answerOp_mem (s : State) (dev pkt : Nat) (vs : List (Nat × Nat)) : (answerOp s dev pkt vs).mem = s.mem := by
  unfold answerOp
  grind [State.modDev_mem, answer_mem]

@[simp] theorem failOp_mem (s : State) (dev pkt : Nat) : (failOp s dev pkt).mem = s.mem := by
  unfold failOp
  grind [State.modDev_mem, answer_mem, deferTrap_mem]

theorem fromMemory_wf (s : State) (dev : Nat) (q : QEntry) (pkt : Nat) (hm : Wf s.mem) : Wf (fromMemory s dev q pkt).mem := by
  unfold fromMemory
  grind [answerOp_mem, failOp_mem, mend_mem, setQueue_mem, wr_wf]

theorem serve_wf (dev pa x1 : Nat) (x2 : State) (hm : Wf x2.mem) : Wf (serve dev pa x1 x2).mem := by
  fun_induction serve dev pa x1 x2 <;> grind [fromMemory_wf, foldl_mem, foldl_wf]

theorem storePush_wf (dev pa : Nat) (s : State) (pkt v : Nat) (hm : Wf s.mem) : Wf (storePush dev pa s pkt v).mem := by
  unfold storePush
  grind [answerOp_mem, mend_mem, serve_wf, setQueue_mem, wr_wf]

theorem toMemory_wf (s : State) (dev pa pkt v : Nat) (hm : Wf s.mem) : Wf (toMemory s dev pa pkt v).mem := by
  unfold toMemory
  grind [storePush_wf, foldl_mem, foldl_wf]

theorem fallThrough_wf (s : State) (dev : Nat) (o : QOp) (hm : Wf s.mem) : Wf (fallThrough s dev o).mem := by
  unfold fallThrough
  grind [answerOp_mem, toMemory_wf]

theorem expireDue_wf (dev x1 : Nat) (x2 : State) (hm : Wf x2.mem) : Wf (expireDue dev x1 x2).mem := by
  fun_induction expireDue dev x1 x2 <;> grind [fallThrough_wf, foldl_mem, foldl_wf]

@[simp] theorem waitOp_mem (s : State) (dev : Nat) (p : Packet) (pa : Nat) (push : Option Nat) (t : Nat) :
    (waitOp s dev p pa push t).mem = s.mem := (rfl)

theorem pushArrives_wf (s : State) (p : Packet) (hm : Wf s.mem) : Wf (pushArrives s p).mem := by
  unfold pushArrives
  grind [answerOp_mem, answer_mem, expireDue_wf, toMemory_wf, waitOp_mem]

theorem popArrives_wf (s : State) (p : Packet) (hm : Wf s.mem) : Wf (popArrives s p).mem := by
  unfold popArrives
  grind [answerOp_mem, answer_mem, expireDue_wf, fromMemory_wf, waitOp_mem]

theorem windowExpires_wf (push : Bool) (s : State) (hm : Wf s.mem) : Wf (windowExpires push s).mem := by
  unfold windowExpires
  grind [fallThrough_wf]

@[simp] theorem popCancelArrives_mem (s : State) (p : Packet) : (popCancelArrives s p).mem = s.mem := by
  unfold popCancelArrives
  grind [answerOp_mem, answer_mem]

theorem makeQueue_wf (s : State) (dev pa v : Nat) (hm : Wf s.mem) : Wf (makeQueue s dev pa v).2.mem := by
  unfold makeQueue
  grind [State.modDev_mem, mend_mem, wr_wf]

theorem freeQueue_wf (s : State) (dev pa : Nat) (hm : Wf s.mem) : Wf (freeQueue s dev pa).2.mem := by
  unfold freeQueue
  grind [State.modDev_mem, fallThrough_wf, foldl_mem, foldl_wf]

theorem unitArrive_wf (s : State) (p : Packet) (hm : Wf s.mem) : Wf (unitArrive s p).mem := by
  unfold unitArrive
  grind [answerWord_mem, !freeQueue_wf, !makeQueue_wf, taskArrive_wf]

end Sys2Proof.Proofs.MemoryKept

/-! SUPPORT. Memory keeps its canonical form: the system group, the fabric and the platform. -/

namespace Sys2Proof.Proofs.MemoryKept

open Sys2Proof.Machine

/-! Sys2Proof/Machine/System.lean -/

theorem trapEff_keeps (code : Nat) (e : Env) : Reaches (Held (· = e.s.mem)) (fun t => t.mem = e.s.mem) (trapEff code e) := by
  unfold trapEff
  grind [Reaches, Held]

theorem eretEff_keeps (e : Env) (h0 : e.s0.mem = e.s.mem) : Reaches (Held (· = e.s.mem)) (fun t => t.mem = e.s.mem) (eretEff e) := by
  simp only [eretEff, bind, Except.bind, Env.thread]
  grind [Reaches, Held, !need_keeps, !noJoin_keeps, !request_keeps, foldl_mem]

theorem eretArrives_wf (s : State) (p : Packet) (hm : Wf s.mem) : Wf (eretArrives s p).mem := by
  unfold eretArrives
  grind [answerWord_mem, !resume_wf]

@[simp] theorem setDrainReq_mem (s : State) (dev asid gid : Nat) (on : Bool) : (setDrainReq s dev asid gid on).mem = s.mem := by
  unfold setDrainReq
  grind [State.modThr_mem, foldl_mem]

@[simp] theorem cancelPops_mem (s : State) (eid slot : Nat) : (cancelPops s eid slot).mem = s.mem := by
  unfold cancelPops
  grind [sendPacket_mem, foldl_mem]

theorem drainInst_wf (s : State) (dev asid gid : Nat) (hm : Wf s.mem) : Wf (drainInst s dev asid gid).mem := by
  unfold drainInst
  grind [cancelPops_mem, setDrainReq_mem, suspendCheck_wf, undoForDrain_mem, foldl_mem, foldl_wf]

theorem drainEff_wf (e : Env) (hm : Wf e.s.mem) : Reaches (Held Wf) (fun t => Wf t.mem) (drainEff e) := by
  have ho (t : State) (v : Nat × Nat) (ht : Wf t.mem) : Wf (((e.upd t).doneL [v] 0).mem) := by
    rw [doneL_mem]
    exact ht
  have hrest : Reaches (Held Wf) (fun t => Wf t.mem) (do
      let out (s : State) (st v : Nat) : Except Stop State := .ok ((e.upd s).doneL [(0, fitRaw e.od.w (resWord st v))] 0)
      let live := instsOf e.s0 e.dev e.asid fun i => i.committed && (e.f.md == 0 || i.gid == e.a0)
      if e.f.md = 1 ∧ live.isEmpty then out e.s stSTATE 0
      else
        let new := instsOf e.s0 e.dev e.asid fun i => i.committed && !i.draining && (e.f.md == 0 || i.gid == e.a0)
        out (new.foldl (fun s g => drainInst s e.dev e.asid g) e.s) stOK new.length) := by
    dsimp only
    split
    · exact reaches_ok (ho _ _ hm)
    · exact reaches_ok (ho _ _ (foldl_wf (fun t g ht => drainInst_wf _ _ _ _ ht) _ _ hm))
  unfold drainEff Env.thread
  split
  · dsimp only
    split
    · exact reaches_bind (reaches_held (need_keeps ..) hm) fun _ _ => hrest
    · exact hrest
  · exact hm

@[simp] theorem unmark_mem (s : State) (dev asid gid : Nat) : (unmark s dev asid gid).mem = s.mem := (rfl)

theorem drainResEff_keeps (e : Env) : Reaches (Held (· = e.s.mem)) (fun t => t.mem = e.s.mem) (drainResEff e) := by
  simp only [drainResEff, Env.thread]
  grind [Reaches, Held, doneL_mem, setDrainReq_mem, unmark_mem, upd_mem, foldl_mem]

theorem reach_reaches {C : List Host.Cell → Prop} (e : Env) (k : Except Stop State) (hm : C e.s.mem)
    (hk : Reaches (Held C) (fun t => C t.mem) k) : Reaches (Held C) (fun t => C t.mem) (e.reach k) := by
  unfold Env.reach
  dsimp only
  split
  · exact hk
  · split
    · refine reaches_ok ?_
      rw [deferTrap_mem]
      exact hm
    · split
      · exact hk
      · exact trivial

theorem frzEff_wf (e : Env) (hm : Wf e.s.mem) : Reaches (Held Wf) (fun t => Wf t.mem) (frzEff e) := by
  unfold frzEff Env.thread
  split
  · refine reaches_bind (reaches_held (need_keeps ..) hm) fun _ _ => reach_reaches e _ hm ?_
    dsimp only
    split
    · refine reaches_ok ?_
      rw [doneL_mem]
      exact hm
    · refine reaches_ok (tryFreeze_wf _ _ ?_)
      rw [State.modCore_mem, pendL_mem]
      exact hm
  · exact hm

theorem replay_wf (s : State) (id : Nat) (hm : Wf s.mem) : Wf (replay s id).mem := by
  unfold replay
  grind [State.modCore_mem, activeMessageArrives_mem, depositArrives_wf, dropPkt_mem, eretArrives_wf, finishPend_mem, setPkt_mem,
    spawnArrives_mem, tellAnswer_mem]

@[simp] theorem thawThread_mem (s : State) (eid slot : Nat) (t : Thread) : (thawThread s eid slot t).mem = s.mem := by
  unfold thawThread
  grind [enterReady_mem]

theorem frzResEff_wf (e : Env) (hm : Wf e.s.mem) : Reaches (Held Wf) (fun t => Wf t.mem) (frzResEff e) := by
  have ho (t : State) (v : Nat × Nat) (ht : Wf t.mem) : Wf (((e.upd t).doneL [v] 0).mem) := by
    rw [doneL_mem]
    exact ht
  unfold frzResEff Env.thread
  split
  · refine reaches_bind (reaches_held (need_keeps ..) hm) fun _ _ => reach_reaches e _ hm ?_
    dsimp only
    split
    · exact reaches_ok (ho _ _ hm)
    · refine reaches_ok (ho _ _ (foldl_wf (fun t x ht => ?_) _ _ (foldl_wf (fun t x ht => replay_wf _ _ ht) _ _ ?_)))
      · split
        · rw [thawThread_mem]
          exact ht
        · exact ht
      · rw [reloadImage_mem, State.modCore_mem]
        exact hm
  · exact hm

theorem spillCatch_wf (s : State) (hm : Wf s.mem) : Wf (spillCatch s).mem := by
  unfold spillCatch
  grind [replay_wf, spillPkt_mem]

theorem areaKeys_keeps (e : Env) (va n : Nat) (write : Bool) (h0 : e.s0.mem = e.s.mem) :
    Reaches (Held (· = e.s.mem)) (fun _ => True) (areaKeys e va n write) := by
  simp only [areaKeys, Env.trapLane]
  grind [Reaches, Held, !waitFill_keeps, !xlThread_keeps, foldl_mem]

@[simp] theorem issueImage_mem (e : Env) (inst va : Nat) (ks : List Nat) (img : List Byte) (s : State) :
    (issueImage e inst va ks img s).mem = s.mem := by
  unfold issueImage
  grind [addAccess_mem, foldl_mem]

theorem ctxsvEff_keeps (e : Env) (h0 : e.s0.mem = e.s.mem) : Reaches (Held (· = e.s.mem)) (fun t => t.mem = e.s.mem) (ctxsvEff e) := by
  simp only [ctxsvEff, bind, Except.bind, Env.thread, Env.need, Env.trap]
  grind [Reaches, Held, State.modThr_mem, !areaKeys_keeps, doneL_mem, holdJoin_mem, issueImage_mem, !need_keeps, pendL_mem,
    !settled_keeps, foldl_mem]

theorem areaRead_reaches {C : List Host.Cell → Prop} (e : Env) (va : Nat) (ks : List Nat) (k : Unit → Except Stop State)
    (h0 : e.s0.mem = e.s.mem) (hm : C e.s.mem) (hk : Reaches (Held C) (fun t => C t.mem) (k ())) :
    Reaches (Held C) (fun t => C t.mem) (areaRead e va ks k) := by
  have hl (i : TrapInfo) : C (deferTrap (farDone e.s e.eid e.slot 0).fresh.2 e.eid e.slot e.s.nextId i).mem := by
    rw [deferTrap_mem, fresh_mem, farDone_mem]
    exact hm
  unfold areaRead
  dsimp only
  split
  · exact trivial
  · split
    · exact reaches_ok (hl _)
    · split
      · next t h =>
        have ht : t.mem = e.s0.mem := reaches_error h (farRead_keeps ..) t rfl
        exact (show C t.mem from (ht.trans h0) ▸ hm)
      · exact reaches_ok (hl _)
      · split
        · exact reaches_ok (hl _)
        · exact hk

theorem ctxldEff_keeps (e : Env) (h0 : e.s0.mem = e.s.mem) : Reaches (Held (· = e.s.mem)) (fun t => t.mem = e.s.mem) (ctxldEff e) := by
  unfold ctxldEff Env.thread
  split
  · refine reaches_bind (settled_keeps e) fun _ _ => reaches_bind (noJoin_keeps e) fun _ _ => ?_
    refine reaches_bind (need_keeps ..) fun _ _ => reaches_bind (areaKeys_keeps e _ _ _ h0) fun hk _ => ?_
    have hf : (farDone e.s e.eid e.slot 0).mem = e.s.mem := farDone_mem ..
    generalize hu : farDone e.s e.eid e.slot 0 = u at hf ⊢
    dsimp only
    refine areaRead_reaches (C := (· = e.s.mem)) _ _ _ _ (h0.trans hf.symm) hf ?_
    split
    · exact reaches_ok ((doneL_mem ..).trans hf)
    · split
      · exact reaches_ok ((doneL_mem ..).trans hf)
      · split
        · exact reaches_ok ((doneL_mem ..).trans ((unitsAsked_mem ..).trans hf))
        · refine reaches_bind (R := fun _ => True) (hf ▸ areaKeys_keeps { e with s := u } _ _ _ (h0.trans hf.symm)) fun ks _ => ?_
          refine reaches_bind (R := fun _ => True) (hf ▸ areaKeys_keeps { e with s := u } _ _ _ (h0.trans hf.symm)) fun wk _ => ?_
          refine areaRead_reaches (C := (· = e.s.mem)) _ _ _ _ (h0.trans hf.symm) hf ?_
          split
          · exact trivial
          · refine reaches_ok ?_
            rw [issueStore_mem, foldl_mem fun t x => modAcc_mem .., State.modThr_mem, unitsAsked_mem]
            exact hf
  · exact rfl

@[simp] theorem modGang_mem (s : State) (id : Nat) (g : Gang → Gang) : (modGang s id g).mem = s.mem := (rfl)

@[simp] theorem gangAnswer_mem (s : State) (g : Gang) (v : Nat) : (gangAnswer s g v).mem = s.mem := by
  simp [gangAnswer]

@[simp] theorem gangSend_mem (s : State) (g : Gang) (ids devs : List Nat) (body : Body) : (gangSend s g ids devs body).mem = s.mem := by
  unfold gangSend
  grind [sendPacket_mem, foldl_mem]

@[simp] theorem gangRound_mem (s : State) (g : Gang) (ids : List Nat) : (gangRound s g ids).mem = s.mem := by
  simp [gangRound]

@[simp] theorem gangNext_mem (s : State) (g : Gang) : (gangNext s g).mem = s.mem := by
  unfold gangNext
  grind [gangAnswer_mem, gangRound_mem]

@[simp] theorem gangDecide_mem (s : State) (g : Gang) : (gangDecide s g).mem = s.mem := by
  unfold gangDecide
  grind [gangNext_mem, gangSend_mem, modGang_mem]

theorem gangPrepareOn_wf (s : State) (dev : Nat) (g : Gang) (hm : Wf s.mem) :
    Reaches (fun x => ∀ t, x = .inl t → Wf t.mem) (fun t => Wf t.mem) (gangPrepareOn s dev g) := by
  have ht := readTemplate_keeps s
  have he := engineAll_keeps s
  have hn (n : Nat) : Reaches (fun x : State ⊕ Nat => ∀ t, x = .inl t → Wf t.mem) (fun t : State => Wf t.mem) (.error (.inr n)) := fun _ h => nomatch h
  have hi (t : State) (ht : Wf t.mem) : Reaches (fun x : State ⊕ Nat => ∀ t, x = .inl t → Wf t.mem) (fun t : State => Wf t.mem) (.error (.inl t)) :=
    fun _ h => by cases h; exact ht
  unfold gangPrepareOn
  generalize readTemplate = T at ht ⊢
  generalize engineAll = E at he ⊢
  dsimp only
  split
  · exact hn _
  · split
    · split
      · exact hn _
      · refine reaches_ok (makeInst_wf _ _ _ _ _ _ _ _ _ ?_)
        rwa [farDone_mem]
    · next h => exact hi _ (stepTo_of_error (ht ..) hm h)
    · next h => exact hi _ (stepTo_of_error (ht ..) hm h)
    · next h _ _ => exact hi _ (stepTo_of_error (he ..) hm h)
    · next h _ _ => exact hi _ (stepTo_of_error (he ..) hm h)
    · exact hn _

theorem gangPrepares_wf (s : State) (hm : Wf s.mem) : Wf (gangPrepares s).mem := by
  unfold gangPrepares
  split
  · split
    · split
      · rwa [answer_mem]
      · dsimp only
        split
        · next h =>
          have ht := reaches_of_ok (Q := fun t => Wf t.mem) h (gangPrepareOn_wf _ _ _ hm)
          split
          · rwa [gangDecide_mem, answer_mem, modGang_mem]
          · rwa [answer_mem, modGang_mem]
        · split
          · rwa [gangDecide_mem, answer_mem, modGang_mem, farDone_mem]
          · rwa [answer_mem, modGang_mem, farDone_mem]
        · next h => exact reaches_error h (gangPrepareOn_wf _ _ _ hm) _ rfl
    · exact hm
  · exact hm

@[simp] theorem gangAbort_mem (s : State) (dev asid gid : Nat) : (gangAbort s dev asid gid).mem = s.mem := by
  unfold gangAbort
  grind [freeRec_mem, foldl_mem]

@[simp] theorem gangCommits_mem (s : State) : (gangCommits s).mem = s.mem := by
  unfold gangCommits
  grind [answer_mem, gangAbort_mem, gangAnswer_mem, gangNext_mem, modGang_mem]

theorem gangArms_wf (s : State) (hm : Wf s.mem) : Wf (gangArms s).mem := by
  unfold gangArms
  grind [armInst_wf, foldl_mem, foldl_wf]

theorem gangEff_keeps (e : Env) (h0 : e.s0.mem = e.s.mem) : Reaches (Held (· = e.s.mem)) (fun t => t.mem = e.s.mem) (gangEff e) := by
  unfold gangEff Env.thread
  split
  · refine reaches_bind (ownWords_keeps e _ _ _ h0) fun w _ => ?_
    dsimp only
    split
    · exact reaches_ok (doneL_mem ..)
    · refine reaches_bind (noJoin_keeps e) fun _ _ => ?_
      have hr := sendRelease_keeps e e.s false 4 h0
      split
      · next h => exact reaches_again h hr
      · next s ids h =>
        have hs : s.mem = e.s.mem := reaches_of_ok (Q := fun t : State × List Nat => t.1.mem = e.s.mem) h hr
        split
        · exact reaches_ok ((doneL_mem ..).trans hs)
        · refine reaches_ok ?_
          split
          · split
            · simp [hs, Env.upd]
            · simp [hs, Env.upd]
          · simp [hs, Env.upd]
  · exact rfl

/-! Sys2Proof/Machine/Fabric.lean -/

@[simp] theorem modPort_mem (s : State) (dev port : Nat) (g : Port → Port) : (modPort s dev port g).mem = s.mem := (rfl)

@[simp] theorem noteWait_mem (s : State) (p : Packet) (port : Nat) : (noteWait s p port).mem = s.mem := (rfl)

@[simp] theorem escapes_mem (s : State) : (escapes s).mem = s.mem := by
  unfold escapes
  grind [modPort_mem, record_mem, setPkt_mem]

@[simp] theorem thresholdNew_mem (s : State) : (thresholdNew s).mem = s.mem := by
  unfold thresholdNew
  split
  · split <;> simp
  · rfl

@[simp] theorem leavesPort_mem (s : State) (p : Packet) : (leavesPort s p).mem = s.mem := by
  unfold leavesPort
  grind [noteWait_mem, setPkt_mem]

@[simp] theorem unknownTo_mem (s : State) (r : ReplyTo) : (unknownTo s r).mem = s.mem := by
  simp [unknownTo]

@[simp] theorem loseGang_mem (s : State) (id dev : Nat) (commit : Bool) : (loseGang s id dev commit).mem = s.mem := by
  unfold loseGang
  grind [gangDecide_mem, gangNext_mem, modGang_mem, unknownTo_mem]

@[simp] theorem noteGap_mem (s : State) (p : Packet) : (noteGap s p).mem = s.mem := by
  unfold noteGap
  split <;> rfl

@[simp] theorem steerFails_mem (s : State) (eid id : Nat) : (steerFails s eid id).mem = s.mem := by
  unfold steerFails
  split <;> rfl

theorem giveUp_wf (s : State) (p : Packet) (hm : Wf s.mem) : Wf (giveUp s p).mem := by
  unfold giveUp
  grind [abandon_mem, chanFails_mem, dropPkt_mem, loseAccess_mem, loseGang_mem, loseSight_mem, noteGap_mem, setFar_mem, steerFails_mem,
    strayDecrement_wf, unknownTo_mem]

@[simp] theorem sayStale_mem (s : State) (p : Packet) : (sayStale s p).mem = s.mem := by
  simp [sayStale]

@[simp] theorem unitServes_mem (s : State) (p : Packet) : (unitServes s p).mem = s.mem := by
  unfold unitServes
  grind [retryLater_mem, sayStale_mem, setPkt_mem]

theorem replyArrives_wf (s : State) (p : Packet) (hm : Wf s.mem) : Wf (replyArrives s p).mem := by
  unfold replyArrives
  grind [dropPkt_mem, fullTaken_mem, giveUp_wf, nackNote_mem, retryTaken_mem, setPkt_mem, takeAnswer_mem]

theorem engineAtHome_wf (s : State) (p : Packet) (hm : Wf s.mem) : Wf (engineAtHome s p).mem := by
  unfold engineAtHome
  grind [answer_mem, fillForPacket_mem, putBytes_wf]

theorem requestArrives_wf (s : State) (hm : Wf s.mem) : Wf (requestArrives s).mem := by
  unfold requestArrives
  grind [engineAtHome_wf, leavesPort_mem, replyArrives_wf, sayStale_mem, setPkt_mem, unitArrive_wf, unitServes_mem]

@[simp] theorem retransmit_mem (s : State) : (retransmit s).mem = s.mem := by
  unfold retransmit
  grind [setPkt_mem]

theorem abandonment_wf (s : State) (hm : Wf s.mem) : Wf (abandonment s).mem := by
  unfold abandonment
  grind [giveUp_wf, loseAccess_mem]

@[simp] theorem cacheExpires_mem (s : State) : (cacheExpires s).mem = s.mem := by
  unfold cacheExpires
  split <;> rfl

@[simp] theorem laterResend_mem (s : State) : (laterResend s).mem = s.mem := by
  unfold laterResend
  grind [setPkt_mem]

@[simp] theorem noteRoutes_mem (s : State) : (noteRoutes s).mem = s.mem := (rfl)

@[simp] theorem removeRoute_mem (s : State) : (removeRoute s).mem = s.mem := by
  unfold removeRoute
  grind [modPort_mem, noteRoutes_mem, record_mem]

@[simp] theorem declareLost_mem (s : State) : (declareLost s).mem = s.mem := by
  unfold declareLost
  grind [State.modDev_mem, record_mem]

@[simp] theorem routeFound_mem (s : State) : (routeFound s).mem = s.mem := by
  unfold routeFound
  grind [State.modDev_mem]

@[simp] theorem retrain_mem (s : State) (dev port : Nat) : (retrain s dev port).mem = s.mem := (rfl)

@[simp] theorem apertureDiscard_mem (s : State) : (apertureDiscard s).mem = s.mem := by
  unfold apertureDiscard
  grind [State.modDev_mem, record_mem]

@[simp] theorem setLock_mem (s : State) (dev : Nat) (on : Bool) : (setLock s dev on).mem = s.mem := by
  unfold setLock
  split <;> rfl

@[simp] theorem measureTick_mem (s : State) : (measureTick s).mem = s.mem := by
  unfold measureTick
  grind [State.modDev_mem, setLock_mem]

@[simp] theorem loseLock_mem (s : State) : (loseLock s).mem = s.mem := by
  unfold loseLock
  grind [setLock_mem]

@[simp] theorem loseMaster_mem (s : State) (dev : Nat) : (loseMaster s dev).mem = s.mem := by
  unfold loseMaster
  split <;> rfl

@[simp] theorem nameMaster_mem (s : State) : (nameMaster s).mem = s.mem := by
  unfold nameMaster
  grind [record_mem, setLock_mem, foldl_mem]

@[simp] theorem joins_mem (s : State) (dev ticks : Nat) : (joins s dev ticks).mem = s.mem := by
  unfold joins
  grind [State.modDev_mem]

theorem renumber_wf (s : State) (a b : Nat) (hm : Wf s.mem) : Wf (renumber s a b).mem := by
  unfold renumber
  grind [setByte_wf, foldl_mem, foldl_wf]

theorem unnumber_wf (s : State) (dev : Nat) (hm : Wf s.mem) : Wf (unnumber s dev).mem := by
  unfold unnumber
  grind [State.modDev_mem, renumber_wf]

@[simp] theorem bringUp_mem (s : State) : (bringUp s).mem = s.mem := by
  unfold bringUp
  split <;> rfl

theorem setNumber_wf (s : State) (dev num : Nat) (hm : Wf s.mem) : Wf (setNumber s dev num).mem := by
  unfold setNumber
  grind [State.modDev_mem, noteRoutes_mem, renumber_wf]

/-! Sys2Proof/Machine/Int.lean -/

@[simp] theorem carryEff_mem (op : Int → Int → Int → Int) (e : Env) : (carryEff op e).mem = e.s.mem := by
  simp [carryEff]

theorem paddEff_keeps (e : Env) : Reaches (Held (· = e.s.mem)) (fun t => t.mem = e.s.mem) (paddEff e) := by
  simp only [paddEff, Env.trapLane]
  grind [Reaches, Held, doneI_mem, foldl_mem]

/-! Sys2Proof/Machine/Platform.lean -/

@[simp] theorem modFn_mem (s : State) (dev fn : Nat) (g : HostFn → HostFn) : (modFn s dev fn g).mem = s.mem := by
  unfold modFn
  split <;> rfl

theorem fnRingOp_wf (s : State) (dev fn : Nat) (g : State → Nat → Nat × State) (hm : Wf s.mem) (hg : ∀ k, Wf (g s k).2.mem) :
    Wf (fnRingOp s dev fn g).2.mem := by
  unfold fnRingOp
  split
  · exact hg _
  · exact hm

theorem rres_wf (s : State) (dev fn : Nat) (hm : Wf s.mem) : Wf (rres s dev fn).mem := by
  unfold rres
  split
  · exact hm
  · dsimp only
    rw [modFn_mem]
    exact fnRingOp_wf _ _ _ _ hm fun k => ringRes_wf _ _ hm

theorem rpub_wf (s : State) (dev fn val : Nat) (hm : Wf s.mem) : Wf (rpub s dev fn val).mem := by
  unfold rpub
  split
  · exact hm
  · dsimp only
    rw [modFn_mem]
    exact fnRingOp_wf _ _ _ _ hm fun k => ringPub_wf _ _ _ hm

theorem rtake_wf (s : State) (dev fn : Nat) (hm : Wf s.mem) : Wf (rtake s dev fn).mem := by
  unfold rtake
  dsimp only
  rw [modFn_mem]
  refine fnRingOp_wf _ _ _ _ hm fun k => ?_
  split <;> exact hm

theorem rdone_wf (s : State) (dev fn val : Nat) (hm : Wf s.mem) : Wf (rdone s dev fn val).mem := by
  unfold rdone
  grind [takeDone_wf]

@[simp] theorem setCap_mem (s : State) (dev val : Nat) : (setCap s dev val).mem = s.mem := by
  simp [setCap]

@[simp] theorem setRecsel_mem (s : State) (dev val : Nat) : (setRecsel s dev val).mem = s.mem := by
  simp [setRecsel]

theorem barAccess_wf (s : State) (dev fn off n : Nat) (val : Option Nat) (hm : Wf s.mem) : Wf (barAccess s dev fn off n val).mem := by
  unfold barAccess
  grind [State.modDev_mem, modFn_mem, putBytes_wf, record_mem]

@[simp] theorem ctxAnswer_mem (s : State) (dev st v : Nat) : (ctxAnswer s dev st v).mem = s.mem := by
  simp [ctxAnswer]

theorem performPieces_wf (id x1 : Nat) (x2 : State) (hm : Wf x2.mem) : Wf (performPieces id x1 x2).mem := by
  fun_induction performPieces id x1 x2 <;> grind [performPiece_wf, foldl_mem, foldl_wf]

theorem drainWb_wf (s : State) (eid : Nat) (hm : Wf s.mem) : Wf (drainWb s eid).mem := by
  unfold drainWb
  grind [performPieces_wf, foldl_mem, foldl_wf]

theorem saveCore_wf (s : State) (eid asid : Nat) (x : Ctx) (hm : Wf s.mem) :
    Reaches (fun _ => True) (fun t => Wf t.mem) (saveCore s eid asid x) := by
  have hw := devWrite_wf
  -- the kernel must not run `devWrite` on the block, so it becomes a variable before anything is reduced
  obtain ⟨save, hs⟩ : ∃ save, saveCore = save := ⟨_, rfl⟩
  rw [hs]
  delta saveCore at hs
  subst hs
  generalize devWrite = write at hw ⊢
  dsimp only
  split
  · next h => exact hw _ _ _ _ _ (reaches_of_ok (Q := fun t => Wf t.mem) h (hw _ _ _ _ _ hm))
  · exact trivial

theorem afterSave_wf (s : State) (dev eid : Nat) (x : Except (Nat × Nat) State) (hm : Wf s.mem)
    (hx : Reaches (fun _ => True) (fun t => Wf t.mem) x) : Wf (afterSave s dev eid x).mem := by
  cases x with
  | ok t =>
    show Wf (ctxAnswer ..).mem
    rw [ctxAnswer_mem, reapPlans_mem, State.modCore_mem]
    exact hx
  | error f =>
    show Wf (ctxAnswer ..).mem
    rw [ctxAnswer_mem]
    exact hm

theorem switchOut_wf (s : State) (dev core : Nat) (hm : Wf s.mem) : Wf (switchOut s dev core).mem := by
  unfold switchOut
  dsimp only
  split
  · rwa [ctxAnswer_mem]
  · next asid x _ =>
    have hw := writeBack_mem s (coreIndexEid dev core) asid fun _ => true
    split
    · next h =>
      rw [ctxAnswer_mem]
      exact postRecord_wf _ _ _ _ _ (drainWb_wf _ _ (((congrArg (·.1.mem) h).symm.trans hw) ▸ hm))
    · next t h =>
      have ht : Wf t.mem := ((congrArg (·.1.mem) h).symm.trans hw) ▸ hm
      exact afterSave_wf _ _ _ _ ht (saveCore_wf _ _ _ _ (drainWb_wf _ _ ht))

@[simp] theorem startSwitch_mem (s : State) (dev core : Nat) (may : Bool) (run : Option Nat) :
    (startSwitch s dev core may run).mem = s.mem := by
  unfold startSwitch
  grind [State.modCore_mem, ctxAnswer_mem]

theorem endSwitch_wf (s : State) (dev core : Nat) (go : State → State) (hm : Wf s.mem)
    (hg : ∀ s, Wf s.mem → Wf (go s).mem) : Wf (endSwitch s dev core go).mem := by
  unfold endSwitch
  grind [State.modCore_mem, ctxAnswer_mem]

theorem ctxswOut_wf (s : State) (dev core : Nat) (hm : Wf s.mem) : Wf (ctxswOut s dev core).mem := by
  unfold ctxswOut
  split
  · split
    · exact endSwitch_wf _ _ _ _ hm fun t ht => switchOut_wf _ _ _ ht
    · exact hm
  · rwa [startSwitch_mem]

@[simp] theorem loadCtx_mem (s : State) (dev asid : Nat) (x1 : Ctx) : (loadCtx s dev asid x1).mem = s.mem := (rfl)

@[simp] theorem bindFns_mem (s : State) (dev asid : Nat) : (bindFns s dev asid).mem = s.mem := (rfl)

theorem switchTo_wf (s : State) (dev core pa : Nat) (hm : Wf s.mem) : Wf (switchTo s dev core pa).mem := by
  unfold switchTo
  dsimp only
  split
  · rwa [ctxAnswer_mem]
  · split
    · rwa [ctxAnswer_mem]
    · next asid x _ =>
      have hs := switchIn_wf (loadCtx s dev asid x) (coreIndexEid dev core) asid (by rwa [loadCtx_mem])
      split
      · rwa [ctxAnswer_mem]
      · next h =>
        rw [ctxAnswer_mem, bindFns_mem, State.modDie_mem]
        exact reaches_of_ok (Q := fun t => Wf t.mem) h hs

theorem ctxswIn_wf (s : State) (dev core : Nat) (hm : Wf s.mem) : Wf (ctxswIn s dev core).mem := by
  unfold ctxswIn
  dsimp only
  split
  · split
    · exact endSwitch_wf _ _ _ _ hm fun t ht => switchTo_wf _ _ _ _ ht
    · exact hm
  · rwa [startSwitch_mem]

@[simp] theorem dvfs_mem (s : State) (die power temp : Nat) : (dvfs s die power temp).mem = s.mem := by
  unfold dvfs
  grind [State.modDie_mem, record_mem]

@[simp] theorem thermalStop_mem (s : State) : (thermalStop s).mem = s.mem := by
  unfold thermalStop
  grind [State.modDie_mem]

@[simp] theorem thermalResume_mem (s : State) : (thermalResume s).mem = s.mem := by
  unfold thermalResume
  grind [State.modDie_mem]

@[simp] theorem clearDevice_mem (s : State) (dev : Nat) : (clearDevice s dev).mem = s.mem := by
  unfold clearDevice
  grind [State.modDev_mem, loseDevice_mem, modPlan_mem, noteRoutes_mem, reapPlans_mem, setLock_mem, foldl_mem]

@[simp] theorem warmReset_mem (s : State) (dev : Nat) : (warmReset s dev).mem = s.mem := by
  unfold warmReset
  split <;> simp

theorem coldReset_wf (s : State) (dev : Nat) (ok : Bool) (ver digest : Nat) (hm : Wf s.mem) : Wf (coldReset s dev ok ver digest).mem := by
  unfold coldReset
  grind [State.modDev_mem, clearDevice_mem, loseMaster_mem, noteRoutes_mem, record_mem, unnumber_wf]

@[simp] theorem thermalCutoff_mem (s : State) (dev : Nat) : (thermalCutoff s dev).mem = s.mem := by
  unfold thermalCutoff
  split <;> simp

@[simp] theorem trainPcie_mem (s : State) (dev width rate : Nat) : (trainPcie s dev width rate).mem = s.mem := by
  unfold trainPcie
  split <;> rfl

@[simp] theorem spdmAnswer_mem (s : State) (dev code : Nat) (content : List (BitVec 64)) : (spdmAnswer s dev code content).mem = s.mem := by
  unfold spdmAnswer
  split <;> rfl

@[simp] theorem spdmOpen_mem (s : State) (dev code : Nat) : (spdmOpen s dev code).mem = s.mem := by
  simp [spdmOpen]

@[simp] theorem scrub_mem (s : State) (die structure_ : Nat) : (scrub s die structure_).mem = s.mem := (rfl)

@[simp] theorem patrol_mem (s : State) (die page : Nat) : (patrol s die page).mem = s.mem := by
  unfold patrol
  grind [State.modRecorder_mem, record_mem, scrub_mem]

end Sys2Proof.Proofs.MemoryKept

/-! SUPPORT. Memory keeps its canonical form: what happens between two steps. -/

namespace Sys2Proof.Proofs.MemoryKept

open Sys2Proof.Machine

/-! Sys2Proof/Machine/Wake.lean -/

theorem resultLands_wf (s : State) (eid slot id : Nat) (hm : Wf s.mem) : Wf (resultLands s eid slot id).mem := by
  unfold resultLands
  grind [State.modThr_mem, acquire_mem, landPend_wf]

theorem classLResult_wf (s : State) (hm : Wf s.mem) : Wf (classLResult s).mem := by
  unfold classLResult
  grind [resultLands_wf]

theorem fetchBlock_wf (s : State) (eid slot : Nat) (t : Thread) (b : Nat) (hm : Wf s.mem) : Wf (fetchBlock s eid slot t b).mem := by
  unfold fetchBlock
  -- the kernel must not run `emptyGran` on the keys of the block, so it becomes a variable
  obtain ⟨empty, he⟩ : ∃ empty, emptyGran = empty := ⟨_, rfl⟩
  rw [he]
  clear he
  dsimp only
  split
  · split
    · exact takeTrap_wf _ _ _ _ hm
    · exact hm
  · split
    · split
      · split
        · refine takeTrap_wf _ _ _ _ ?_
          rwa [modGran_mem]
        · exact hm
      · rwa [modGran_mem]
    · split
      · split
        · rwa [enterReady_mem]
        · rwa [State.setThr_mem]
      · rwa [State.setThr_mem]

theorem fetchRead_wf (s : State) (hm : Wf s.mem) : Wf (fetchRead s).mem := by
  unfold fetchRead
  grind [fetchBlock_wf]

theorem handlerWatchdog_wf (s : State) (hm : Wf s.mem) : Wf (handlerWatchdog s).mem := by
  unfold handlerWatchdog
  grind [takeTrap_wf]

theorem endEvent_wf (p : Nat → Bool) (s : State) (hm : Wf s.mem) : Wf (endEvent p s).mem := by
  unfold endEvent
  grind [endWait_wf]

theorem sleepExpiry_wf (s : State) (hm : Wf s.mem) : Wf (sleepExpiry s).mem := by
  unfold sleepExpiry
  grind [endWait_wf]

theorem tickAtWake_wf (s : State) (hm : Wf s.mem) : Wf (tickAtWake s).mem := by
  unfold tickAtWake
  grind [endWait_wf]

theorem waitFills_wf (s : State) (eid slot : Nat) (t : Thread) (w : Waiting) (hm : Wf s.mem) : Wf (waitFills s eid slot t w).mem := by
  unfold waitFills
  split
  · split
    · exact hm
    · split
      · exact hm
      · split
        · refine takeTrap_wf _ _ _ _ ?_
          rwa [modGran_mem]
        · rwa [modGran_mem]
  · exact hm

theorem noteCore_wf (s : State) (eid : Nat) (hm : Wf s.mem) : Wf (noteCore s eid).mem := by
  unfold noteCore
  grind [State.setCore_mem, State.setThr_mem, waitFills_wf, foldl_mem, foldl_wf]

theorem noteWakes_wf (s : State) (hm : Wf s.mem) : Wf (noteWakes s).mem := by
  unfold noteWakes
  grind [noteCore_wf, foldl_mem, foldl_wf]

@[simp] theorem coreSleeps_mem (s : State) : (coreSleeps s).mem = s.mem := by
  unfold coreSleeps
  grind [State.modCore_mem]

@[simp] theorem coreWakes_mem (s : State) : (coreWakes s).mem = s.mem := by
  unfold coreWakes
  grind [State.setCore_mem]

/-! Sys2Proof/Machine/Select.lean -/

theorem refreshThread_wf (s : State) (eid slot : Nat) (t : Thread) (hm : Wf s.mem) : Wf (refreshThread s eid slot t).mem := by
  unfold refreshThread
  grind [enterReady_mem, holdAt_mem]

theorem refresh_wf (s : State) (hm : Wf s.mem) : Wf (refresh s).mem := by
  unfold refresh
  dsimp only
  refine foldl_wf (fun t x ht => ?_) _ _ ?_
  · split
    · exact ht
    · refine foldl_wf (fun u y hu => ?_) _ _ ht
      split
      · exact refreshThread_wf _ _ _ _ hu
      · exact hu
  · refine foldl_wf (fun t x ht => ?_) _ _ (foldl_wf (fun t x ht => ?_) _ _ ?_)
    · split
      · exact suspendCheck_wf _ _ _ _ ht
      · exact ht
    · exact tryFreeze_wf _ _ ht
    · refine foldl_wf (fun t x ht => ?_) _ _ (foldl_wf (fun t x ht => ?_) _ _ ?_)
      · split
        · exact ht
        · rwa [reclaim_mem]
      · split
        · exact ht
        · rwa [notePort_mem]
      · exact noteWakes_wf _ hm

@[simp] theorem passTime_mem (s : State) : (passTime s).mem = s.mem := by
  simp [passTime]

@[simp] theorem notePast_mem (s s' : State) : (notePast s s').mem = s'.mem := by
  unfold notePast
  split <;> rfl

end Sys2Proof.Proofs.MemoryKept

/-! SUPPORT. Memory keeps its canonical form: every instruction and event, and a step of the machine. -/

namespace Sys2Proof.Proofs.MemoryKept

open Sys2Proof.Machine

/-- The next state, if there is one, has a canonical memory. -/
def NextWf (x : Host.Outcome State Fault Refusal) : Prop := ∀ t, x = .next t → Wf t.mem

theorem nextWf_next {t : State} (h : Wf t.mem) : NextWf (.next t) := by
  intro u hu
  cases hu
  exact h

section
variable {s : State} (hm : Wf s.mem)
include hm

theorem issue_wf {form : Option Form} {hOk yOk : Bool} {eff : Env → Except Stop State} {f : Fields}
    (he : ∀ e : Env, e.s0.mem = e.s.mem → Wf e.s.mem → Reaches (Held Wf) (fun t => Wf t.mem) (eff e)) :
    NextWf (issue form hOk yOk eff f s) :=
  nextWf_next (issueAt_wf _ _ _ _ _ _ _ _ hm he)

theorem issue_keeps {form : Option Form} {hOk yOk : Bool} {eff : Env → Except Stop State} {f : Fields}
    (he : ∀ e : Env, e.s0.mem = e.s.mem → Reaches (Held (· = e.s.mem)) (fun t => t.mem = e.s.mem) (eff e)) :
    NextWf (issue form hOk yOk eff f s) :=
  issue_wf hm fun e h0 hm => reaches_mono (he e h0) (fun _ h => held_wf h hm) fun _ h => h ▸ hm

theorem event_mem {g : State → State} (h : (g s).mem = s.mem) : NextWf (event g s) :=
  nextWf_next (h ▸ hm)

theorem packet_wf {g : State → Packet → State} (h : ∀ p, Wf (g s p).mem) :
    NextWf (event (fun s => match readyPkt? s with | some p => g s p | none => s) s) := by
  refine nextWf_next ?_
  dsimp only
  split
  · exact h _
  · exact hm

theorem packet_mem {g : State → Packet → State} (h : ∀ p, (g s p).mem = s.mem) :
    NextWf (event (fun s => match readyPkt? s with | some p => g s p | none => s) s) :=
  packet_wf hm fun p => h p ▸ hm

theorem sliceI_wf {form : Option Form} {val : Env → Nat → Nat} {f : Fields} : NextWf (sliceI form val f s) :=
  issue_keeps hm fun _ _ => reaches_ok (doneI_mem ..)

theorem sliceL_wf {form : Option Form} {val : Env → Nat → Nat} {f : Fields} : NextWf (sliceL form val f s) :=
  issue_keeps hm fun _ _ => reaches_ok (doneL_mem ..)

theorem intI_wf {form : Option Form} {r : Env → Nat → Nat → Int} {f : Fields} : NextWf (intI form r f s) :=
  issue_keeps hm fun _ _ => reaches_ok (doneI_mem ..)

theorem intAB_wf {form : Option Form} {g : Int → Int → Int} {f : Fields} : NextWf (intAB form g f s) := intI_wf hm

theorem intBits_wf {form : Option Form} {g : Nat → Nat → Nat → Nat} {f : Fields} : NextWf (intBits form g f s) := intI_wf hm

theorem intBits1_wf {form : Option Form} {g : Nat → Nat → Nat} {f : Fields} : NextWf (intBits1 form g f s) := intI_wf hm

theorem divL_wf {form : Option Form} {g : Bool → Nat → Int → Int → Int} {f : Fields} : NextWf (divL form g f s) :=
  issue_keeps hm fun _ _ => reaches_ok (doneL_mem ..)

theorem plogI_wf {op : Bool → Bool → Bool} {f : Fields} : NextWf (plogI op f s) :=
  issue_keeps hm fun _ _ => reaches_ok (setPd_mem ..)

theorem floatOp_wf {isL : Bool} {form : Option Form} {g : Env → Nat → Nat → Nat → Nat → Nat × Flags} {f : Fields} :
    NextWf (floatOp isL form g f s) :=
  issue_keeps hm fun _ _ => reaches_ok ((stepSeeds_mem ..).trans (doneF_mem ..))

theorem fnOp_wf {fn : Fn1} {f : Fields} : NextWf (fnOp fn f s) := floatOp_wf hm

end

theorem event_wf {g : State → State} {s : State} (h : Wf (g s).mem) : NextWf (event g s) := nextWf_next h

theorem thread_reaches {H : Stop → Prop} {Q : State → Prop} (e : Env) (k : Unit → Except Stop State) (hk : Reaches H Q (k ())) (hq : Q e.s) :
    Reaches H Q (e.thread k) := by
  unfold Env.thread
  split
  · exact hk
  · exact hq

theorem if_reaches {H : Stop → Prop} {Q : State → Prop} {c : Prop} [Decidable c] {x y : Except Stop State} (hx : Reaches H Q x)
    (hy : Reaches H Q y) : Reaches H Q (if c then x else y) := by
  split
  · exact hx
  · exact hy

theorem exec_wf (i : Instr) {s : State} (hm : Wf s.mem) : NextWf (exec i s) := by
  cases i with
  | mov f => exact (sliceI_wf hm : NextWf (execMov f s))
  | movi f => exact (sliceI_wf hm : NextWf (execMovi f s))
  | movhi f => exact (sliceI_wf hm : NextWf (execMovhi f s))
  | sext f => exact (sliceI_wf hm : NextWf (execSext f s))
  | zext f => exact (sliceI_wf hm : NextWf (execZext f s))
  | pack f => exact (sliceI_wf hm : NextWf (execPack f s))
  | xtr f => exact (sliceI_wf hm : NextWf (execXtr f s))
  | ins f => exact (sliceI_wf hm : NextWf (execIns f s))
  | bcast f => exact (sliceI_wf hm : NextWf (execBcast f s))
  | lane f => exact (sliceL_wf hm : NextWf (execLane f s))
  | shfl f => exact (sliceL_wf hm : NextWf (execShfl f s))
  | shfli f => exact (sliceL_wf hm : NextWf (execShfli f s))
  | sspill f => exact (issue_keeps hm fun _ h0 => localStore_keeps _ _ _ _ h0 : NextWf (execSspill f s))
  | sfill f => exact (issue_keeps hm fun _ h0 => localLoad_keeps _ _ _ h0 : NextWf (execSfill f s))
  | dead f => exact (issue_keeps hm fun _ _ => reaches_ok (deadEff_mem ..) : NextWf (execDead f s))
  | swin f => exact (issue_keeps hm fun e _ => swinEff_keeps e : NextWf (execSwin f s))
  | sclr f => exact (issue_keeps hm fun e _ => sclrEff_keeps e : NextWf (execSclr f s))
  | br f => exact (issue_keeps hm fun _ _ => thread_reaches _ _ (goTo_keeps _ _ _) rfl : NextWf (execBr f s))
  | bra f => exact (issue_keeps hm fun _ _ => thread_reaches _ _ (goTo_keeps _ _ _) rfl : NextWf (execBra f s))
  | call f => exact (issue_keeps hm fun _ _ => callTo_keeps _ _ : NextWf (execCall f s))
  | calla f => exact (issue_keeps hm fun _ _ => callTo_keeps _ _ : NextWf (execCalla f s))
  | ret f => exact (issue_keeps hm fun _ _ => thread_reaches _ _ (goTo_keeps _ _ _) rfl : NextWf (execRet f s))
  | loop f => exact (issue_keeps hm fun e _ => loopEff_keeps e : NextWf (execLoop f s))
  | bany f => exact (issue_keeps hm fun _ _ => if_reaches rfl (goTo_keeps ..) : NextWf (execBany f s))
  | ball f => exact (issue_keeps hm fun _ _ => if_reaches (goTo_keeps ..) rfl : NextWf (execBall f s))
  | pand f => exact (plogI_wf hm : NextWf (execPand f s))
  | por f => exact (plogI_wf hm : NextWf (execPor f s))
  | pxor f => exact (plogI_wf hm : NextWf (execPxor f s))
  | pnot f => exact (issue_keeps hm fun _ _ => reaches_ok (setPd_mem ..) : NextWf (execPnot f s))
  | pmov f => exact (issue_keeps hm fun _ _ => reaches_ok (pmovEff_mem ..) : NextWf (execPmov f s))
  | pcnt f => exact (issue_keeps hm fun _ _ => reaches_ok (doneI_mem ..) : NextWf (execPcnt f s))
  | spawn f => exact (issue_keeps hm fun e h0 => spawnEff_keeps e h0 : NextWf (execSpawn f s))
  | exit f => exact (issue_wf hm fun e h0 hm => exitEff_wf e h0 hm : NextWf (execExit f s))
  | yield f => exact (issue_wf hm fun e h0 hm => yieldEff_wf e h0 hm : NextWf (execYield f s))
  | wait f => exact (issue_keeps hm fun e h0 => waitEff_keeps e h0 : NextWf (execWait f s))
  | sleep f => exact (issue_keeps hm fun e _ => sleepEff_keeps e : NextWf (execSleep f s))
  | nop f => exact (issue_keeps hm fun _ _ => rfl : NextWf (execNop f s))
  | isync f => exact (issue_keeps hm fun e _ => isyncEff_keeps e : NextWf (execIsync f s))
  | rdsr f => exact (issue_keeps hm fun _ _ => reaches_ok (doneI_mem ..) : NextWf (execRdsr f s))
  | wrsr f => exact (issue_keeps hm fun _ _ => reaches_ok (wrsrEff_mem ..) : NextWf (execWrsr f s))
  | tick f => exact (issue_keeps hm fun _ _ => thread_reaches _ _ (reaches_ok (doneI_mem ..)) rfl : NextWf (execTick f s))
  | tickAt f => exact (issue_keeps hm fun e _ => tickAtEff_keeps e : NextWf (execTickAt f s))
  | add f => exact (intAB_wf hm : NextWf (execAdd f s))
  | sub f => exact (intAB_wf hm : NextWf (execSub f s))
  | addc f => exact (issue_keeps hm fun _ _ => reaches_ok (carryEff_mem ..) : NextWf (execAddc f s))
  | subb f => exact (issue_keeps hm fun _ _ => reaches_ok (carryEff_mem ..) : NextWf (execSubb f s))
  | mul f => exact (intAB_wf hm : NextWf (execMul f s))
  | mulh f => exact (intI_wf hm : NextWf (execMulh f s))
  | mad f => exact (intI_wf hm : NextWf (execMad f s))
  | min f => exact (intAB_wf hm : NextWf (execMin f s))
  | max f => exact (intAB_wf hm : NextWf (execMax f s))
  | abs f => exact (intI_wf hm : NextWf (execAbs f s))
  | neg f => exact (intI_wf hm : NextWf (execNeg f s))
  | and f => exact (intBits_wf hm : NextWf (execAnd f s))
  | or f => exact (intBits_wf hm : NextWf (execOr f s))
  | xor f => exact (intBits_wf hm : NextWf (execXor f s))
  | not f => exact (intBits1_wf hm : NextWf (execNot f s))
  | andn f => exact (intBits_wf hm : NextWf (execAndn f s))
  | shl f => exact (intBits_wf hm : NextWf (execShl f s))
  | shr f => exact (intBits_wf hm : NextWf (execShr f s))
  | sar f => exact (intBits_wf hm : NextWf (execSar f s))
  | rot f => exact (intBits_wf hm : NextWf (execRot f s))
  | popc f => exact (intBits1_wf hm : NextWf (execPopc f s))
  | clz f => exact (intBits1_wf hm : NextWf (execClz f s))
  | brev f => exact (intBits1_wf hm : NextWf (execBrev f s))
  | sel f => exact (intI_wf hm : NextWf (execSel f s))
  | cmp f => exact (issue_keeps hm fun _ _ => reaches_ok (modT_mem ..) : NextWf (execCmp f s))
  | sad f => exact (issue_keeps hm fun _ _ => reaches_ok (doneI_mem ..) : NextWf (execSad f s))
  | dp4 f => exact (issue_keeps hm fun _ _ => reaches_ok (doneI_mem ..) : NextWf (execDp4 f s))
  | dp8 f => exact (issue_keeps hm fun _ _ => reaches_ok (doneI_mem ..) : NextWf (execDp8 f s))
  | div f => exact (divL_wf hm : NextWf (execDiv f s))
  | rem f => exact (divL_wf hm : NextWf (execRem f s))
  | ired f => exact (issue_keeps hm fun _ _ => reaches_ok (doneL_mem ..) : NextWf (execIred f s))
  | iscan f => exact (issue_keeps hm fun _ _ => reaches_ok (doneL_mem ..) : NextWf (execIscan f s))
  | padd f => exact (issue_keeps hm fun e _ => paddEff_keeps e : NextWf (execPadd f s))
  | pmk f => exact (issue_keeps hm fun _ _ => reaches_ok (doneI_mem ..) : NextWf (execPmk f s))
  | pfmt f => exact (issue_keeps hm fun _ _ => reaches_ok (doneI_mem ..) : NextWf (execPfmt f s))
  | fadd f => exact (floatOp_wf hm : NextWf (execFadd f s))
  | fsub f => exact (floatOp_wf hm : NextWf (execFsub f s))
  | fmul f => exact (floatOp_wf hm : NextWf (execFmul f s))
  | fma f => exact (floatOp_wf hm : NextWf (execFma f s))
  | fmin f => exact (floatOp_wf hm : NextWf (execFmin f s))
  | fmax f => exact (floatOp_wf hm : NextWf (execFmax f s))
  | fabs f => exact (floatOp_wf hm : NextWf (execFabs f s))
  | fneg f => exact (floatOp_wf hm : NextWf (execFneg f s))
  | fcmp f => exact (issue_keeps hm fun _ _ => reaches_ok (fcmpEff_mem ..) : NextWf (execFcmp f s))
  | fclass f => exact (floatOp_wf hm : NextWf (execFclass f s))
  | frcp f => exact (fnOp_wf hm : NextWf (execFrcp f s))
  | frsq f => exact (fnOp_wf hm : NextWf (execFrsq f s))
  | fsqrt f => exact (fnOp_wf hm : NextWf (execFsqrt f s))
  | fdiv f => exact (floatOp_wf hm : NextWf (execFdiv f s))
  | fexp2 f => exact (fnOp_wf hm : NextWf (execFexp2 f s))
  | flog2 f => exact (fnOp_wf hm : NextWf (execFlog2 f s))
  | fsin f => exact (fnOp_wf hm : NextWf (execFsin f s))
  | fcos f => exact (fnOp_wf hm : NextWf (execFcos f s))
  | fscale f => exact (issue_keeps hm fun _ _ => reaches_ok ((stepSeeds_mem ..).trans (doneF_mem ..)) : NextWf (execFscale f s))
  | frint f => exact (floatOp_wf hm : NextWf (execFrint f s))
  | fdot2 f => exact (issue_keeps hm fun _ _ => reaches_ok ((stepSeeds_mem ..).trans (doneI_mem ..)) : NextWf (execFdot2 f s))
  | fsplit f => exact (issue_keeps hm fun _ _ => reaches_ok (fsplitEff_mem ..) : NextWf (execFsplit f s))
  | fred f => exact (issue_keeps hm fun _ _ => reaches_ok (fredEff_mem ..) : NextWf (execFred f s))
  | cvt f => exact (issue_keeps hm fun _ _ => reaches_ok (cvtEff_mem ..) : NextWf (execCvt f s))
  | lsmk f => exact (issue_keeps hm fun _ _ => reaches_ok (wideI_mem ..) : NextWf (execLsmk f s))
  | bxq f => exact (issue_keeps hm fun _ _ => reaches_ok (bxqEff_mem ..) : NextWf (execBxq f s))
  | bxd f => exact (issue_keeps hm fun _ _ => reaches_ok (bxdEff_mem ..) : NextWf (execBxd f s))
  | lsadd f => exact (issue_keeps hm fun _ _ => reaches_ok (wideL_mem ..) : NextWf (execLsadd f s))
  | lscvt f => exact (issue_keeps hm fun e _ => lscvtEff_keeps e : NextWf (execLscvt f s))
  | mma f => exact (issue_keeps hm fun e _ => mmaEff_keeps _ e : NextWf (execMma f s))
  | mmaz f => exact (issue_keeps hm fun e _ => mmaEff_keeps _ e : NextWf (execMmaz f s))
  | mld f => exact (issue_keeps hm fun e _ => mldEff_keeps e : NextWf (execMld f s))
  | mst f => exact (issue_keeps hm fun e _ => mstEff_keeps e : NextWf (execMst f s))
  | msteer f => exact (issue_keeps hm fun e _ => msteerEff_keeps e : NextWf (execMsteer f s))
  | mwait f => exact (issue_keeps hm fun e _ => mwaitEff_keeps e : NextWf (execMwait f s))
  | mprog f => exact (issue_keeps hm fun e _ => mprogEff_keeps e : NextWf (execMprog f s))
  | mweight f => exact (issue_keeps hm fun e _ => mweightEff_keeps e : NextWf (execMweight f s))
  | mclr f => exact (issue_keeps hm fun e _ => mclrEff_keeps e : NextWf (execMclr f s))
  | ldl f => exact (issue_keeps hm fun _ h0 => localLoad_keeps _ _ _ h0 : NextWf (execLdl f s))
  | stl f => exact (issue_keeps hm fun _ h0 => localStore_keeps _ _ _ _ h0 : NextWf (execStl f s))
  | stash f => exact (issue_keeps hm fun e _ => stashEff_keeps e : NextWf (execStash f s))
  | unstash f => exact (issue_wf hm fun e h0 hm => unstashEff_wf e h0 hm : NextWf (execUnstash f s))
  | wptr f => exact (issue_keeps hm fun e h0 => wptrEff_keeps e h0 : NextWf (execWptr f s))
  | eread f => exact (issue_wf hm fun e h0 hm => ereadEff_wf e h0 hm : NextWf (execEread f s))
  | ereadRel f => exact (issue_wf hm fun e h0 hm => ereadRelEff_wf e hm : NextWf (execEreadRel f s))
  | ewrite f => exact (issue_keeps hm fun e h0 => ewriteEff_keeps e h0 : NextWf (execEwrite f s))
  | eos f => exact (issue_keeps hm fun e h0 => eosEff_keeps e h0 : NextWf (execEos f s))
  | ld f => exact (issue_keeps hm fun _ h0 => globalLoad_keeps _ _ _ h0 : NextWf (execLd f s))
  | st f => exact (issue_keeps hm fun _ h0 => globalStore_keeps _ _ _ _ h0 : NextWf (execSt f s))
  | ldf f => exact (issue_keeps hm fun e h0 => ldfEff_keeps e h0 : NextWf (execLdf f s))
  | stf f => exact (issue_keeps hm fun e h0 => stfEff_keeps e h0 : NextWf (execStf f s))
  | gather f => exact (issue_keeps hm fun _ h0 => globalLoad_keeps _ _ _ h0 : NextWf (execGather f s))
  | scatter f => exact (issue_keeps hm fun _ h0 => globalStore_keeps _ _ _ _ h0 : NextWf (execScatter f s))
  | prf f => exact (issue_keeps hm fun _ _ => reaches_ok (prfEff_mem ..) : NextWf (execPrf f s))
  | amo f => exact (issue_keeps hm fun e h0 => amoEff_keeps e h0 : NextWf (execAmo f s))
  | cas f => exact (issue_keeps hm fun e h0 => casEff_keeps e h0 : NextWf (execCas f s))
  | sta f => exact (issue_keeps hm fun e h0 => staEff_keeps e h0 : NextWf (execSta f s))
  | inv f => exact (issue_keeps hm fun _ _ => reaches_ok (invEff_mem ..) : NextWf (execInv f s))
  | tlbinv f => exact (issue_keeps hm fun _ _ => reaches_ok (tlbinvEff_mem ..) : NextWf (execTlbinv f s))
  | rel f => exact (issue_keeps hm fun e h0 => relEff_keeps e h0 : NextWf (execRel f s))
  | acq f => exact (issue_keeps hm fun e _ => acqEff_keeps e : NextWf (execAcq f s))
  | fence f => exact (issue_keeps hm fun e h0 => fenceEff_keeps e h0 : NextWf (execFence f s))
  | ogq f => exact (issue_keeps hm fun _ _ => thread_reaches _ _ (reaches_ok (doneL_mem ..)) rfl : NextWf (execOgq f s))
  | cpy f => exact (issue_keeps hm fun e h0 => copyEff_keeps _ e h0 : NextWf (execCpy f s))
  | cpyg f => exact (issue_keeps hm fun e h0 => copyEff_keeps _ e h0 : NextWf (execCpyg f s))
  | cpyf f => exact (issue_keeps hm fun e h0 => copyEff_keeps _ e h0 : NextWf (execCpyf f s))
  | cpw f => exact (issue_keeps hm fun _ _ => thread_reaches _ _ (cpwWait_keeps _ _) rfl : NextWf (execCpw f s))
  | cpwDrop f => exact (issue_keeps hm fun e _ => cpwDropEff_keeps e : NextWf (execCpwDrop f s))
  | cpq f => exact (issue_keeps hm fun _ _ => thread_reaches _ _ (reaches_ok (doneL_mem ..)) rfl : NextWf (execCpq f s))
  | binit f => exact (issue_keeps hm fun e h0 => binitEff_keeps e h0 : NextWf (execBinit f s))
  | barv f => exact (issue_keeps hm fun e h0 => barvEff_keeps e h0 : NextWf (execBarv f s))
  | bexp f => exact (issue_keeps hm fun e h0 => bexpEff_keeps e h0 : NextWf (execBexp f s))
  | bwait f => exact (issue_keeps hm fun e h0 => bwaitEff_keeps e h0 : NextWf (execBwait f s))
  | btest f => exact (issue_keeps hm fun e h0 => btestEff_keeps e h0 : NextWf (execBtest f s))
  | gbar f => exact (issue_keeps hm fun e h0 => gbarEff_keeps e h0 : NextWf (execGbar f s))
  | tkmk f => exact (issue_keeps hm fun e h0 => tkmkEff_keeps e h0 : NextWf (execTkmk f s))
  | tkarm f => exact (issue_keeps hm fun e h0 => tkarmEff_keeps e h0 : NextWf (execTkarm f s))
  | tksucc f => exact (issue_keeps hm fun e h0 => tksuccEff_keeps e h0 : NextWf (execTksucc f s))
  | tkdec f => exact (issue_keeps hm fun e h0 => tkdecEff_keeps e h0 : NextWf (execTkdec f s))
  | tkdone f => exact (issue_wf hm fun e h0 hm => tkdoneEff_wf e h0 hm : NextWf (execTkdone f s))
  | ginst f => exact (issue_wf hm fun e h0 hm => ginstEff_wf e h0 hm : NextWf (execGinst f s))
  | tkcan f => exact (issue_keeps hm fun e h0 => tkcanEff_keeps e h0 : NextWf (execTkcan f s))
  | tkcanG f => exact (issue_keeps hm fun _ h0 => thread_reaches _ _ (taskReq_keeps _ _ _ _ _ _ h0) rfl : NextWf (execTkcanG f s))
  | tkst f => exact (issue_keeps hm fun e h0 => tkstEff_keeps e h0 : NextWf (execTkst f s))
  | tksub f => exact (issue_keeps hm fun e h0 => tksubEff_keeps e h0 : NextWf (execTksub f s))
  | arrm f => exact (issue_keeps hm fun e _ => arrmEff_keeps e : NextWf (execArrm f s))
  | arrmFree f => exact (issue_keeps hm fun e _ => arrmFreeEff_keeps e : NextWf (execArrmFree f s))
  | tkres f => exact (issue_keeps hm fun _ h0 => thread_reaches _ _ (reaches_bind (queue_keeps ..) fun _ _ => taskReq_keeps _ _ _ _ _ _ h0) rfl :
      NextWf (execTkres f s))
  | rgres f => exact (issue_keeps hm fun e h0 => thread_reaches _ _ (reaches_bind (ringKey_keeps e h0) fun _ _ => taskReq_keeps _ _ _ _ _ _ h0) rfl :
      NextWf (execRgres f s))
  | rgpub f => exact (issue_keeps hm fun e h0 => thread_reaches _ _ (reaches_bind (ringKey_keeps e h0) fun _ _ => taskReq_keeps _ _ _ _ _ _ h0) rfl :
      NextWf (execRgpub f s))
  | rgtake f => exact (issue_keeps hm fun e h0 => rgtakeEff_keeps e h0 : NextWf (execRgtake f s))
  | am f => exact (issue_keeps hm fun e h0 => amEff_keeps e h0 : NextWf (execAm f s))
  | amD f => exact (issue_keeps hm fun e h0 => amEff_keeps e h0 : NextWf (execAmD f s))
  | amr f => exact (issue_keeps hm fun e h0 => amrEff_keeps e h0 : NextWf (execAmr f s))
  | hend f => exact (issue_wf hm fun e h0 hm => hendEff_wf e h0 hm : NextWf (execHend f s))
  | push f => exact (issue_keeps hm fun e h0 => pushEff_keeps e h0 : NextWf (execPush f s))
  | pop f => exact (issue_keeps hm fun e h0 => thread_reaches _ _ (reaches_bind (queueHome_keeps e h0) fun _ _ => queueReq_keeps _ _ _ _ _ h0) rfl :
      NextWf (execPop f s))
  | popW f => exact (issue_keeps hm fun e h0 => popWEff_keeps e h0 : NextWf (execPopW f s))
  | qmk f => exact (issue_keeps hm fun e h0 => qmkEff_keeps e h0 : NextWf (execQmk f s))
  | qmkFree f => exact (issue_keeps hm fun e h0 => thread_reaches _ _
      (reaches_bind (queueHome_keeps e h0) fun _ _ => reaches_bind (noJoin_keeps e) fun _ _ => request_keeps _ _ _ _ _ _ h0) rfl :
      NextWf (execQmkFree f s))
  | mbsend f => exact (issue_keeps hm fun e h0 => mbsendEff_keeps e h0 : NextWf (execMbsend f s))
  | mbcnt f => exact (issue_keeps hm fun _ _ => thread_reaches _ _ (reaches_ok (doneL_mem ..)) rfl : NextWf (execMbcnt f s))
  | cplan f => exact (issue_keeps hm fun e h0 => cplanEff_keeps e h0 : NextWf (execCplan f s))
  | cplanFree f => exact (issue_keeps hm fun e _ => cplanFreeEff_keeps e : NextWf (execCplanFree f s))
  | red f => exact (issue_wf hm fun e h0 hm => callEff_wf _ e h0 hm : NextWf (execRed f s))
  | cbcast f => exact (issue_wf hm fun e h0 hm => callEff_wf _ e h0 hm : NextWf (execCbcast f s))
  | cgath f => exact (issue_wf hm fun e h0 hm => callEff_wf _ e h0 hm : NextWf (execCgath f s))
  | redw f => exact (issue_keeps hm fun e h0 => redwEff_keeps e h0 : NextWf (execRedw f s))
  | redr f => exact (issue_keeps hm fun e _ => redrEff_keeps e : NextWf (execRedr f s))
  | redfix f => exact (issue_wf hm fun e h0 hm => redfixEff_wf e h0 hm : NextWf (execRedfix f s))
  | trap f => exact (issue_keeps hm fun e _ => trapEff_keeps _ e : NextWf (execTrap f s))
  | brk f => exact (issue_keeps hm fun e _ => trapEff_keeps _ e : NextWf (execBrk f s))
  | eret f => exact (issue_keeps hm fun e h0 => eretEff_keeps e h0 : NextWf (execEret f s))
  | drain f => exact (issue_wf hm fun e h0 hm => drainEff_wf e hm : NextWf (execDrain f s))
  | drainRes f => exact (issue_keeps hm fun e _ => drainResEff_keeps e : NextWf (execDrainRes f s))
  | frz f => exact (issue_wf hm fun e h0 hm => frzEff_wf e hm : NextWf (execFrz f s))
  | frzRes f => exact (issue_wf hm fun e h0 hm => frzResEff_wf e hm : NextWf (execFrzRes f s))
  | ctxsv f => exact (issue_keeps hm fun e h0 => ctxsvEff_keeps e h0 : NextWf (execCtxsv f s))
  | ctxld f => exact (issue_keeps hm fun e h0 => ctxldEff_keeps e h0 : NextWf (execCtxld f s))
  | gang f => exact (issue_keeps hm fun e h0 => gangEff_keeps e h0 : NextWf (execGang f s))
  | classLResultWrite => exact (event_wf (classLResult_wf _ hm) : NextWf (execClassLResultWrite s))
  | fetchBlockRead => exact (event_wf (fetchRead_wf _ hm) : NextWf (execFetchBlockRead s))
  | handlerWatchdog => exact (event_wf (handlerWatchdog_wf _ hm) : NextWf (execHandlerWatchdog s))
  | spawnArrival => exact (event_wf (by
      split
      · split
        · rwa [spawnArrives_mem]
        · exact hm
      · exact hm) : NextWf (execSpawnArrival s))
  | waitWake => exact (event_wf (endEvent_wf _ _ hm) : NextWf (execWaitWake s))
  | waitTimeout => exact (event_wf (endEvent_wf _ _ hm) : NextWf (execWaitTimeout s))
  | sleepExpiry => exact (event_wf (sleepExpiry_wf _ hm) : NextWf (execSleepExpiry s))
  | tickAtWake => exact (event_wf (tickAtWake_wf _ hm) : NextWf (execTickAtWake s))
  | coreSleepEntry => exact (event_mem hm (coreSleeps_mem ..) : NextWf (execCoreSleepEntry s))
  | coreWake => exact (event_mem hm (coreWakes_mem ..) : NextWf (execCoreWake s))
  | activeMessageArrival => exact (packet_mem hm fun p => activeMessageArrives_mem .. : NextWf (execActiveMessageArrival s))
  | handlerStart => exact (event_mem hm (handlerStart_mem ..) : NextWf (execHandlerStart s))
  | depositArrival => exact (packet_wf hm fun p => depositArrives_wf _ _ hm : NextWf (execDepositArrival s))
  | messageRefused => exact (packet_mem hm fun p => refusalArrives_mem .. : NextWf (execMessageRefused s))
  | amrReply => exact (packet_mem hm fun p => amrReplyArrives_mem .. : NextWf (execAmrReply s))
  | mailboxEntryArrival => exact (event_wf (by
      split
      · split
        · rwa [mailboxArrives_mem]
        · exact hm
      · exact hm) :
      NextWf (execMailboxEntryArrival s))
  | mbsendRetry => exact (event_mem hm (resendMbox_mem ..) : NextWf (execMbsendRetry s))
  | mbsendRecordRetry => exact (event_mem hm (resendMbox_mem ..) : NextWf (execMbsendRecordRetry s))
  | mailboxReservationExpiry => exact (event_mem hm (reservationExpires_mem ..) : NextWf (execMailboxReservationExpiry s))
  | eretRequestArrival => exact (packet_wf hm fun p => eretArrives_wf _ _ hm : NextWf (execEretRequestArrival s))
  | pushArrival => exact (packet_wf hm fun p => pushArrives_wf _ _ hm : NextWf (execPushArrival s))
  | popArrival => exact (packet_wf hm fun p => popArrives_wf _ _ hm : NextWf (execPopArrival s))
  | pushWindowExpiry => exact (event_wf (windowExpires_wf _ _ hm) : NextWf (execPushWindowExpiry s))
  | popWindowExpiry => exact (event_wf (windowExpires_wf _ _ hm) : NextWf (execPopWindowExpiry s))
  | popWCancel => exact (packet_mem hm fun p => popCancelArrives_mem .. : NextWf (execPopWCancel s))
  | fabricRequestArrival => exact (event_wf (requestArrives_wf _ hm) : NextWf (execFabricRequestArrival s))
  | retransmitTimer => exact (event_mem hm (retransmit_mem ..) : NextWf (execRetransmitTimer s))
  | requestAbandon => exact (event_wf (abandonment_wf _ hm) : NextWf (execRequestAbandon s))
  | replyCacheExpiry => exact (event_mem hm (cacheExpires_mem ..) : NextWf (execReplyCacheExpiry s))
  | retryLaterResend => exact (event_mem hm (laterResend_mem ..) : NextWf (execRetryLaterResend s))
  | escapeMove => exact (event_mem hm (escapes_mem ..) : NextWf (execEscapeMove s))
  | thresholdRecompute => exact (event_mem hm (thresholdNew_mem ..) : NextWf (execThresholdRecompute s))
  | linkFailure dev port => exact (event_mem hm (modPort_mem ..) : NextWf (execLinkFailure dev port s))
  | routeRemoval => exact (event_mem hm (removeRoute_mem ..) : NextWf (execRouteRemoval s))
  | deviceUnreachable => exact (event_mem hm (declareLost_mem ..) : NextWf (execDeviceUnreachable s))
  | routeFound => exact (event_mem hm (routeFound_mem ..) : NextWf (execRouteFound s))
  | linkRetrain dev port => exact (event_mem hm ((mem_ite ..).trans (by rw [retrain_mem, ite_self])) : NextWf (execLinkRetrain dev port s))
  | apertureWriteDiscard => exact (event_mem hm (apertureDiscard_mem ..) : NextWf (execApertureWriteDiscard s))
  | tickMeasurement => exact (event_mem hm (measureTick_mem ..) : NextWf (execTickMeasurement s))
  | tickMasterFailure dev => exact (event_mem hm (loseMaster_mem ..) : NextWf (execTickMasterFailure dev s))
  | newTickMaster => exact (event_mem hm (nameMaster_mem ..) : NextWf (execNewTickMaster s))
  | deviceJoin dev ticks => exact (event_mem hm (joins_mem ..) : NextWf (execDeviceJoin dev ticks s))
  | deviceNumberSet dev num => exact (event_wf (setNumber_wf _ _ _ hm) : NextWf (execDeviceNumberSet dev num s))
  | homeAccess => exact (event_wf (by
      split
      · exact performPiece_wf _ _ hm
      · exact hm) : NextWf (execHomeAccess s))
  | atomicAtHome => exact (event_wf (by
      split
      · exact atomicAtHome_wf _ _ hm
      · exact hm) : NextWf (execAtomicAtHome s))
  | lmAtomicMicrocode => exact (event_wf (lmAtomicMicrocode_wf _ hm) : NextWf (execLmAtomicMicrocode s))
  | uncorrectableError key => exact (event_mem hm (uncorrectable_mem ..) : NextWf (execUncorrectableError key s))
  | walkStart => exact (event_mem hm (walkStart_mem ..) : NextWf (execWalkStart s))
  | pageWalk => exact (event_mem hm (pageWalk_mem ..) : NextWf (execPageWalk s))
  | tlbinvAck => exact (event_mem hm (tlbinvAck_mem ..) : NextWf (execTlbinvAck s))
  | joinComplete => exact (event_wf (joinComplete_wf _ hm) : NextWf (execJoinComplete s))
  | stashFill => exact (event_wf (stashFill_wf _ hm) : NextWf (execStashFill s))
  | stashWriteback => exact (event_mem hm (stashWriteback_mem ..) : NextWf (execStashWriteback s))
  | mxuArbitrate => exact (event_mem hm (mxuArbitrate_mem ..) : NextWf (execMxuArbitrate s))
  | stagerFetch => exact (event_mem hm (stagerFetch_mem ..) : NextWf (execStagerFetch s))
  | accPortCommand => exact (event_mem hm (accPortCommand_mem ..) : NextWf (execAccPortCommand s))
  | msteerTokenWrite => exact (event_mem hm (msteerTokenWrite_mem ..) : NextWf (execMsteerTokenWrite s))
  | mxuCommandComplete => exact (event_mem hm (mxuCommandComplete_mem ..) : NextWf (execMxuCommandComplete s))
  | mxuFault => exact (event_mem hm (mxuFault_mem ..) : NextWf (execMxuFault s))
  | copyCommandStart => exact (event_mem hm (copyStart_mem ..) : NextWf (execCopyCommandStart s))
  | copyRequest => exact (event_wf (copyRequest_wf _ hm) : NextWf (execCopyRequest s))
  | copyFault => exact (event_wf (copyFault_wf _ hm) : NextWf (execCopyFault s))
  | copyCommandComplete => exact (event_mem hm (copyComplete_mem ..) : NextWf (execCopyCommandComplete s))
  | barrierUpdate => exact (packet_wf hm fun p => barrierArrives_wf _ _ hm : NextWf (execBarrierUpdate s))
  | staAck => exact (event_wf (staAck_wf _ hm) : NextWf (execStaAck s))
  | bwaitTimeout => exact (event_wf (bwaitTimeout_wf _ hm) : NextWf (execBwaitTimeout s))
  | gbarEpisodeComplete => exact (event_wf (gbarComplete_wf _ hm) : NextWf (execGbarEpisodeComplete s))
  | edgeReservation => exact (event_mem hm (reserve_mem ..) : NextWf (execEdgeReservation s))
  | edgeTokenArrival => exact (event_wf (tokenArrives_wf _ hm) : NextWf (execEdgeTokenArrival s))
  | eosMarkArrival => exact (event_wf (eosArrives_wf _ hm) : NextWf (execEosMarkArrival s))
  | drainMarkerInject => exact (event_mem hm (drainMarker_mem ..) : NextWf (execDrainMarkerInject s))
  | queueRingTake => exact (event_wf (queueRingTake_wf _ hm) : NextWf (execQueueRingTake s))
  | dispatchSelection => exact (event_wf (dispatchSelection_wf _ hm) : NextWf (execDispatchSelection s))
  | priorityAging => exact (event_mem hm (priorityAging_mem ..) : NextWf (execPriorityAging s))
  | operandPrefetch => exact (event_wf (operandPrefetch_wf _ hm) : NextWf (execOperandPrefetch s))
  | prefetchFault => exact (event_wf (prefetchFault_wf _ hm) : NextWf (execPrefetchFault s))
  | threadCreation => exact (event_mem hm (threadCreation_mem ..) : NextWf (execThreadCreation s))
  | taskCompletion => exact (event_wf (taskCompletion_wf _ hm) : NextWf (execTaskCompletion s))
  | decrementApply => exact (event_wf (decrementApply_wf _ hm) : NextWf (execDecrementApply s))
  | quiescenceExpiry => exact (event_wf (quiescenceExpiry_wf _ hm) : NextWf (execQuiescenceExpiry s))
  | gangPrepare => exact (event_wf (gangPrepares_wf _ hm) : NextWf (execGangPrepare s))
  | gangCommit => exact (event_mem hm (gangCommits_mem ..) : NextWf (execGangCommit s))
  | gangArm => exact (event_wf (gangArms_wf _ hm) : NextWf (execGangArm s))
  | planPrepare => exact (event_wf (planPrepares_wf _ hm) : NextWf (execPlanPrepare s))
  | contributionArrival => exact (event_wf (contributionArrival_wf _ hm) : NextWf (execContributionArrival s))
  | epochOpen => exact (event_mem hm (epochOpen_mem ..) : NextWf (execEpochOpen s))
  | forwardTickExpiry => exact (event_mem hm (forwardTick_mem ..) : NextWf (execForwardTickExpiry s))
  | resultDelivery => exact (event_wf (resultDelivery_wf _ hm) : NextWf (execResultDelivery s))
  | shakeOutCommit => exact (event_mem hm (shakeOutCommit_mem ..) : NextWf (execShakeOutCommit s))
  | correctionArrival => exact (event_wf (correctionArrival_wf _ hm) : NextWf (execCorrectionArrival s))
  | userRoutineRun => exact (event_wf (userRoutineRun_wf _ hm) : NextWf (execUserRoutineRun s))
  | yardRoutineWatchdog => exact (event_wf (routineWatchdog_wf _ hm) : NextWf (execYardRoutineWatchdog s))
  | planDeviceLost => exact (event_mem hm (planDeviceLost_mem ..) : NextWf (execPlanDeviceLost s))
  | spillRingCatch => exact (event_wf (spillCatch_wf _ hm) : NextWf (execSpillRingCatch s))
  | ctxswSwitchOut dev core => exact (event_wf (ctxswOut_wf _ _ _ hm) : NextWf (execCtxswSwitchOut dev core s))
  | ctxswSwitchIn dev core => exact (event_wf (ctxswIn_wf _ _ _ hm) : NextWf (execCtxswSwitchIn dev core s))
  | rres dev fn => exact (event_wf (rres_wf _ _ _ hm) : NextWf (execRres dev fn s))
  | rpub dev fn val => exact (event_wf (rpub_wf _ _ _ _ hm) : NextWf (execRpub dev fn val s))
  | rtake dev fn => exact (event_wf (rtake_wf _ _ _ hm) : NextWf (execRtake dev fn s))
  | rdone dev fn val => exact (event_wf (rdone_wf _ _ _ _ hm) : NextWf (execRdone dev fn val s))
  | pwrcap dev val => exact (event_mem hm (setCap_mem ..) : NextWf (execPwrcap dev val s))
  | recsel dev val => exact (event_mem hm (setRecsel_mem ..) : NextWf (execRecsel dev val s))
  | hostRegisterWrite dev fn off val => exact (event_mem hm (modFn_mem ..) : NextWf (execHostRegisterWrite dev fn off val s))
  | bar2Access dev fn off n val => exact (event_wf (barAccess_wf _ _ _ _ _ _ hm) : NextWf (execBar2Access dev fn off n val s))
  | dvfsLoop die power temp => exact (event_mem hm (dvfs_mem ..) : NextWf (execDvfsLoop die power temp s))
  | thermalStop => exact (event_mem hm (thermalStop_mem ..) : NextWf (execThermalStop s))
  | thermalCutoff dev => exact (event_mem hm (thermalCutoff_mem ..) : NextWf (execThermalCutoff dev s))
  | coldReset dev ok ver digest => exact (event_wf (coldReset_wf _ _ _ _ _ hm) : NextWf (execColdReset dev ok ver digest s))
  | warmReset dev => exact (event_mem hm (warmReset_mem ..) : NextWf (execWarmReset dev s))
  | pcieLinkTraining dev width rate => exact (event_mem hm (trainPcie_mem ..) : NextWf (execPcieLinkTraining dev width rate s))
  | getVersion dev => exact (event_mem hm (spdmOpen_mem ..) : NextWf (execGetVersion dev s))
  | getCapabilities dev => exact (event_mem hm (spdmOpen_mem ..) : NextWf (execGetCapabilities dev s))
  | negotiateAlgorithms dev => exact (event_mem hm (spdmOpen_mem ..) : NextWf (execNegotiateAlgorithms dev s))
  | getDigests dev => exact (event_mem hm (spdmOpen_mem ..) : NextWf (execGetDigests dev s))
  | getCertificate dev => exact (event_mem hm (spdmOpen_mem ..) : NextWf (execGetCertificate dev s))
  | challenge dev => exact (event_mem hm (spdmOpen_mem ..) : NextWf (execChallenge dev s))
  | getMeasurements dev => exact (event_mem hm (spdmAnswer_mem ..) : NextWf (execGetMeasurements dev s))
  | keyExchange dev => exact (event_mem hm (spdmOpen_mem ..) : NextWf (execKeyExchange dev s))
  | finish dev => exact (event_mem hm (spdmOpen_mem ..) : NextWf (execFinish dev s))
  | scrubPass die word => exact (event_mem hm (scrub_mem ..) : NextWf (execScrubPass die word s))
  | dramPatrol die page => exact (event_mem hm (patrol_mem ..) : NextWf (execDramPatrol die page s))
  | unassignedOpcode _ f => exact (issue_keeps hm fun _ _ => rfl : NextWf (execUnassignedOpcode _ f s))
  | redwTimeout => exact (event_wf (redwTimeout_wf _ hm) : NextWf (execRedwTimeout s))
  | lossOfLock => exact (event_mem hm (loseLock_mem ..) : NextWf (execLossOfLock s))
  | thermalIssueResume => exact (event_mem hm (thermalResume_mem ..) : NextWf (execThermalIssueResume s))

theorem runMove_wf {s t : State} {m : Move} (hm : Wf s.mem) (h : runMove s m = .next t) : Wf t.mem := by
  obtain ⟨u, hu⟩ := StepRuns.exec_next m.i { s with cur := m.cur, who := m.who, inputs := if m.input then s.inputs.drop 1 else s.inputs }
  have ht := (StepRuns.runMove_of_next hu).symm.trans h
  cases ht
  rw [passTime_mem]
  refine noteWakes_wf _ ?_
  rw [notePast_mem]
  exact exec_wf m.i (s := { s with cur := m.cur, who := m.who, inputs := _ }) hm u hu

/-- Settles O60: no instruction and no event writes memory but through the writes that keep its form. -/
theorem memoryStaysCanonical : Obligations.MemoryStaysCanonical := by
  unfold Obligations.MemoryStaysCanonical
  intro s t hm h
  have hr : Wf (refresh s).mem := refresh_wf s hm
  cases hp : pickMove (refresh s) (moves (refresh s)) with
  | some m => exact runMove_wf hr ((StepRuns.step_of_pick hp).symm.trans h)
  | none =>
    have ht := (StepRuns.step_of_none hp).symm.trans h
    cases ht
    rw [MemOk, passTime_mem]
    exact hr

end Sys2Proof.Proofs.MemoryKept

/-! SUPPORT. What loads, stores and atomics leave unchanged of memory (R180, R206, R222 to R229, R234, R235). -/

namespace Sys2Proof.Proofs.MemoryFrame

open Sys2Proof.Machine
open Sys2Proof.Proofs.MemoryKept
open Sys2Proof.Proofs.MemorySteps

/-! ## Bytes that are written -/

section Bytes

theorem byte_of_mem {s t : State} (h : t.mem = s.mem) (k : Nat) : t.byte k = s.byte k := by
  unfold State.byte
  rw [h]

theorem putStep_mem (s : State) (k : Nat) (b : Byte) :
    ({ markDirty (s.setByte k b) k with bad := s.bad.filter (· != k) } : State).mem = (s.setByte k b).mem :=
  markDirty_mem _ k

theorem byte_putBytes_of_notMem (l : List (Nat × Byte)) (s : State) (hs : MemOk s) {n : Nat} (hn : n ∉ l.map (·.1)) :
    (putBytes s l).byte n = s.byte n := by
  induction l generalizing s with
  | nil => rfl
  | cons x r ih =>
    obtain ⟨hne, hr⟩ := not_or.1 (mt List.mem_cons.2 hn)
    have hput := putStep_mem s x.1 x.2
    calc (putBytes s (x :: r)).byte n
      _ = (s.setByte x.1 x.2).byte n :=
          (ih _ (by rw [MemOk, hput]; exact setByte_wf _ _ _ hs) hr).trans (byte_of_mem hput n)
      _ = s.byte n := (State.byte_setByte s x.1 n x.2 hs).trans (if_neg hne)

theorem byte_putBytes (l : List (Nat × Byte)) (s : State) (hs : MemOk s) (hl : (l.map (·.1)).Nodup) {x : Nat × Byte} (hx : x ∈ l) :
    (putBytes s l).byte x.1 = x.2 := by
  induction l generalizing s with
  | nil => cases hx
  | cons y r ih =>
    obtain ⟨hy, hr⟩ := List.nodup_cons.1 hl
    have hput := putStep_mem s y.1 y.2
    have hok : MemOk { markDirty (s.setByte y.1 y.2) y.1 with bad := s.bad.filter (· != y.1) } := by
      rw [MemOk, hput]
      exact setByte_wf _ _ _ hs
    rcases List.mem_cons.1 hx with rfl | hx
    · calc (putBytes s (x :: r)).byte x.1
        _ = (s.setByte x.1 x.2).byte x.1 := (byte_putBytes_of_notMem r _ hok hy).trans (byte_of_mem hput x.1)
        _ = x.2 := (State.byte_setByte s x.1 x.1 x.2 hs).trans (if_pos rfl)
    · exact ih _ hok hr hx

theorem getElem?_toBytes {n i : Nat} (h : i < n) (v : Nat) : (toBytes n v)[i]? = some (BitVec.ofNat 8 (v / 2 ^ (8 * i))) := by
  induction n generalizing i v with
  | zero => exact absurd h (Nat.not_lt_zero i)
  | succ n ih =>
    cases i with
    | zero => simp [toBytes]
    | succ i =>
      have hp : v / 256 / 2 ^ (8 * i) = v / 2 ^ (8 * (i + 1)) := by
        rw [Nat.div_div_eq_div_mul, show 256 = 2 ^ 8 from rfl, ← Nat.pow_add, Nat.mul_succ, Nat.add_comm]
      rw [← hp]
      exact ih (Nat.lt_of_succ_lt_succ h) (v / 256)

end Bytes

/-! ## The issue of an access -/

section Issue

variable {s : State} {th : Thread} {f : Fields}

theorem hand_mem (form : Option Form) : (hand form f s th).s.mem = s.mem := issueEnv_mem ..

theorem conclude_mem {k : Nat} {x : Except Stop State} (hm : f.m = false) (hc : Calm x)
    (hx : Reaches (Held (· = s.mem)) (fun t => t.mem = s.mem) x) :
    (conclude s s.cur.1 s.cur.2 th k f x).mem = s.mem := by
  cases x with
  | ok u =>
    dsimp only [conclude]
    split
    · exact hx
    · next h => exact (congrArg State.mem (hm ▸ retire_unmarked u _ _ _ h)).trans ((State.setThr_mem ..).trans hx)
  | error y =>
    cases y with
    | trap i => exact hc.elim
    | fail u i => exact hc.elim
    | block => exact holdAt_mem ..
    | park => exact holdAt_mem ..
    | wait w => exact (State.modThr_mem ..).trans (grant_mem ..)
    | hold u w => exact (State.modThr_mem ..).trans ((grant_mem ..).trans hx)
    | start u => exact (holdAt_mem ..).trans hx

/-- An instruction whose description keeps memory, and which meets no trap, keeps memory. -/
theorem issue_mem {form : Option Form} {yOk : Bool} {eff : Env → Except Stop State} {i : Instr} {t : State}
    (he : ∀ e : Env, e.s0.mem = e.s.mem → Reaches (Held (· = e.s.mem)) (fun t => t.mem = e.s.mem) (eff e)) (hm : f.m = false)
    (hi : Issues form true yOk f s th) (hc : Calm (eff (hand form f s th))) (hex : exec i s = issue form true yOk eff f s)
    (ht : exec i s = .next t) : t.mem = s.mem := by
  have hk := he (hand form f s th) (hand_mem form).symm
  rw [hand_mem] at hk
  have hn := ht.symm.trans (hex.trans (issue_concludes hi))
  cases hn
  exact conclude_mem hm hc hk

end Issue

/-! ## Pieces at their home -/

section Home

variable {s : State} {a : Access} {o n : Nat} {rest : List (Nat × Nat)}

theorem loaded_mem : (loaded s a o).mem = s.mem := by
  unfold loaded
  split
  · exact l1dFill_mem ..
  · split
    · exact dropOwn_mem ..
    · rfl

theorem homePiece_load_mem (hp : a.pieces = (o, n) :: rest) (hop : a.op = .load) : (homePiece s a).mem = s.mem := by
  rw [homePiece_load hp hop]
  split
  · exact failHome_mem ..
  · split
    · exact (endHome_mem ..).trans loaded_mem
    · exact loaded_mem

theorem homePiece_nibble_mem {hi : Bool} {w : Nat} (hp : a.pieces = (o, n) :: rest) (hop : a.op = .nibble hi w) :
    (homePiece s a).mem = s.mem := by
  rw [homePiece_nibble hp hop]
  split
  · exact failHome_mem ..
  · rfl

theorem homePiece_store_mem {d : Nat} (hp : a.pieces = (o, n) :: rest) (hop : a.op = .store d) :
    (homePiece s a).mem = (stored s a o n d).mem := by
  rw [homePiece_store hp hop]
  split
  · split
    · exact failHome_mem ..
    · exact endHome_mem ..
  · rfl

theorem performPiece_mem (hh : (homePiece s a).mem = s.mem) : (performPiece s a).mem = s.mem := by
  unfold performPiece
  split
  · exact nearStep_mem ..
  · exact hh

theorem pieceKeys_length : (pieceKeys a o n).length = n := (List.length_map ..).trans List.length_range

theorem map_fst_zip_toBytes (ks : List Nat) (v : Nat) : (ks.zip (toBytes ks.length v)).map (·.1) = ks :=
  List.map_fst_zip (Nat.le_of_eq (length_toBytes ..).symm)

theorem map_fst_piece (v : Nat) : ((pieceKeys a o n).zip (toBytes n v)).map (·.1) = pieceKeys a o n :=
  List.map_fst_zip (Nat.le_of_eq (pieceKeys_length.trans (length_toBytes ..).symm))

theorem stored_byte_of_notMem (hs : MemOk s) {k d : Nat} (hk : k ∉ pieceKeys a o n) : (stored s a o n d).byte k = s.byte k :=
  byte_putBytes_of_notMem _ s hs ((map_fst_piece _).symm ▸ hk)

theorem stored_byte (hs : MemOk s) {d i : Nat} (hd : (pieceKeys a o n).Nodup) (hi : i < n) :
    (stored s a o n d).byte (a.keys.getD (o + i) 0) = BitVec.ofNat 8 (d / 2 ^ (8 * (o + i))) := by
  have hkey : (pieceKeys a o n)[i]? = some (a.keys.getD (o + i) 0) := by
    rw [pieceKeys, List.getElem?_map, List.getElem?_range hi]
    rfl
  have hpow : d / 2 ^ (8 * o) / 2 ^ (8 * i) = d / 2 ^ (8 * (o + i)) := by
    rw [Nat.div_div_eq_div_mul, ← Nat.pow_add, Nat.mul_add]
  have hbyte := getElem?_toBytes hi (d / 2 ^ (8 * o))
  rw [hpow] at hbyte
  have hmem : (a.keys.getD (o + i) 0, BitVec.ofNat 8 (d / 2 ^ (8 * (o + i)))) ∈ (pieceKeys a o n).zip (toBytes n (d / 2 ^ (8 * o))) :=
    List.mem_of_getElem? (List.getElem?_zip_eq_some.2 ⟨hkey, hbyte⟩)
  exact byte_putBytes _ s hs ((map_fst_piece _).symm ▸ hd) hmem

end Home

/-! ## Atomics -/

section Atomics

variable {s : State} {a : Access}

theorem lineLeft_mem : (lineLeft s a).mem = s.mem := by
  unfold lineLeft
  split
  · exact (dropOwn_mem ..).trans (dropLine_mem ..)
  · rfl

theorem tellOld_mem (t : State) : (tellOld s a t).mem = t.mem := by
  unfold tellOld
  dsimp only
  split
  · exact (reply_mem ..).trans (endAccess_mem ..)
  · exact endHome_mem ..

theorem written_byte {t : State} (ht : MemOk t) {k : Nat} (hk : k ∉ a.keys) (v : Option Nat) : (written a t v).byte k = t.byte k := by
  cases v with
  | none => rfl
  | some v => exact byte_putBytes_of_notMem _ t ht ((map_fst_zip_toBytes a.keys v).symm ▸ hk)

theorem performAtomic_byte (hs : MemOk s) {k : Nat} (hk : k ∉ a.keys) : (performAtomic s a).byte k = s.byte k := by
  rw [performAtomic_eq]
  split
  · exact byte_of_mem (failHome_mem ..) k
  · have hl : MemOk (lineLeft s a) := by
      rw [MemOk, lineLeft_mem]
      exact hs
    exact (byte_of_mem (tellOld_mem _) k).trans ((written_byte hl hk _).trans (byte_of_mem lineLeft_mem k))

end Atomics

/-- Settles O58: no description of these instructions writes memory, and the piece of a store is the one write of `homePiece`. -/
theorem memoryAccessesFrame : Obligations.MemoryAccessesFrame := by
  unfold Obligations.MemoryAccessesFrame
  refine ⟨?issue, ?home, fun s a hs k hk => performAtomic_byte hs hk⟩
  case issue =>
    intro f form yOk eff i s t th hmem hm hi hc ht
    simp only [List.mem_cons, List.not_mem_nil, or_false, Prod.mk.injEq] at hmem
    rcases hmem with ⟨rfl, rfl, rfl, rfl⟩ | ⟨rfl, rfl, rfl, rfl⟩ | ⟨rfl, rfl, rfl, rfl⟩ | ⟨rfl, rfl, rfl, rfl⟩ | ⟨rfl, rfl, rfl, rfl⟩ |
      ⟨rfl, rfl, rfl, rfl⟩ | ⟨rfl, rfl, rfl, rfl⟩ | ⟨rfl, rfl, rfl, rfl⟩ | ⟨rfl, rfl, rfl, rfl⟩ | ⟨rfl, rfl, rfl, rfl⟩ |
      ⟨rfl, rfl, rfl, rfl⟩ | ⟨rfl, rfl, rfl, rfl⟩ | ⟨rfl, rfl, rfl, rfl⟩ | ⟨rfl, rfl, rfl, rfl⟩
    · exact issue_mem (fun e h0 => localLoad_keeps e _ _ h0) hm hi hc rfl ht
    · exact issue_mem (fun e h0 => localStore_keeps e _ _ _ h0) hm hi hc rfl ht
    · exact issue_mem (fun e h0 => localStore_keeps e _ _ _ h0) hm hi hc rfl ht
    · exact issue_mem (fun e h0 => localLoad_keeps e _ _ h0) hm hi hc rfl ht
    · exact issue_mem (fun e h0 => globalLoad_keeps e _ _ h0) hm hi hc rfl ht
    · exact issue_mem (fun e h0 => globalStore_keeps e _ _ _ h0) hm hi hc rfl ht
    · exact issue_mem (fun e h0 => globalLoad_keeps e _ _ h0) hm hi hc rfl ht
    · exact issue_mem (fun e h0 => globalStore_keeps e _ _ _ h0) hm hi hc rfl ht
    · exact issue_mem ldfEff_keeps hm hi hc rfl ht
    · exact issue_mem stfEff_keeps hm hi hc rfl ht
    · exact issue_mem (fun e _ => reaches_ok (prfEff_mem e)) hm hi hc rfl ht
    · exact issue_mem amoEff_keeps hm hi hc rfl ht
    · exact issue_mem casEff_keeps hm hi hc rfl ht
    · exact issue_mem staEff_keeps hm hi hc rfl ht
  case home =>
    intro s t id o n a rest hs hw ha hmay hfrz hp ht
    have hdue (hat : a.atomic = false) (hf : ¬ (a.op = .load ∧ (s.core a.eid).frozen)) : t = performPiece s a := by
      have hd : dueAccess s false = some a := by
        simp only [dueAccess, hw, ha, Option.bind_some]
        exact if_pos ⟨hat, hmay, hf⟩
      have hn := ht.symm.trans (homeAccess_next hd)
      cases hn
      rfl
    refine ⟨fun hop => ?_, fun hi v hop => ?_, fun d hop => ?_⟩
    · rw [hdue (by simp [Access.atomic, hop]) fun h => absurd h.2 (by simp [hfrz hop])]
      exact performPiece_mem (homePiece_load_mem hp hop)
    · rw [hdue (by simp [Access.atomic, hop]) fun h => by simp [hop] at h]
      exact performPiece_mem (homePiece_nibble_mem hp hop)
    · have ht := hdue (by simp [Access.atomic, hop]) fun h => by simp [hop] at h
      have hnear (h : a.isNear = true) : t.mem = s.mem := by
        rw [ht, performPiece, if_pos h]
        exact nearStep_mem ..
      have hfar (h : a.isNear = false) : t.mem = (stored s a o n d).mem := by
        rw [ht, performPiece_far h]
        exact homePiece_store_mem hp hop
      refine ⟨hnear, fun k hk => ?_, fun h hd i hi => (byte_of_mem (hfar h) _).trans (stored_byte hs hd hi)⟩
      cases h : a.isNear with
      | true => exact byte_of_mem (hnear h) k
      | false => exact (byte_of_mem (hfar h) k).trans (stored_byte_of_notMem hs hk)

end Sys2Proof.Proofs.MemoryFrame
